-- ==== Sys2Proof/Word.lean ====
section
/-! DEFINITION. The word types of the HT9 and their plainest arithmetic (00 R4, R9). -/

namespace Sys2Proof

/-- A byte. -/
abbrev Byte := BitVec 8
/-- A device register of the usual width (R9). -/
abbrev W64 := BitVec 64
/-- A W40 value as it is stored (R66). -/
abbrev W40 := BitVec 40

/-- An event counter of 32 bits that saturates (R339). -/
def sat32 (c : BitVec 32) (n : Nat) : BitVec 32 :=
  BitVec.ofNat 32 (min (c.toNat + n) (2 ^ 32 - 1))

/-- A 48-bit counter with its sticky flag (R10, R339). -/
structure Cnt where
  count : Nat := 0
  sticky : Bool := false
  deriving DecidableEq, Repr

/-- A counter at zero, not sticky. -/
def Cnt.zero : Cnt := { count := 0, sticky := false }

/-- The largest count of a 48-bit counter. -/
def Cnt.top : Nat := 2 ^ 48 - 1

/-- Adding to a 48-bit counter: it saturates at the maximum and sets the sticky flag (R339). -/
def Cnt.add (c : Cnt) (n : Nat) : Cnt :=
  if c.count + n ≤ Cnt.top then { c with count := c.count + n }
  else { count := Cnt.top, sticky := true }

/-- A 48-bit counter that keeps the larger of two counts (R336 index 1). -/
def Cnt.max (c : Cnt) (n : Nat) : Cnt :=
  if n ≤ c.count then c
  else if n ≤ Cnt.top then { c with count := n } else { count := Cnt.top, sticky := true }

/-- The 64-bit word of a counter: count in [47:0], sticky in [63] (R10, R88). -/
def Cnt.word (c : Cnt) : W64 :=
  BitVec.ofNat 64 (c.count % 2 ^ 48 + (if c.sticky then 2 ^ 63 else 0))

end Sys2Proof
end

