-- ==== Sys2Proof/Syntax.lean ====
section
/-! DEFINITION. The commands of the HT9: one constructor of `Instr` per row of the table of operations and events,
with the operands that the row's rule gives it. A packet row carries the packet's header and its parameters (R290,
R301 to R304); a tile-instruction row carries the block that takes it and the fields of its encoding (R169 to R182);
a register row carries the function number of the access (R274) and the value written; a message or frame row
carries the message. Quantities that the device measures (times, temperatures, power) are operands. -/

namespace Sys2Proof

/-- A region reference (R292). -/
structure Ref where
  region : Nat := 0
  off : Nat := 0
  deriving DecidableEq, Repr

/-- The header of a command packet (R290), with the context and local stream whose ring holds it. -/
structure Hdr where
  ctx : Nat := 0
  stream : Nat := 0
  timeout : Nat := 0
  flags : BitVec 16 := 0
  pstream : Nat := 0
  gen : BitVec 16 := 0
  epoch : BitVec 16 := 0
  cls : Nat := 0
  tag : BitVec 32 := 0
  deriving DecidableEq, Repr

/-- STREAM_OPEN (R301). -/
structure StreamOpenP where
  lstream : Nat
  prio : Nat
  cq : Nat
  ringLog2 : Nat
  defineCq : Bool
  cqLog2 : Nat
  ring : Nat
  cqOff : Nat
  deriving DecidableEq, Repr

/-- The segment range and manifest of LOADSET_LOAD, ADAPTER_ATTACH and WEIGHT_SWITCH (R301, R304). -/
structure LoadP where
  adopt : Bool := false
  segFirst : Nat := 0
  segCount : Nat := 0
  manifest : Nat := 0
  deriving DecidableEq, Repr

/-- RUN (R303); the binding words are raw (R197). -/
structure RunP where
  program : Nat
  bgFirst : Nat
  bgSize : Nat
  args : List (BitVec 32)
  binds : List (BitVec 32)
  deriving DecidableEq, Repr

/-- COPY (R303, R306). -/
structure CopyP where
  src : Ref
  dst : Ref
  rows : Nat
  cols : Nat
  srcPitch : Nat
  dstPitch : Nat
  srcFmt : Nat
  dstFmt : Nat
  rnd : Nat
  srcTiled : Bool
  dstTiled : Bool
  length : Nat
  deriving DecidableEq, Repr

/-- FILL (R303). -/
structure FillP where
  dst : Ref
  length : Nat
  pattern : W64
  deriving DecidableEq, Repr

/-- REDUCE, GATHER and BROADCAST (R303). -/
structure CollP where
  src : Ref
  dst : Ref
  length : Nat
  layoutEpoch : BitVec 32
  group : Nat
  fmt : Nat := 0
  op : Nat := 0
  root : Nat := 0
  scatter : Bool := false
  deriving DecidableEq, Repr

/-- NORMREDUCE (R303). -/
structure NormP where
  result : Ref
  clip : W40
  tag : Nat
  layoutEpoch : BitVec 32
  group : Nat
  regions : List (Nat × Nat)
  deriving DecidableEq, Repr

/-- PERMUTE (R303). -/
structure PermP where
  plan : Ref
  cursor : Ref
  fromEpoch : BitVec 32
  toEpoch : BitVec 32
  group : Nat
  bind : BitVec 32
  deriving DecidableEq, Repr

/-- ROUTE (R303); the operation is the row's. -/
structure RouteP where
  close : Bool := false
  clear : Bool := false
  slot : Bool := false
  table : Nat := 0
  phase : Nat := 0
  batch : BitVec 16 := 0
  first : Nat := 0
  count : Nat := 0
  rows : Ref := {}
  grec : Ref := {}
  deriving DecidableEq, Repr

/-- COMBINE (R303). -/
structure CombineP where
  save : Bool := false
  table : Nat := 0
  batch : BitVec 16 := 0
  first : Nat := 0
  count : Nat := 0
  outp : Ref := {}
  deriving DecidableEq, Repr

/-- OPTSTEP (R304). -/
structure OptP where
  program : Nat
  bgFirst : Nat
  bgSize : Nat
  waitLimit : Nat
  args : List (BitVec 32)
  step : BitVec 32
  normTag : Nat
  newMask : Bool
  pack : Bool
  stageRegion : Nat
  mask : W64
  stageOff : Nat
  deriving DecidableEq, Repr

/-- ACCOUNT_READ (R304, R338). -/
structure AccountP where
  dst : Ref
  scope : Nat
  clear : Bool
  lstream : Nat
  bgFirst : Nat
  bgSize : Nat
  deriving DecidableEq, Repr

/-- The packet's operation and parameters: the packet rows of the table without their header. -/
inductive Op where
  | streamOpen (p : StreamOpenP)
  | streamClose (lstream : Nat)
  | loadPlace (p : LoadP)
  | loadVerify (p : LoadP)
  | unload
  | adapterPlace (p : LoadP)
  | adapterVerify (p : LoadP)
  | adapterDetach (region : Nat)
  | run (p : RunP)
  | copy (p : CopyP)
  | fill (p : FillP)
  | reduce (p : CollP)
  | gather (p : CollP)
  | broadcast (p : CollP)
  | normreduce (p : NormP)
  | permute (p : PermP)
  | routeOpen (p : RouteP)
  | routeDispatch (p : RouteP)
  | routeClose (p : RouteP)
  | routeRetrace (p : RouteP)
  | routeReturn (p : RouteP)
  | routeForceSeal (p : RouteP)
  | routeCounts (p : RouteP)
  | routeXset (p : RouteP)
  | combineForward (p : CombineP)
  | combineRetrace (p : CombineP)
  | wsStage (p : LoadP)
  | wsVerify (p : LoadP)
  | wsSwitch (holdNew : Bool) (limit : Nat)
  | wsAbort
  | optstep (p : OptP)
  | fence
  | signalAdd (sig : Nat) (v : W64)
  | signalSet (sig : Nat) (v : W64)
  | wait (sig : Nat) (limit : Nat) (v : W64)
  | preempt (target holdBeats : Nat)
  | preemptResume (target : Nat)
  | contextReset (target : Nat)
  | partitionConfig (layout : Ref)
  | modeArm (newEpoch : BitVec 16) (target : Nat)
  | modeCancel
  | censusRead (dst : Ref) (clear : Bool)
  | accountRead (p : AccountP)
  deriving DecidableEq, Repr

/-- The fields of an MM (R170). -/
structure MmF where
  fmt : Nat := 1
  aturn : Bool := false
  bturn : Bool := false
  sparse : Nat := 0
  saxis : Bool := false
  tskip : Bool := false
  acc : Nat := 0
  hold : Bool := false
  fslot : Nat := 0
  finit : Bool := false
  rnd : Nat := 0
  cks : Bool := false
  cls : Nat := 0
  nm1 : Nat := 0
  asrc : Nat := 0
  bsrc : Nat := 0
  aline : Nat := 0
  atstr : Nat := 0
  aix : Nat := 0
  acs : Nat := 0
  bline : Nat := 0
  btstr : Nat := 0
  bix : Nat := 0
  bcs : Nat := 0
  deriving DecidableEq, Repr

/-- The fields of a VEC but its operation code (R172). -/
structure VecF where
  mod : Nat := 0
  rnd : Nat := 0
  cls : Nat := 0
  dd : Nat := 0
  dix : Nat := 0
  sa : Nat := 0
  saix : Nat := 0
  sb : Nat := 0
  sbix : Nat := 0
  sc : Nat := 0
  scix : Nat := 0
  deriving DecidableEq, Repr

/-- The fields of a GATE (R181). -/
structure GateF where
  km1 : Nat := 0
  merge : Bool := false
  norm : Bool := false
  rnd : Nat := 0
  cls : Nat := 0
  expertBase : Nat := 0
  sd : Nat := 0
  six : Nat := 0
  outp : Nat := 0
  oix : Nat := 0
  deriving DecidableEq, Repr

/-- The fields of a MOV but its KIND (R174). -/
structure MovF where
  tkind : Nat := 0
  bsaddr : Nat := 0
  bix : Nat := 0
  count : Nat := 0
  aux : Nat := 0
  xsh : Nat := 0
  xix : Nat := 0
  off : Nat := 0
  deriving DecidableEq, Repr

/-- What the device measures at a saddle window: the commit capacity of this window (at least the bound of R49), and
the cycles each command has run (R54). -/
structure WindowObs where
  capacity : Nat := 0
  cycles : List (Nat × Nat) := []
  deriving DecidableEq, Repr

/-- What the device measures over the beat that a beat edge ends (R400, R404, R469, R474, R476, R485), the idle cycles
of its blocks by counter (R337: block, index, cycles), how many bytes a leg without a stated size moves (R45), and the
failing bits that self-test finds, with the stacks whose save area fails (R434, R436), and the codewords that each port corrected and
could not correct (R377: port, corrected, uncorrected). -/
structure EdgeObs where
  power : Nat := 0
  demand : Nat := 0
  peakIin : Nat := 0
  iin : Nat := 0
  clampLong : Bool := false
  vin : Nat := 42000
  coolIn : Int := 200
  coolOut : Int := 200
  flow : Nat := 1400
  temps : List Int := []
  supplyOk : Bool := true
  idle : List (Nat × Nat × Nat) := []
  leg : Nat := 0
  faults : List (W64 × W64) := []
  saveFaults : List Nat := []
  fec : List (Nat × Nat × Nat) := []
  deriving DecidableEq, Repr

/-- What the hardware finds while a start runs its steps (R407, R413, R420): the first step that fails, if any, with
its cause and detail, the newly repaired rows that lost content, and the width to which Ramalink trains. -/
structure StartObs where
  failStep : Option Nat := none
  cause : Nat := 0
  detail : Nat := 0
  lost : List W64 := []
  lanes : Nat := 16
  deriving DecidableEq, Repr

/-- A Stobin message as received (R425), without its body. -/
structure Stobin where
  port : Nat := 0
  deviceId : W64 := 0
  nonce : W64 := 0
  seq : Nat := 0
  beat : W64 := 0
  keyId : W64 := 0
  sig : List Byte := []
  deriving DecidableEq, Repr

/-- Where a request that has two carriers comes from: a write of BIST_CTRL by a function, or Stobin (R431, R419). -/
inductive Carrier where
  | host (f : Nat) (v : W64)
  | stobin (m : Stobin) (flag : Bool)
  deriving DecidableEq, Repr

/-- A link frame (R344), and the port it arrives on: none for the module fabric (R352). TYPE is given beside a frame; VL and
PLEN follow from it and the payload. `again` is no header field: it says that a CHAN_DATA frame is the first one resent by the
rerun of a killed sender (R366; log 43). -/
structure Frame where
  port : Option Nat := none
  hops : Nat := 0
  dst : Nat := 0
  src : Nat := 0
  srcEpoch : BitVec 16 := 0
  dstCtx : Nat := 0
  srcCtx : Nat := 0
  srcGen : BitVec 16 := 0
  tag : BitVec 32 := 0
  key : W64 := 0
  off : W64 := 0
  lseq : Nat := 0
  again : Bool := false
  payload : List Byte := []
  deriving DecidableEq, Repr

/-- What a Pass unit message names beside its frame (R217, R218, R224): the partition and slot at the home die, the
origin's partition and routing table, the batch and phase, the token number, entry index and generation tag of the key; in
a reply whether the slot is not enabled, and the buffer that holds the row; in a row whether it belongs to a COMBINE's pull (R228), and
the buffer that it names. Beside them what the manual asks for without naming a field (log 21): which dispatch of the token it is, by its
command and the token's turn in it (R216), the run of that command, and the sender's unit epoch (R321). -/
structure PassArgs where
  pt : Nat := 0
  slot : Nat := 0
  opt : Nat := 0
  table : Nat := 0
  batch : BitVec 16 := 0
  phase : Nat := 0
  token : Nat := 0
  entry : Nat := 0
  gen : BitVec 16 := 0
  disabled : Bool := false
  pull : Bool := false
  buf : Nat := 0
  cmd : Nat := 0
  nth : Nat := 0
  run : Nat := 0
  epoch : BitVec 16 := 0
  deriving DecidableEq, Repr

/-- A derating table image (R402). -/
structure DerateTable where
  fcap : List Nat
  band : List Nat
  echo : List Nat
  retireList : List Nat
  deriving DecidableEq, Repr

/-- The commands of the HT9, in the order of the table. -/
inductive Instr where
  | registerWrite (f addr width : Nat) (v : W64)
  | apertureWrite (f addr : Nat) (data : List Byte)
  | apertureRead (f addr len : Nat)
  | doorbell (f c n : Nat) (tail : BitVec 32)
  | resume (f c n : Nat) (tail : BitVec 32)
  | packetFetch (g : Nat)
  | commandIssue (pt t leg : Nat)
  | blockDoneAck (b cycles : Nat)
  | saddleWindowOpen (o : WindowObs)
  | beatEdge (o : EdgeObs)
  | heldExpiry (c : Nat)
  | beatInEdge (offNs : Int) (o : EdgeObs)
  | holdoverEdge (o : EdgeObs)
  | commandHang (id : Nat)
  | waitTimeout (id : Nat)
  | versionBusy (id : Nat)
  | drainTimeout (pt : Nat)
  | streamOpen (h : Hdr) (p : StreamOpenP)
  | streamClose (h : Hdr) (lstream : Nat)
  | loadsetLoadPlace (h : Hdr) (p : LoadP)
  | loadsetLoadVerify (h : Hdr) (p : LoadP)
  | loadsetUnload (h : Hdr)
  | adapterAttachPlace (h : Hdr) (p : LoadP)
  | adapterAttachVerify (h : Hdr) (p : LoadP)
  | adapterDetach (h : Hdr) (region : Nat)
  | run (h : Hdr) (p : RunP)
  | copy (h : Hdr) (p : CopyP)
  | fill (h : Hdr) (p : FillP)
  | reduce (h : Hdr) (p : CollP)
  | gather (h : Hdr) (p : CollP)
  | broadcast (h : Hdr) (p : CollP)
  | normreduce (h : Hdr) (p : NormP)
  | permute (h : Hdr) (p : PermP)
  | routeOpen (h : Hdr) (p : RouteP)
  | routeDispatch (h : Hdr) (p : RouteP)
  | routeClose (h : Hdr) (p : RouteP)
  | routeRetrace (h : Hdr) (p : RouteP)
  | routeReturn (h : Hdr) (p : RouteP)
  | routeForceSeal (h : Hdr) (p : RouteP)
  | routeCounts (h : Hdr) (p : RouteP)
  | routeXset (h : Hdr) (p : RouteP)
  | combineForward (h : Hdr) (p : CombineP)
  | combineRetrace (h : Hdr) (p : CombineP)
  | weightSwitchStage (h : Hdr) (p : LoadP)
  | weightSwitchVerify (h : Hdr) (p : LoadP)
  | weightSwitchSwitch (h : Hdr) (holdNew : Bool) (limit : Nat)
  | weightSwitchAbort (h : Hdr)
  | optstep (h : Hdr) (p : OptP)
  | fence (h : Hdr)
  | signalAdd (h : Hdr) (sig : Nat) (v : W64)
  | signalSet (h : Hdr) (sig : Nat) (v : W64)
  | wait (h : Hdr) (sig limit : Nat) (v : W64)
  | preempt (h : Hdr) (target holdBeats : Nat)
  | preemptResume (h : Hdr) (target : Nat)
  | contextReset (h : Hdr) (target : Nat)
  | partitionConfig (h : Hdr) (layout : Ref)
  | modeStageArm (h : Hdr) (newEpoch : BitVec 16) (target : Nat)
  | modeStageCancel (h : Hdr)
  | censusRead (h : Hdr) (dst : Ref) (clear : Bool)
  | accountRead (h : Hdr) (p : AccountP)
  | mm (b : Nat) (f : MmF)
  | drainEnd (b : Nat) (upset : List (Nat × W40))
  | cvt (b : Nat) (v : VecF) (echo : Option Nat)
  | add (b : Nat) (v : VecF) (echo : Option Nat)
  | sub (b : Nat) (v : VecF) (echo : Option Nat)
  | mul (b : Nat) (v : VecF) (echo : Option Nat)
  | fma (b : Nat) (v : VecF) (echo : Option Nat)
  | min (b : Nat) (v : VecF) (echo : Option Nat)
  | max (b : Nat) (v : VecF) (echo : Option Nat)
  | cmp (b : Nat) (v : VecF) (echo : Option Nat)
  | sel (b : Nat) (v : VecF) (echo : Option Nat)
  | abs (b : Nat) (v : VecF) (echo : Option Nat)
  | neg (b : Nat) (v : VecF) (echo : Option Nat)
  | exp2 (b : Nat) (v : VecF) (echo : Option Nat)
  | log2 (b : Nat) (v : VecF) (echo : Option Nat)
  | recip (b : Nat) (v : VecF) (echo : Option Nat)
  | rsqrt (b : Nat) (v : VecF) (echo : Option Nat)
  | sqrt (b : Nat) (v : VecF) (echo : Option Nat)
  | sigmoid (b : Nat) (v : VecF) (echo : Option Nat)
  | tanh (b : Nat) (v : VecF) (echo : Option Nat)
  | relu (b : Nat) (v : VecF) (echo : Option Nat)
  | softplus (b : Nat) (v : VecF) (echo : Option Nat)
  | dsig (b : Nat) (v : VecF) (echo : Option Nat)
  | dtanh (b : Nat) (v : VecF) (echo : Option Nat)
  | drelu (b : Nat) (v : VecF) (echo : Option Nat)
  | dexp (b : Nat) (v : VecF) (echo : Option Nat)
  | drecip (b : Nat) (v : VecF) (echo : Option Nat)
  | drsqrt (b : Nat) (v : VecF) (echo : Option Nat)
  | dsoftmax (b : Nat) (v : VecF)
  | rsum (b : Nat) (v : VecF)
  | rmax (b : Nat) (v : VecF)
  | rssq (b : Nat) (v : VecF)
  | randu (b : Nat) (v : VecF)
  | randn (b : Nat) (v : VecF)
  | occ (b : Nat) (v : VecF)
  | gate (b : Nat) (g : GateF)
  | ldb (b : Nat) (m : MovF)
  | stb (b : Nat) (m : MovF)
  | ldt (b : Nat) (m : MovF)
  | stt (b : Nat) (m : MovF)
  | dmaTransferEnd (b : Nat)
  | send (b : Nat) (m : MovF)
  | recv (b : Nat) (m : MovF)
  | pdisp (b : Nat) (m : MovF)
  | ptake (b : Nat) (m : MovF)
  | tqpop (b a8 : Nat)
  | tqwait (b a8 : Nat)
  | syncFence (b mask : Nat)
  | bar (b : Nat)
  | syncSignal (b sig : Nat) (v : BitVec 32)
  | land (b ch : Nat)
  | ctlEnd (b : Nat)
  | budget (b : Nat) (imm : BitVec 32)
  | loop (b dst sa : Nat) (imm : BitVec 32) (body : Nat)
  | seti (b dst : Nat) (imm : BitVec 32)
  | addi (b dst sa : Nat) (imm : BitVec 32)
  | muli (b dst sa : Nat) (imm : BitVec 32)
  | madd (b dst sa sb : Nat) (imm : BitVec 32)
  | divi (b dst sa : Nat) (imm : BitVec 32)
  | modi (b dst sa : Nat) (imm : BitVec 32)
  | beatStageArm (f : Nat)
  | beatStageCancel (f : Nat)
  | censSelWrite (f : Nat) (v : W64)
  | censClrCtx (f : Nat)
  | censClrSel (f : Nat)
  | passSelWrite (f : Nat) (v : W64)
  | passClrSel (f : Nat)
  | ptNextWrite (f n : Nat) (v : W64)
  | ptModeArm (f : Nat)
  | ptModeCancel (f : Nat)
  | applyIdle (f : Nat)
  | schedSwap (f n : Nat) (v : W64)
  | schedCancel (f n : Nat) (v : W64)
  | ctxCreate (f c : Nat)
  | ctxDestroy (f c : Nat)
  | ctxRselWrite (f c : Nat) (v : W64)
  | acctSelWrite (f : Nat) (v : W64)
  | acctClrSel (f : Nat)
  | retrain (f n : Nat) (v : W64)
  | bistImgData (f : Nat) (v : W64)
  | bistImgClear (f : Nat)
  | bistImgGo (f : Nat) (o : StartObs)
  | bistAbort (f : Nat)
  | bistResSel (f : Nat) (v : W64)
  | cairnRdSeq (f : Nat) (v : W64)
  | cairnClrData (f : Nat) (v : W64)
  | cairnClrRestart (f : Nat)
  | cairnClrGo (f : Nat)
  | cairnCodeWrite (f n : Nat) (v : W64)
  | irqTgtClaim (f t : Nat)
  | irqTgtComplete (f t : Nat) (v : W64)
  | irqTgtIdle (f t : Nat)
  | irqModeWrite (f : Nat) (v : W64)
  | holdoffEnd (t : Nat)
  | lease (m : Stobin) (lengthMs verdict : Nat)
  | leaseLapse
  | derateArm (m : Stobin) (target : Nat) (table : DerateTable)
  | derateCancel (m : Stobin)
  | reset (m : Stobin) (kind : Nat)
  | binsRead (m : Stobin) (first count : Nat) (clear : Bool)
  | standdown (r : Carrier)
  | bistEnd
  | wake (m : Stobin)
  | retry (r : Carrier) (o : StartObs)
  | attest (m : Stobin) (nonce : List Byte)
  | certRead (m : Stobin)
  | bistRead (m : Stobin) (first count : Nat)
  | cairnRead (m : Stobin) (first max : Nat)
  | cairnClear (m : Stobin) (rec : List Byte)
  | startReport (port : Nat)
  | discoverSend (p : Nat)
  | discoverReply (p : Nat) (arrival : Nat) (fr : Frame)
  | discover (p : Nat) (fenced : Bool) (fr : Frame)
  | beatMarker (p : Nat) (offNs : Int) (num : W64) (o : EdgeObs)
  | epochAnnounce (p : Nat) (fenced : Bool) (fr : Frame)
  | hopAck (p : Nat) (nack : Bool) (lseq : Nat)
  | hopCredit (p : Nat) (c0 c1 c2 c3 : Nat)
  | frameCrcError (p lseq : Nat)
  | reservedFrame (p ty : Nat)
  | e2eAck (fr : Frame)
  | e2eNotready (refused : Bool) (fr : Frame)
  | e2eResend (ix : Nat)
  | collData (fr : Frame)
  | collAbort (fr : Frame)
  | permData (fr : Frame)
  | permMark (fr : Frame)
  | chanData (fr : Frame)
  | chanCommit (fr : Frame)
  | chanCredit (fr : Frame)
  | passTry (fr : Frame) (a : PassArgs)
  | passReply (fr : Frame) (a : PassArgs) (pos : Option Nat)
  | passMark (fr : Frame) (a : PassArgs) (kind count : Nat)
  | passRow (fr : Frame) (a : PassArgs) (pos : Nat)
  | portTrained (p lanes : Nat)
  | portFailure (p cause : Nat)
  | ramalinkRetrain (lanes : Nat)
  | purgeAck (purge engine : Nat)
  | quarantine (purge engine : Nat)
  | edgeAckMiss
  | unitReady (u : Nat)
  | cairnRecordWrite
  | cairnRefill (code : Nat)
  | mirrorCopy
  | moduleReset
  | start (straps : Nat) (o : StartObs)
  | startStepTimeout (step cause : Nat)
  | warmTimeout
  | recoverN (o : StartObs)
  | busPowerUp
  | busTrip
  | inputExcursion (mv : Nat)
  | thermalThrottle (die sensor : Nat) (temp : Int)
  | thermalTrip (sensor : Nat) (temp : Int)
  | coolant (kind : Nat) (inlet : Int) (flow : Nat)
  | inputExcursionEnd (mv : Nat)
  | thermalThrottleEnd (die : Nat) (temp : Int)
  | coolantRestored
  | throttleNChange (asserted : Bool)
  deriving DecidableEq, Repr

end Sys2Proof
end

