-- ==== Sys2Proof/Config.lean ====
section
/-! DEFINITION. What an implementation fixes and the manual leaves open. The constants without a body are free values:
nothing can evaluate them, so no statement rests on what they are (assumption log 6, 8 to 11). -/

namespace Sys2Proof.Config

/-- A byte of undefined content: what a reader gets at an address, for one act of making it undefined (log 6). -/
opaque freeByte : Nat → Nat → Byte

/-- Fresh random or unspecified bits: draw `i` of the act numbered `seed` (R78, R147, R155; log 6, 10). -/
opaque freeBits : Nat → Nat → Nat

/-- A number in −1 to 1 in steps of 2^−32 is `freeUnit seed i / 2^32` after limiting (R81; log 9). -/
opaque freeUnit : Nat → Nat → Int

/-- SHAKE256 with a 64-byte output (FIPS 202, R252). PRESUMED: the standard is not in the manual, so the function is
left uninterpreted (log 8). -/
opaque shake256 : List Byte → List Byte

/-- Verification of an ML-DSA-65 signature (FIPS 204): public key, message, signature. PRESUMED, uninterpreted
(log 8). -/
opaque mldsaVerify : List Byte → List Byte → List Byte → Bool

/-- The signature block that the identity key makes over a message (R426, R429). PRESUMED, uninterpreted (log 8). -/
opaque identitySign : List Byte → List Byte

/-- The configuration flash, written at manufacture (R423). -/
opaque flash : List Byte

/-- The digest of the vendor root's public key in the boot ROM (R423). -/
opaque rootDigest : List Byte

/-- The bytes of HBM that a row holds, as ranges of memory keys: the manual gives no map from rows to addresses (R271; log
26). -/
opaque rowBytes : W64 → List (Nat × Nat)

/-- DEVICE_ID: the first 8 bytes of the digest of the identity public key (R422). -/
opaque deviceId : W64

/-- The device epoch drawn at power-up (R371). -/
opaque powerEpoch : BitVec 16

/-- What a result is where the manual calls it unpredictable (R11, R311): draw number and position (log 11). -/
opaque freeResult : Nat → Nat → W64

/-- The index of the gradient region that a trainable region is paired with: the manual speaks of the paired region (R191,
R196) and does not say which one it is (log 17). -/
opaque gradPair : Nat → Nat

/-- Whether the pack stage treats a trainable region as Q8 2:4 (else Q4 2:4), and its sparse axis: the OPTSTEP packet and the
region table name neither (R195; log 18). -/
opaque packQ8 : Nat → Bool
opaque packSaxis : Nat → Bool

/-- The tiles that a segment carries, by its digest: kind (R174) and first byte of each. The manual asks that a payload's reserved codes be
refused (R68, R104), and no table of the manifest says where its tiles lie (log 39). -/
opaque segTiles : List Byte → List (Nat × Nat)

/-- At which of its groups a block samples within a window of groups, by block and window (R157; log 10). -/
opaque echoPhase : Nat → Nat → Nat

/-- Which of its die's 60 sensors is nearest a block (R400, R449; log 23). -/
opaque nearSensor : Nat → Nat

/-- The receive buffer that a port gives each of VL1 to VL3, in units of 256 B: a port grants credit (R346), and the manual gives no
amount but VL0's (log 44). -/
opaque laneBuffer : Nat → Nat

/-- Blocks of a compute die (01). -/
def blocksPerDie : Nat := 640
/-- Compute dies (01). -/
def dieCount : Nat := 8
/-- Memory stacks (01). -/
def hbmStacks : Nat := 24
/-- Depth of the Cairn write queue (01, R26, R444). -/
def cairnDepth : Nat := 64
/-- Bytes of the Cairn ring (R445). -/
def cairnRing : Nat := 524288
/-- Entries of the peer table (R371). -/
def peerMax : Nat := 4096
/-- Entries of the hold table (R198). -/
def holdMax : Nat := 4096
/-- Weight-version entries (R196). -/
def wverMax : Nat := 1024

end Sys2Proof.Config
end

