-- ==== Sys2Proof/Machine/Mem.lean ====
section
/-! DEFINITION. Byte memories in one canonical form: cells in strictly rising order of address, and spans of content
that is undefined. What an unlisted address reads as is `Mem.blank`: a free byte inside a span, else zero (assumption
log 5 and 6). -/

namespace Sys2Proof.Machine

/-- Addresses `lo` to `hi - 1` hold undefined content, made undefined by the act numbered `seed` (R11, R299). -/
structure Span where
  lo : Nat
  hi : Nat
  seed : Nat
  deriving DecidableEq, Repr

/-- A byte memory. -/
structure Mem where
  cells : List Host.Cell := []
  spans : List Span := []
  deriving DecidableEq, Repr

/-- The empty memory. -/
def Mem.empty : Mem := { cells := [], spans := [] }

/-- Whether an address lies in a span. -/
def Span.has (p : Span) (a : Nat) : Bool := p.lo ≤ a && a < p.hi

/-- What an unlisted address reads as: a free byte inside a span of undefined content, else zero. -/
def Mem.blank : List Span → Nat → Byte
  | [], _ => 0
  | p :: t, a => if p.has a then Config.freeByte p.seed a else Mem.blank t a

/-- The byte listed at an address, if any. -/
def Mem.cellAt : List Host.Cell → Nat → Option Byte
  | [], _ => none
  | (j, v) :: t, a => if j = a then some v else Mem.cellAt t a

/-- Reads one byte. -/
def Mem.read (m : Mem) (a : Nat) : Byte := (Mem.cellAt m.cells a).getD (Mem.blank m.spans a)

/-- Removes the listed byte at an address. -/
def Mem.cellDrop : List Host.Cell → Nat → List Host.Cell
  | [], _ => []
  | (j, v) :: t, a => if j = a then Mem.cellDrop t a else (j, v) :: Mem.cellDrop t a

/-- Lists a byte at an address, keeping the addresses in rising order. -/
def Mem.cellPut : List Host.Cell → Nat → Byte → List Host.Cell
  | [], a, v => [(a, v)]
  | (j, w) :: t, a, v =>
    if j = a then (a, v) :: t
    else if a < j then (a, v) :: (j, w) :: t
    else (j, w) :: Mem.cellPut t a v

/-- Takes addresses `lo` to `hi - 1` out of one span. -/
def Span.cut (p : Span) (lo hi : Nat) : List Span :=
  if hi ≤ p.lo || p.hi ≤ lo then [p]
  else (if p.lo < lo then [{ p with hi := lo }] else []) ++ (if hi < p.hi then [{ p with lo := hi }] else [])

/-- Takes addresses `lo` to `hi - 1` out of every span. -/
def Mem.punch (l : List Span) (lo hi : Nat) : List Span := l.flatMap (fun p => p.cut lo hi)

/-- Some address of `lo` to `hi - 1` is undefined by one of the acts `l`. -/
def Mem.undefBy (m : Mem) (l : List Nat) (lo hi : Nat) : Bool :=
  m.spans.any (fun p => l.contains p.seed && decide (p.lo < hi) && decide (lo < p.hi) && decide (lo < hi))

/-- Writes one byte: the address leaves every span, and a zero is not listed. -/
def Mem.write (m : Mem) (a : Nat) (v : Byte) : Mem :=
  { cells := if v = 0 then Mem.cellDrop m.cells a else Mem.cellPut m.cells a v,
    spans := Mem.punch m.spans a (a + 1) }

/-- Reads `n` bytes from an address. -/
def Mem.readN (m : Mem) (a n : Nat) : List Byte := (List.range n).map (fun k => m.read (a + k))

/-- Writes bytes from an address. -/
def Mem.writeN (m : Mem) (a : Nat) : List Byte → Mem
  | [] => m
  | v :: t => (m.write a v).writeN (a + 1) t

/-- Makes addresses `lo` to `hi - 1` undefined under a seed. -/
def Mem.undef (m : Mem) (lo hi seed : Nat) : Mem :=
  if lo < hi then
    { cells := m.cells.filter (fun c => c.1 < lo || hi ≤ c.1),
      spans := { lo := lo, hi := hi, seed := seed } :: Mem.punch m.spans lo hi }
  else m

/-- Makes addresses `lo` to `hi - 1` zero. -/
def Mem.zero (m : Mem) (lo hi : Nat) : Mem :=
  { cells := m.cells.filter (fun c => c.1 < lo || hi ≤ c.1), spans := Mem.punch m.spans lo hi }

/-- The part of a memory at addresses `lo` to `hi - 1`. -/
def Mem.part (m : Mem) (lo hi : Nat) : Mem :=
  { cells := m.cells.filter (fun c => lo ≤ c.1 && c.1 < hi),
    spans := (m.spans.filter (fun p => lo < p.hi && p.lo < hi && lo < hi)).map
      (fun p => { p with lo := Nat.max p.lo lo, hi := Nat.min p.hi hi }) }

/-- Puts the content of `o` at addresses `lo` to `hi - 1` in place of the memory's own. -/
def Mem.graft (m o : Mem) (lo hi : Nat) : Mem :=
  let q := o.part lo hi
  { cells := (m.cells.filter (fun c => c.1 < lo)) ++ q.cells ++ (m.cells.filter (fun c => hi ≤ c.1)),
    spans := Mem.punch m.spans lo hi ++ q.spans }

/-- The canonical form: addresses strictly rising, no zero listed, every span nonempty, and no listed address in a
span. -/
abbrev Mem.wf (m : Mem) : Prop :=
  m.cells.Pairwise (fun x y => x.1 < y.1) ∧ (∀ c ∈ m.cells, c.2 ≠ 0) ∧ (∀ p ∈ m.spans, p.lo < p.hi) ∧
  (∀ c ∈ m.cells, ∀ p ∈ m.spans, p.has c.1 = false)

end Sys2Proof.Machine
end

