-- ==== Sys2Proof/Machine/Dyadic.lean ====
section
/-! DEFINITION. Exact binary numbers: an integer times a power of two, and the same with the sign of zero kept. -/

namespace Sys2Proof.Machine

/-- The number `m × 2^e`. -/
structure Dy where
  m : Int := 0
  e : Int := 0
  deriving DecidableEq, Repr

/-- A finite number with a sign of its own, so that −0 is kept (R67): `±mag × 2^e`. -/
structure Fp where
  neg : Bool := false
  mag : Nat := 0
  e : Int := 0
  deriving DecidableEq, Repr

/-- A W40 operand or result: a finite number, or invalid (R66). -/
abbrev Num := Option Fp

/-- The integer `m × 2^(e - q)` for `q ≤ e`. -/
def Dy.at (d : Dy) (q : Int) : Int := d.m * 2 ^ (d.e - q).toNat

def Dy.zero : Dy := { m := 0, e := 0 }

/-- Exact sum. -/
def Dy.add (a b : Dy) : Dy :=
  if a.m = 0 then b
  else if b.m = 0 then a
  else
    let q := Min.min a.e b.e
    { m := a.at q + b.at q, e := q }

def Dy.neg (a : Dy) : Dy := { a with m := -a.m }

/-- Exact product. -/
def Dy.mul (a b : Dy) : Dy := { m := a.m * b.m, e := a.e + b.e }

def Dy.abs (a : Dy) : Dy := { a with m := a.m.natAbs }

/-- `a × 2^k`. -/
def Dy.scale (a : Dy) (k : Int) : Dy := { a with e := a.e + k }

def Dy.lt (a b : Dy) : Bool :=
  let q := Min.min a.e b.e
  a.at q < b.at q

def Dy.le (a b : Dy) : Bool := !Dy.lt b a

def Dy.eqv (a b : Dy) : Bool := Dy.le a b && Dy.le b a

/-- Exact sum of a list. -/
def Dy.sum (l : List Dy) : Dy := l.foldl Dy.add Dy.zero

def Fp.toDy (x : Fp) : Dy := { m := if x.neg then -(x.mag : Int) else x.mag, e := x.e }

/-- A finite number from an exact one; `zneg` is the sign that a zero takes. -/
def Fp.ofDy (d : Dy) (zneg : Bool) : Fp :=
  if d.m = 0 then { neg := zneg, mag := 0, e := 0 } else { neg := decide (d.m < 0), mag := d.m.natAbs, e := d.e }

def Fp.isZero (x : Fp) : Bool := x.mag == 0
def Fp.zero : Fp := { neg := false, mag := 0, e := 0 }
def Fp.one : Fp := { neg := false, mag := 1, e := 0 }

/-- Exact sum; an exact zero is +0 unless both addends are −0 (R67). -/
def Fp.add (a b : Fp) : Fp :=
  Fp.ofDy (a.toDy.add b.toDy) (a.isZero && b.isZero && a.neg && b.neg)

def Fp.negate (a : Fp) : Fp := { a with neg := !a.neg }

/-- Exact product. -/
def Fp.mul (a b : Fp) : Fp := { neg := a.neg != b.neg, mag := a.mag * b.mag, e := a.e + b.e }

/-- Numeric order: +0 and −0 are equal (R67). -/
def Fp.lt (a b : Fp) : Bool := Dy.lt a.toDy b.toDy
def Fp.eqv (a b : Fp) : Bool := Dy.eqv a.toDy b.toDy
def Fp.le (a b : Fp) : Bool := Dy.le a.toDy b.toDy

/-- floor(log2 |x|) of a nonzero number. -/
def Fp.ilog (x : Fp) : Int := (Nat.log2 x.mag : Int) + x.e

end Sys2Proof.Machine
end

