-- ==== Sys2Proof/Machine/Numeric.lean ====
section
/-! DEFINITION. The number formats, rounding, and what the census counts (03). -/

namespace Sys2Proof.Machine

/-- The formats: the four of the HT9, and the IEEE formats of COPY (R60, R75, R306). -/
inductive Fmt where
  | q4 | q8 | h16 | w40 | bin16 | bin32
  deriving DecidableEq, Repr

/-- Fraction bits of a format. -/
def Fmt.frac : Fmt → Nat
  | .q4 => 1 | .q8 => 3 | .h16 => 7 | .w40 => 28 | .bin16 => 10 | .bin32 => 23

/-- Exponent of the least significant bit of the smallest values of a format. -/
def Fmt.lsb : Fmt → Int
  | .q4 => -2 | .q8 => -9 | .h16 => -133 | .w40 => -1050 | .bin16 => -24 | .bin32 => -149

/-- The magnitude code of the largest finite value. -/
def Fmt.top : Fmt → Nat
  | .q4 => 7 | .q8 => 127 | .h16 => 0x7F7F | .w40 => 0x7FEFFFFFFF | .bin16 => 0x7BFF | .bin32 => 0x7F7FFFFF

/-- The sign bit's position. -/
def Fmt.signBit : Fmt → Nat
  | .q4 => 3 | .q8 => 7 | .h16 => 15 | .w40 => 39 | .bin16 => 15 | .bin32 => 31

/-- What is written for an invalid result (R65, R66, R73, the table under R75). -/
def Fmt.invalid : Fmt → Nat
  | .q4 => 0 | .q8 => 0 | .h16 => 0x7FC0 | .w40 => 0x7FF0000000 | .bin16 => 0x7E00 | .bin32 => 0x7FC00000

/-- Bytes of an element in a linear layout (R133). -/
def Fmt.size : Fmt → Nat
  | .q4 => 1 | .q8 => 1 | .h16 => 2 | .w40 => 5 | .bin16 => 2 | .bin32 => 4

/-- The format index of the census, with the IEEE outputs under their stand-ins (R84). -/
def Fmt.censusIx : Fmt → Nat
  | .q4 => 0 | .q8 => 1 | .h16 => 2 | .w40 => 3 | .bin16 => 2 | .bin32 => 3

/-- Format 0 to 3 of a descriptor or instruction (R132, R170). -/
def Fmt.ofCode : Nat → Fmt
  | 0 => .q4 | 1 => .q8 | 2 => .h16 | _ => .w40

/-- The format codes of COPY; 15, BYTES, and the reserved codes give none (R306). -/
def Fmt.ofCopy : Nat → Option Fmt
  | 0 => some .q4 | 1 => some .q8 | 2 => some .h16 | 3 => some .w40 | 4 => some .bin16 | 5 => some .bin32
  | _ => none

/-- The magnitude of a Q4 code 0 to 7, in quarters (R61, R62). -/
def q4Quarters : Nat → Nat
  | 0 => 0 | 1 => 3 | 2 => 4 | 3 => 6 | 4 => 8 | 5 => 12 | 6 => 16 | _ => 24

/-- The magnitude that a code spells (R61, R63, R64, R66). -/
def Fmt.mag (f : Fmt) (c : Nat) : Dy :=
  match f with
  | .q4 => { m := q4Quarters c, e := -2 }
  | _ =>
    if c < 2 ^ (f.frac + 1) then { m := c, e := f.lsb }
    else { m := 2 ^ f.frac + c % 2 ^ f.frac, e := f.lsb + ((c / 2 ^ f.frac : Nat) : Int) - 1 }

/-- floor(mag × 2^e ÷ 2^l). -/
def floorScale (mag : Nat) (e l : Int) : Nat :=
  if l ≤ e then mag * 2 ^ (e - l).toNat else mag / 2 ^ (l - e).toNat

/-- The largest magnitude code whose value does not exceed a magnitude, without regard to the largest finite value. -/
def Fmt.floorCode (f : Fmt) (mag : Nat) (e : Int) : Nat :=
  let n := floorScale mag e f.lsb
  match f with
  | .q4 =>
    if n < 3 then 0 else if n < 4 then 1 else if n < 6 then 2 else if n < 8 then 3 else if n < 12 then 4
    else if n < 16 then 5 else if n < 24 then 6 else 7
  | _ =>
    if n < 2 ^ (f.frac + 1) then n
    else
      let k := Nat.log2 n - f.frac
      k * 2 ^ f.frac + n / 2 ^ k

/-- Rounding modes: to nearest, ties to even; or stochastic with 16 bits (R77, R78). -/
inductive Rnd where
  | rne
  | sr (r : Nat)
  deriving DecidableEq, Repr

/-- A rounded magnitude, and whether it saturated (R77, R84). -/
structure Rounded where
  code : Nat
  sat : Bool
  deriving DecidableEq, Repr

/-- t16 of R78: floor(65,536 × (x − lo) ÷ (hi − lo)). -/
def srFraction (x lo hi : Dy) : Nat :=
  let q := Min.min x.e (Min.min lo.e hi.e)
  (65536 * (x.at q - lo.at q).toNat) / (hi.at q - lo.at q).toNat

/-- Rounds a magnitude into a format (R77, R78): everything beyond the largest finite value saturates. -/
def Fmt.round (f : Fmt) (md : Rnd) (mag : Nat) (e : Int) : Rounded :=
  let x : Dy := { m := mag, e := e }
  if Dy.lt (f.mag f.top) x then { code := f.top, sat := true }
  else
    let c := f.floorCode mag e
    let lo := f.mag c
    if Dy.eqv lo x then { code := c, sat := false }
    else
      let hi := f.mag (c + 1)
      match md with
      | .sr r => { code := if r % 65536 < srFraction x lo hi then c + 1 else c, sat := false }
      | .rne =>
        let two := x.scale 1
        let s := lo.add hi
        let up := if Dy.lt two s then false else if Dy.lt s two then true else c % 2 == 1
        { code := if up then c + 1 else c, sat := false }

/-- The five census counts of one or more values (R84). -/
structure Tally where
  produced : Nat := 0
  saturated : Nat := 0
  vanished : Nat := 0
  subnormal : Nat := 0
  invalid : Nat := 0
  deriving DecidableEq, Repr

def Tally.add (a b : Tally) : Tally :=
  { produced := a.produced + b.produced, saturated := a.saturated + b.saturated,
    vanished := a.vanished + b.vanished, subnormal := a.subnormal + b.subnormal, invalid := a.invalid + b.invalid }

/-- The count with an index of R84. -/
def Tally.get (t : Tally) : Nat → Nat
  | 0 => t.produced | 1 => t.saturated | 2 => t.vanished | 3 => t.subnormal | _ => t.invalid

/-- An exact result before its last rounding, with the flags that an intermediate rounding saturated or an infinity was converted, that the
value it stands for is not zero although an intermediate rounding made it zero, and that it is zero although a sum's own error made it
none (R84). -/
structure Exact where
  v : Num
  sat : Bool := false
  nz : Bool := false
  isZ : Bool := false
  deriving DecidableEq, Repr

/-- The result that a value stands for is not zero. -/
def Exact.nonzero (x : Exact) : Bool := x.nz || (!x.isZ && (match x.v with | some v => v.mag != 0 | none => false))

/-- A value whose magnitude is beyond the largest finite W40 value (R84). -/
def Num.beyond (v : Num) : Bool :=
  match v with
  | some u => Dy.lt (Fmt.w40.mag Fmt.w40.top) u.toDy.abs
  | none => false

/-- A value as written: its bits and what the census counts for it. -/
structure Written where
  code : Nat
  tally : Tally
  deriving DecidableEq, Repr

/-- Whether a magnitude code is a nonzero subnormal; never in Q4 (R84 index 3). -/
def Fmt.isSub (f : Fmt) (c : Nat) : Bool :=
  match f with
  | .q4 => false
  | _ => c != 0 && decide (c < 2 ^ f.frac)

/-- Writes a result in a floating format or as an unscaled element: rounding, saturation, the sign (a Q4 or Q8 zero is
written without sign, R62, R63), and the census (R65, R77, R84). -/
def Fmt.write (f : Fmt) (md : Rnd) (x : Exact) : Written :=
  match x.v with
  | none => { code := f.invalid, tally := { produced := 1, saturated := if x.sat then 1 else 0, invalid := 1 } }
  | some v =>
    let r := f.round md v.mag v.e
    let signed := v.neg && !((f == .q4 || f == .q8) && r.code == 0)
    { code := r.code + (if signed then 2 ^ f.signBit else 0),
      tally := { produced := 1, saturated := if r.sat || x.sat then 1 else 0,
                 vanished := if x.nonzero && r.code == 0 then 1 else 0,
                 subnormal := if f.isSub r.code then 1 else 0 } }

/-- Reads a stored value (R61 to R66 and the table under R75): NaN becomes invalid, an infinity the largest W40 value,
counted as saturated. Patch scales are applied elsewhere. -/
def Fmt.readv (f : Fmt) (w : Nat) : Exact :=
  let neg := bitOf w f.signBit
  let c := w % 2 ^ f.signBit
  let fin : Fp := { neg := neg, mag := (f.mag c).m.natAbs, e := (f.mag c).e }
  match f with
  | .q4 => { v := some { fin with neg := neg && c != 0 } }
  | .q8 => { v := some { fin with neg := neg && c != 0 } }
  | .w40 => if 0x7FF0000000 ≤ c then { v := none } else { v := some fin }
  | .h16 | .bin16 | .bin32 =>
    let inf := match f with | .h16 => 0x7F80 | .bin16 => 0x7C00 | _ => 0x7F800000
    if c < inf then { v := some fin }
    else if c = inf then
      { v := some { neg := neg, mag := (Fmt.w40.mag Fmt.w40.top).m.natAbs, e := (Fmt.w40.mag Fmt.w40.top).e }, sat := true }
    else { v := none }

/-- The W40 number of 40 stored bits. -/
def w40Num (w : W40) : Num := (Fmt.w40.readv w.toNat).v

/-- An intermediate rounding into W40 in RNE, which may saturate (R84, R144). -/
def Exact.toW40 (x : Exact) : Exact :=
  match x.v with
  | none => x
  | some v =>
    let r := Fmt.w40.round .rne v.mag v.e
    let d := Fmt.w40.mag r.code
    { v := some { neg := v.neg, mag := d.m.natAbs, e := d.e }, sat := x.sat || r.sat, nz := x.nonzero, isZ := x.isZ }

/-- The W40 bits of a result rounded in a mode. -/
def w40Of (md : Rnd) (x : Exact) : W40 := BitVec.ofNat 40 (Fmt.w40.write md x).code

/-- The largest finite W40 value with a sign (R66, R82). -/
def w40Max (neg : Bool) : Fp :=
  { neg := neg, mag := (Fmt.w40.mag Fmt.w40.top).m.natAbs, e := (Fmt.w40.mag Fmt.w40.top).e }

/-! ### Patches (R68, R71 to R73) -/

/-- ceil(log2(m ÷ M)) for M = 6 or 480: the least s with m ≤ M × 2^s. -/
def patchScale (f : Fmt) (m : Fp) : Int :=
  let mm : Nat := if f = .q4 then 6 else 480
  -- 2^(Nat.log2 mm) ≤ mm < 2^(Nat.log2 mm + 1), so the answer is one of two neighbours
  let s0 := m.ilog - (Nat.log2 mm : Int) - 1
  let fits (s : Int) : Bool := Dy.le { m := m.mag, e := m.e } { m := mm, e := s }
  if fits s0 then s0 else if fits (s0 + 1) then s0 + 1 else s0 + 2

/-- The largest magnitude among finite values. -/
def maxMag : List Exact → Fp
  | [] => Fp.zero
  | x :: t =>
    let r := maxMag t
    match x.v with
    | none => r
    | some v => if Dy.lt r.toDy { m := v.mag, e := v.e } then { neg := false, mag := v.mag, e := v.e } else r

/-- A patch converted into Q4 or Q8: its scale code, its element codes, and the census of its values. -/
structure PatchOut where
  scale : Nat
  codes : List Nat
  tally : Tally
  deriving DecidableEq, Repr

/-- One element of a patch at scale exponent `s` (R71 to R73). -/
def patchElem (f : Fmt) (s : Int) (md : Rnd) (x : Exact) : Written :=
  match x.v with
  | none => { code := 0, tally := { produced := 1, saturated := if x.sat then 1 else 0, invalid := 1 } }
  | some v => f.write md { x with v := some { v with e := v.e - s } }

/-- The conversion of sixteen values into a Q4 or Q8 patch (R71 to R73), one rounding mode per element. -/
def toPatch (f : Fmt) (mds : List Rnd) (xs : List Exact) : PatchOut :=
  let m := maxMag xs
  if m.isZero then
    { scale := 0, codes := xs.map (fun _ => 0),
      tally := xs.foldl (fun t x =>
        t.add { produced := 1, saturated := if x.sat then 1 else 0, vanished := if x.nonzero then 1 else 0,
                invalid := if x.v.isNone then 1 else 0 }) {} }
  else
    let s := Max.max (-126) (Min.min 127 (patchScale f m))
    let ws := (List.range xs.length).map (fun i =>
      patchElem f s ((mds[i]?).getD .rne) ((xs[i]?).getD { v := some Fp.zero }))
    { scale := (s + 127).toNat, codes := ws.map (·.code), tally := ws.foldl (fun t w => t.add w.tally) {} }

/-- The value of an element code under its patch's scale code; code 0x00 makes every element zero (R68). -/
def patchValue (f : Fmt) (scale code : Nat) : Num :=
  if scale = 0 then some Fp.zero
  else
    match (f.readv code).v with
    | none => none
    | some v => some { v with e := v.e + (scale : Int) - 127 }

/-! ### Reference values of the transcendental operations (R149), good to about 2^−70 of their value -/

/-- ln 2 × 2^96. -/
def ln2Fix : Nat := 54916777467707473351141471128
/-- log2 e × 2^96. -/
def log2eFix : Nat := 114302077158074026402637675936

/-- 1 ÷ x to 100 bits, for a nonzero x. -/
def refRecip (x : Fp) : Fp :=
  let k := Nat.log2 x.mag + 100
  { neg := x.neg, mag := 2 ^ k / x.mag, e := -(k : Int) - x.e }

/-- x ÷ y for a nonzero y, to 100 bits below the last bit of x with a sticky last bit: rounded to nearest in W40, it is the quotient rounded
once (R206). -/
def refQuot (x y : Fp) : Fp :=
  let n := x.mag * 2 ^ (Nat.log2 y.mag + 100)
  { neg := x.neg != y.neg, mag := n / y.mag * 2 + (if n % y.mag = 0 then 0 else 1), e := x.e - y.e - (Nat.log2 y.mag + 100 : Nat) - 1 }

/-- √x to about 100 bits, for x ≥ 0. -/
def refSqrt (x : Fp) : Fp :=
  -- an even exponent, and 200 bits or more under the root
  let odd := x.e % 2 != 0
  let m := if odd then x.mag * 2 else x.mag
  let e := if odd then x.e - 1 else x.e
  { neg := false, mag := Nat.sqrt (m * 2 ^ 200), e := e / 2 - 100 }

/-- The Taylor series of e^z at z = y × 2^−96, summed for `n` terms from term `i`. -/
def expSeries (y : Nat) : Nat → Nat → Nat → Nat
  | 0, _, _ => 0
  | n + 1, i, term => term + expSeries y n (i + 1) (term * y / 2 ^ 96 / (i + 1))

/-- 2^x to about 2^−88, for |x| below 2^12. -/
def refExp2 (x : Fp) : Fp :=
  -- x in steps of 2^−96, rounded down
  let d := x.toDy
  let n : Int := if -96 ≤ d.e then d.m * 2 ^ (d.e + 96).toNat else d.m / 2 ^ (-96 - d.e).toNat
  let i := n / 2 ^ 96
  let fr := (n % 2 ^ 96).toNat
  { neg := false, mag := expSeries (fr * ln2Fix / 2 ^ 96) 40 0 (2 ^ 96), e := i - 96 }

/-- `n` bits of log2 of y × 2^−96 in [1, 2), by repeated squaring. -/
def logBits : Nat → Nat → Nat
  | 0, _ => 0
  | n + 1, y =>
    let z := y * y / 2 ^ 96
    if 2 ^ 97 ≤ z then 2 ^ n + logBits n (z / 2) else logBits n z

/-- log2 x to about 2^−80, for x > 0. -/
def refLog2 (x : Fp) : Fp :=
  let k := Nat.log2 x.mag
  let y := if k ≤ 96 then x.mag * 2 ^ (96 - k) else x.mag / 2 ^ (k - 96)
  let d : Dy := { m := ((k : Int) + x.e) * 2 ^ 90 + (logBits 90 y : Nat), e := -90 }
  Fp.ofDy d false

/-- 1 ÷ (1 + 2^(−x log2 e)) (R144); far from zero the power is cut off where it no longer counts in W40. -/
def refSigmoid (x : Fp) : Fp :=
  let z := (x.mul { neg := true, mag := log2eFix, e := -96 })
  if Dy.lt { m := 1100, e := 0 } z.toDy then Fp.zero
  else if Dy.lt z.toDy { m := -1100, e := 0 } then Fp.one
  else refRecip (Fp.one.add (refExp2 z))

/-- 2 × SIGMOID(2x) − 1 (R144). -/
def refTanh (x : Fp) : Fp :=
  ((refSigmoid { x with e := x.e + 1 }).mul { neg := false, mag := 2, e := 0 }).add { neg := true, mag := 1, e := 0 }

/-- ln 2 × log2(1 + 2^(x log2 e)) (R144). -/
def refSoftplus (x : Fp) : Fp :=
  let z := x.mul { neg := false, mag := log2eFix, e := -96 }
  if Dy.lt { m := 200, e := 0 } z.toDy then x
  else if Dy.lt z.toDy { m := -1100, e := 0 } then Fp.zero
  else (refLog2 (Fp.one.add (refExp2 z))).mul { neg := false, mag := ln2Fix, e := -96 }

/-- Forming 2^(x log2 e) in W40 saturates: the product with log2 e does, or the power is beyond the largest finite value (R84, R144). -/
def powSat (x : Fp) : Bool :=
  let z := ({ v := some (x.mul { neg := false, mag := log2eFix, e := -96 }) } : Exact).toW40
  z.sat || (match z.v with | some v => !Dy.lt v.toDy { m := 1024, e := 0 } | none => false)

/-- Twice a value in W40. -/
def twice40 (x : Fp) : Exact := ({ v := some { x with e := x.e + 1 } } : Exact).toW40

/-- Whether an intermediate rounding of SIGMOID, of TANH or of SOFTPLUS saturates (R84, R144). -/
def sigmoidSat (x : Fp) : Bool := powSat x.negate
def tanhSat (x : Fp) : Bool := (twice40 x).sat || (match (twice40 x).v with | some v => sigmoidSat v | none => false)

/-- A W40 result that is free within `k` units in the last place of the exact value (R149): the free offset `off` from
the nearest value is taken where it stays inside the bound, which is judged with a slack of 2^−60 of the value for the
reference's own error (log 9). -/
def pickUlp (k : Nat) (off : Int) (ref : Fp) : Exact :=
  let r := Fmt.w40.round .rne ref.mag ref.e
  let c := r.code
  let d : Int := off % (2 * (k : Int) + 3) - ((k : Int) + 1)
  let cand := (c : Int) + d
  let lim : Nat := Fmt.w40.top
  let near : Exact :=
    { v := some { ref with mag := (Fmt.w40.mag c).m.natAbs, e := (Fmt.w40.mag c).e }, sat := r.sat, nz := ref.mag != 0 }
  if r.sat || c = 0 || decide (cand < 0) || decide ((lim : Int) < cand) then near
  else
    let v := Fmt.w40.mag cand.toNat
    let u : Dy := { m := 1, e := v.e }
    let err := (v.add { m := -(ref.mag : Int), e := ref.e }).abs
    let slack : Dy := { m := ref.mag, e := ref.e - 60 }
    if Dy.le err ((u.mul { m := k, e := 0 }).add slack) then
      { v := some { neg := ref.neg, mag := v.m.natAbs, e := v.e }, sat := r.sat, nz := ref.mag != 0 }
    else near

/-- A W40 result that is free within 2^−26 × max(1, |v|) of the exact value (R149: TANH and SOFTPLUS); `unit` in steps
of 2^−32 says where in the bound (log 9). -/
def pickAbs (unit : Int) (ref : Fp) : Exact :=
  let near := ({ v := some ref } : Exact).toW40
  let big := Dy.lt { m := 1, e := 0 } ref.toDy.abs
  let bound : Dy := if big then { m := ref.mag, e := ref.e - 26 } else { m := 1, e := -26 }
  let delta := (bound.mul { m := Max.max (-(2 ^ 32)) (Min.min (2 ^ 32) unit), e := -32 })
  let cand := ({ v := some (Fp.ofDy (ref.toDy.add delta) false) } : Exact).toW40
  match cand.v with
  | some c => if Dy.le ((c.toDy.add ref.toDy.neg).abs) bound then cand else near
  | none => near

end Sys2Proof.Machine
end

