-- ==== Sys2Proof/Machine/State.lean ====
section
/-! DEFINITION. The state of the HT9: everything the manual gives the module, as plain data. A field's default is its
value after reset; where the manual states none, the assumption log says which value the model names (log 5, 6, 13). -/

namespace Sys2Proof.Machine

/-- Reasons a step can stop with a fault. No command of the table stops the device: none is raised. -/
inductive Fault where
  /-- Raised by nothing: the manual reports every failed check in a status, a register bit or a Cairn record and goes
  on (R310). Safe. -/
  | none
  deriving DecidableEq, Repr

/-- Reasons a command is refused by the model. -/
inductive Refusal where
  /-- Raised by an arm of `exec` whose command has no meaning yet. Safe. -/
  | notModelled (mnemonic : String)
  deriving DecidableEq, Repr

/-! ### What the device sends (log 7) -/

/-- Something the device has sent to its surroundings, or handed to a unit that answers by a command of its own. -/
inductive Out where
  /-- A frame on its way to a port, or through the fabric when it names the device itself (R344, R352): TYPE, frame. -/
  | frame (port : Option Nat) (ty : Nat) (fr : Frame)
  /-- A Pass unit message (types 0x30 to 0x33): type, frame, what it names, further numbers. -/
  | pass (ty : Nat) (fr : Frame) (a : PassArgs) (nums : List Nat)
  /-- A Stobin message: port, TYPE, SEQ, body (R394, R428, R454). -/
  | stobin (port ty seq : Nat) (body : List Byte)
  /-- The bytes returned by an aperture read (R279). -/
  | readData (data : List Byte)
  /-- The word returned by a register read with an effect (R461). -/
  | readWord (v : W64)
  /-- A Ramalink assert (true) or deassert message of a host target (R458). -/
  | irq (target : Nat) (rise : Bool)
  /-- BEAT_OUT driven high for 200 ns from an edge (R37). -/
  | beatOut (beat : Nat)
  /-- A purge order to an engine: purge number, engine (R378). -/
  | purge (id engine : Nat)
  deriving DecidableEq, Repr

/-! ### Beat (02) -/

/-- A staged shape (R57). -/
structure Staged where
  target : Nat
  period : Nat
  saddle : Nat
  deriving DecidableEq, Repr

/-- The BEAT_ registers and the beat timer (R32 to R59); `at_` is the latest time in the beat, in ns, that a command
has reported, `legCap` the latest size of a leg that one has reported, `winDone` the commands that were done when the window
opened and have not had their turn, `winLeft` the commits that it has left (R49), `clock` the ns that have passed up to the last
beat edge (log 4, 14, 16). -/
structure Beat where
  count : W64 := 0
  holdoverMax : BitVec 8 := 64
  srcPort : BitVec 5 := 0
  src : BitVec 2 := 2
  saddleNext : BitVec 4 := 2
  periodNext : BitVec 10 := 100
  saddleCur : BitVec 4 := 2
  periodCur : BitVec 10 := 100
  stageTarget : W64 := 0
  stageCause : BitVec 4 := 0
  stageState : BitVec 2 := 0
  staged : Option Staged := none
  loadFloor : BitVec 4 := 0
  timeoutDef : BitVec 8 := 4
  markTol : BitVec 8 := 50
  tolIn : BitVec 8 := 50
  markPort : BitVec 5 := 0
  lost : Bool := false
  holdover : Bool := false
  srcAct : BitVec 2 := 2
  aligned : Bool := false
  miss : BitVec 32 := 0
  early : BitVec 32 := 0
  overrun : BitVec 32 := 0
  hung : BitVec 32 := 0
  markErr : BitVec 32 := 0
  cntErr : BitVec 32 := 0
  commitCarry : BitVec 32 := 0
  holdoverRun : Nat := 0
  alignTo : Option W64 := none
  markSeen : List Nat := []
  windowOpen : Bool := false
  winDone : List Nat := []
  winLeft : Nat := 0
  phaseErr : Int := 0
  at_ : Nat := 0
  legCap : Option Nat := none
  clock : Nat := 0
  deriving DecidableEq, Repr

/-! ### Census registers (03 R87 to R90) -/

/-- The CENS_ registers; `clears` holds the counters that a requested clear will act on (R87). -/
structure Cens where
  fmt : BitVec 2 := 0
  cls : BitVec 6 := 0
  ctx : BitVec 8 := 0
  cap : List Cnt := []
  clears : List (Nat × Option (Nat × Nat)) := []
  deriving DecidableEq, Repr

/-! ### Blocks (04 to 06) -/

/-- The checksum lane's sums over the current chain, none where an operand was invalid (R122). -/
structure Lane where
  r : List (Option Dy) := []
  c : List (Option Dy) := []
  g : List (Option Dy) := []
  h : List (Option Dy) := []
  deriving DecidableEq, Repr

/-- The drain buffer (R114): a finished tile on its way out, with the exact sum of each element (R84)
and the checksum lane's sums over its chain (R122). -/
structure Drain where
  tile : Mem := {}
  exact : List Exact := []
  toFold : Bool := false
  slot : Nat := 0
  init : Bool := false
  cks : Bool := false
  fmt : Nat := 0
  cls : Nat := 0
  rnd : Nat := 0
  pos : Nat := 0
  lane : Lane := {}
  deriving DecidableEq, Repr

/-- A share of one operand tile in the cell stores (R95, R96): its first unit and length, the operand it was captured
for, its tile kind, how it was read, the tile's bytes as the block store holds them, and the uncommitted RUN that wrote it
(R97). -/
structure CsEntry where
  off : Nat
  units : Nat
  forB : Bool
  kind : Nat
  turn : Bool
  saxis : Bool
  tile : List Byte
  by_ : Option Nat
  deriving DecidableEq, Repr

/-- An instruction that has issued to an engine and not finished (R184): its position and word, the index registers at its
issue (R163), and a VEC's echo mismatch. -/
structure QI where
  pos : Nat
  word : Nat
  idx : List (BitVec 32) := []
  echo : Option Nat := none
  deriving DecidableEq, Repr

/-- A fold slot: the committed and the working copy (R116). -/
structure FoldSlot where
  committed : Mem := {}
  working : Mem := {}
  written : Bool := false
  deriving DecidableEq, Repr

/-- A landing area armed by RECV (R179, R366): address, units, the unit index its first unit has on the channel, the units
staged by that index, whether it is complete, and the RUN that has consumed it and not yet committed. -/
structure Area where
  addr : Nat
  units : Nat
  base : Nat
  staged : Tab (List Byte) := []
  complete : Bool := false
  consumed : Option Nat := none
  deriving DecidableEq, Repr

/-- A channel table entry (R364); DIR 0 unused, 1 SEND, 2 RECV. -/
structure ChanEnt where
  dir : Nat := 0
  peerCtx : Nat := 0
  peerDev : Nat := 0
  peerChan : Nat := 0
  localFirst : Nat := 0
  peerFirst : Nat := 0
  count : Nat := 0
  epoch : Nat := 0
  deriving DecidableEq, Repr

/-- The state of one channel on one block (R365, R366), counts in units of 64 B, with the entry they belong to; `told` is the
highest count of a CHAN_COMMIT, `tolds` every count that one has carried, `again` that the next frame is the first one resent after a kill.
A block keys its channels by context × 64 + channel. -/
structure Chan where
  ent : ChanEnt := {}
  grant : Nat := 0
  sent : Nat := 0
  committed : Nat := 0
  granted : Nat := 0
  told : Nat := 0
  tolds : List Nat := []
  again : Bool := false
  areas : List Area := []
  deriving DecidableEq, Repr

/-- A running loop (R183): first body instruction, its end, passes left after this one, and its register. -/
structure LoopSt where
  first : Nat
  stop : Nat
  left : Nat
  dst : Nat
  deriving DecidableEq, Repr

/-- A spilled resident record (R333; log 12): lines, cell-store shares, and committed fold slots. -/
structure Spilled where
  lines : Mem := {}
  cs : List CsEntry := []
  fold : Tab Mem := []
  deriving DecidableEq, Repr

/-- What a done RUN keeps on a block until it commits (R25, R166, R168): the RUN, its resident and landing lines, the
resident and the landing lines that it wrote, its working copies, and how far it has sent on each channel. -/
structure Parked where
  id : Nat
  lines : Mem := {}
  shadow : List Nat := []
  land : List Nat := []
  fold : Tab Mem := []
  sent : Tab Nat := []
  deriving DecidableEq, Repr

/-- A block. `preFrom` and `govFrom` say from which ns of the beat the block has been free after a kill without a new owner (R337 index
6), and named by a command that the governor holds (index 8); `preNs` and `govNs` the ns of such spans that have ended in this beat;
`land` the landing lines that its RUN has written (R165); `echoRun` counts the element groups that echo sampling has covered (R157). -/
structure Block where
  retired : Bool := false
  lostSession : Bool := false
  derated : Bool := false
  run : Option Nat := none
  ordinal : Nat := 0
  pc : Nat := 0
  loops : List LoopSt := []
  idx : List (BitVec 32) := List.replicate 16 0
  ended : Bool := false
  acked : Bool := false
  sums : Mem := {}
  lane : Lane := {}
  drain : Option Drain := none
  tq : List Mem := []
  work : Tab Mem := []
  fold : Tab FoldSlot := []
  bs : Mem := {}
  bsSaved : Option Mem := none
  shadow : List Nat := []
  land : List Nat := []
  parked : List Parked := []
  cs : List CsEntry := []
  queue : List QI := []
  bars : Nat := 0
  barWait : Bool := false
  chans : Tab Chan := []
  ptakePos : Nat := 0
  owner : Option Nat := none
  spilled : Tab Spilled := []
  acct : List Cnt := List.replicate 9 Cnt.zero
  preFrom : Option Nat := none
  preNs : Nat := 0
  govFrom : Option Nat := none
  govNs : Nat := 0
  echoRun : Nat := 0
  ckFail : Tab (BitVec 32) := []
  echoFail : Tab (BitVec 32) := []
  deriving DecidableEq, Repr

/-- What each die keeps of its own (R28, R126, R241, R400, R471, R476): `hot` from a reading of 105 °C until one below 100 °C,
`hotInBeat` whether one reached 105 °C in this beat, `throttled` that the die is at step 8 for it, `heldInBeat` that a command was held on it
in this beat. -/
structure Die where
  step : Nat := 0
  ckChecked : Tab (BitVec 32) := []
  echoChecked : Tab (BitVec 32) := []
  droop : BitVec 32 := 0
  hot : Bool := false
  hotInBeat : Bool := false
  throttled : Bool := false
  heldInBeat : Bool := false
  deriving DecidableEq, Repr

/-! ### Partitions (11), with the model they hold (09) and their routing (08) -/

/-- One entry of a layout (R314). -/
structure Layout where
  granules : BitVec 16 := 0
  streams : BitVec 14 := 0
  lo : BitVec 16 := 0
  hi : BitVec 16 := 0
  deriving DecidableEq, Repr

/-- A swap of the schedule table that waits for its origin (R329). -/
structure Swap where
  len : Nat
  origin : Nat
  table : Tab (BitVec 16)
  deriving DecidableEq, Repr

/-- The schedule table and its registers (R325, R329, R341). -/
structure Sched where
  lenNext : BitVec 10 := 1
  lenCur : BitVec 10 := 1
  state : BitVec 2 := 0
  originNext : W64 := 0
  originCur : W64 := 0
  next : Tab (BitVec 16) := []
  cur : Tab (BitVec 16) := []
  swap : Option Swap := none
  deriving DecidableEq, Repr

/-- A tile program (R160): its header and its words. -/
structure Program where
  work : Nat := 0
  persist : Nat := 0
  resLines : Nat := 0
  landLines : Nat := 0
  shadowLines : Nat := 0
  csRes : Nat := 0
  channels : Nat := 0
  chanLat : Nat := 0
  instrs : List Nat := []
  descs : List Nat := []
  deriving DecidableEq, Repr

/-- A region descriptor of a manifest (R254). -/
structure RegionDesc where
  index : Nat := 0
  kind : Nat := 0
  shared : Bool := false
  die : Bool := false
  dieOrd : Nat := 0
  rights : Nat := 0
  dual : Bool := false
  fillZero : Bool := false
  size : Nat := 0
  mask : W64 := 0
  fixed : Option Nat := none
  deriving DecidableEq, Repr

/-- A segment entry (R256). -/
structure Segment where
  region : Nat := 0
  off : Nat := 0
  len : Nat := 0
  digest : List Byte := []
  deriving DecidableEq, Repr

/-- A routing table (R212). -/
structure RouteTab where
  xbase : Nat := 0
  xcountM1 : Nat := 0
  kUse : Nat := 1
  policy : Nat := 0
  backward : Bool := false
  rowFmt : Nat := 0
  rowUnits : Nat := 0
  maxTok : Nat := 1
  grecBase : Nat := 0
  retSignal : Nat := 0
  tokPerBlock : Nat := 0
  holdRows : Nat := 0
  nbuf : Nat := 2
  route : Ref := {}
  hold : Ref := {}
  save : Ref := {}
  replyLat : Nat := 0
  deriving DecidableEq, Repr

/-- A slot descriptor (R213). -/
structure SlotDesc where
  cap : Nat := 1
  rpb : Nat := 1
  sources : Nat := 1
  rowUnits : Nat := 0
  enabled : Bool := false
  backward : Bool := false
  nbuf : Nat := 2
  bgFirst : Nat := 0
  bgSize : Nat := 1
  sealSignal : Nat := 0
  ctx : Nat := 0
  inp : Ref := {}
  outp : Ref := {}
  grad : Ref := {}
  deriving DecidableEq, Repr

/-- One batch of a routing table at its origin (R215 to R231): which phases are closed, the rows committed to each slot per
phase, the slots it closed to, the slots that returned, whether the returns of each phase are complete and whether
RET_SIGNAL has counted them, the lost flag (R235), its held entries: token, entry, hold row (R220), and the entries of the batch before
that were held and that it has offered again: token, entry (R230). -/
structure BatchSt where
  b : BitVec 16 := 0
  closedF : Bool := false
  closedB : Bool := false
  sentF : Tab Nat := []
  sentB : Tab Nat := []
  toF : List Nat := []
  toB : List Nat := []
  retF : List Nat := []
  retB : List Nat := []
  doneF : Bool := false
  doneB : Bool := false
  sigF : Bool := false
  sigB : Bool := false
  lost : Bool := false
  held : List (Nat × Nat × Nat) := []
  late : List (Nat × Nat) := []
  deriving DecidableEq, Repr

/-- A routing table in use: its descriptor, owner, batch state and counters (R212, R215, R239). -/
structure RTable where
  d : RouteTab := {}
  ctx : Nat := 0
  last : Option (BitVec 16) := none
  dispatch : Option (BitVec 16) := none
  batches : List BatchSt := []
  counters : List Cnt := List.replicate 8 Cnt.zero
  deriving DecidableEq, Repr

/-- A reserved position of a slot buffer, with the try's key (R217, R218), whether its dispatch has committed, and whether a
backward row has. -/
structure Resv where
  pos : Nat
  device : Nat
  ctx : Nat
  gen : BitVec 16
  opt : Nat
  table : Nat
  token : Nat
  entry : Nat
  cmd : Nat := 0
  nth : Nat := 0
  committed : Bool := false
  back : Bool := false
  deriving DecidableEq, Repr

/-- One phase of a slot buffer (R224): close markers (device, context, partition × 64 + routing table, rows declared), commit markers
(device, context, partition × 64 + routing table, which of its rows it commits), the runs whose rows lie at the positions, and the
seal. -/
structure PhaseSt where
  closes : List (Nat × Nat × Nat × Nat) := []
  commits : List (Nat × Nat × Nat × Nat) := []
  runs : Tab Nat := []
  isSealed : Bool := false
  returned : Bool := false
  deriving DecidableEq, Repr

/-- A slot buffer holding a batch (R218, R224), with the rows that have arrived and are not yet visible (R218, R231). -/
structure SlotBuf where
  batch : BitVec 16 := 0
  resv : List Resv := []
  fwd : PhaseSt := {}
  bwd : PhaseSt := {}
  rows : Tab (List Byte) := []
  grads : Tab (List Byte) := []
  deriving DecidableEq, Repr

/-- An input slot in use (R213, R239); `pend` holds what its counters take at the next seal or RETURN, `past` the last sealed batch that
each buffer has released (R218). -/
structure SlotSt where
  d : SlotDesc := {}
  bufs : Tab SlotBuf := []
  counters : List Cnt := List.replicate 8 Cnt.zero
  pend : List Nat := List.replicate 8 0
  past : Tab (BitVec 16) := []
  deriving DecidableEq, Repr

/-- The model of a partition (R257, R260): its digest, the context that claims or placed it, whether it is ACTIVE, the
SHARED regions with their table words, the programs, the reserved window, and the contexts that use it, and the one
whose attaching PLACE is accepted and not over. -/
structure Model where
  digest : List Byte := []
  manifest : List Byte := []
  by_ : Option Nat := none
  active : Bool := false
  shared : Tab (RegionDesc × Nat × Nat) := []
  programs : Tab Program := []
  window : Option (Nat × Nat) := none
  users : List Nat := []
  claim : Option Nat := none
  deriving DecidableEq, Repr

/-- A WEIGHT_SWITCH in progress and the admission gate (R266 to R268): `staged` from the acceptance of STAGE, `isOpen` from its commit; `regs`
the regions that its manifest names. -/
structure Switch where
  staged : Bool := false
  by_ : Nat := 0
  isOpen : Bool := false
  segs : List Segment := []
  regs : List Nat := []
  verified : List Nat := []
  digest : List Byte := []
  closed : Bool := false
  holdNew : Bool := false
  limit : Nat := 0
  beatA : Nat := 0
  cmd : Nat := 0
  drained : Bool := false
  deriving DecidableEq, Repr

/-- A partition (R312, R341). -/
structure Part where
  layout : Layout := {}
  next : Layout := {}
  preemptMin : BitVec 3 := 0
  sched : Sched := {}
  ordinals : List Nat := []
  model : Option Model := none
  sw : Switch := {}
  tabs : Tab RTable := []
  slots : Tab SlotSt := []
  chain : List Byte := List.replicate 64 0
  events : Nat := 0
  deriving DecidableEq, Repr

/-- The PT_ module registers and the unit epochs (R317 to R322, R341). -/
structure PtMod where
  cause : BitVec 4 := 0
  pending : Bool := false
  state : BitVec 2 := 0
  epochNext : BitVec 16 := 0
  epoch : BitVec 16 := 0
  target : W64 := 0
  armed : Option Nat := none
  idle : Bool := false
  armedKept : List Nat := []
  prevKept : List Nat := []
  mmRefuse : BitVec 32 := 0
  lag : BitVec 27 := 0
  unitEpoch : Tab (BitVec 16) := []
  unitReady : List Nat := []
  deriving DecidableEq, Repr

/-! ### Weight versions (07) -/

/-- A weight-version entry (R196); `closing`: 0 none, 1 V, 2 V − 1; `kept` while a PLACE holds it for the VERIFY that makes it
(R259). -/
structure WVer where
  used : Bool := false
  kept : Bool := false
  v : BitVec 16 := 0
  stash : Bool := false
  curBuf : Bool := false
  sValid : Bool := false
  countCur : Nat := 0
  countStash : Nat := 0
  closing : Nat := 0
  mask : W64 := 0
  pt : Nat := 0
  region : Nat := 0
  busyBy : Option Nat := none
  zeroBeat : Nat := 0
  deriving DecidableEq, Repr

/-- Holds of a context on a version (R198). -/
structure Hold where
  ctx : Nat
  wreg : Nat
  version : BitVec 16
  n : Nat
  deriving DecidableEq, Repr

/-! ### Contexts and streams (10, 11) -/

/-- A region table entry: the two words of R247. -/
structure RegEntry where
  w0 : W64 := 0
  w1 : W64 := 0
  desc : RegionDesc := {}
  deriving DecidableEq, Repr

/-- A completion ring (R287, R289). -/
structure Cq where
  defined : Bool := false
  off : Nat := 0
  log2 : Nat := 6
  prod : BitVec 32 := 0
  cons : BitVec 32 := 0
  reserved : Nat := 0
  deriving DecidableEq, Repr

/-- The loadset of a context (R257 to R263), and its adapter staging (R265). -/
structure LoadSt where
  manifest : List Byte := []
  segs : List Segment := []
  verified : List Nat := []
  streams : Nat := 0
  spillRegion : Option Nat := none
  record : Nat := 0
  adSegs : List Segment := []
  adRegs : List Nat := []
  adVerified : List Nat := []
  adManifest : List Byte := []
  adOpen : Bool := false
  deriving DecidableEq, Repr

/-- A CONTEXT_RESET or DESTROY that is pending (R324, R383): the beat in whose window it takes effect, the command that
records it, its purge, whether it destroys, and the beat and the purge of a DESTROY that follows it. -/
structure ResetSt where
  effectBeat : Nat
  cmd : Option Nat
  purge : Nat
  done : Bool := false
  destroy : Bool := false
  next : Option (Nat × Nat) := none
  deriving DecidableEq, Repr

/-- A context (R281, R323, R341). -/
structure Ctx where
  home64M : BitVec 7 := 1
  devCtrl : Bool := false
  ptCtrl : Bool := false
  func : BitVec 8 := 0
  pt : BitVec 4 := 0
  state : BitVec 2 := 0
  gen : BitVec 16 := 0
  lastErr : BitVec 8 := 0
  endedBeat : Option Nat := none
  rsel : BitVec 6 := 0
  rword0 : W64 := 0
  rword1 : W64 := 0
  dbErr : Bool := false
  hostFault : Bool := false
  load : BitVec 2 := 0
  sig : Tab W64 := []
  held : Option Nat := none
  heldForever : Bool := false
  reset : Option ResetSt := none
  lastReset : Option Nat := none
  cq : Tab Cq := []
  streams : Tab Nat := []
  regions : Tab RegEntry := []
  ld : LoadSt := {}
  acct : List Cnt := List.replicate 8 Cnt.zero
  collSeq : Tab (BitVec 32 × Nat) := []
  norm : Tab Nat := []
  deriving DecidableEq, Repr

/-- A global stream (R283, R341); `held` is the Dispatcher's copy of a packet that waits at the head, for admission or for a weight version
(R199, R267, R285). -/
structure Strm where
  isOpen : Bool := false
  reserved : Bool := false
  cq : Nat := 0
  prio : Nat := 0
  pt : Nat := 0
  lstream : Nat := 0
  ctx : Nat := 0
  head : BitVec 32 := 0
  tail : BitVec 32 := 0
  log2 : Nat := 6
  off : Nat := 0
  halted : Bool := false
  lastStatus : BitVec 8 := 0
  request : Bool := false
  held : Option (Hdr × Op) := none
  acct : List Cnt := List.replicate 8 Cnt.zero
  deriving DecidableEq, Repr

/-! ### Commands in flight (10, 11) -/

/-- A byte staged by a command: key in HBM, value, the block that stored it, and who may read it before the commit:
0 nobody, 1 the same block, 2 every block of the RUN (R167). -/
structure Store where
  addr : Nat
  val : Byte
  blk : Nat := 0
  lvl : Nat := 2
  deriving DecidableEq, Repr

/-- The phases of a command: accepted; issued; done, so that the next window commits it; refused, so that the next
window writes its record (R48, R293). -/
inductive Phase where
  | accepted | issued | done | refused | awaiting
  deriving DecidableEq, Repr

/-- A collective group entry as copied at acceptance (R357). -/
structure Group where
  jobTag : BitVec 32 := 0
  n : Nat := 2
  myPos : Nat := 0
  rate : Nat := 1
  lat : Nat := 1
  members : List (Nat × Nat) := []
  deriving DecidableEq, Repr

/-- A collective or PERMUTE in flight (R359 to R362, R369): its group and sequence number, the piece length, the phase and
leg it is at, whether its first leg has been issued, the frames' bytes that have arrived (phase and leg, member position,
offset, length), NORMREDUCE's sums by position, the DST it is building, PERMUTE's place in its move list before and after
the leg in flight, the bytes of that leg by destination, the marks received by source (every one, and the highest), and PERMUTE's drain set; whether NORMREDUCE has
come to its cross-shard leg; the bytes of elements that have arrived in part: phase and leg, member position, offset, byte;
and whether its DST has been made undefined (R363). -/
structure CollSt where
  grp : Group := {}
  seq : Nat := 0
  piece : Nat := 0
  phase : Nat := 1
  leg : Nat := 0
  started : Bool := false
  got : List (Nat × Nat × Nat × Nat) := []
  values : List (Nat × Nat) := []
  buf : Mem := {}
  moveIx : Nat := 0
  moveOff : Nat := 0
  nextIx : Nat := 0
  nextOff : Nat := 0
  legTo : Tab Nat := []
  marked : Tab Nat := []
  marks : List (Nat × Nat) := []
  cross : Bool := false
  part : List (Nat × Nat × Nat × Byte) := []
  drain : List Nat := []
  voided : Bool := false
  deriving DecidableEq, Repr

/-- An entry of a route record (R222). -/
structure RouteEnt where
  id : Nat := 0
  weight : W40 := 0
  device : Nat := 0
  pt : Nat := 0
  slot : Nat := 0
  buf : Nat := 0
  st : Nat := 0
  pos : Nat := 0
  deriving DecidableEq, Repr

/-- A token that a command dispatches (R217 to R222): its routing table and batch, its number, the block that issued it
under PDISP, its row, the COUNT of its gate record, its entries, the entries with a try unanswered, the primaries refused
and not yet settled, the spares still untried, the tries made and refused, the held entries with their hold rows, and how many
dispatches of the token the command has made before (R216). -/
structure Tok where
  table : Nat := 0
  batch : BitVec 16 := 0
  token : Nat := 0
  origin : Option Nat := none
  row : List Byte := []
  count : Nat := 0
  ents : List RouteEnt := []
  waiting : List Nat := []
  refused : List Nat := []
  spares : List Nat := []
  tries : Nat := 0
  full : Nat := 0
  held : List (Nat × Nat) := []
  nth : Nat := 0
  deriving DecidableEq, Repr

/-- A command in flight (R285, R290, R330): `legOver` says that the leg in flight has moved its bytes, `doomed` the status with which
the command ends after the commit of its done leg (R45, R50), `layouts` and `manifest` what acceptance has read of the layout record
and of the manifest that it names (R257, R316); of a VERIFY (R259), `okSegs` are the segments whose digests the leg in flight has found right,
`cores` what each SHAKE256 core has in hand at the start of the leg and `coresNext` after it: a segment and the bytes still to hash. -/
structure Cmd where
  id : Nat := 0
  ctx : Nat := 0
  strm : Nat := 0
  cq : Nat := 0
  h : Hdr := {}
  op : Op := .fence
  index : BitVec 32 := 0
  phase : Phase := .accepted
  acceptBeat : Nat := 0
  issueBeat : Nat := 0
  timeout : Nat := 1
  heldNow : Bool := false
  blocks : List Nat := []
  acked : List Nat := []
  progress : Nat := 0
  final : Bool := true
  writes : List Store := []
  census : Tab Nat := []
  sigs : List (Nat × W64) := []
  fresh : Nat := 0
  kills : Nat := 0
  queued : Bool := true
  overrun : Bool := false
  carried : Bool := false
  fail : Option (Nat × Nat × Nat) := none
  status : Nat := 0
  dkind : Nat := 0
  dindex : Nat := 0
  cycles : Nat := 0
  ran : Nat := 0
  waitFrom : Nat := 0
  binds : List (Nat × BitVec 16) := []
  chans : Tab ChanEnt := []
  coll : CollSt := {}
  masks : Tab W64 := []
  normCmd : Option Nat := none
  packing : Bool := false
  issuedOnce : Bool := false
  queuedAt : Nat := 0
  issuedAt : Nat := 0
  leg : Nat := 0
  moved : Nat := 0
  peerEpoch : Option Nat := none
  lostBlk : Option Nat := none
  toks : List Tok := []
  pulls : Tab (List Byte) := []
  atFetch : Bool := false
  opcode : Option Nat := none
  legOver : Bool := false
  doomed : Option (Nat × Nat × Nat) := none
  layouts : List Layout := []
  manifest : List Byte := []
  okSegs : List Nat := []
  cores : List (Option (Nat × Nat)) := []
  coresNext : List (Option (Nat × Nat)) := []
  deriving DecidableEq, Repr

/-! ### Links (12) -/

/-- A frame in a port's replay buffer (R346): its TYPE, the frame, whether it has been sent again, and how many of its replays have
failed (R354). -/
structure Kept where
  ty : Nat
  fr : Frame
  again : Bool := false
  failed : Nat := 0
  deriving DecidableEq, Repr

/-- A data-link port (R346, R350, R354, R377): `waiting` holds the one-hop frames that have found no credit or no room in the replay
buffer, oldest first; `owed` the credit that the port has still to give back by lane, `owing` that some of it goes out with the next
HOP_CREDIT that can. -/
structure Port where
  state : BitVec 3 := 0
  lanes : BitVec 8 := 0
  lat : BitVec 16 := 0
  cause : BitVec 4 := 0
  enable : Bool := true
  plane : BitVec 16 := 0
  fecCorr : BitVec 32 := 0
  fecUncorr : BitVec 32 := 0
  replay : BitVec 32 := 0
  crcErr : BitVec 32 := 0
  lseqTx : Nat := 1
  lseqRx : Nat := 1
  replayBuf : List Kept := []
  waiting : List (Nat × Frame) := []
  credits : List Nat := [0, 0, 0, 0]
  owed : List Nat := [0, 0, 0, 0]
  owing : Bool := false
  rejoin : Bool := false
  quarantined : Bool := false
  deriving DecidableEq, Repr

/-- An entry of a link die's peer table (R371): the die, the device, its epoch once a frame of its own has shown it, the generation
tags of its contexts that sent frames, whether it has announced itself fenced (R374), and the beat of the last frame exchanged. -/
structure Peer where
  device : Nat
  die : Nat := 0
  epoch : Option (BitVec 16) := none
  gens : Tab (BitVec 16) := []
  fenced : Bool := false
  last : Nat := 0
  deriving DecidableEq, Repr

/-- A frame awaiting its end-to-end acknowledgement, with the plane it was last sent on (R347, R352): 32 while it waits for
a plane or for credit, 33 on the module fabric; the command that sent it; and its primary plane, once it has a place in the
rotation. -/
structure Unacked where
  ty : Nat
  fr : Frame
  plane : Nat
  cmd : Nat
  primary : Option Nat := none
  deriving DecidableEq, Repr

/-- The LNK_ registers and the link layer's tables (R347, R371, R376). -/
structure Lnk where
  addrValid : Bool := false
  addr : BitVec 24 := 0
  devEpoch : BitVec 16 := Config.powerEpoch
  uncorrMax : BitVec 8 := 16
  retryUs : BitVec 8 := 20
  hopLimit : BitVec 4 := 15
  excl : BitVec 32 := 0
  up : BitVec 32 := 0
  strapSlot : BitVec 5 := 0
  planeOff : BitVec 8 := 0
  exc : Tab W64 := []
  late : BitVec 32 := 0
  epochDrop : BitVec 32 := 0
  stray : BitVec 32 := 0
  failover : BitVec 32 := 0
  retx : BitVec 32 := 0
  dup : BitVec 32 := 0
  unreach : BitVec 32 := 0
  misroute : BitVec 32 := 0
  badType : BitVec 32 := 0
  ports : Tab Port := []
  peers : List Peer := []
  unacked : List Unacked := []
  rotation : Tab Nat := []
  deriving DecidableEq, Repr

/-! ### Cairn and interrupts (15) -/

/-- An event on its way to the recorder (R442, R444). -/
structure Event where
  code : Nat
  kind : Nat := 0
  index : Nat := 0
  ctx : Nat := 255
  beat : W64 := 0
  payload : List Byte := []
  deriving DecidableEq, Repr

/-- The rate limit of an event code (R450, R455); no value: the code is at its reset values with a full bucket. -/
structure CodeSt where
  supp : Nat := 0
  refill : Nat := 10
  burst : Nat := 16
  event : Bool := false
  irq : Bool := false
  tokens : Nat := 16
  edges : Nat := 0
  deriving DecidableEq, Repr

/-- A record in the ring or the mirror (R445, R446): its SEQ, the byte it starts at, and its bytes. -/
structure LogRec where
  seq : Nat := 0
  start : Nat := 0
  bytes : List Byte := []
  deriving DecidableEq, Repr

/-- The recorder (R443 to R455). `ring` and `mirror` hold records oldest first, with the byte at which the next one would
start; `mirrored` is the SEQ of the last record copied, `torn` the SEQs of torn records, `cutOff` that of a record whose
transfer a reset has cut off. -/
structure Cairn where
  seq : Nat := 0
  cleared : Nat := 0
  mirrorSt : BitVec 2 := 0
  tornBit : Bool := false
  rdSeq : W64 := 0
  rdStatus : BitVec 3 := 0
  rdLen : BitVec 11 := 0
  rdBuf : List Byte := []
  clrState : BitVec 4 := 0
  clrBuf : List Byte := []
  qdrop : BitVec 32 := 0
  queue : List Event := []
  ring : List LogRec := []
  ringPos : Nat := 0
  mirror : List LogRec := []
  mirrorPos : Nat := 0
  mirrored : Nat := 0
  torn : List Nat := []
  cutOff : Option Nat := none
  codes : Tab CodeSt := []
  deriving DecidableEq, Repr

/-- An interrupt target (R458, R461, R463, R464). -/
structure Target where
  idle : Bool := false
  holdoff : BitVec 10 := 0
  held : Bool := false
  last : BitVec 10 := 0
  line : Bool := false
  deriving DecidableEq, Repr

/-- The interrupt controller (R456 to R464). Masks list the sources that are NOT masked, since all are masked after
reset. -/
structure Irq where
  mode : Bool := false
  bankmap : W64 := 0
  pend : Tab W64 := []
  mask : Tab W64 := []
  cfg : Tab W64 := []
  tmask : Tab W64 := []
  bankPend : Tab W64 := []
  bankMask : Tab W64 := []
  inService : List (Nat × Nat) := []
  targets : Tab Target := []
  deriving DecidableEq, Repr

/-! ### Start, security, self-test (14) -/

/-- A key of the owner record (R414). -/
structure OwnerKey where
  roles : Nat
  pub : List Byte
  deriving DecidableEq, Repr

/-- The journal entry of a stack (R435, R440). -/
structure Jnl where
  next : Nat := 0
  chunk : Nat := 0
  state : Nat := 0
  deriving DecidableEq, Repr

/-- The BIST_ registers, the start sequencer and self-test (R406 to R440). `sdPhase` is the part of a stand-down's self-test in
progress: 0 none yet, 1 SRAM, 2 the save areas, 3 saving a chunk, 4 testing it, 5 restoring it, 6 over; `sdLeft` what is left of
it, in beats for SRAM and in bytes a stack otherwise; `sdChunk` the chunks done; `sdStop` that it is to stop. -/
structure Bist where
  cause : BitVec 8 := 0
  step : BitVec 8 := 0
  attempts : BitVec 8 := 0
  mode : BitVec 2 := 0
  kind : Bool := false
  ready : Bool := false
  imgState : BitVec 4 := 0
  img : List Byte := []
  chunks : BitVec 16 := 574
  noBist : Bool := false
  abortCode : BitVec 8 := 0
  sdRefuse : BitVec 2 := 0
  beats : Nat := 0
  overflow : Bool := false
  state : BitVec 3 := 0
  resSel : BitVec 10 := 0
  w0 : W64 := 0
  w1 : W64 := 0
  resDrop : BitVec 32 := 0
  ring : List (W64 × W64) := []
  jnl : Tab Jnl := []
  rpt : List Byte := []
  nonce : W64 := 0
  keys : List OwnerKey := []
  policy : Nat := 0
  imageVersion : W64 := 0
  imageMeasure : List Byte := zeros 64
  ownerDigest : List Byte := zeros 64
  repairDigest : List Byte := zeros 64
  repairMap : List W64 := []
  rowsApplied : List W64 := []
  sdActive : Bool := false
  sdPhase : Nat := 0
  sdLeft : Nat := 0
  sdChunk : Nat := 0
  sdStop : Bool := false
  wakePending : Bool := false
  baseCamp : Bool := false
  inHold : Bool := false
  started : Bool := false
  memUp : Bool := false
  warmBound : Bool := false
  served : Bool := false
  saveBad : List Nat := []
  deriving DecidableEq, Repr

/-- The pin phases (R478). -/
inductive PinPhase where
  | reset | boot | run | baseCamp | hold | unpowered
  deriving DecidableEq, Repr

/-! ### Leases, fence and derating (13) -/

/-- What one management port keeps (R395, R426, R427). -/
structure Mgmt where
  running : Bool := false
  leaseMs : Nat := 0
  lastSeq : Nat := 0
  sendSeq : Nat := 1
  heard : Bool := false
  deriving DecidableEq, Repr

/-- The fence (R396): cause 0 none, 1 START, 2 LAPSE, 3 VERDICT, 4 STANDDOWN. -/
structure Fence where
  cause : Nat := 1
  lift : Bool := false
  atWindow : Bool := false
  portA : Mgmt := {}
  portB : Mgmt := {}
  leaseOk : Bool := false
  deriving DecidableEq, Repr

/-- The derating table in force after a cold reset (R402). -/
def DerateTable.cold : DerateTable :=
  { fcap := List.replicate 256 0, band := [20, 20, 20], echo := List.replicate 8 12, retireList := [] }

/-- Derating (R402, R403); `port` is the management port of the last DERATE. -/
structure Derate where
  table : DerateTable := DerateTable.cold
  pending : Option (Nat × DerateTable) := none
  state : Nat := 0
  cause : Nat := 0
  port : Nat := 0
  deriving DecidableEq, Repr

/-! ### Power (16) -/

/-- The CREST_ registers and the governor (R466 to R485). `temps` holds the junction readings by sensor, in units of 0.125 °C;
`ceffLast` the C_eff of the last CEILING record. -/
structure Crest where
  rampW : BitVec 16 := 750
  thrCeilW : BitVec 16 := 4000
  ceilW : BitVec 16 := 7500
  held : Bool := false
  throttleIn : Bool := false
  ballastW : Nat := 0
  pinW : Nat := 0
  grantW : Nat := 0
  floorW : Int := 0
  coolOut : Int := 0
  coolIn : Int := 0
  iin : Nat := 0
  vin : Nat := 0
  flow : Nat := 0
  ballastEn : Bool := true
  stepFloor : BitVec 4 := 0
  baseW : BitVec 16 := 1800
  holdCnt : BitVec 32 := 0
  thrmBeats : BitVec 32 := 0
  ballastBeats : BitVec 32 := 0
  vinExc : BitVec 32 := 0
  clamp : BitVec 32 := 0
  measured : Bool := false
  throttleN : Bool := false
  coolCap : Bool := false
  vinHigh : Bool := false
  vinLow : Bool := false
  tripped : Bool := false
  tripLatch : Bool := false
  powered : Bool := true
  temps : List Int := []
  charged : List Nat := []
  heldCmds : List Nat := []
  ceffLast : Nat := 7500
  deriving DecidableEq, Repr

/-! ### Purges (13) -/

/-- A purge that has not been acknowledged by all engines (R378, R381): what it names, the beat of its window, and the
engines that owe an acknowledgement. -/
structure Purge where
  id : Nat
  ctx : Option Nat
  cmd : Option Nat
  beat : Nat
  owed : List Nat
  lostEngine : Option Nat := none
  deriving DecidableEq, Repr

/-- The PASS_ registers (R240, R241). -/
structure PassRegs where
  kind : BitVec 2 := 0
  pt : BitVec 4 := 0
  num : BitVec 6 := 0
  cap : List Cnt := []
  late : BitVec 32 := 0
  badDest : BitVec 32 := 0
  deriving DecidableEq, Repr

/-- The ACCT_ registers (R341). -/
structure AcctRegs where
  kind : BitVec 2 := 0
  index : BitVec 13 := 0
  cap : List Cnt := []
  deriving DecidableEq, Repr

/-- A transfer of resident data (R333, R334): the context that takes the blocks, the blocks, the beat in which its legs
may begin, whether a leg has been issued, whether one is in flight in this beat, and the bytes still to spill and to fill
in each granule. -/
structure SpillJob where
  ctx : Nat
  blocks : List Nat
  begin_ : Nat
  started : Bool := false
  flying : Bool := false
  spill : Tab Nat := []
  fill : Tab Nat := []
  deriving DecidableEq, Repr

/-- The whole machine. `lostRows` numbers the acts by which repaired rows lost their content (R31, R271); `rlLanes` is the width to which Ramalink has trained, 0 while it is down; `missedEdge` is one more
than the beat at whose edge the Dispatcher's acknowledgement was last missed (R388); `permIn` holds, by context × 64 + region, the bytes that PERMUTE has delivered and that are not yet
visible (R369); `permSeen` the 64-byte units delivered: context, source position, region, offset. -/
structure State where
  pending : List Instr := []
  out : List Out := []
  fresh : Nat := 0
  nextId : Nat := 0
  beat : Beat := {}
  cens : Cens := {}
  census : Tab Cnt := []
  blocks : Tab Block := []
  dies : Tab Die := []
  pt : PtMod := {}
  parts : Tab Part := []
  wver : Tab WVer := []
  holds : List Hold := []
  xtable : Tab W64 := []
  ctxs : Tab Ctx := []
  strms : Tab Strm := []
  cmds : List Cmd := []
  hbm : Mem := {}
  permIn : Tab Mem := []
  permSeen : List (Nat × Nat × Nat × Nat) := []
  hbmRetired : List (Nat × Nat) := []
  hbmOwed : List (Nat × Nat × Nat × List Nat) := []
  lostRows : List Nat := []
  lnk : Lnk := {}
  cairn : Cairn := {}
  qdropped : Nat := 0
  irq : Irq := {}
  bist : Bist := {}
  phase : PinPhase := .reset
  rlLanes : Nat := 0
  fence : Fence := {}
  derate : Derate := {}
  crest : Crest := {}
  faultQuarantine : Bool := false
  purges : List Purge := []
  quarantined : List Nat := []
  missedEdge : Nat := 0
  passRegs : PassRegs := {}
  acctRegs : AcctRegs := {}
  spillJobs : List SpillJob := []
  deriving DecidableEq, Repr

/-- The machine right after reset: every field at the value that the manual states for reset (02 R59, 03 R90, 10 R281,
11 R341, 12 R376, 14 R440, 15 R455 and R464, 16 R485), at the values of the log where it states none. -/
def State.reset : State := {}

end Sys2Proof.Machine
end

