-- ==== Sys2Proof/Machine/Ops.lean ====
section
/-! DEFINITION. The named operations over the state: reading and replacing its parts, handing an event to the Cairn
recorder, raising an interrupt, and sending. -/

namespace Sys2Proof.Machine

/-! ### Reading and replacing parts -/

def State.block (s : State) (b : Nat) : Block := Tab.get {} s.blocks b
def State.setBlock (s : State) (b : Nat) (x : Block) : State := { s with blocks := Tab.set s.blocks b x }
def State.updBlock (s : State) (b : Nat) (f : Block → Block) : State := s.setBlock b (f (s.block b))

def State.die (s : State) (d : Nat) : Die := Tab.get {} s.dies d
def State.updDie (s : State) (d : Nat) (f : Die → Die) : State := { s with dies := Tab.set s.dies d (f (s.die d)) }

def State.ctx (s : State) (c : Nat) : Ctx := Tab.get {} s.ctxs c
def State.updCtx (s : State) (c : Nat) (f : Ctx → Ctx) : State := { s with ctxs := Tab.set s.ctxs c (f (s.ctx c)) }

def State.strm (s : State) (g : Nat) : Strm := Tab.get {} s.strms g
def State.updStrm (s : State) (g : Nat) (f : Strm → Strm) : State := { s with strms := Tab.set s.strms g (f (s.strm g)) }

def State.part (s : State) (p : Nat) : Part := Tab.get {} s.parts p
def State.updPart (s : State) (p : Nat) (f : Part → Part) : State := { s with parts := Tab.set s.parts p (f (s.part p)) }

def State.port (s : State) (p : Nat) : Port := Tab.get {} s.lnk.ports p
def State.updPort (s : State) (p : Nat) (f : Port → Port) : State :=
  { s with lnk := { s.lnk with ports := Tab.set s.lnk.ports p (f (s.port p)) } }

def State.weight (s : State) (w : Nat) : WVer := Tab.get {} s.wver w
def State.updWeight (s : State) (w : Nat) (f : WVer → WVer) : State :=
  { s with wver := Tab.set s.wver w (f (s.weight w)) }

/-- The beat counter as a number (R32). -/
def State.now (s : State) : Nat := s.beat.count.toNat

/-- The die of a block (R19). -/
def dieOf (b : Nat) : Nat := b / Config.blocksPerDie
/-- The granule of a block (01, R312). -/
def granuleOf (b : Nat) : Nat := 2 * dieOf b + (if b % Config.blocksPerDie / 32 < 10 then 0 else 1)

/-- The command with an identity, if it is in flight. -/
def State.cmd (s : State) (id : Nat) : Option Cmd := s.cmds.find? (fun c => c.id == id)

/-- Applies `f` to the command with an identity. -/
def State.updCmd (s : State) (id : Nat) (f : Cmd → Cmd) : State :=
  { s with cmds := s.cmds.map (fun (c : Cmd) => if c.id = id then f c else c) }

def State.dropCmd (s : State) (id : Nat) : State := { s with cmds := s.cmds.filter (fun c => c.id != id) }

/-- Appends to what the device has sent (log 7). -/
def State.send (s : State) (o : Out) : State := { s with out := s.out ++ [o] }
def State.sendAll (s : State) (l : List Out) : State := { s with out := s.out ++ l }

/-- Takes one number for free values (log 6). -/
def State.burn (s : State) : State := { s with fresh := s.fresh + 1 }

/-! ### Cairn events (15) -/

/-- Codes of the recorder are never rate-limited (R447). -/
def recorderCode (n : Nat) : Bool := n < 256

/-- The default of CAIRN_CODE.EVENT (R448, R477). -/
def eventDefault (n : Nat) : Bool :=
  [0x001, 0x002, 0x004, 0x101, 0x102, 0x105, 0x201, 0x301, 0x502, 0x601, 0x602, 0x701, 0x702, 0x703, 0x704, 0x705,
   0x801, 0x802, 0x901, 0x902, 0x903, 0x904, 0x906].contains n

/-- The rate limit of a code (R450, R455). -/
def Cairn.code (c : Cairn) (n : Nat) : CodeSt := (Tab.find c.codes n).getD { event := eventDefault n }

def Cairn.setCode (c : Cairn) (n : Nat) (x : CodeSt) : Cairn := { c with codes := Tab.set c.codes n x }

/-- An event enters the Cairn write queue; one that finds the queue full is dropped and counted (R26, R444). -/
def Cairn.push (c : Cairn) (e : Event) : Cairn :=
  if c.queue.length < Config.cairnDepth then { c with queue := c.queue ++ [e] }
  else
    let k := c.code e.code
    { c.setCode e.code { k with supp := Nat.min 65535 (k.supp + 1) } with qdrop := sat32 c.qdrop 1 }

/-- Hands an event to the recorder, stamped with the beat (R442). -/
def State.note (s : State) (e : Event) : State :=
  { s with cairn := s.cairn.push { e with beat := s.beat.count } }

/-- An event about the device as a whole, or about no context. -/
def State.noteDev (s : State) (code : Nat) (payload : List Byte) : State :=
  s.note { code := code, payload := payload }

/-! ### FAULT_N and the level sources (R456, R481) -/

/-- The causes of FAULT_N as CAIRN_FAULT shows them, without LINE. -/
def State.faultBits (s : State) : Nat :=
  (if s.beat.lost then 2 else 0) +
  (if s.lnk.ports.any (fun p => p.2.state == 4) then 4 else 0) +
  (if s.fence.cause == 2 || s.fence.cause == 3 then 8 else 0) +
  (if s.faultQuarantine then 16 else 0) +
  (if s.crest.vinHigh then 32 else 0) +
  (if s.crest.tripLatch then 64 else 0) +
  (if s.bist.baseCamp then 128 else 0)

/-- FAULT_N is asserted while one of its causes holds. -/
def State.faultN (s : State) : Bool := s.faultBits != 0

/-- The device is fenced (R396). -/
def State.fenced (s : State) : Bool := s.fence.cause != 0

/-- The level sources (R456): FAULT_N, fenced, LOST, the governor throttling, a junction at 105 °C or more. -/
def levelSources : List Nat := [2, 3, 4, 9, 10]

/-- THROTTLE_N as SB2 carries it: in the run phase and in base camp (R478). -/
def State.throttlePin (s : State) : Bool := s.crest.throttleN && (s.phase == .run || s.phase == .baseCamp)

/-- The level of interrupt source 9 (R477). -/
def State.governorThrottles (s : State) : Bool :=
  !s.crest.heldCmds.isEmpty || s.throttlePin || s.dies.any (fun d => d.2.throttled)

/-- 105 °C in units of 0.125 °C (R476). -/
def hot105 : Int := 840

/-- The levels of the level sources (R456). -/
def State.level (s : State) : Nat → Bool
  | 2 => s.faultN
  | 3 => s.fenced
  | 4 => s.beat.lost
  | 9 => s.governorThrottles
  | 10 => s.crest.temps.any (fun t => decide (hot105 ≤ t))
  | _ => false

/-! ### Interrupt controller (15) -/

def wordBit (t : Tab W64) (n : Nat) : Bool := (Tab.get 0 t (n / 64)).getLsbD (n % 64)

def setWordBit (t : Tab W64) (n : Nat) (v : Bool) : Tab W64 :=
  let w := Tab.get 0 t (n / 64)
  let m : W64 := 1#64 <<< (n % 64)
  Tab.set t (n / 64) (if v then w ||| m else w &&& ~~~m)

/-- Slot k of IRQ_BANKMAP: its target, when valid (R459, R464). -/
def Irq.slotTarget (q : Irq) (k : Nat) : Option Nat :=
  let v := q.bankmap.toNat / 2 ^ (8 * k) % 256
  if 128 ≤ v then some (v % 64) else none

/-- The lowest valid slot naming a target. -/
def Irq.slotOf (q : Irq) (t : Nat) : Option Nat := (List.range 8).find? (fun k => q.slotTarget k == some t)

def Irq.cfgTarget (q : Irq) (n : Nat) : Nat := (Tab.get 0 q.cfg n).toNat % 64
def Irq.isPrivate (q : Irq) (n : Nat) : Bool := (Tab.get 0 q.cfg n).getLsbD 63

/-- The bank that keeps the bits of a source, if it is kept in one (R459, R460). -/
def Irq.bank (q : Irq) (n : Nat) : Option Nat :=
  if q.mode then none else if q.isPrivate n then q.slotOf (q.cfgTarget n) else none

/-- A source that can be pending (R456). -/
def irqReal (n : Nat) : Bool := 0 < n && n < 1023

def Irq.isPending (q : Irq) (n : Nat) : Bool :=
  irqReal n && (match q.bank n with | some k => wordBit q.bankPend (1024 * k + n) | none => wordBit q.pend n)

/-- Masked after reset: the tables hold the sources that are unmasked. -/
def Irq.isMasked (q : Irq) (n : Nat) : Bool :=
  !(match q.bank n with | some k => wordBit q.bankMask (1024 * k + n) | none => wordBit q.mask n)

def Irq.setPending (q : Irq) (n : Nat) (v : Bool) : Irq :=
  if irqReal n then
    match q.bank n with
    | some k => { q with bankPend := setWordBit q.bankPend (1024 * k + n) v }
    | none => { q with pend := setWordBit q.pend n v }
  else q

/-- Whether a source is routed to a target (R459, R460). -/
def Irq.routed (q : Irq) (n t : Nat) : Bool :=
  if q.mode then (Tab.get 0 q.tmask n).getLsbD t
  else q.cfgTarget n == t && (q.slotOf t).isSome

/-- The numbers of the bits that a table of words has set. -/
def tabBits (t : Tab W64) : List Nat :=
  t.flatMap (fun (p : Nat × W64) => ((List.range 64).filter (fun b => p.2.getLsbD b)).map (fun b => 64 * p.1 + b))

/-- The sources that are pending and unmasked: one is unmasked by a bit of the shared table or of a bank's. -/
def Irq.waiting (q : Irq) : List Nat :=
  (tabBits q.mask ++ (tabBits q.bankMask).map (fun n => n % 1024)).filter (fun n => q.isPending n && !q.isMasked n)

/-- The highest-numbered source that is pending, unmasked and routed to a target (R461). -/
def Irq.best (q : Irq) (t : Nat) : Option Nat := (q.waiting.filter (fun n => q.routed n t)).max?

def Irq.target (q : Irq) (t : Nat) : Target := Tab.get {} q.targets t
def Irq.setTarget (q : Irq) (t : Nat) (x : Target) : Irq := { q with targets := Tab.set q.targets t x }

/-- The request line of a target (R461, R463). -/
def Irq.wantsLine (q : Irq) (t : Nat) : Bool := (q.best t).isSome && !(q.target t).held

/-- Level sources become pending while their level is asserted and they are not in service (R457). -/
def Irq.latch (q : Irq) (lv : Nat → Bool) : Irq :=
  levelSources.foldl (fun q n => if lv n && !(q.inService.any (fun p => p.1 == n)) then q.setPending n true else q) q

/-- One request line follows its sources. -/
def Irq.follow (q : Irq) (t : Nat) : Irq :=
  if (q.target t).line = q.wantsLine t then q else q.setTarget t { q.target t with line := q.wantsLine t }

/-- The message that a changed line of a host target sends (R458). -/
def Irq.lineMsg (q : Irq) (t : Nat) : List Out :=
  if 8 ≤ t && q.wantsLine t != (q.target t).line then [.irq t (q.wantsLine t)] else []

/-- Samples the level sources and makes every request line follow (R457, R458, R461). -/
def State.settle (s : State) : State :=
  let q := s.irq.latch s.level
  { s with irq := (List.range 64).foldl (fun q t => q.follow t) q,
           out := s.out ++ (List.range 64).flatMap (fun t => q.lineMsg t) }

/-- An event of an edge source sets its pending bit (R457). -/
def State.raise (s : State) (n : Nat) : State := { s with irq := s.irq.setPending n true }

/-! ### Units of orders and purges (R321, R386) -/

/-- Indexes of the units that hold a unit epoch: issue units 0 to 7, Pass units 8 to 15, DMA complexes 16 to 23, the
Collective engine 24, link dies 25 and 26 (the bits of PT_UNIT_LAG). -/
def unitCount : Nat := 27

/-! ### Regions (09) -/

def RegEntry.valid (e : RegEntry) : Bool := e.w0.getLsbD 63
def RegEntry.kind (e : RegEntry) : Nat := bits e.w0.toNat 59 4
def RegEntry.isShared (e : RegEntry) : Bool := e.w0.getLsbD 58
def RegEntry.rights (e : RegEntry) : Nat := bits e.w0.toNat 52 6
def RegEntry.dmask (e : RegEntry) : Nat := bits e.w0.toNat 40 8
def RegEntry.offset (e : RegEntry) : Nat := bits e.w0.toNat 0 37
def RegEntry.dual (e : RegEntry) : Bool := e.w1.getLsbD 63
def RegEntry.cur (e : RegEntry) : Nat := bits e.w1.toNat 62 1
def RegEntry.state (e : RegEntry) : Nat := bits e.w1.toNat 60 2
def RegEntry.baseGen (e : RegEntry) : Nat := bits e.w1.toNat 42 16
def RegEntry.wreg (e : RegEntry) : Nat := bits e.w1.toNat 32 10
def RegEntry.size (e : RegEntry) : Nat := bits e.w1.toNat 0 29 * 4096

/-- Replaces bits [lo + n - 1 : lo] of a word. -/
def putBits (w : W64) (lo n v : Nat) : W64 :=
  BitVec.ofNat 64 (w.toNat - bits w.toNat lo n * 2 ^ lo + v % 2 ^ n * 2 ^ lo)

def RegEntry.setState (e : RegEntry) (v : Nat) : RegEntry := { e with w1 := putBits e.w1 60 2 v }
def RegEntry.setCur (e : RegEntry) (v : Nat) : RegEntry := { e with w1 := putBits e.w1 62 1 v }
def RegEntry.setBaseGen (e : RegEntry) (v : Nat) : RegEntry := { e with w1 := putBits e.w1 42 16 v }
def RegEntry.setWreg (e : RegEntry) (v : Nat) : RegEntry := { e with w1 := putBits e.w1 32 10 v }

/-- The table words of a region (R247). -/
def regWords (kind : Nat) (shared : Bool) (rights dmask offset : Nat) (dual : Bool) (st size : Nat) : Nat × Nat :=
  (2 ^ 63 + kind * 2 ^ 59 + (if shared then 2 ^ 58 else 0) + rights % 64 * 2 ^ 52 + dmask * 2 ^ 40 + offset,
   (if dual then 2 ^ 63 else 0) + st * 2 ^ 60 + size / 4096)

def Ctx.region (c : Ctx) (i : Nat) : RegEntry := Tab.get {} c.regions i
def Ctx.setRegion (c : Ctx) (i : Nat) (e : RegEntry) : Ctx := { c with regions := Tab.set c.regions i e }

/-- The stacks of the dies in a mask, ascending (R243). -/
def stacksOf (dmask : Nat) : List Nat :=
  (List.range 8).flatMap (fun d => if bitOf dmask d then [3 * d, 3 * d + 1, 3 * d + 2] else [])

/-- Bytes that a region occupies in every stack of its set: ceil(SIZE ÷ (s × 2 MiB)) × 2 MiB (R243). -/
def footprint (dmask size : Nat) : Nat :=
  let u := (stacksOf dmask).length * 2097152
  if u = 0 then 0 else (size + u - 1) / u * 2097152

/-- The key of a byte of a stack. -/
def hbmKey (stack off : Nat) : Nat := stack * 2 ^ 37 + off

/-- Bytes of the part that a SPILL region of `size` bytes has on each of its dies (R269). -/
def spillPart (dmask size : Nat) : Nat := size / Nat.max 1 ((stacksOf dmask).length / 3)

/-- Where byte `o` of a SPILL region lies (R269): one equal part per die, each striped over that die's three stacks. -/
def RegEntry.spillKey (e : RegEntry) (o : Nat) : Nat :=
  let n := Nat.max 1 (spillPart e.dmask e.size)
  let q := o % n / 4096
  hbmKey (((stacksOf e.dmask)[3 * (o / n) + q % 3]?).getD 0) (e.offset + q / 3 * 4096 + o % n % 4096)

/-- Where region byte `o` lies, in buffer 0 or 1 (R243). -/
def RegEntry.key (e : RegEntry) (buf o : Nat) : Nat :=
  let l := stacksOf e.dmask
  let q := o / 4096
  if e.kind = 4 then e.spillKey o
  else hbmKey ((l[q % Nat.max 1 l.length]?).getD 0)
    (e.offset + buf * footprint e.dmask e.size + q / Nat.max 1 l.length * 4096 + o % 4096)

/-- Reads bytes of a region. -/
def State.regRead (s : State) (e : RegEntry) (buf o n : Nat) : List Byte :=
  (List.range n).map (fun k => s.hbm.read (e.key buf (o + k)))

/-- Writes bytes of a region at once. -/
def Mem.regWrite (e : RegEntry) (buf o : Nat) (m : Mem) : List Byte → Mem
  | [] => m
  | v :: t => Mem.regWrite e buf (o + 1) (m.write (e.key buf o) v) t

def State.regWrite (s : State) (e : RegEntry) (buf o : Nat) (l : List Byte) : State :=
  { s with hbm := Mem.regWrite e buf o s.hbm l }

/-- The 4 KiB pieces of a region's range: lowest key and length of each. -/
def RegEntry.pieces (e : RegEntry) (buf o n : Nat) : List (Nat × Nat) :=
  if n = 0 then []
  else
    (List.range ((o + n - 1) / 4096 - o / 4096 + 1)).map (fun i =>
      let lo := Nat.max o ((o / 4096 + i) * 4096)
      let hi := Nat.min (o + n) ((o / 4096 + i + 1) * 4096)
      (e.key buf lo, hi - lo))

/-- Makes a range of a region undefined (R299, R257). -/
def State.regUndef (s : State) (e : RegEntry) (buf o n : Nat) : State :=
  { s with hbm := (e.pieces buf o n).foldl (fun m p => m.undef p.1 (p.1 + p.2) s.fresh) s.hbm, fresh := s.fresh + 1 }

/-- Zeroes a range of a region. -/
def State.regZero (s : State) (e : RegEntry) (buf o n : Nat) : State :=
  { s with hbm := (e.pieces buf o n).foldl (fun m p => m.zero p.1 (p.1 + p.2)) s.hbm }

/-- The kinds of access a right allows, as bits of RIGHTS (R247). -/
inductive Right where
  | rd | wr | hostRd | hostWr | peerRd | peerWr
  deriving DecidableEq, Repr

def Right.bit : Right → Nat
  | .rd => 0 | .wr => 1 | .hostRd => 2 | .hostWr => 3 | .peerRd => 4 | .peerWr => 5

def Right.writes : Right → Bool
  | .wr | .hostWr | .peerWr => true
  | _ => false

/-- An access to region `i` of a context: VALID, inside SIZE, with the right it needs (R248). A LOADING or UNDEFINED region refuses
reads, and takes writes only from the four sources of R258 (`loader`). -/
def Ctx.allows (c : Ctx) (i o n : Nat) (r : Right) (loader : Bool) : Bool :=
  let e := c.region i
  e.valid && decide (o + n ≤ e.size) &&
    (if e.state = 0 then bitOf e.rights r.bit else r.writes && loader)

/-- A region's spare buffer is open for delivery: by ADAPTER_ATTACH of the context (R265), or by a WEIGHT_SWITCH STAGE
of the partition (R266). -/
def State.spareOpen (s : State) (c region : Nat) : Bool :=
  let x := s.ctx c
  (x.ld.adOpen && x.ld.adRegs.contains region) ||
    ((x.region region).isShared && (s.part x.pt.toNat).sw.isOpen && (s.part x.pt.toNat).sw.regs.contains region)

/-- An access of a context through its region table (R248, R258). -/
def State.allows (s : State) (c : Nat) (ref : Ref) (n : Nat) (r : Right) (loader : Bool) : Bool :=
  (s.ctx c).allows ref.region ref.off n r loader ||
    (r.writes && loader && s.spareOpen c ref.region && ((s.ctx c).region ref.region).valid &&
      decide (ref.off + n ≤ ((s.ctx c).region ref.region).size))

/-- The buffer of a region that a reader without a binding reaches: V's for TRAIN, CUR for BASE and ADAPTER
(R197, R247, R265, R266). -/
def State.bufOf (s : State) (e : RegEntry) : Nat :=
  if e.kind = 2 then (if (s.weight e.wreg).curBuf then 1 else 0)
  else if e.kind = 1 || e.kind = 5 then e.cur else 0

/-- The buffer that delivery reaches: the spare of an ADAPTER or BASE region while it is open for delivery. -/
def State.readRef (s : State) (c : Nat) (ref : Ref) (n : Nat) : List Byte :=
  let e := (s.ctx c).region ref.region
  s.regRead e (s.bufOf e) ref.off n

/-! ### Staging (10 R299) -/

/-- Stages bytes of a region for a command: the destination becomes undefined to every reader until the commit. -/
def State.stage (s : State) (id : Nat) (e : RegEntry) (buf o blk lvl : Nat) (l : List Byte) : State :=
  let ws := (List.range l.length).map (fun k =>
    ({ addr := e.key buf (o + k), val := (l[k]?).getD 0, blk := blk, lvl := lvl } : Store))
  ({ s with cmds := s.cmds.map (fun (c : Cmd) => if c.id = id then { c with writes := c.writes ++ ws } else c) }).regUndef
    e buf o l.length

/-- The buffer that a write through a region index reaches: the spare one while it is open for delivery (R265, R266). -/
def State.writeBuf (s : State) (c region : Nat) : Nat :=
  let e := (s.ctx c).region region
  if s.spareOpen c region then 1 - e.cur else s.bufOf e

def State.stageRef (s : State) (id : Nat) (c : Nat) (ref : Ref) (l : List Byte) : State :=
  s.stage id ((s.ctx c).region ref.region) (s.writeBuf c ref.region) ref.off 0 2 l

/-- The staged bytes of a command become visible (R299). -/
def Mem.land (m : Mem) (ws : List Store) : Mem := ws.foldl (fun m w => m.write w.addr w.val) m

/-! ### Census (03) -/

/-- The key of a census counter. -/
def censusKey (ctx cls fmt n : Nat) : Nat := ((ctx * 64 + cls) * 4 + fmt) * 5 + n

/-- Census counts travel with a command: class, format and count index give the key (R86). -/
def tallyKeys (cls : Nat) (f : Fmt) (t : Tally) (acc : Tab Nat) : Tab Nat :=
  (List.range 5).foldl (fun a n =>
    if t.get n = 0 then a else Tab.upd 0 a ((cls * 4 + f.censusIx) * 5 + n) (· + t.get n)) acc

def Cmd.tally (c : Cmd) (cls : Nat) (f : Fmt) (t : Tally) : Cmd := { c with census := tallyKeys cls f t c.census }

/-- The census counts of a command land (R86). -/
def landCensus (ctx : Nat) (t : Tab Nat) (cs : Tab Cnt) : Tab Cnt :=
  t.foldl (fun a p => Tab.upd Cnt.zero a (ctx * 1280 + p.1) (·.add p.2)) cs

def clearCensusCtx (ctx : Nat) (cs : Tab Cnt) : Tab Cnt := cs.filter (fun p => p.1 / 1280 != ctx)

/-! ### Partitions -/

/-- The dies that hold a granule of a partition (R312). -/
def granuleDies (g : BitVec 16) : Nat :=
  (List.range 8).foldl (fun m d => if g.getLsbD (2 * d) || g.getLsbD (2 * d + 1) then m + 2 ^ d else m) 0

def Layout.present (l : Layout) : Bool := l.granules != 0
def Layout.dies (l : Layout) : Nat := granuleDies l.granules
def Layout.granuleCount (l : Layout) : Nat := ((List.range 16).filter (fun g => l.granules.getLsbD g)).length

/-- A block that is issued work: not retired by the map, not lost for the session, not derated (R16, R21, R405). -/
def Block.serving (b : Block) : Bool := !b.retired && !b.lostSession && !b.derated

/-- The usable blocks of a granule set in ascending order (R20); blocks retired for the session are left out when a
partition is configured anew (R21). -/
def State.numberBlocks (s : State) (g : BitVec 16) : List Nat :=
  (List.range (Config.dieCount * Config.blocksPerDie)).filter (fun b =>
    g.getLsbD (granuleOf b) && (s.block b).serving)

/-- The block at a partition ordinal. -/
def Part.blockAt (p : Part) (o : Nat) : Option Nat := p.ordinals[o]?

def State.ctxPart (s : State) (c : Nat) : Nat := (s.ctx c).pt.toNat

/-- The region of every context of a partition that shares one entry, updated together (R247, R260). -/
def State.updShared (s : State) (p i : Nat) (f : RegEntry → RegEntry) : State :=
  { s with ctxs := s.ctxs.map (fun x =>
      if x.2.state = 1 && x.2.pt.toNat == p && (x.2.region i).valid && (x.2.region i).isShared then
        (x.1, x.2.setRegion i (f (x.2.region i)))
      else x) }

/-! ### Frequency (R28) -/

/-- The clock of a die in MHz. -/
def stepMHz (st : Nat) : Nat := 700 - 35 * Nat.min 8 st
def State.dieMHz (s : State) (d : Nat) : Nat := stepMHz (s.die d).step

/-- The clock of the slowest die among blocks (R25). -/
def State.slowest (s : State) (bs : List Nat) : Nat :=
  bs.foldl (fun m b => Nat.min m (s.dieMHz (dieOf b))) 700

/-- The budget of a shape at a clock, in cycles (02 R42 table). -/
def budgetOf (period saddle mhz : Nat) : Nat := (period - saddle) * mhz

end Sys2Proof.Machine
end

