-- ==== Sys2Proof/Machine/Operands.lean ====
section
/-! DEFINITION. Tile instructions and operand descriptors: their encodings, their field rules, and what a program must
obey (05 R132 to R135, 06 R160 to R183). A check answers nothing when it passes, else the status, the DETAIL kind and
the DETAIL index of the refusal (R308, R309). -/

namespace Sys2Proof.Machine

/-- Statuses of R308 that checks answer with. -/
def stMalformed : Nat := 0x01
def stGenStale : Nat := 0x02
def stModeMismatch : Nat := 0x03
def stNotPermitted : Nat := 0x04
def stRegionFault : Nat := 0x05
def stLoadState : Nat := 0x06
def stPurged : Nat := 0x07
def stTimeout : Nat := 0x08
def stChecksum : Nat := 0x09
def stEngineLost : Nat := 0x0A
def stPeerEpoch : Nat := 0x0B
def stLayoutBusy : Nat := 0x0C
def stFenced : Nat := 0x0D
def stGroupRange : Nat := 0x0E
def stResetBusy : Nat := 0x0F
def stBudget : Nat := 0x10
def stDigest : Nat := 0x11
def stSignature : Nat := 0x12
def stConflict : Nat := 0x13
def stNoBlocks : Nat := 0x14
def stNoBlockStore : Nat := 0x15
def stNoCellStore : Nat := 0x16
def stNoAcc : Nat := 0x17
def stNoStreams : Nat := 0x18
def stNoExperts : Nat := 0x19
def stNoVersions : Nat := 0x1A
def stNoHbm : Nat := 0x1B
def stNoStash : Nat := 0x1C
def stNoSpill : Nat := 0x1D
def stVersionStale : Nat := 0x20
def stVersionClosed : Nat := 0x21
def stVersionCount : Nat := 0x22
def stVersionBusy : Nat := 0x23
def stNormFailed : Nat := 0x24
def stAdmission : Nat := 0x28
def stDrain : Nat := 0x29
def stPassState : Nat := 0x30
def stSlotLost : Nat := 0x31
def stWaitTimeout : Nat := 0x38
def stStreamState : Nat := 0x39
def stStageRefused : Nat := 0x3A

/-- A failed check: status, DETAIL kind, DETAIL index (R308, R309); none when it passes. -/
abbrev Fail := Option (Nat × Nat × Nat)

/-- A check. -/
def chk (ok : Bool) (st kind ix : Nat) : Fail := if ok then none else some (st, kind, ix)

/-- The first failure of two checks. -/
def Fail.andThen (a : Fail) (b : Unit → Fail) : Fail := match a with | none => b () | some f => some f

/-- The first failure of a list of checks. -/
def firstFail : List Fail → Fail
  | [] => none
  | none :: t => firstFail t
  | some f :: _ => some f

/-- The first failure over numbered elements. -/
def failOver {α : Type} (f : Nat → α → Fail) : Nat → List α → Fail
  | _, [] => none
  | i, a :: t => match f i a with | none => failOver f (i + 1) t | some r => some r

/-! ### Tile instructions -/

/-- A decoded tile instruction (R169). -/
inductive TI where
  | mm (f : MmF)
  | vec (op : Nat) (v : VecF)
  | mov (kind : Nat) (m : MovF)
  | sync (sop a8 : Nat) (imm : BitVec 32)
  | gate (g : GateF)
  | ctl (cop dst sa sb : Nat) (imm : BitVec 32) (body : Nat)
  deriving DecidableEq, Repr

/-- The fields of an MM word (R170). -/
def mmOfWord (w : Nat) : MmF :=
  { fmt := bits w 118 2, aturn := bitOf w 117, bturn := bitOf w 116, sparse := bits w 114 2, saxis := bitOf w 113,
    tskip := bitOf w 112, acc := bits w 110 2, hold := bitOf w 109, fslot := bits w 105 4, finit := bitOf w 104,
    rnd := bits w 102 2, cks := bitOf w 101, cls := bits w 95 6, nm1 := bits w 85 10, asrc := bits w 83 2,
    bsrc := bits w 81 2, aline := bits w 69 12, atstr := bits w 61 8, aix := bits w 57 4, acs := bits w 48 9,
    bline := bits w 36 12, btstr := bits w 28 8, bix := bits w 24 4, bcs := bits w 15 9 }

/-- The fields of a VEC word (R172). -/
def vecOfWord (w : Nat) : VecF :=
  { mod := bits w 109 3, rnd := bits w 107 2, cls := bits w 101 6, dd := bits w 93 8, dix := bits w 89 4,
    sa := bits w 81 8, saix := bits w 77 4, sb := bits w 69 8, sbix := bits w 65 4, sc := bits w 57 8,
    scix := bits w 53 4 }

/-- The fields of a MOV word (R174). -/
def movOfWord (w : Nat) : MovF :=
  { tkind := bits w 113 3, bsaddr := bits w 93 20, bix := bits w 89 4, count := bits w 75 14, aux := bits w 69 6,
    xsh := bits w 64 5, xix := bits w 60 4, off := bits w 16 42 }

/-- The fields of a GATE word (R181). -/
def gateOfWord (w : Nat) : GateF :=
  { km1 := bits w 117 3, merge := bitOf w 116, norm := bitOf w 115, rnd := bits w 113 2, cls := bits w 107 6,
    expertBase := bits w 91 16, sd := bits w 83 8, six := bits w 79 4, outp := bits w 59 20, oix := bits w 55 4 }

/-- Decodes an instruction word; reserved opcodes and reserved bits give nothing (R169 to R182). -/
def decodeTI (w : Nat) : Option TI :=
  match bits w 120 8 with
  | 0x10 => if bits w 0 15 = 0 then some (.mm (mmOfWord w)) else none
  | 0x20 => if bits w 0 53 = 0 then some (.vec (bits w 112 8) (vecOfWord w)) else none
  | 0x30 => if bits w 0 16 = 0 ∧ bits w 58 2 = 0 then some (.mov (bits w 116 4) (movOfWord w)) else none
  | 0x40 =>
    if bits w 0 76 = 0 then some (.sync (bits w 116 4) (bits w 108 8) (BitVec.ofNat 32 (bits w 76 32))) else none
  | 0x48 => if bits w 0 55 = 0 then some (.gate (gateOfWord w)) else none
  | 0x50 =>
    if bits w 0 60 = 0 then
      some (.ctl (bits w 116 4) (bits w 112 4) (bits w 108 4) (bits w 104 4) (BitVec.ofNat 32 (bits w 72 32))
        (bits w 60 12))
    else none
  | _ => none

/-! ### Operand descriptors (R132) -/

inductive Space where
  | bs | tq | fs | const
  deriving DecidableEq, Repr

/-- An operand descriptor. -/
structure Desc where
  space : Space := .bs
  fmt : Fmt := .w40
  tile : Bool := false
  rows : Nat := 1
  cols : Nat := 1
  rs : Nat := 0
  cs : Nat := 0
  base : Nat := 0
  value : W40 := 0
  deriving DecidableEq, Repr

/-- Decodes a descriptor; a broken rule of R132 or R134 gives nothing. DESIGN CHOICE (log 65): bits [19:4] of BASE, to which R132 gives no meaning
under TQ and FS, must be zero. -/
def decodeDesc (w : Nat) : Option Desc :=
  if bits w 62 2 = 3 then
    if bits w 40 22 = 0 then some { space := .const, value := BitVec.ofNat 40 (bits w 0 40) } else none
  else
    let d : Desc :=
      { space := if bits w 62 2 = 0 then .bs else if bits w 62 2 = 1 then .tq else .fs, fmt := Fmt.ofCode (bits w 60 2),
        tile := bitOf w 59, rows := bits w 53 6 + 1, cols := bits w 47 6 + 1, rs := bits w 34 13, cs := bits w 26 8,
        base := bits w 0 20 }
    let narrow := d.fmt == .q4 || d.fmt == .q8
    let ok := bits w 20 6 == 0 &&
      (if d.tile then
        d.space == .bs && d.rows == 64 && d.cols == 64 && d.fmt != .w40 &&
          ((d.rs == 64 && d.cs == 1) || (d.rs == 1 && d.cs == 64))
       else !narrow) &&
      (match d.space with
       | .tq => (d.fmt == .w40 || d.fmt == .h16) && d.base / 16 == 0
       | .fs => d.fmt == .w40 && d.base / 16 == 0
       | _ => true)
    if ok then some d else none

/-! ### Field rules -/

/-- Operation codes of VEC (R144, R150). -/
def vecOps : List Nat :=
  [0x01, 0x02, 0x03, 0x04, 0x05, 0x06, 0x07, 0x08, 0x09, 0x0A, 0x0B, 0x10, 0x11, 0x12, 0x13, 0x14, 0x18, 0x19, 0x1A,
   0x1B, 0x20, 0x21, 0x22, 0x23, 0x24, 0x25, 0x26, 0x28, 0x29, 0x2A, 0x30, 0x31, 0x38]

/-- How many sources a VEC uses (R173). -/
def vecSources (op : Nat) : Nat :=
  if op = 0x30 ∨ op = 0x31 then 0
  else if op = 0x05 ∨ op = 0x09 then 3
  else if [0x02, 0x03, 0x04, 0x06, 0x07, 0x08, 0x20, 0x21, 0x22, 0x23, 0x24, 0x25, 0x26].contains op then 2
  else 1

/-- A reduction along an axis (R146). -/
def vecReduces (op : Nat) : Bool := op == 0x28 || op == 0x29 || op == 0x2A

/-- Whether an operand's groups run along k as it is read (R106): operand A, turned, SAXIS. -/
def alignedK (isA turn saxis : Bool) : Bool := if isA then turn == saxis else turn != saxis

/-- Units of a cell-store share (R96): format, compressed here, aligned. -/
def shareUnits (fmt : Nat) (compressed aligned : Bool) : Nat :=
  if compressed && aligned then (if fmt = 0 then 4 else 6) else if fmt = 0 then 5 else if fmt = 1 then 9 else 16

/-- The tile kind of an operand (R98, R174): 0 Q8, 1 Q4, 2 H16, 3 Q8 2:4, 4 Q4 2:4, 5 W40. -/
def kindOf (fmt : Nat) (compressed : Bool) : Nat :=
  if fmt = 0 then (if compressed then 4 else 1) else if fmt = 1 then (if compressed then 3 else 0) else 2

/-- Lines of a tile in the block store (R98). -/
def tileLines : Nat → Nat
  | 0 => 17 | 1 => 9 | 2 => 32 | 3 => 11 | 4 => 7 | _ => 80

/-- Bytes of a tile in device memory (R69, R105); equal to its bytes in the block store. -/
def tileBytes (k : Nat) : Nat := tileLines k * 256

def mmN (f : MmF) : Nat := f.nm1 + 1
def mmKindA (f : MmF) : Nat := kindOf f.fmt (f.sparse == 1)
def mmKindB (f : MmF) : Nat := kindOf f.fmt (f.sparse == 2)
def mmUnitsA (f : MmF) : Nat := shareUnits f.fmt (f.sparse == 1) (alignedK true f.aturn f.saxis)
def mmUnitsB (f : MmF) : Nat := shareUnits f.fmt (f.sparse == 2) (alignedK false f.bturn f.saxis)

/-- The field rules of an MM (R171) but for the two demands that have statuses of their own. -/
def mmOk (f : MmF) : Bool :=
  f.fmt != 3 && f.sparse != 3 && f.acc != 3 && f.rnd != 3 && f.asrc != 3 && f.bsrc != 3 &&
    (f.fmt != 2 || f.sparse == 0) && (f.sparse != 0 || !f.saxis) &&
    (f.acc == 2 || (f.fslot == 0 && !f.finit)) && (f.acc != 2 || !f.hold) &&
    (f.asrc != 0 || f.acs == 0) && (f.bsrc != 0 || f.bcs == 0) &&
    (f.asrc != 2 || (f.aline == 0 && f.atstr == 0)) && (f.bsrc != 2 || (f.bline == 0 && f.btstr == 0)) &&
    (!f.tskip || f.asrc == 2 || f.aix != 0 || f.aline != 0) && (!f.tskip || f.bsrc == 2 || f.bix != 0 || f.bline != 0)

/-- Shares past unit 511 under index field I0 (R262 order 8). -/
def mmCells (f : MmF) : Bool :=
  (f.asrc == 0 || f.aix != 0 || decide (f.acs + mmN f * mmUnitsA f ≤ 512)) &&
    (f.bsrc == 0 || f.bix != 0 || decide (f.bcs + mmN f * mmUnitsB f ≤ 512))

/-- An index register may be named only with a BS descriptor (R164). -/
def indexOk (d : Desc) (ix : Nat) : Bool := ix == 0 || d.space == .bs

def sameShape (a b : Desc) : Bool := a.space == .const || (a.rows == b.rows && a.cols == b.cols)

/-- The shapes of a VEC agree as its operation states (R135, R146, R148). -/
def shapesOk (op : Nat) (mod0 : Bool) (d : Desc) (src : List Desc) : Bool :=
  if op = 0x38 then d.space == .bs
  else if vecReduces op then
    (if mod0 then d.rows == 1 else d.cols == 1) &&
      src.all (fun a => a.space == .const || (if mod0 then d.cols == a.cols else d.rows == a.rows))
  else src.all (fun a => sameShape a d)

/-- The fold slots that a VEC reads: those of its sources, and its destination's where it accumulates into it (R135, R146). -/
def vecSlots (op mod : Nat) (d : Desc) (src : List Desc) : List Nat :=
  (((if vecReduces op && bitOf mod 1 then [d] else []) ++ src).filter (fun a => a.space == .fs)).map (fun a => a.base % 16)

/-- The field rules of a VEC (R135, R144 to R148, R172, R173). -/
def vecOk (ds : List Nat) (op : Nat) (v : VecF) : Bool :=
  let n := vecSources op
  let get (i : Nat) : Option Desc := (ds[i]?).bind decodeDesc
  let names := [(v.sa, v.saix), (v.sb, v.sbix), (v.sc, v.scix)]
  let src := (names.take n).map (fun p => get p.1)
  vecOps.contains op && v.rnd != 3 && (names.drop n).all (fun p => p.1 == 0 && p.2 == 0) &&
    (match get v.dd with
     | none => false
     | some d =>
       d.space != .const && src.all (·.isSome) && indexOk d v.dix &&
         (names.take n).all (fun p => match get p.1 with | some a => indexOk a p.2 | none => false) &&
         decide ((vecSlots op v.mod d (src.filterMap id)).eraseDups.length ≤ 1) &&
         shapesOk op (bitOf v.mod 0) d (src.filterMap id) &&
         (if op = 0x08 then decide (v.mod ≤ 5)
          else if vecReduces op then decide (v.mod ≤ 3)
          else if op = 0x26 then decide (v.mod ≤ 1) else v.mod == 0) &&
         (op != 0x2A || d.fmt == .w40))

/-- The field rules of a MOV (R175); an area of RECV lies inside the landing lines. -/
def movOk (res landing kind : Nat) (m : MovF) : Bool :=
  decide (kind ≤ 7) && (kind == 2 || kind == 3 || m.tkind == 0) && decide (m.tkind ≤ 5) &&
    (decide (kind ≤ 3) || (m.xsh == 0 && m.xix == 0)) &&
    (decide (4 < kind) || (if kind = 2 ∨ kind = 3 then m.bsaddr % 256 == 0 else m.bsaddr % 64 == 0)) &&
    (decide (1 < kind) || m.off % 64 == 0) &&
    (match kind with
     | 4 => m.off == 0
     | 5 => m.off == 0 &&
        (m.bix != 0 || (decide (res * 256 ≤ m.bsaddr) && decide (m.bsaddr + (m.count + 1) * 64 ≤ (res + landing) * 256)))
     | 6 => m.off / 2 ^ 28 == 0
     | 7 => m.off / 2 ^ 28 == 0 && m.off % 2 ^ 20 == 0
     | _ => true)

/-- The field rules of a SYNC (R177). -/
def syncOk (sop a8 : Nat) (imm : BitVec 32) : Bool :=
  match sop with
  | 0 | 1 => decide (a8 ≤ 7) && imm == 0
  | 2 => decide (a8 ≤ 63) && imm == 0
  | 3 => a8 == 0 && imm == 0
  | 4 => true
  | 5 => decide (a8 ≤ 63) && imm == 0
  | _ => false

/-- The field rules of a GATE (R181). -/
def gateOk (ds : List Nat) (g : GateF) : Bool :=
  g.rnd != 3 && g.outp % 64 == 0 &&
    (match (ds[g.sd]?).bind decodeDesc with
     | some d => d.space != .const && indexOk d g.six
     | none => false)

/-- The field rules of a CTL (R163, R182, R183). -/
def ctlOk (cop dst sa sb : Nat) (imm : BitVec 32) (body : Nat) : Bool :=
  let wr := decide (5 ≤ dst)
  let pos := decide (0 < imm.toInt)
  match cop with
  | 0 => dst == 0 && sa == 0 && sb == 0 && imm == 0 && body == 0
  | 1 => dst == 0 && sa == 0 && sb == 0 && body == 0 && pos
  | 2 => wr && sb == 0 && body != 0
  | 3 => wr && sa == 0 && sb == 0 && body == 0
  | 4 | 5 => wr && sb == 0 && body == 0
  | 6 => wr && body == 0
  | 7 | 8 => wr && sb == 0 && body == 0 && pos
  | _ => false

/-- Whether a word is a well-formed instruction in its place: BUDGET first and only first, END last and only last
(R161). -/
def instrOk (p : Program) (count i : Nat) (w : Nat) : Bool :=
  match decodeTI w with
  | none => false
  | some t =>
    (match t with
     | .ctl 1 _ _ _ _ _ => i == 0
     | .ctl 0 _ _ _ _ _ => i + 1 == count
     | _ => i != 0 && i + 1 != count) &&
    (match t with
     | .mm f => mmOk f
     | .vec op v => vecOk p.descs op v
     | .mov k m => movOk p.resLines p.landLines k m
     | .sync o a imm => syncOk o a imm
     | .gate g => gateOk p.descs g
     | .ctl c d a b imm body => ctlOk c d a b imm body)

/-- The end of the loop that an instruction at a position opens. -/
def loopEnd (i w : Nat) : Option Nat :=
  match decodeTI w with
  | some (.ctl 2 _ _ _ _ body) => some (i + body)
  | _ => none

/-- Loops nest properly, at most four deep, and no body runs past END (R161, R183): the ends of the open loops, the new one's. -/
def nestOk (count : Nat) (ends : List Nat) : Option Nat → Bool
  | none => true
  | some e => decide (e < count) && ends.all (fun x => decide (e ≤ x)) && decide (ends.length < 4)

/-- The first instruction of program `k` that breaks a rule of R161: position, ends of the open loops, words. -/
def codeFail (k : Nat) (p : Program) : Nat → List Nat → List Nat → Fail
  | _, _, [] => none
  | i, ends, w :: t =>
    let inside := ends.filter (fun e => decide (i ≤ e))
    let e := loopEnd i w
    if instrOk p p.instrs.length i w && nestOk p.instrs.length inside e then codeFail k p (i + 1) (e.toList ++ inside) t
    else some (stMalformed, 3, k * 4096 + i)

/-- The reserved bits of a descriptor (R8, R132). -/
def descReserved (w : Nat) : Bool := if bits w 62 2 = 3 then bits w 40 22 == 0 else bits w 20 6 == 0

/-- A fold slot of an MM or a VEC beyond 11 − p (R115, R161). -/
def slotsOk (p : Program) (w : Nat) : Bool :=
  let ok (d : Nat) (used : Bool) : Bool :=
    !used || (match (p.descs[d]?).bind decodeDesc with
      | some x => x.space != .fs || decide (x.base % 16 + p.persist ≤ 11)
      | none => true)
  match decodeTI w with
  | some (.mm f) => f.acc != 2 || decide (f.fslot + p.persist ≤ 11)
  | some (.vec op v) =>
    let n := vecSources op
    ok v.dd true && ok v.sa (0 < n) && ok v.sb (1 < n) && ok v.sc (2 < n)
  | _ => true

def cellsOk (w : Nat) : Bool :=
  match decodeTI w with
  | some (.mm f) => mmCells f
  | _ => true

/-- The declared budget (R190): the immediate of instruction 0. -/
def Program.budget (p : Program) : Nat :=
  match (p.instrs[0]?).bind decodeTI with
  | some (.ctl 1 _ _ _ imm _) => imm.toNat
  | _ => 0

/-- The program that an image holds (R160): 32 bytes of header, instructions, descriptors. -/
def Program.ofImage (l : List Byte) : Program :=
  let n := fld l 0 2
  { work := fld l 4 1, persist := fld l 5 1, resLines := fld l 6 2, landLines := fld l 8 2, shadowLines := fld l 10 2,
    csRes := fld l 12 2, channels := fld l 14 1, chanLat := fld l 16 4,
    instrs := (List.range n).map (fun i => fld l (32 + 16 * i) 16),
    descs := (List.range (fld l 2 2)).map (fun i => fld l (32 + 16 * n + 8 * i) 8) }

/-- The header of an image and its length (R160, R161, R255). -/
def imageOk (l : List Byte) : Bool :=
  decide (32 ≤ l.length) && decide (2 ≤ fld l 0 2) && decide (fld l 0 2 ≤ 4096) && decide (fld l 2 2 ≤ 256) &&
    decide (fld l 4 1 ≤ 6) && decide (fld l 5 1 ≤ 6) && decide (fld l 6 2 ≤ 4096) && decide (fld l 8 2 ≤ 4096) &&
    decide (fld l 10 2 ≤ 4096) && decide (fld l 12 2 ≤ 512) && decide (fld l 14 1 ≤ 64) && fld l 15 1 == 0 &&
    fld l 20 12 == 0 && l.length == 32 + 16 * fld l 0 2 + 8 * fld l 2 2

/-- The MALFORMED checks of a program (R161), program number `k`. -/
def programFail (k : Nat) (l : List Byte) : Fail :=
  let p := Program.ofImage l
  if !imageOk l then some (stMalformed, 2, k)
  else (codeFail k p 0 [] p.instrs).andThen (fun _ => chk (p.descs.all descReserved) stMalformed 2 k)

end Sys2Proof.Machine
end

