-- ==== Sys2Proof/Machine/Load.lean ====
section
/-! DEFINITION. Loadsets (09 R250 to R271): the manifest and its checks in the order of R262, placement in HBM, what
LOADSET_LOAD, LOADSET_UNLOAD, ADAPTER_ATTACH and WEIGHT_SWITCH STAGE do at their acceptance and commits. -/

namespace Sys2Proof.Machine

/-- Bytes of a context's home region (R246). -/
def State.home (s : State) (c off n : Nat) : List Byte := s.regRead ((s.ctx c).region 0) 0 off n

/-- The size of the home region. -/
def State.homeSize (s : State) (c : Nat) : Nat := ((s.ctx c).region 0).size

/-- Rounds up to a multiple. -/
def roundUp (n k : Nat) : Nat := (n + k - 1) / k * k

/-! ### Reading a manifest -/

/-- The header of a manifest (R251). -/
structure MHdr where
  kind : Nat
  signed : Bool
  size : Nat
  regions : Nat
  programs : Nat
  routes : Nat
  slots : Nat
  segs : Nat
  resOff : Nat
  regOff : Nat
  progOff : Nat
  routeOff : Nat
  slotOff : Nat
  segOff : Nat
  sigOff : Nat
  deriving DecidableEq, Repr

def mhdr (m : List Byte) : MHdr :=
  { kind := fld m 10 1, signed := bitOf (fld m 11 1) 0, size := fld m 12 4, regions := fld m 16 2, programs := fld m 18 2,
    routes := fld m 20 1, slots := fld m 21 1, segs := fld m 24 4, resOff := fld m 32 4, regOff := fld m 36 4,
    progOff := fld m 40 4, routeOff := fld m 44 4, slotOff := fld m 48 4, segOff := fld m 52 4, sigOff := fld m 56 4 }

/-- The header rules of R251 for a manifest of the kind its command takes. -/
def mhdrOk (want : Nat) (m : List Byte) : Bool :=
  let h := mhdr m
  let sec (off n sz : Nat) : Bool := off % 64 == 0 && (n == 0 || (decide (192 ≤ off) && decide (off + n * sz ≤ h.size)))
  fld m 0 8 == 0x534C5249544C4F48 && fld m 8 2 == 1 && h.kind == want && fld m 11 1 / 2 == 0 && decide (192 ≤ h.size) &&
    decide (h.regions ≤ 63) && decide (h.programs ≤ 256) && decide (h.routes ≤ 64) && decide (h.slots ≤ 64) &&
    fld m 22 2 == 0 && fld m 28 4 == 0 && fld m 60 4 == 0 &&
    (if want = 0 then h.resOff != 0 && sec h.resOff 1 64
     else h.resOff == 0 && h.progOff == 0 && h.routeOff == 0 && h.slotOff == 0 && h.programs == 0 && h.routes == 0 &&
       h.slots == 0) &&
    sec h.regOff h.regions 32 && sec h.progOff h.programs 16 && sec h.routeOff h.routes 64 && sec h.slotOff h.slots 64 &&
    sec h.segOff h.segs 96 &&
    (if h.signed then h.sigOff % 64 == 0 && decide (192 ≤ h.sigOff) && h.sigOff + 3328 == h.size &&
        allZero (sub8 m (h.sigOff + 3317) 11)
     else h.sigOff == 0)

/-- Region descriptor `i` (R254). -/
def descAt (m : List Byte) (i : Nat) : RegionDesc :=
  let o := (mhdr m).regOff + 32 * i
  { index := fld m o 1, kind := fld m (o + 1) 1, shared := fld m (o + 2) 1 == 1, die := fld m (o + 3) 1 == 1,
    dieOrd := fld m (o + 4) 1, rights := fld m (o + 5) 1, dual := bitOf (fld m (o + 6) 1) 0,
    fillZero := bitOf (fld m (o + 6) 1) 1, size := fld m (o + 8) 8, mask := BitVec.ofNat 64 (fld m (o + 16) 8),
    fixed := if bitOf (fld m (o + 24) 8) 63 then some (bits (fld m (o + 24) 8) 0 37) else none }

def descsOf (m : List Byte) : List RegionDesc := (List.range (mhdr m).regions).map (descAt m)

/-- The rules of R249 and R254 for descriptor `i`. -/
def descOk (m : List Byte) (i : Nat) : Bool :=
  let o := (mhdr m).regOff + 32 * i
  let d := descAt m i
  let fx := fld m (o + 24) 8
  decide (1 ≤ d.index) && decide (d.index ≤ 63) && decide (d.kind ≤ 5) && decide (fld m (o + 2) 1 ≤ 1) &&
    decide (fld m (o + 3) 1 ≤ 1) && (d.die || d.dieOrd == 0) && decide (d.rights < 64) &&
    decide (fld m (o + 6) 1 < 4) && fld m (o + 7) 1 == 0 &&
    d.size % 4096 == 0 && (d.kind != 3 || d.size % 262144 == 0) && decide (4096 ≤ d.size) &&
    decide (d.size ≤ (2 ^ 29 - 1) * 4096) && (d.kind == 3 || d.mask == 0) &&
    bits fx 37 26 == 0 && fx % 2 ^ 37 % 2097152 == 0 &&
    (!d.dual || d.kind == 1 || d.kind == 2 || d.kind == 5) &&
    (match d.kind with
     | 1 | 2 => d.shared && !bitOf d.rights 1 && !bitOf d.rights 3 && !bitOf d.rights 5
     | 4 => !d.shared && d.rights == 0
     | 5 => !d.shared && !bitOf d.rights 1 && !bitOf d.rights 3 && !bitOf d.rights 5
     | _ => true)

/-- Segment `i` (R256). -/
def segAt (m : List Byte) (i : Nat) : Segment :=
  let o := (mhdr m).segOff + 96 * i
  { region := fld m o 1, off := fld m (o + 8) 8, len := fld m (o + 16) 8, digest := sub8 m (o + 24) 64 }

def segsOf (m : List Byte) : List Segment := (List.range (mhdr m).segs).map (segAt m)

/-- The rules of R256 for segment `i`. -/
def segOk (m : List Byte) (i : Nat) : Bool :=
  let o := (mhdr m).segOff + 96 * i
  let g := segAt m i
  fld m (o + 1) 7 == 0 && fld m (o + 88) 8 == 0 && g.off % 4096 == 0 && g.len % 64 == 0 && decide (g.len ≤ 2 ^ 32) &&
    (descsOf m).any (fun d => d.index == g.region && decide (g.off + g.len ≤ d.size)) &&
    ((segsOf m).take i).all (fun e => e.region != g.region || decide (e.off + e.len ≤ g.off) || decide (g.off + g.len ≤ e.off))

/-- A program's directory entry and image (R255). -/
def progNo (m : List Byte) (i : Nat) : Nat := fld m ((mhdr m).progOff + 16 * i + 8) 2
def progImage (m : List Byte) (i : Nat) : List Byte :=
  let o := (mhdr m).progOff + 16 * i
  sub8 m (fld m o 4) (fld m (o + 4) 4)
def progDirOk (m : List Byte) (i : Nat) : Bool :=
  let o := (mhdr m).progOff + 16 * i
  fld m (o + 10) 6 == 0 && decide (progNo m i ≤ 255) && decide (fld m o 4 + fld m (o + 4) 4 ≤ (mhdr m).size) &&
    (List.range i).all (fun j => progNo m j != progNo m i)
def programsOf (m : List Byte) : List (Nat × Program) :=
  (List.range (mhdr m).programs).map (fun i => (progNo m i, Program.ofImage (progImage m i)))

/-- All programs of a loadset declare the same resident lines and cell-store units (R161): program `i` those of the first. -/
def sameResident (m : List Byte) (i : Nat) : Bool :=
  let p := Program.ofImage (progImage m i)
  let q := Program.ofImage (progImage m 0)
  p.resLines == q.resLines && p.csRes == q.csRes

/-- The resource declaration (R255). -/
structure Res where
  blocksMin : Nat
  streams : Nat
  window : Option (Nat × Nat)
  spill : Option Nat
  deriving DecidableEq, Repr

def resOf (m : List Byte) : Res :=
  let o := (mhdr m).resOff
  { blocksMin := fld m o 2, streams := fld m (o + 2) 2,
    window := if bitOf (fld m (o + 8) 1) 0 then some (fld m (o + 4) 2, fld m (o + 6) 2) else none,
    spill := if fld m (o + 9) 1 = 255 then none else some (fld m (o + 9) 1) }

def resOk (m : List Byte) : Bool :=
  let o := (mhdr m).resOff
  let r := resOf m
  decide (1 ≤ r.blocksMin) && decide (r.blocksMin ≤ 5120) && decide (1 ≤ r.streams) && decide (r.streams ≤ 8192) &&
    decide (fld m (o + 8) 1 ≤ 1) && decide (fld m (o + 4) 2 + fld m (o + 6) 2 ≤ 65535) &&
    (r.window.isSome || (fld m (o + 4) 2 == 0 && fld m (o + 6) 2 == 0)) &&
    allZero (sub8 m (o + 10) 54)

/-- SPILL_REGION, unless 0xFF, names a SPILL region that the manifest declares (R255). -/
def spillDeclared (m : List Byte) : Bool :=
  match (resOf m).spill with
  | none => true
  | some i => (descsOf m).any (fun d => d.index == i && d.kind == 4)

/-- A region reference of a table or slot: region index, 48-bit offset. -/
def refAt (m : List Byte) (o : Nat) : Ref := { region := fld m o 1, off := fld m (o + 1) 6 }

/-- Routing table `i` (R212). -/
def routeAt (m : List Byte) (i : Nat) : RouteTab :=
  let o := (mhdr m).routeOff + 64 * i
  { xbase := fld m o 2, xcountM1 := fld m (o + 2) 2, kUse := fld m (o + 4) 1, policy := fld m (o + 5) 1 % 4,
    backward := bitOf (fld m (o + 5) 1) 7, rowFmt := fld m (o + 6) 1, rowUnits := fld m (o + 7) 1, maxTok := fld m (o + 8) 4,
    grecBase := fld m (o + 12) 3, retSignal := fld m (o + 15) 1, tokPerBlock := fld m (o + 16) 4,
    holdRows := fld m (o + 20) 2, nbuf := fld m (o + 22) 1, route := refAt m (o + 24), hold := refAt m (o + 32),
    save := refAt m (o + 40), replyLat := fld m (o + 48) 4 }

def rowBytes (units : Nat) : Nat := (units + 1) * 64

/-- The rules of R212; `size` is the size of a region that the context declares. -/
def routeOk (size : Nat → Nat) (m : List Byte) (i : Nat) : Bool :=
  let o := (mhdr m).routeOff + 64 * i
  let t := routeAt m i
  let rb := rowBytes t.rowUnits
  let fits (r : Ref) (n : Nat) : Bool := decide (r.region ≤ 63) && decide (r.off + n ≤ size r.region)
  let unused (r : Ref) : Bool := r.region == 0 && r.off == 0
  decide (t.xbase + t.xcountM1 ≤ 65535) && decide (1 ≤ t.kUse) && decide (t.kUse ≤ 8) && t.policy != 3 &&
    fld m (o + 5) 1 / 4 % 32 == 0 && decide (t.rowFmt ≤ 2) && decide (1 ≤ t.maxTok) && decide (t.maxTok ≤ 1048576) &&
    decide (t.grecBase < 2 ^ 20) && t.grecBase % 64 == 0 && decide (t.tokPerBlock ≤ t.maxTok) &&
    decide (2 ≤ t.nbuf) && decide (t.nbuf ≤ 8) && fld m (o + 23) 1 == 0 && fld m (o + 31) 1 == 0 &&
    fld m (o + 39) 1 == 0 && fld m (o + 47) 1 == 0 && allZero (sub8 m (o + 52) 12) &&
    !(t.policy == 2 && t.backward) && !(t.rowFmt == 0 && t.backward) &&
    fits t.route (t.nbuf * t.maxTok * 128) &&
    (fits t.hold (t.holdRows * (rb + 64)) || ((t.policy != 2 || t.holdRows == 0) && unused t.hold)) &&
    (unused t.save || fits t.save (t.nbuf * t.maxTok * 8 * rb))

/-- Slot descriptor `i` (R213). -/
def slotAt (m : List Byte) (i : Nat) : SlotDesc :=
  let o := (mhdr m).slotOff + 64 * i
  let f := fld m (o + 7) 1
  { cap := fld m o 2, rpb := fld m (o + 2) 2, sources := fld m (o + 4) 2, rowUnits := fld m (o + 6) 1,
    enabled := bitOf f 0, backward := bitOf f 1, nbuf := bits f 2 3 + 2, bgFirst := fld m (o + 8) 2,
    bgSize := fld m (o + 10) 2, sealSignal := fld m (o + 12) 1, ctx := fld m (o + 13) 1, inp := refAt m (o + 16),
    outp := refAt m (o + 24), grad := refAt m (o + 32) }

/-- The rules of R213. -/
def slotOk (size : Nat → Nat) (m : List Byte) (i : Nat) : Bool :=
  let o := (mhdr m).slotOff + 64 * i
  let t := slotAt m i
  let n := t.nbuf * t.cap * rowBytes t.rowUnits
  let fits (r : Ref) : Bool := decide (r.region ≤ 63) && decide (r.off + n ≤ size r.region)
  decide (1 ≤ t.cap) && decide (t.cap ≤ 4096) && decide (1 ≤ t.rpb) && decide (t.rpb ≤ 4096) && decide (1 ≤ t.sources) &&
    decide (t.sources ≤ 4096) && decide (fld m (o + 7) 1 < 32) && decide (t.nbuf ≤ 8) && decide (1 ≤ t.bgSize) &&
    decide (t.bgSize ≤ 5120) && decide (t.cap ≤ t.rpb * t.bgSize) && fld m (o + 14) 2 == 0 && fld m (o + 23) 1 == 0 &&
    fld m (o + 31) 1 == 0 && fld m (o + 39) 1 == 0 && allZero (sub8 m (o + 40) 24) && fits t.inp && fits t.outp &&
    (if t.backward then fits t.grad else t.grad == {})

/-! ### The expert table (08 R210) -/

def xValid (e : W64) : Bool := e.getLsbD 63
def xDevice (e : W64) : Nat := bits e.toNat 32 24
def xPart (e : W64) : Nat := bits e.toNat 28 4
def xSlot (e : W64) : Nat := bits e.toNat 22 6

/-- The valid entries of a window: the slots a table names (R224), device, partition, slot. -/
def State.windowSlots (s : State) (base countM1 : Nat) : List (Nat × Nat × Nat) :=
  ((s.xtable.filter (fun p => decide (base ≤ p.1) && decide (p.1 ≤ base + countM1) && xValid p.2)).map
    (fun p => (xDevice p.2, xPart p.2, xSlot p.2))).eraseDups

/-- A table and a slot of one partition disagree on NBUF (R214). -/
def State.nbufOk (s : State) (pt : Nat) (m : List Byte) (i : Nat) : Bool :=
  let t := routeAt m i
  (s.windowSlots t.xbase t.xcountM1).all (fun w =>
    w.1 != s.lnk.addr.toNat || w.2.1 != pt || decide ((mhdr m).slots ≤ w.2.2) || (slotAt m w.2.2).nbuf == t.nbuf)

/-! ### Checks of R262 -/

/-- Order 1: MALFORMED. -/
def manifestFail (s : State) (c pt want : Nat) (m : List Byte) : Fail :=
  let h := mhdr m
  let ds := descsOf m
  let size (r : Nat) : Nat :=
    if r = 0 then s.homeSize c else ((ds.find? (fun d => d.index == r)).map (·.size)).getD 0
  firstFail
    [ chk (mhdrOk want m) stMalformed 0 0,
      if want ≠ 0 then none else chk (resOk m) stMalformed 0 0,
      failOver (fun i (d : RegionDesc) =>
        chk (descOk m i && !((ds.take i).any (fun e => e.index == d.index))) stMalformed 1 d.index) 0 ds,
      if want ≠ 0 then none else chk (spillDeclared m) stMalformed 1 ((resOf m).spill.getD 0),
      failOver (fun i _ => (chk (progDirOk m i) stMalformed 2 (progNo m i)).andThen
        (fun _ => (programFail (progNo m i) (progImage m i)).andThen
          (fun _ => chk (sameResident m i) stMalformed 2 (progNo m i)))) 0 (List.range h.programs),
      failOver (fun i (g : Segment) => chk (segOk m i) stMalformed 1 g.region) 0 (segsOf m),
      failOver (fun i _ => chk (routeOk size m i && s.nbufOk pt m i) stMalformed 4 i) 0 (List.range h.routes),
      failOver (fun i _ => chk (slotOk size m i) stMalformed 4 i) 0 (List.range h.slots) ]

/-- MANIFEST_DIGEST and MODEL_DIGEST as the header carries them. -/
def manifestDigest (m : List Byte) : List Byte := sub8 m 128 64
def modelDigest (m : List Byte) : List Byte := sub8 m 64 64

/-- The bytes that MANIFEST_DIGEST covers (R252). -/
def manifestCovered (m : List Byte) : List Byte :=
  let h := mhdr m
  let stop := if h.sigOff = 0 then h.size else h.sigOff
  sub8 m 0 128 ++ sub8 m 192 (stop - 192)

/-- The bytes that MODEL_DIGEST covers (R252). -/
def modelCovered (m : List Byte) : List Byte :=
  let h := mhdr m
  (List.range h.regions).flatMap (fun i => if (descAt m i).shared then sub8 m (h.regOff + 32 * i) 32 else []) ++
    sub8 m h.progOff (16 * h.programs) ++ (List.range h.programs).flatMap (progImage m) ++
    sub8 m h.routeOff (64 * h.routes) ++ sub8 m h.slotOff (64 * h.slots)

/-- Order 2: DIGEST. -/
def digestFail (m : List Byte) : Fail :=
  chk (Config.shake256 (manifestCovered m) == manifestDigest m &&
    ((mhdr m).kind != 0 || Config.shake256 (modelCovered m) == modelDigest m)) stDigest 0 0

/-- The KEY_ID of a public key (R414): the first 8 bytes of its digest. -/
def keyId (pub : List Byte) : List Byte := (Config.shake256 pub).take 8

/-- The key of the owner record with a KEY_ID and a role bit (R414). -/
def State.ownerKey (s : State) (role : Nat) (id : List Byte) : Option OwnerKey :=
  s.bist.keys.find? (fun k => bitOf k.roles role && keyId k.pub == id)

/-- Order 3: SIGNATURE (R253, R414). -/
def signatureFail (s : State) (m : List Byte) : Fail :=
  let h := mhdr m
  chk (if h.signed then
      (match s.ownerKey 0 (sub8 m h.sigOff 8) with
       | some k => Config.mldsaVerify k.pub (sub8 m 0 192) (sub8 m (h.sigOff + 8) 3309)
       | none => false)
    else !bitOf s.bist.policy 0) stSignature 0 0

/-- Order 0: the manifest, and with `report` the load report, end inside the home region (R257). -/
def homeFail (s : State) (c off : Nat) (report : Bool) : Fail :=
  let hs := s.homeSize c
  let m := s.home c off 192
  let sz := fld m 12 4
  chk (decide (off + 192 ≤ hs) && decide (off + sz ≤ hs) &&
    (!report || decide (roundUp (off + sz) 64 + 16 + 16 * fld m 16 2 ≤ hs))) stRegionFault 1 0

/-- The manifest at a home offset, by its MANIFEST_BYTES. -/
def State.manifestAt (s : State) (c off : Nat) : List Byte := s.home c off (fld (s.home c off 192) 12 4)

/-! ### Placement (R244, R245) -/

/-- A claimed range of units: die mask, first unit, unit after the last. -/
structure Extent where
  dmask : Nat
  lo : Nat
  hi : Nat
  deriving DecidableEq, Repr

def RegEntry.extent (e : RegEntry) : Extent :=
  let u := e.offset / 2097152
  let n := footprint e.dmask e.size / 2097152 * (if e.dual then 2 else 1)
  { dmask := e.dmask, lo := u, hi := u + n }

/-- Every range in use: the regions of every context and of every model, and memory that a purge still owes (R245,
R381). -/
def State.extents (s : State) : List Extent :=
  (s.ctxs.flatMap (fun p => if p.2.state = 0 then [] else
    (p.2.regions.filter (fun r => r.2.valid)).map (fun r => r.2.extent))) ++
  (s.parts.flatMap (fun p => match p.2.model with
    | none => []
    | some m => m.shared.map (fun r => (RegEntry.extent { w0 := BitVec.ofNat 64 r.2.2.1, w1 := BitVec.ofNat 64 r.2.2.2 })))) ++
  s.hbmOwed.map (fun o => { dmask := o.1, lo := o.2.1, hi := o.2.2.1 })

/-- The ranges retired by the repair map, as extents of one die (R245, R271). -/
def State.retiredExtents (s : State) : List Extent :=
  s.hbmRetired.map (fun r => { dmask := 2 ^ (r.1 / 3), lo := r.2, hi := r.2 + 1 })

/-- Two extents share a unit of a stack. -/
def Extent.meets (a b : Extent) : Bool :=
  Nat.land a.dmask b.dmask != 0 && decide (a.lo < b.hi) && decide (b.lo < a.hi)

/-- A range is free: inside the partition's range, below the excluded top, and meeting no extent. -/
def extentFree (lay : Layout) (used : List Extent) (e : Extent) : Bool :=
  decide (lay.lo.toNat ≤ e.lo) && decide (e.hi ≤ lay.hi.toNat) && decide (e.hi ≤ 36736) && !used.any (fun u => u.meets e)

/-- The lowest offset in units at which `n` units are free (R245): the range's start, or the end of a range in use. -/
def firstFit (lay : Layout) (used : List Extent) (dmask n : Nat) : Option Nat :=
  let cands := lay.lo.toNat :: used.map (·.hi)
  let good := cands.filter (fun u => extentFree lay used { dmask := dmask, lo := u, hi := u + n })
  good.foldl (fun r u => match r with | none => some u | some v => some (Nat.min u v)) none

/-- The dies of a mask in ascending order. -/
def diesOf (m : Nat) : List Nat := (List.range 8).filter (fun d => bitOf m d)

/-- The die mask of a region (R244): every die of the partition, or the one at a position among them; a SPILL region has a part on every die
(R269). -/
def placeMask (lay : Layout) (d : RegionDesc) : Option Nat :=
  if d.die && d.kind != 4 then ((diesOf lay.dies)[d.dieOrd]?).map (2 ^ ·) else some lay.dies

/-- Places regions one after another; the first that does not fit is named (R262 orders 14 and 15). -/
def placeAll (lay : Layout) (adopt duals : Bool) :
    List RegionDesc → List Extent → List (Nat × Nat × Nat) → Except Nat (List (Nat × Nat × Nat))
  | [], _, acc => .ok acc
  | d :: t, used, acc =>
    match placeMask lay d with
    | none => .error d.index
    | some dm =>
      let n := footprint dm d.size / 2097152 * (if d.dual && duals then 2 else 1)
      let at_ : Option Nat :=
        match d.fixed, adopt with
        | some f, true =>
          let e : Extent := { dmask := dm, lo := f / 2097152, hi := f / 2097152 + n }
          if extentFree lay used e then some (f / 2097152) else none
        | _, _ => firstFit lay used dm n
      match at_ with
      | none => .error d.index
      | some u => placeAll lay adopt duals t ({ dmask := dm, lo := u, hi := u + n } :: used) ((d.index, dm, u * 2097152) :: acc)

/-- The refusal of a placement that does not fit. -/
def placedFail (st : Nat) (r : Except Nat (List (Nat × Nat × Nat))) : Fail :=
  match r with
  | .ok _ => none
  | .error i => some (st, 1, i)

/-- Adopted regions are placed before the others, so that no other placement takes their range (R261). -/
def adoptFirst (adopt : Bool) (ds : List RegionDesc) : List RegionDesc :=
  if adopt then ds.filter (·.fixed.isSome) ++ ds.filter (fun d => !d.fixed.isSome) else ds

/-! ### PLACE: the checks in order (R260, R262, R269) -/

/-- A block's spill record (R269), over a list of programs. -/
def recordSize (ps : List Program) : Nat :=
  let mx (f : Program → Nat) : Nat := ps.foldl (fun a p => Nat.max a (f p)) 0
  roundUp (mx (fun p => p.resLines + p.landLines) * 256 + mx (·.csRes) * 4096 + mx (·.persist) * 20480) 4096

/-- R269: resident data needs a SPILL region whose part per die holds 640 records. -/
def spillFail (lay : Layout) (m : List Byte) : Fail :=
  let rec_ := recordSize ((programsOf m).map (·.2))
  match (resOf m).spill with
  | none => chk (rec_ == 0) stNoSpill 0 0
  | some i =>
    let sz := (((descsOf m).find? (fun d => d.index == i)).map (·.size)).getD 0
    chk (decide (640 * rec_ ≤ sz / Nat.max 1 (diesOf lay.dies).length)) stNoSpill 1 i

/-- Open streams of a context, and of a partition with those reserved (R302, R313). -/
def State.ctxStreams (s : State) (c : Nat) : Nat :=
  (s.strms.filter (fun g => (g.2.isOpen || g.2.reserved) && g.2.ctx == c)).length
def State.partStreams (s : State) (p : Nat) : Nat :=
  (s.strms.filter (fun g => (g.2.isOpen || g.2.reserved) && g.2.pt == p)).length

/-- The shape's budget at the load floor (R44). -/
def State.loadBudget (s : State) (period saddle : Nat) : Nat := budgetOf period saddle (stepMHz s.beat.loadFloor.toNat)

/-- Whether the PLACE of a context attaches to the model its partition holds (R260). -/
def Part.attaches (p : Part) (m : List Byte) : Bool :=
  match p.model with
  | some x => x.active && x.digest == modelDigest m
  | none => false

/-- The regions that a PLACE creates itself. -/
def newDescs (p : Part) (m : List Byte) : List RegionDesc :=
  if p.attaches m then (descsOf m).filter (fun d => !d.shared) else descsOf m

def overlaps (a b : Nat × Nat) : Bool := decide (a.1 ≤ b.1 + b.2) && decide (b.1 ≤ a.1 + a.2)

/-- The checks of PLACE in the order of R262. -/
def placeFail (s : State) (c : Nat) (l : LoadP) : Fail :=
  let pt := s.ctxPart c
  let p := s.part pt
  let lay := p.layout
  (homeFail s c l.manifest true).andThen fun _ =>
  let m := s.manifestAt c l.manifest
  (manifestFail s c pt 0 m).andThen fun _ =>
  (digestFail m).andThen fun _ =>
  (signatureFail s m).andThen fun _ =>
  (chk ((s.ctx c).load == 0 && (match p.model with | some x => x.active && x.claim.isNone | none => true))
    stLoadState 0 0).andThen fun _ =>
  (chk (match p.model with | some x => x.digest == modelDigest m | none => true) stConflict 0 0).andThen fun _ =>
  let r := resOf m
  let ps := programsOf m
  (chk (decide (r.blocksMin ≤ p.ordinals.length)) stNoBlocks 0 0).andThen fun _ =>
  (failOver (fun i _ => chk (decide ((slotAt m i).bgFirst + (slotAt m i).bgSize ≤ p.ordinals.length)) stNoBlocks 4 i) 0
    (List.range (mhdr m).slots)).andThen fun _ =>
  (failOver (fun _ (q : Nat × Program) =>
    chk (decide (q.2.resLines + q.2.landLines + q.2.shadowLines ≤ 4096)) stNoBlockStore 2 q.1) 0 ps).andThen fun _ =>
  (failOver (fun _ (q : Nat × Program) =>
    failOver (fun i w => chk (cellsOk w) stNoCellStore 3 (q.1 * 4096 + i)) 0 q.2.instrs) 0 ps).andThen fun _ =>
  (failOver (fun _ (q : Nat × Program) =>
    failOver (fun i w => chk (slotsOk q.2 w) stNoAcc 3 (q.1 * 4096 + i)) 0 q.2.instrs) 0 ps).andThen fun _ =>
  (failOver (fun _ (q : Nat × Program) =>
    chk (decide (q.2.budget ≤ s.loadBudget s.beat.periodCur.toNat s.beat.saddleCur.toNat)) stBudget 2 q.1) 0 ps).andThen fun _ =>
  (chk (decide (r.streams ≤ s.ctxStreams c + (lay.streams.toNat - s.partStreams pt))) stNoStreams 0 0).andThen fun _ =>
  (chk (p.attaches m || (match r.window with
    | none => true
    | some w => !s.parts.any (fun q => match q.2.model with
        | some x => (match x.window with | some v => overlaps v w | none => false)
        | none => false))) stNoExperts 0 0).andThen fun _ =>
  let ds := adoptFirst l.adopt (newDescs p m)
  (chk (decide ((ds.filter (fun d => d.kind == 2)).length + (s.wver.filter (fun w => w.2.used || w.2.kept)).length ≤ Config.wverMax))
    stNoVersions 0 0).andThen fun _ =>
  let used := s.extents ++ s.retiredExtents
  (placedFail stNoHbm (placeAll lay l.adopt false ds used [])).andThen fun _ =>
  (placedFail stNoStash (placeAll lay l.adopt true ds used [])).andThen fun _ =>
  spillFail lay m

/-! ### PLACE: its effects at acceptance -/

/-- The table entry of a placed region. -/
def entryOf (d : RegionDesc) (dm off : Nat) (loading : Bool) (wreg : Nat) : RegEntry :=
  let w := regWords d.kind d.shared d.rights dm off d.dual (if loading then 1 else 0) d.size
  { w0 := BitVec.ofNat 64 w.1, w1 := BitVec.ofNat 64 (w.2 + wreg * 2 ^ 32), desc := d }

/-- Free weight-version entries in ascending order. -/
def State.freeWregs (s : State) : List Nat := (List.range Config.wverMax).filter (fun w => !(s.weight w).used && !(s.weight w).kept)

/-- The region entries that a PLACE creates: index, entry. TRAIN regions take the lowest free weight-version entries
(R196). -/
def placeEntries (s : State) (c : Nat) (l : LoadP) (m : List Byte) : List (Nat × RegEntry) :=
  let p := s.part (s.ctxPart c)
  let ds := newDescs p m
  match placeAll p.layout l.adopt true (adoptFirst l.adopt ds) (s.extents ++ s.retiredExtents) [] with
  | .error _ => []
  | .ok pl =>
    let trains := ds.filter (fun d => d.kind == 2)
    ds.map (fun d =>
      let at_ := (pl.find? (fun x => x.1 == d.index)).getD (d.index, 0, 0)
      let w := if d.kind = 2 then (s.freeWregs[trains.idxOf d]?).getD 0 else 0
      (d.index, entryOf d at_.2.1 at_.2.2 ((segsOf m).any (fun g => g.region == d.index)) w))

/-- The model that a PLACE claims (R257, R260). -/
def claimModel (c : Nat) (m : List Byte) (es : List (Nat × RegEntry)) : Model :=
  { digest := modelDigest m, manifest := m, by_ := some c, active := false,
    shared := (es.filter (fun e => e.2.isShared)).map (fun e => (e.1, e.2.desc, e.2.w0.toNat, e.2.w1.toNat)),
    programs := (programsOf m).foldl (fun (t : Tab Program) (q : Nat × Program) => Tab.set t q.1 q.2) [], window := (resOf m).window, users := [c] }

/-- The ranges of a region that PLACE zeroes: what no segment covers, or everything under FILL_ZERO; an adopted region
keeps what its segments cover (R257, R261). -/
def zeroRanges (adopt : Bool) (m : List Byte) (d : RegionDesc) : List (Nat × Nat) :=
  let sg := (segsOf m).filter (fun g => g.region == d.index && g.len != 0)
  if d.fillZero && !(adopt && d.fixed.isSome) then [(0, d.size)]
  else
    -- the gaps between the segments, which do not overlap (R256)
    let starts := 0 :: sg.map (fun g => g.off + g.len)
    (starts.filter (fun a => !sg.any (fun g => decide (g.off ≤ a) && decide (a < g.off + g.len)))).filterMap (fun a =>
      let stop := sg.foldl (fun e g => if a ≤ g.off then Nat.min e g.off else e) d.size
      if a < stop then some (a, stop - a) else none)

/-- The load report (R257). -/
def loadReport (c : Ctx) (m : List Byte) : List Byte :=
  leBytes 2 (mhdr m).regions ++ zeros 14 ++ (descsOf m).flatMap (fun d =>
    let e := c.region d.index
    leBytes 1 d.index ++ leBytes 1 d.kind ++ leBytes 1 e.state ++ zeros 5 ++ leBytes 8 (e.w0.toNat % 2 ^ 48))

/-- PLACE takes effect at its acceptance: the claim, the reservation and the region table entries, the window, the
routing tables and slots (R257, R260). The bytes are zeroed by its legs; `id` is its command. -/
def placeAccept (s : State) (id c : Nat) (l : LoadP) : State :=
  let pt := s.ctxPart c
  let p := s.part pt
  let m := s.manifestAt c l.manifest
  let es := placeEntries s c l m
  let att := p.attaches m
  let sharedEs : List (Nat × RegEntry) :=
    match p.model with
    | some x => if att then x.shared.map (fun r => (r.1, { w0 := BitVec.ofNat 64 r.2.2.1, w1 := BitVec.ofNat 64 r.2.2.2, desc := r.2.1 })) else []
    | none => []
  let trains := es.filter (fun e => e.2.kind == 2)
  let s : State := { s with wver := trains.foldl (fun (t : Tab WVer) (e : Nat × RegEntry) =>
    Tab.set t e.2.wreg
      { kept := true, stash := e.2.dual, pt := pt, region := e.1,
        mask := (((descsOf m).find? (fun d => d.index == Config.gradPair e.1 && d.kind == 3)).map (·.mask)).getD 0 }) s.wver }
  let s := s.updCtx c (fun x =>
    { x with
      regions := (es ++ sharedEs).foldl (fun (t : Tab RegEntry) (e : Nat × RegEntry) => Tab.set t e.1 e.2) x.regions,
      ld := { manifest := m, segs := segsOf m,
              verified := if att then (List.range (segsOf m).length).filter (fun i =>
                (sharedEs.any (fun e => e.1 == (segAt m i).region))) else [],
              streams := (resOf m).streams, spillRegion := (resOf m).spill,
              record := recordSize ((programsOf m).map (·.2)) } })
  s.updPart pt (fun q =>
    if att then { q with model := q.model.map (fun x => { x with users := x.users ++ [c], claim := some id }) }
    else
      { q with
        model := some (claimModel c m es),
        tabs := (List.range (mhdr m).routes).foldl (fun (t : Tab RTable) (i : Nat) => Tab.set t i { d := routeAt m i, ctx := c }) [],
        slots := (List.range (mhdr m).slots).foldl (fun (t : Tab SlotSt) (i : Nat) => Tab.set t i { d := slotAt m i }) [] })

/-! ### Releasing (R257, R264, R324) -/

/-- A context gives up its holds on weight versions (R198). -/
def State.dropHolds (s : State) (c : Nat) : State :=
  let hs := s.holds.filter (fun h => h.ctx == c)
  let s := hs.foldl (fun s h => s.updWeight h.wreg (fun w =>
    if w.v = h.version then { w with countCur := w.countCur - h.n } else { w with countStash := w.countStash - h.n })) s
  { s with holds := s.holds.filter (fun h => h.ctx != c) }

/-- A context's loadset is taken away: its private regions and holds, and, when no other context shares the model, the
shared regions, programs, tables, slots, window and weight-version entries (R264). The home region stays. -/
def State.unload (s : State) (c : Nat) : State :=
  let pt := s.ctxPart c
  let last := match (s.part pt).model with
    | some x => x.users.contains c && (x.users.filter (· != c)).isEmpty
    | none => false
  let s := s.dropHolds c
  let s := s.updCtx c (fun x => { x with regions := x.regions.filter (fun r => r.1 == 0), ld := {}, load := 0 })
  if last then
    { s with
      parts := Tab.set s.parts pt { s.part pt with model := none, tabs := [], slots := [], sw := {} },
      wver := s.wver.filter (fun w => w.2.pt != pt) }
  else s.updPart pt (fun q => { q with model := q.model.map (fun x => { x with users := x.users.filter (· != c) }) })

/-! ### Segments and verification (R258, R259, R263) -/

/-- A write that touches a verified segment makes it unverified again (R258). -/
def touched (segs : List Segment) (region off n : Nat) (v : List Nat) : List Nat :=
  v.filter (fun i => match segs[i]? with
    | some g => !(g.region == region && decide (g.off < off + n) && decide (off < g.off + g.len))
    | none => false)

def State.touch (s : State) (c region off n : Nat) : State :=
  let s := s.updCtx c (fun x => { x with ld :=
    { x.ld with verified := if x.load = 2 then x.ld.verified else touched x.ld.segs region off n x.ld.verified,
                adVerified := touched x.ld.adSegs region off n x.ld.adVerified } })
  if ((s.ctx c).region region).isShared then
    s.updPart (s.ctxPart c) (fun q =>
      { q with sw := { q.sw with verified := touched q.sw.segs region off n q.sw.verified } })
  else s

/-- The segment numbers that a range names; a count of 0 names all (R301). -/
def segRange (n first count : Nat) : List Nat :=
  (List.range n).filter (fun i => count == 0 || (decide (first ≤ i) && decide (i < first + count)))

/-- A tile of a segment carries a reserved code: a scale of 0xFF (R68), or a 2:4 nibble whose first position is not below its second, in
a patch that is not all zero (R104, R105). -/
def tileReserved (l : List Byte) (k o : Nat) : Bool :=
  let at_ (a : Nat) : Nat := ((l[o + a]?).getD 0).toNat
  let scale (p : Nat) : Nat := at_ ((if k = 0 then 4096 else if k = 1 then 2048 else if k = 3 then 2560 else 1536) + p)
  let nib (p g : Nat) : Nat := bits (at_ ((if k = 3 then 2048 else 1024) + 2 * p + g / 2)) (4 * (g % 2)) 4
  (k == 0 || k == 1 || k == 3 || k == 4) &&
    (List.range 256).any (fun p => scale p == 255 || ((k == 3 || k == 4) && scale p != 0 &&
      (List.range 4).any (fun g => decide (nib p g / 4 ≤ nib p g % 4))))

/-- Some byte of a range of a region was lost to the repair of a row (R271). -/
def State.rowLost (s : State) (e : RegEntry) (buf o n : Nat) : Bool :=
  (e.pieces buf o n).any (fun p => s.hbm.undefBy s.lostRows p.1 (p.1 + p.2))

/-- What a VERIFY finds of a segment as it lies in a buffer of its region: a status, 0 when it is right (R68, R104, R259, R271). -/
def State.segStatus (s : State) (c buf : Nat) (g : Segment) : Nat :=
  let e := (s.ctx c).region g.region
  let l := s.regRead e buf g.off g.len
  if s.rowLost e buf g.off g.len then stDigest
  else if Config.shake256 l != g.digest then stDigest
  else if (Config.segTiles g.digest).any (fun t => tileReserved l t.1 t.2) then stMalformed else 0

/-- The spare buffer of a region that is open for delivery (R265, R266). -/
def State.spareOf (s : State) (c region : Nat) : Nat := 1 - ((s.ctx c).region region).cur

/-- What a VERIFY finds of segment `i` of a list; `spare` hashes the buffer in delivery. -/
def State.judge (s : State) (c : Nat) (spare : Bool) (segs : List Segment) (i : Nat) : Nat :=
  match segs[i]? with
  | some g => s.segStatus c (if spare then s.spareOf c g.region else 0) g
  | none => 0

/-- How a failed segment ends its VERIFY (R259, R309). -/
def segFail (segs : List Segment) (i st : Nat) : Nat × Nat × Nat :=
  if st = stMalformed then (st, 1, ((segs[i]?).map (·.region)).getD 0) else (st, 5, i)

def mergeNums (a b : List Nat) : List Nat := a ++ b.filter (fun i => !a.contains i)

/-- Every region with an unverified segment takes STATE UNDEFINED (R263). -/
def Ctx.undefineUnverified (x : Ctx) : Ctx :=
  { x with regions := x.regions.map (fun r =>
      if r.2.valid && r.2.state == 1 && (List.range x.ld.segs.length).any (fun i =>
          !x.ld.verified.contains i && ((x.ld.segs[i]?).map (·.region)) == some r.1)
      then (r.1, r.2.setState 2) else r) }

/-- A region whose segments are all verified and that was UNDEFINED is LOADING again until the loadset is ACTIVE
(R263). -/
def Ctx.redefine (x : Ctx) : Ctx :=
  { x with regions := x.regions.map (fun r =>
      if r.2.valid && r.2.state == 2 && (List.range x.ld.segs.length).all (fun i =>
          x.ld.verified.contains i || ((x.ld.segs[i]?).map (·.region)) != some r.1)
      then (r.1, r.2.setState 1) else r) }

def Ctx.allVerified (x : Ctx) : Bool := (List.range x.ld.segs.length).all (fun i => x.ld.verified.contains i)

/-- Extends a partition's measurement chain with a record (R430). -/
def Part.extend (p : Part) (kind ctx : Nat) (beat : W64) (digest : List Byte) : Part :=
  { p with
    chain := Config.shake256 (p.chain ++ leBytes 1 kind ++ leBytes 1 ctx ++ zeros 6 ++ leBytes 8 beat.toNat ++ digest),
    events := p.events + 1 }

/-- The loadset becomes ACTIVE (R259): its regions take STATE ACTIVE, its programs are loaded, the model is ACTIVE, and
the chain is extended (R430). -/
def State.activate (s : State) (c : Nat) : State :=
  let pt := s.ctxPart c
  let act (t : Tab RegEntry) : Tab RegEntry := t.map (fun r => (r.1, r.2.setState 0))
  let s := s.updCtx c (fun x => { x with regions := act x.regions, load := 2 })
  let mine := match (s.part pt).model with | some x => x.by_ == some c | none => false
  -- the TRAIN regions of the model get their weight-version entries, V = 0 (R196)
  let s : State := if mine then
      { s with wver := s.wver.map (fun (w : Nat × WVer) =>
          if w.2.pt = pt && w.2.kept then (w.1, { w.2 with used := true, kept := false }) else w) }
    else s
  let awake (x : Model) : Model :=
    { x with
      active := true, by_ := none,
      shared := x.shared.map (fun r => (r.1, r.2.1, r.2.2.1, r.2.2.2 - r.2.2.2 / 2 ^ 60 % 4 * 2 ^ 60)) }
  s.updPart pt (fun q =>
    ({ q with model := q.model.map awake } : Part).extend 1 c s.beat.count (manifestDigest (s.ctx c).ld.manifest))

/-! ### Adapters and weight switches (R265, R266) -/

/-- The checks that a manifest of another kind shares with PLACE (R262 orders 0 to 3, and 5). -/
def kindFail (s : State) (c off want : Nat) (ok : RegionDesc → Bool) : Fail :=
  let pt := s.ctxPart c
  (homeFail s c off false).andThen fun _ =>
  let m := s.manifestAt c off
  (manifestFail s c pt want m).andThen fun _ =>
  (failOver (fun _ d => chk (ok d) stMalformed 1 d.index) 0 (descsOf m)).andThen fun _ =>
  (digestFail m).andThen fun _ =>
  (signatureFail s m).andThen fun _ =>
  (chk ((s.ctx c).load == 2) stLoadState 0 0).andThen fun _ =>
  chk (match (s.part pt).model with | some x => x.active && x.digest == modelDigest m | none => false) stConflict 0 0

/-- ADAPTER_ATTACH PLACE: every region is one the context declared as ADAPTER, with the buffer that the delivery opens, and no larger
(R254, R265). -/
def adapterFail (s : State) (c : Nat) (l : LoadP) : Fail :=
  kindFail s c l.manifest 1 (fun d =>
    let e := (s.ctx c).region d.index
    e.valid && e.kind == 5 && e.dual && d.kind == 5 && decide (d.size ≤ e.size))

/-- WEIGHT_SWITCH STAGE: only DUAL BASE regions of the partition's model (R266). -/
def stageFail (s : State) (c : Nat) (l : LoadP) : Fail :=
  kindFail s c l.manifest 2 (fun d =>
    let e := (s.ctx c).region d.index
    e.valid && e.kind == 1 && e.dual && d.kind == 1)

end Sys2Proof.Machine
end

