-- ==== Sys2Proof/Machine/Packet.lean ====
section
/-! DEFINITION. Command packets and completion records as bytes (10 R288, R290 to R292, R300 to R304), and the checks
that a packet's own fields must pass (R293 order 1). A failed check names a byte of the packet (DETAIL kind 9). -/

namespace Sys2Proof

open Machine

/-! ### Opcodes (R300) -/

def Op.code : Op → Nat
  | .streamOpen _ => 0x01 | .streamClose _ => 0x02
  | .loadPlace _ | .loadVerify _ => 0x10
  | .unload => 0x11
  | .adapterPlace _ | .adapterVerify _ | .adapterDetach _ => 0x12
  | .run _ => 0x20
  | .copy _ => 0x30 | .fill _ => 0x31
  | .reduce _ => 0x40 | .gather _ => 0x41 | .broadcast _ => 0x42 | .normreduce _ => 0x43 | .permute _ => 0x44
  | .routeOpen _ | .routeDispatch _ | .routeClose _ | .routeRetrace _ | .routeReturn _ | .routeForceSeal _
  | .routeCounts _ | .routeXset _ => 0x50
  | .combineForward _ | .combineRetrace _ => 0x51
  | .wsStage _ | .wsVerify _ | .wsSwitch _ _ | .wsAbort => 0x60
  | .optstep _ => 0x61
  | .fence => 0x70 | .signalAdd _ _ | .signalSet _ _ => 0x71 | .wait _ _ _ => 0x72
  | .preempt _ _ | .preemptResume _ => 0x80
  | .contextReset _ => 0x81
  | .partitionConfig _ => 0x82
  | .modeArm _ _ | .modeCancel => 0x83
  | .censusRead _ _ => 0x90 | .accountRead _ => 0x91

/-! ### Parsing -/

/-- A region reference (R292). -/
def refOf (l : List Byte) (o : Nat) : Ref := { region := fld l o 1, off := fld l (o + 2) 6 }

def loadOf (l : List Byte) : LoadP :=
  { adopt := bitOf (fld l 17 1) 0, segFirst := fld l 20 4, segCount := fld l 24 4, manifest := fld l 32 8 }

def words32 (l : List Byte) (o n : Nat) : List (BitVec 32) :=
  (List.range n).map (fun i => BitVec.ofNat 32 (fld l (o + 4 * i) 4))

def collOf (l : List Byte) : CollP :=
  { src := refOf l 16, dst := refOf l 24, length := fld l 32 8, layoutEpoch := BitVec.ofNat 32 (fld l 40 4),
    group := fld l 44 2, fmt := fld l 46 1, op := fld l 47 1, root := fld l 48 2, scatter := bitOf (fld l 50 1) 0 }

def routeOf (l : List Byte) : RouteP :=
  { close := bitOf (fld l 17 1) 0, clear := bitOf (fld l 17 1) 1, slot := bitOf (fld l 17 1) 2, table := fld l 18 1,
    phase := fld l 19 1, batch := BitVec.ofNat 16 (fld l 20 2), first := fld l 24 4, count := fld l 28 4,
    rows := refOf l 32, grec := refOf l 40 }

def combineOf (l : List Byte) : CombineP :=
  { save := bitOf (fld l 17 1) 0, table := fld l 18 1, batch := BitVec.ofNat 16 (fld l 20 2), first := fld l 24 4,
    count := fld l 28 4, outp := refOf l 32 }

/-- The bytes 16 to 63 that an opcode lists, as ranges (R301 to R304). -/
def opBytes : Nat → List (Nat × Nat)
  | 0x01 => [(16, 23), (24, 40)]
  | 0x02 => [(16, 18)]
  | 0x10 => [(16, 18), (20, 28), (32, 40)]
  | 0x12 => [(16, 17), (18, 19), (20, 28), (32, 40)]
  | 0x20 => [(16, 22), (24, 56)]
  | 0x30 => [(16, 60)]
  | 0x31 => [(16, 40)]
  | 0x40 | 0x41 | 0x42 => [(16, 51)]
  | 0x43 => [(16, 29), (30, 38), (48, 64)]
  | 0x44 => [(16, 42), (44, 48)]
  | 0x50 => [(16, 22), (24, 48)]
  | 0x51 => [(16, 19), (20, 22), (24, 40)]
  | 0x60 => [(16, 19), (20, 28), (32, 40)]
  | 0x61 => [(16, 62)]
  | 0x71 => [(16, 18), (24, 32)]
  | 0x72 => [(16, 17), (18, 20), (24, 32)]
  | 0x80 => [(16, 20)]
  | 0x81 => [(16, 17)]
  | 0x82 => [(16, 24)]
  | 0x83 => [(16, 17), (18, 20), (24, 32)]
  | 0x90 => [(16, 25)]
  | 0x91 => [(16, 32)]
  | _ => []

/-- Bytes that must be zero although a range lists them: byte 1 of each region reference (R292), and flag bytes above
their named bits (mask of the bits that must be clear). -/
def opZeroBits : Nat → List (Nat × Nat)
  | 0x01 => [(21, 0xFE)]
  | 0x10 => [(17, 0xFE)]
  | 0x30 => [(17, 0xFF), (25, 0xFF), (51, 0xFC)]
  | 0x31 => [(17, 0xFF)]
  | 0x40 => [(17, 0xFF), (25, 0xFF), (50, 0xFE)]
  | 0x41 | 0x42 => [(17, 0xFF), (25, 0xFF), (50, 0xFF)]
  | 0x43 => [(17, 0xFF)]
  | 0x44 => [(17, 0xFF), (25, 0xFF)]
  | 0x50 => [(17, 0xF8), (33, 0xFF), (41, 0xFF)]
  | 0x51 => [(17, 0xFE), (33, 0xFF)]
  | 0x60 => [(17, 0xFE)]
  | 0x61 => [(46, 0xFC)]
  | 0x80 => [(17, 0xFE)]
  | 0x82 => [(17, 0xFF)]
  | 0x90 => [(17, 0xFF), (24, 0xFE)]
  | 0x91 => [(17, 0xFF), (25, 0xFE)]
  | _ => []

/-- The first reserved byte that is not zero (R8). -/
def reservedByte (code : Nat) (l : List Byte) : Option Nat :=
  ((List.range 48).map (· + 16)).find? (fun i =>
    (!(opBytes code).any (fun r => decide (r.1 ≤ i) && decide (i < r.2)) && fld l i 1 != 0) ||
    (opZeroBits code).any (fun z => z.1 == i && Nat.land (fld l i 1) z.2 != 0))

/-- The operation that bytes 0 and 16 to 63 spell; a reserved opcode or operation code names its byte. -/
def opOf (l : List Byte) : Except Nat Op :=
  let sub := fld l 16 1
  match fld l 0 1 with
  | 0x01 => .ok (.streamOpen
      { lstream := fld l 16 2, prio := fld l 18 1, cq := fld l 19 1, ringLog2 := fld l 20 1,
        defineCq := bitOf (fld l 21 1) 0, cqLog2 := fld l 22 1, ring := fld l 24 8, cqOff := fld l 32 8 })
  | 0x02 => .ok (.streamClose (fld l 16 2))
  | 0x10 => if sub = 0 then .ok (.loadPlace (loadOf l)) else if sub = 1 then .ok (.loadVerify (loadOf l)) else .error 16
  | 0x11 => .ok .unload
  | 0x12 =>
    if sub = 0 then .ok (.adapterPlace (loadOf l))
    else if sub = 1 then .ok (.adapterVerify (loadOf l))
    else if sub = 2 then .ok (.adapterDetach (fld l 18 1)) else .error 16
  | 0x20 => .ok (.run
      { program := fld l 16 2, bgFirst := fld l 18 2, bgSize := fld l 20 2, args := words32 l 24 4,
        binds := words32 l 40 4 })
  | 0x30 => .ok (.copy
      { src := refOf l 16, dst := refOf l 24, rows := fld l 32 4, cols := fld l 36 4,
        srcPitch := fld l 40 4, dstPitch := fld l 44 4, srcFmt := fld l 48 1, dstFmt := fld l 49 1, rnd := fld l 50 1,
        srcTiled := bitOf (fld l 51 1) 0, dstTiled := bitOf (fld l 51 1) 1, length := fld l 52 8 })
  | 0x31 => .ok (.fill { dst := refOf l 16, length := fld l 24 8, pattern := BitVec.ofNat 64 (fld l 32 8) })
  | 0x40 => .ok (.reduce (collOf l))
  | 0x41 => .ok (.gather (collOf l))
  | 0x42 => .ok (.broadcast (collOf l))
  | 0x43 => .ok (.normreduce
      { result := refOf l 16, clip := BitVec.ofNat 40 (fld l 24 5), tag := fld l 30 2,
        layoutEpoch := BitVec.ofNat 32 (fld l 32 4), group := fld l 36 2,
        regions := (List.range 8).map (fun i => (fld l (48 + 2 * i) 1, fld l (49 + 2 * i) 1)) })
  | 0x44 => .ok (.permute
      { plan := refOf l 16, cursor := refOf l 24, fromEpoch := BitVec.ofNat 32 (fld l 32 4),
        toEpoch := BitVec.ofNat 32 (fld l 36 4), group := fld l 40 2, bind := BitVec.ofNat 32 (fld l 44 4) })
  | 0x50 =>
    match sub with
    | 0 => .ok (.routeOpen (routeOf l)) | 1 => .ok (.routeDispatch (routeOf l)) | 2 => .ok (.routeClose (routeOf l))
    | 3 => .ok (.routeRetrace (routeOf l)) | 4 => .ok (.routeReturn (routeOf l)) | 5 => .ok (.routeForceSeal (routeOf l))
    | 6 => .ok (.routeCounts (routeOf l)) | 7 => .ok (.routeXset (routeOf l))
    | _ => .error 16
  | 0x51 =>
    if sub = 0 then .ok (.combineForward (combineOf l))
    else if sub = 1 then .ok (.combineRetrace (combineOf l)) else .error 16
  | 0x60 =>
    match sub with
    | 0 => .ok (.wsStage (loadOf l)) | 1 => .ok (.wsVerify (loadOf l))
    | 2 => .ok (.wsSwitch (bitOf (fld l 17 1) 0) (fld l 18 1))
    | 3 => .ok .wsAbort
    | _ => .error 16
  | 0x61 => .ok (.optstep
      { program := fld l 16 2, bgFirst := fld l 18 2, bgSize := fld l 20 2, waitLimit := fld l 22 2,
        args := words32 l 24 4, step := BitVec.ofNat 32 (fld l 40 4), normTag := fld l 44 2, newMask := bitOf (fld l 46 1) 0,
        pack := bitOf (fld l 46 1) 1, stageRegion := fld l 47 1, mask := BitVec.ofNat 64 (fld l 48 8),
        stageOff := fld l 56 6 })
  | 0x70 => .ok .fence
  | 0x71 =>
    if fld l 17 1 = 0 then .ok (.signalAdd sub (BitVec.ofNat 64 (fld l 24 8)))
    else if fld l 17 1 = 1 then .ok (.signalSet sub (BitVec.ofNat 64 (fld l 24 8))) else .error 17
  | 0x72 => .ok (.wait sub (fld l 18 2) (BitVec.ofNat 64 (fld l 24 8)))
  | 0x80 => if bitOf (fld l 17 1) 0 then .ok (.preemptResume sub) else .ok (.preempt sub (fld l 18 2))
  | 0x81 => .ok (.contextReset sub)
  | 0x82 => .ok (.partitionConfig (refOf l 16))
  | 0x83 =>
    if sub = 0 then .ok (.modeArm (BitVec.ofNat 16 (fld l 18 2)) (fld l 24 8))
    else if sub = 1 then .ok .modeCancel else .error 16
  | 0x90 => .ok (.censusRead (refOf l 16) (bitOf (fld l 24 1) 0))
  | 0x91 => .ok (.accountRead
      { dst := refOf l 16, scope := fld l 24 1, clear := bitOf (fld l 25 1) 0,
        lstream := fld l 26 2, bgFirst := fld l 28 2, bgSize := fld l 30 2 })
  | _ => .error 0

/-- The header of a packet (R290), read from a stream of a context. -/
def hdrOf (c n : Nat) (l : List Byte) : Hdr :=
  { ctx := c, stream := n, timeout := fld l 1 1, flags := BitVec.ofNat 16 (fld l 2 2), pstream := fld l 4 2,
    gen := BitVec.ofNat 16 (fld l 6 2), epoch := BitVec.ofNat 16 (fld l 8 2), cls := fld l 10 1,
    tag := BitVec.ofNat 32 (fld l 12 4) }

/-! ### Parameter ranges (R293 order 1, R301 to R304) -/

/-- The lower of two bytes that break order 1. -/
def lower : Option Nat → Option Nat → Option Nat
  | none, b => b
  | some a, none => some a
  | some a, some b => some (Nat.min a b)

/-- The lowest byte among the broken rules of a list of rules. -/
def firstBad : List (Bool × Nat) → Option Nat
  | [] => none
  | (ok, b) :: t => if ok then firstBad t else lower (some b) (firstBad t)

def Ref.good (r : Ref) : Bool := decide (r.region ≤ 63)

/-- A binding word (R197). -/
def bindVersion (w : BitVec 32) : BitVec 16 := w.extractLsb' 16 16
def bindMode (w : BitVec 32) : Nat := bits w.toNat 14 2
def bindWreg (w : BitVec 32) : Nat := bits w.toNat 0 10
def bindOk (w : BitVec 32) : Bool := w == 0 || (bindMode w != 0 && bits w.toNat 10 4 == 0)

def binds4 (o : Nat) (l : List (BitVec 32)) : List (Bool × Nat) :=
  (List.range l.length).map (fun i => (bindOk ((l[i]?).getD 0), o + 1 + 4 * i))

/-- The sides of a COPY (R306): format and TILED flag. -/
def copySide (fmt : Nat) (tiled : Bool) (cols pitch : Nat) : Bool × Bool :=
  -- the flag is legal; the pitch is legal
  match Fmt.ofCopy fmt with
  | none => (true, true)
  | some f =>
    let flag := f == .q4 || f == .q8 || f == .h16 || f == .w40 || !tiled
    let tl := f == .q4 || f == .q8 || (tiled && flag)
    (flag, if tl then pitch == 0 else decide (cols * f.size ≤ pitch) && pitch % f.size == 0)

def copyBad (p : CopyP) : Option Nat :=
  firstBad ([(p.src.good, 16), (p.dst.good, 24), (decide (p.srcFmt ≤ 5) || p.srcFmt == 15, 48),
      (decide (p.dstFmt ≤ 5) || p.dstFmt == 15, 49), (decide (p.rnd ≤ 2), 50)] ++
    (if (p.srcFmt == 15) != (p.dstFmt == 15) then [(p.srcFmt != 15, 48), (p.dstFmt != 15, 49)]
    else if p.srcFmt = 15 then
      [(!p.srcTiled && !p.dstTiled, 51), (p.rows == 0, 32), (p.cols == 0, 36), (p.srcPitch == 0, 40), (p.dstPitch == 0, 44), (p.length % 4 == 0, 52)]
    else
      [((copySide p.srcFmt p.srcTiled p.cols p.srcPitch).1, 51), ((copySide p.dstFmt p.dstTiled p.cols p.dstPitch).1, 51),
       (decide (1 ≤ p.rows) && decide (p.rows ≤ 2 ^ 24), 32), (decide (1 ≤ p.cols) && decide (p.cols ≤ 2 ^ 24), 36),
       ((copySide p.srcFmt p.srcTiled p.cols p.srcPitch).2, 40), ((copySide p.dstFmt p.dstTiled p.cols p.dstPitch).2, 44),
       (p.length == 0, 52)]))

def routeBad (flags : Bool) (p : RouteP) : Option Nat :=
  firstBad [(flags, 17), (decide (p.table ≤ 63), 18), (decide (p.phase ≤ 1), 19), (p.rows.good, 32), (p.grec.good, 40)]

def manifestBad (p : LoadP) : Option Nat := firstBad [(p.manifest % 64 == 0, 32)]

/-- The first parameter byte that breaks a range. DESIGN CHOICE (log 70): an unused region entry of NORMREDUCE, index 0, whose format is not 0 is
MALFORMED. -/
def Op.bad : Op → Option Nat
  | .streamOpen p =>
    firstBad [(decide (1 ≤ p.lstream) && decide (p.lstream ≤ 1023), 16), (decide (p.prio ≤ 7), 18), (decide (p.cq ≤ 15), 19),
      (decide (6 ≤ p.ringLog2) && decide (p.ringLog2 ≤ 16), 20),
      (if p.defineCq then decide (6 ≤ p.cqLog2) && decide (p.cqLog2 ≤ 16) else p.cqLog2 == 0, 22),
      (p.ring % 64 == 0, 24), (if p.defineCq then p.cqOff % 32 == 0 else p.cqOff == 0, 32)]
  | .streamClose l => firstBad [(decide (l ≤ 1023), 16)]
  | .loadPlace p | .wsStage p | .adapterPlace p | .loadVerify p | .adapterVerify p => manifestBad p
  | .wsVerify p => manifestBad p
  | .unload | .wsAbort | .fence | .modeCancel => none
  | .adapterDetach r => firstBad [(decide (r ≤ 63), 18)]
  | .run p => firstBad ([(decide (p.program ≤ 255), 16), (decide (1 ≤ p.bgSize), 20)] ++ binds4 40 p.binds)
  | .copy p => copyBad p
  | .fill p => firstBad [(p.dst.good, 16), (p.length % 8 == 0, 24)]
  | .reduce p =>
    firstBad [(p.src.good, 16), (p.dst.good, 24), (decide (p.group ≤ 511), 44), (p.fmt == 2 || p.fmt == 3, 46),
      (decide (p.op ≤ 1), 47), (p.root == 0, 48)]
  | .gather p =>
    firstBad [(p.src.good, 16), (p.dst.good, 24), (decide (p.group ≤ 511), 44), (p.fmt == 0, 46), (p.op == 0, 47),
      (p.root == 0, 48), (!p.scatter, 50)]
  | .broadcast p =>
    firstBad [(p.src.good, 16), (p.dst.good, 24), (decide (p.group ≤ 511), 44), (p.fmt == 0, 46), (p.op == 0, 47),
      (!p.scatter, 50)]
  | .normreduce p =>
    firstBad ([(p.result.good, 16), (decide (1 ≤ p.tag), 30), (decide (p.group ≤ 511), 36)] ++
      (List.range p.regions.length).map (fun i =>
        let r := (p.regions[i]?).getD (0, 0)
        (decide (r.1 ≤ 63) && (if r.1 = 0 then r.2 == 0 else r.2 == 2 || r.2 == 3), if 63 < r.1 then 48 + 2 * i else 49 + 2 * i)))
  | .permute p => firstBad [(p.plan.good, 16), (p.cursor.good, 24), (decide (p.group ≤ 511), 40), (bindOk p.bind, 45)]
  | .routeOpen p | .routeDispatch p | .routeClose p | .routeReturn p | .routeForceSeal p | .routeXset p =>
    routeBad (!p.close && !p.clear && !p.slot) p
  | .routeRetrace p => routeBad (!p.clear && !p.slot) p
  | .routeCounts p => routeBad (!p.close) p
  | .combineForward p | .combineRetrace p => firstBad [(decide (p.table ≤ 63), 18), (p.outp.good, 32)]
  | .wsSwitch _ l => firstBad [(decide (1 ≤ l), 18)]
  | .optstep p =>
    firstBad [(decide (p.program ≤ 255), 16), (decide (1 ≤ p.bgSize), 20), (bindOk p.step && bindMode p.step == 1, 41),
      (if p.pack then decide (p.stageRegion ≤ 63) else p.stageRegion == 0, 47), (p.newMask || p.mask == 0, 48),
      (p.pack || p.stageOff == 0, 56)]
  | .signalAdd _ _ | .signalSet _ _ | .wait _ _ _ => none
  | .preempt _ _ | .preemptResume _ | .contextReset _ => none
  | .partitionConfig l => firstBad [(l.good, 16)]
  | .modeArm _ _ => none
  | .censusRead d _ => firstBad [(d.good, 16)]
  | .accountRead p =>
    firstBad [(p.dst.good, 16), (decide (p.scope ≤ 2), 24), (decide (p.lstream ≤ 1023), 26)]

/-- Whether an operation runs a tile program, so that its CLASS byte is reserved (R290). -/
def Op.isRun : Op → Bool
  | .run _ | .optstep _ => true
  | _ => false

/-- The reserved bits of a packet's header (R290, R291). -/
def hdrBad (h : Hdr) (isRun : Bool) : Option Nat :=
  firstBad [(decide (h.flags.toNat < 64), 2), (decide (h.pstream < 1024), 4), (if isRun then h.cls == 0 else decide (h.cls < 64), 10)]

/-- The lowest byte that breaks order 1 in a parsed packet. -/
def packetBad (h : Hdr) (op : Op) : Option Nat := lower (hdrBad h op.isRun) op.bad

/-- A packet of 64 bytes: its header, and its operation or the byte that breaks order 1. -/
def packetOf (c n : Nat) (l : List Byte) : Hdr × Except Nat Op :=
  let h := hdrOf c n l
  let raw := lower (if fld l 11 1 = 0 then none else some 11) (reservedByte (fld l 0 1) l)
  (h,
    match opOf l with
    | .error b => if b = 0 then .error 0 else .error ((lower (lower (hdrBad h false) raw) (some b)).getD b)
    | .ok op =>
      match lower raw (packetBad h op) with
      | some b => .error b
      | none => .ok op)

/-! ### Completion records (R288) -/

/-- The 32 bytes of a completion record. -/
def recordBytes (x : Cmd) (opcode : Nat) (gen : BitVec 16) (phase : Bool) (beat : W64) : List Byte :=
  leBytes 4 x.h.tag.toNat ++ leBytes 2 x.h.stream ++ leBytes 2 gen.toNat ++ leBytes 1 opcode ++ leBytes 1 x.status ++
    leBytes 2 ((if phase then 1 else 0) + (if 0 < x.kills then 2 else 0) + (if x.carried then 4 else 0) +
      (if x.overrun then 8 else 0)) ++
    leBytes 4 (x.dkind * 2 ^ 24 + x.dindex % 2 ^ 24) ++ leBytes 8 beat.toNat ++ leBytes 4 (if x.status = 0 ∨ x.status = 9 then x.cycles else 0) ++
    leBytes 2 (Nat.min 65535 x.kills) ++ leBytes 2 (x.index.toNat % 65536)

end Sys2Proof
end

