-- ==== Sys2Proof/Machine/Commands.lean ====
section
/-! DEFINITION. What becomes of a command in flight: its kill and requeue (11 R330), its end with a status (10 R286,
R308), what a RUN that does not commit leaves on its blocks (04 R118, 06 R168), what its commit does there, and the
reference counts of weight versions (07 R198). -/

namespace Sys2Proof.Machine

/-! ### Time and accounting (R336) -/

/-- Nanoseconds since reset as far as the commands have reported them (log 4). -/
def State.time (s : State) : Nat := s.beat.clock + s.beat.at_

/-- Cycles at 700 MHz of a span of nanoseconds. -/
def cycles700 (ns : Nat) : Nat := ns * 7 / 10

/-- Adds to counter `i` of a list of counters. -/
def bump (l : List Cnt) (i n : Nat) : List Cnt := setAt l i (((l[i]?).getD Cnt.zero).add n)
def bumpMax (l : List Cnt) (i n : Nat) : List Cnt := setAt l i (((l[i]?).getD Cnt.zero).max n)

/-- Adds to an accounting counter of a command's stream and of its context (R336). -/
def State.account (s : State) (g c i n : Nat) : State :=
  (s.updStrm g (fun x => { x with acct := bump x.acct i n })).updCtx c (fun x => { x with acct := bump x.acct i n })

/-- A wait ends (R336 indices 0 and 1). -/
def State.accountWait (s : State) (g c n : Nat) : State :=
  ((s.account g c 0 n).updStrm g (fun x => { x with acct := bumpMax x.acct 1 n })).updCtx c
    (fun x => { x with acct := bumpMax x.acct 1 n })

/-! ### Programs -/

/-- The program that a command runs, if it runs one. -/
def State.programOf (s : State) (x : Cmd) : Option Program :=
  match (s.part (s.ctxPart x.ctx)).model, x.op with
  | some m, .run p => Tab.find m.programs p.program
  | some m, .optstep p => Tab.find m.programs p.program
  | _, _ => none

/-- The program on a block. -/
def State.blockProgram (s : State) (b : Nat) : Option Program :=
  match (s.block b).run with
  | none => none
  | some id => match s.cmd id with
    | none => none
    | some x => s.programOf x

/-- The partition ordinals that a command's block group names: first, size. -/
def Cmd.groupRange (x : Cmd) : Option (Nat × Nat) :=
  match x.op with
  | .run p => some (p.bgFirst, p.bgSize)
  | .optstep p => some (p.bgFirst, p.bgSize)
  | _ => none

/-! ### Blocks after a RUN (R97, R112, R116, R118, R140, R165, R166, R168) -/

/-- Scratch lines and work areas are undefined at the start of every RUN; `seed` names the act. -/
def fullTile (seed : Nat) : Mem := Mem.undef {} 0 20480 seed

/-- The engines of a block fall idle when its RUN leaves it. -/
def Block.idle (b : Block) : Block :=
  { b with
    run := none, ended := false, acked := false, loops := [], sums := {}, lane := {}, drain := none,
    tq := [], work := [], queue := [], bars := 0, barWait := false, ptakePos := 0, shadow := [], land := [], bsSaved := none, pc := 0 }

/-- Committed copies stay and working copies and scratch slots go (R116, R118). -/
def Block.dropWorking (b : Block) (p : Program) : Block :=
  { b with
    fold := (b.fold.filter (fun f => decide (f.1 < p.persist))).map (fun f =>
      (f.1, { f.2 with working := {}, written := false })) }

/-- The resident and landing lines of a program, in bytes. -/
def Program.keepBytes (p : Program) : Nat := (p.resLines + p.landLines) * 256

/-- An area's bytes. -/
def Area.bytes (a : Area) : List Byte := (List.range a.units).flatMap (fun u => Tab.get (zeros 64) a.staged (a.base + u))

/-- Bytes `lo` to `hi - 1` of landing lines whose content is that of a landing area: for an area that a RUN has landed its bytes, else none
that is defined (R179). -/
def Block.overAreas (b : Block) (lo hi seed : Nat) (m : Mem) : Mem :=
  (b.chans.flatMap (fun k => k.2.areas)).foldl (fun (m : Mem) (a : Area) =>
    if lo ≤ a.addr ∧ a.addr + 64 * a.units ≤ hi then
      (if a.consumed.isSome then m.writeN a.addr a.bytes else m.undef a.addr (a.addr + 64 * a.units) seed)
    else m) m

/-- Lines of one memory put into another. -/
def graftLines (src : Mem) (ls : List Nat) (m : Mem) : Mem := ls.foldl (fun (m : Mem) l => m.graft src (l * 256) (l * 256 + 256)) m

/-- The landing lines of a program, in bytes. -/
def Program.landSpan (p : Program) : Nat × Nat := (p.resLines * 256, p.keepBytes)

/-- What a RUN that does not commit leaves on a block (R97, R118, R168): the areas that it consumed are armed again, and their content is
undefined until the LAND that consumes them (R179). -/
def Block.abandon (b : Block) (id seed : Nat) (p : Program) : Block :=
  let b := if b.run = some id then
      (({ b with
         bs := match b.bsSaved with | some m => b.bs.graft m 0 p.keepBytes | none => b.bs } : Block).dropWorking p).idle
    else b
  let left := b.parked.filter (fun k => k.id != id)
  let mine := (b.chans.flatMap (fun k => k.2.areas)).filter (fun a => a.consumed == some id)
  let hide (m : Mem) : Mem := mine.foldl (fun (m : Mem) (a : Area) => m.undef a.addr (a.addr + 64 * a.units) seed) m
  { b with
    bs := hide b.bs, bsSaved := b.bsSaved.map hide, parked := left,
    cs := b.cs.filter (fun e => e.by_ != some id),
    chans := b.chans.map (fun k =>
      let sent := if b.run.isNone then left.foldl (fun n q => Nat.max n (Tab.get 0 q.sent k.1)) k.2.committed else k.2.sent
      (k.1, { k.2 with
      sent := sent, again := k.2.again || decide (sent < k.2.sent),
      areas := k.2.areas.map (fun a => if a.consumed = some id then { a with consumed := none } else a) })) }

/-- A RUN that is done leaves the block to the next one; what it staged on the block waits for its commit (R25): resident and landing lines are
again as last committed, but for areas that it has landed (R165, R179). -/
def Block.park (b : Block) (id seed : Nat) (p : Program) : Block :=
  let k : Parked :=
    { id := id, lines := b.bs.part 0 p.keepBytes, shadow := b.shadow, land := b.land,
      fold := (b.fold.filter (fun f => decide (f.1 < p.persist) && f.2.written)).map (fun f => (f.1, f.2.working)),
      sent := b.chans.map (fun c => (c.1, c.2.sent)) }
  (({ b with
      parked := b.parked ++ [k],
      bs := match b.bsSaved with
        | some m => b.overAreas p.landSpan.1 p.landSpan.2 seed (graftLines m b.land (b.bs.graft m 0 (p.resLines * 256)))
        | none => b.bs } : Block).dropWorking p).idle

/-- Redirected resident lines become permanent (R166), and the landing lines that the RUN wrote as it left them. A RUN that wrote more resident
lines than its shadow pool holds leaves them undefined (log 11). -/
def landLines (seed : Nat) (p : Program) (k : Parked) (m : Mem) : Mem :=
  let m := graftLines k.lines k.land m
  if p.shadowLines < k.shadow.length then k.shadow.foldl (fun (m : Mem) l => m.undef (l * 256) (l * 256 + 256) seed) m
  else graftLines k.lines k.shadow m

/-- What a RUN's commit does on a block: redirections become permanent, captures become committed, working copies of
persistent slots become the committed ones, consumed areas leave (R97, R116, R165, R166, R168); areas armed or landed since keep what they
hold. A RUN that runs on the block meanwhile keeps its own view. -/
def Block.commit (b : Block) (id seed : Nat) (p : Program) : Block :=
  match b.parked.find? (fun k => k.id == id) with
  | none => b
  | some k =>
    let others : Block := { b with chans := b.chans.map (fun c => (c.1, { c.2 with areas := c.2.areas.filter (fun a => a.consumed != some id) })) }
    let kept (m : Mem) : Mem :=
      if k.land.isEmpty then landLines seed p k m else others.overAreas p.landSpan.1 p.landSpan.2 (seed + 1) (landLines seed p k m)
    { b with
      parked := b.parked.filter (fun k => k.id != id),
      bs := if b.run.isNone then kept b.bs else b.bs,
      bsSaved := b.bsSaved.map kept,
      cs := b.cs.map (fun e => if e.by_ = some id then { e with by_ := none } else e),
      fold := k.fold.foldl (fun (t : Tab FoldSlot) f => Tab.upd {} t f.1 (fun x => { x with committed := f.2 })) b.fold,
      chans := b.chans.map (fun c => (c.1, { c.2 with
        committed := Nat.max c.2.committed (Tab.get 0 k.sent c.1),
        areas := c.2.areas.filter (fun a => a.consumed != some id) })) }

/-- Takes a command off its blocks without a commit. -/
def State.freeBlocks (s : State) (x : Cmd) : State :=
  let p := (s.programOf x).getD {}
  let s := x.blocks.foldl (fun (s : State) b =>
    s.updBlock b (fun k => k.abandon x.id s.fresh p)) s
  s.burn

/-- The frames kept for a command go with it (R378). -/
def State.forgetFrames (s : State) (cmd : Nat) : State :=
  { s with lnk := { s.lnk with unacked := s.lnk.unacked.filter (fun u => u.cmd != cmd) } }

/-! ### Kill (R330, R331) -/

/-- Legs that a pre-emption never kills: those of collectives and PERMUTE, and NORMREDUCE's cross-shard leg (R331). -/
def Cmd.shielded (x : Cmd) : Bool :=
  match x.op with
  | .reduce _ | .gather _ | .broadcast _ | .permute _ => true
  | .normreduce _ => x.coll.cross
  | _ => false

/-- The ns within which an engine stops after a kill or purge order: at most 1,000 (R330, R378; log 4). -/
def stopNs (seed : Nat) : Nat := Config.freeBits seed 0 % 1001

/-- A block is without a new owner from a kill on (R337 index 6). -/
def Block.preempted (b : Block) (now : Nat) : Block :=
  { b with preFrom := some (b.preFrom.getD now), govNs := b.govNs + (match b.govFrom with | some f => now - f | none => 0), govFrom := none }

/-- A block is taken: the spans in which it waited for an owner, or was named by a held command, end (R337 indices 6 and 8). -/
def Block.taken (b : Block) (now : Nat) : Block :=
  { b with preNs := b.preNs + (match b.preFrom with | some f => now - f | none => 0), preFrom := none,
           govNs := b.govNs + (match b.govFrom with | some f => now - f | none => 0), govFrom := none }

/-- A command that the governor holds names a free block (R47, R337 index 8, R470). -/
def Block.governed (b : Block) (now : Nat) : Block :=
  if b.run.isSome || b.preFrom.isSome then b else { b with govFrom := some (b.govFrom.getD now) }

/-- A pre-emption kills a running command that is not done and not shielded: its staging is dropped, its blocks are
free, and it is requeued (R330). RERUN_LOST takes the cycles of the slowest die from its issue to its stop (R336). -/
def State.kill (s : State) (id : Nat) : State :=
  match s.cmd id with
  | none => s
  | some x =>
    if x.phase = .issued && !x.shielded then
      let lost := (s.time - x.issuedAt + stopNs s.fresh) * s.slowest x.blocks / 1000
      let s := x.blocks.foldl (fun (s : State) b => s.updBlock b (fun k => k.preempted s.beat.at_)) (s.freeBlocks x)
      let s := s.updCmd id (fun y =>
        { y with
          phase := .accepted, writes := [], census := [], toks := [], pulls := [], sigs := [], blocks := [], acked := [], moved := 0,
          kills := y.kills + 1, queuedAt := s.time, queued := true, fail := none, overrun := false, legOver := false, okSegs := [] })
      let s := s.forgetFrames id
      let s := s.account x.strm x.ctx 3 1
      s.account x.strm x.ctx 4 lost
    else s

/-! ### Reference counts (R198) -/

/-- Adds to the count of a version of an entry. -/
def WVer.count (w : WVer) (v : BitVec 16) (n : Nat) : WVer :=
  if w.v = v then { w with countCur := w.countCur + n } else { w with countStash := w.countStash + n }

def WVer.uncount (w : WVer) (v : BitVec 16) (n : Nat) : WVer :=
  if w.v = v then { w with countCur := w.countCur - n } else { w with countStash := w.countStash - n }

/-- The end of a command gives back the counts taken at its acceptance. -/
def State.unbind (s : State) (x : Cmd) : State :=
  x.binds.foldl (fun (s : State) b => s.updWeight b.1 (fun w => w.uncount b.2 1)) s

/-- The binding words of a command. -/
def opBinds : Op → List (BitVec 32)
  | .run p => p.binds.filter (· != 0)
  | .permute p => if p.bind = 0 then [] else [p.bind]
  | _ => []

/-- Holds of a context on a version. -/
def State.holdOf (s : State) (c w : Nat) (v : BitVec 16) : Nat :=
  ((s.holds.find? (fun h => h.ctx == c && h.wreg == w && h.version == v)).map (·.n)).getD 0

def State.addHold (s : State) (c w : Nat) (v : BitVec 16) : State :=
  let s := s.updWeight w (fun x => x.count v 1)
  if 0 < s.holdOf c w v then
    { s with holds := s.holds.map (fun h => if h.ctx = c && h.wreg = w && h.version = v then { h with n := h.n + 1 } else h) }
  else { s with holds := s.holds ++ [{ ctx := c, wreg := w, version := v, n := 1 }] }

def State.removeHold (s : State) (c w : Nat) (v : BitVec 16) : State :=
  if 0 < s.holdOf c w v then
    let s := s.updWeight w (fun x => x.uncount v 1)
    let less := s.holds.map (fun h => if h.ctx = c && h.wreg = w && h.version = v then { h with n := h.n - 1 } else h)
    { s with holds := less.filter (fun h => decide (0 < h.n)) }
  else s

/-! ### Train masks (07 R191, R192) -/

/-- The train mask of a gradient region of a context: the one that its loadset gives, or the last that an OPTSTEP of its pair has committed
(R191, R202; log 17). -/
def State.trainMask (s : State) (c r : Nat) : W64 := ((s.ctx c).region r).desc.mask

/-- The masks of a context's gradient regions. -/
def State.masksOf (s : State) (c : Nat) : Tab W64 :=
  ((s.ctx c).regions.filter (fun r => r.2.valid && r.2.kind == 3)).map (fun r => (r.1, s.trainMask c r.1))

/-- The parts of bytes `o` to `o + n - 1` of a region of `size` bytes that a mask leaves trained: first byte and length, a slab each
(R191, R192). -/
def trainedParts (mask : Option W64) (size o n : Nat) : List (Nat × Nat) :=
  match mask with
  | none => [(o, n)]
  | some m =>
    ((List.range 64).filter (fun k => m.getLsbD k)).filterMap (fun k =>
      let lo := Nat.max o ((k * size + 63) / 64)
      let hi := Nat.min (o + n) (((k + 1) * size + 63) / 64)
      if lo < hi then some (lo, hi - lo) else none)

/-- The mask under which a command writes a region: the one in force when it was issued (R192). -/
def State.trainedMask (s : State) (x : Cmd) (r : Nat) : Option W64 := Tab.find (if x.issuedOnce then x.masks else s.masksOf x.ctx) r

/-! ### What a collective reads and writes (12 R362, R363) -/

/-- What a collective's operation names: source, destination, LENGTH, format of REDUCE, and whether DST holds the
reduced shard alone. -/
structure CollGeo where
  src : Ref := {}
  dst : Ref := {}
  length : Nat := 0
  fmt : Fmt := .h16
  isMax : Bool := false
  scatter : Bool := false
  kind : Nat := 0
  root : Nat := 0
  deriving DecidableEq, Repr

/-- Kinds: 1 REDUCE, 2 GATHER, 3 BROADCAST, 4 NORMREDUCE's cross-shard leg, 0 none of these. -/
def geoOf : Op → CollGeo
  | .reduce p =>
    { src := p.src, dst := p.dst, length := p.length, fmt := if p.fmt = 3 then .w40 else .h16, isMax := p.op == 1,
      scatter := p.scatter, kind := 1 }
  | .gather p => { src := p.src, dst := p.dst, length := p.length, kind := 2 }
  | .broadcast p => { src := p.src, dst := p.dst, length := p.length, kind := 3, root := p.root }
  | .normreduce _ => { kind := 4 }
  | _ => {}

/-- Bytes of a shard: LENGTH ÷ N, or the whole of SRC for GATHER. -/
def Cmd.shardLen (x : Cmd) : Nat :=
  let g := geoOf x.op
  if g.kind = 2 then g.length else g.length / Nat.max 1 x.coll.grp.n

/-- Bytes of DST that a collective writes. -/
def Cmd.dstLen (x : Cmd) : Nat :=
  let g := geoOf x.op
  if g.kind = 2 then x.shardLen * x.coll.grp.n else if g.scatter then x.shardLen else g.length

/-- DST is undefined to every reader, but for its frozen slabs (R192, R363). -/
def State.collUndef (s : State) (x : Cmd) : State :=
  let g := geoOf x.op
  let e := (s.ctx x.ctx).region g.dst.region
  (trainedParts (s.trainedMask x g.dst.region) e.size g.dst.off x.dstLen).foldl (fun (s : State) q =>
    s.regUndef e (s.writeBuf x.ctx g.dst.region) q.1 q.2) s

/-- Bytes of a dense tile in staging, and of a compressed tile, of the stepped region (log 18). -/
def packSizes (region : Nat) : Nat × Nat := if Config.packQ8 region then (4352, 2816) else (2304, 1792)

/-- Bytes of the staging region that the pack stage of an OPTSTEP reads: a dense tile for each compressed tile of the stepped region (R195). -/
def State.stageBytes (s : State) (c : Nat) (p : OptP) : Nat :=
  let w := s.weight (bindWreg p.step)
  let z := packSizes w.region
  ((s.ctx c).region w.region).size / z.2 * z.1

/-! ### The end of a command with a status -/

/-- The loadset that a PLACE created goes again: no region, no claim (R257). -/
def State.unplace (s : State) (c : Nat) : State :=
  let pt := s.ctxPart c
  let mine := match (s.part pt).model with | some x => x.by_ == some c | none => false
  let ws := ((s.ctx c).regions.filter (fun r => r.2.kind == 2 && mine)).map (fun r => r.2.wreg)
  let s := s.updCtx c (fun x => { x with regions := x.regions.filter (fun r => r.1 == 0), ld := {}, load := 0 })
  -- the claim of an attaching PLACE goes with its use of the model (R260)
  if mine then
    { s with parts := Tab.set s.parts pt { s.part pt with model := none, tabs := [], slots := [] },
             wver := s.wver.filter (fun w => !ws.contains w.1) }
  else s.updPart pt (fun q => { q with model := q.model.map (fun x => { x with users := x.users.filter (· != c), claim := none }) })

/-- The buffer that an OPTSTEP writes: the other one with stash, else the only one (R200, R202). -/
def WVer.receiving (w : WVer) : Nat := if w.stash then (if w.curBuf then 0 else 1) else 0

/-- An OPTSTEP ends without committing (R202): the closing mark goes; once its RUN was issued, the receiving buffer is
undefined and V − 1 ceases to exist if it held it. -/
def State.endOptstep (s : State) (x : Cmd) (p : OptP) : State :=
  let w := bindWreg p.step
  let e := s.weight w
  let s := s.updWeight w (fun k => { k with closing := 0, busyBy := none })
  if x.issuedOnce then
    let r := (s.ctx x.ctx).region e.region
    let s := s.regUndef r e.receiving 0 r.size
    if e.stash && e.sValid then s.updWeight w (fun k => { k with sValid := false, countStash := 0 }) else s
  else s

/-- Restarts the sequence of a context's collective group (R359). -/
def State.restartSeq (s : State) (c g : Nat) : State :=
  s.updCtx c (fun x => { x with collSeq := Tab.drop x.collSeq g })

/-- The collective group that an operation names. -/
def opGroup : Op → Option Nat
  | .reduce p | .gather p | .broadcast p => some p.group
  | .normreduce p => some p.group
  | .permute p => some p.group
  | _ => none

/-- What the end of a command without a commit undoes, by its operation. -/
def State.undo (s : State) (x : Cmd) : State :=
  match x.op with
  | .streamOpen p =>
    match Tab.find (s.ctx x.ctx).streams p.lstream with
    | none => s
    | some g =>
      let s := { s with strms := Tab.drop s.strms g }
      s.updCtx x.ctx (fun c =>
        { c with streams := Tab.drop c.streams p.lstream, cq := if p.defineCq then Tab.drop c.cq p.cq else c.cq })
  | .loadPlace _ => s.unplace x.ctx
  | .optstep p => s.endOptstep x p
  | .permute p =>
    let s := s.restartSeq x.ctx p.group
    if p.bind = 0 then s else s.updWeight (bindWreg p.bind) (fun w => { w with closing := 0, busyBy := none })
  | .reduce p | .gather p | .broadcast p => (s.restartSeq x.ctx p.group).collUndef x
  | .normreduce p =>
    let s := s.restartSeq x.ctx p.group
    s.updCtx x.ctx (fun c => { c with norm := if Tab.get 0 c.norm p.tag / 4 = x.id then Tab.set c.norm p.tag (x.id * 4 + 2) else c.norm })
  | .wsSwitch _ _ => s.updPart (s.ctxPart x.ctx) (fun q => { q with sw := { q.sw with closed := false, drained := false } })
  | .wsStage _ => s.updPart (s.ctxPart x.ctx) (fun q => { q with sw := if q.sw.isOpen then q.sw else { q.sw with staged := false } })
  | _ => s

/-- The regions that a command delivers into. -/
def deliversTo : Op → List Nat
  | .copy p => [p.dst.region]
  | .fill p => [p.dst.region]
  | .reduce p | .gather p | .broadcast p => [p.dst.region]
  | _ => []

/-- A timeout or a reset that cuts a VERIFY, or a delivery into a region that is LOADING, leaves every region that has an unverified segment
UNDEFINED (R263). A PERMUTE delivers into any. -/
def State.cutLoad (s : State) (x : Cmd) (st : Nat) : State :=
  let c := s.ctx x.ctx
  let hit := match x.op with
    | .loadVerify _ | .permute _ => true
    | op => (deliversTo op).any (fun r => (c.region r).valid && (c.region r).state == 1)
  if (st == stTimeout || st == stPurged) && c.load == 1 && hit then s.updCtx x.ctx Ctx.undefineUnverified else s

/-- The Dispatcher gives up its copy of a packet that waits, and the record reserved for it (R285). -/
def State.dropHeld (s : State) (g : Nat) : State :=
  let x := s.strm g
  match x.held with
  | none => s
  | some _ =>
    (s.updStrm g (fun x => { x with held := none })).updCtx x.ctx (fun c =>
      { c with cq := Tab.upd {} c.cq x.cq (fun q => { q with reserved := q.reserved - 1 }) })

/-- Halts a stream with a status (R286), which raises its context's source (R456). -/
def State.halt (s : State) (g : Nat) (st : Nat) : State :=
  ((s.dropHeld g).updStrm g (fun x => { x with halted := true, lastStatus := BitVec.ofNat 8 st })).raise (64 + (s.strm g).ctx)

/-- CONT_ON_ERR (R291). -/
def contOnErr (h : Hdr) : Bool := h.flags.getLsbD 5

/-- An accepted command ends with a status and no result: its blocks are free, its staging is dropped, its counts go,
its stream halts, and its record is written in the next window that writes records. -/
def State.endWith (s : State) (id st kind ix : Nat) : State :=
  match s.cmd id with
  | none => s
  | some x =>
    let s := s.freeBlocks x
    let s := (s.undo x).cutLoad x st
    let s := (s.unbind x).forgetFrames id
    let s := s.updCmd id (fun y =>
      { y with
        phase := .refused, status := st, dkind := kind, dindex := ix, writes := [], census := [], sigs := [],
        toks := [], pulls := [], blocks := [], binds := [], moved := 0, final := true })
    if x.h.flags.getLsbD 5 then s else s.halt x.strm st

/-- Ends every command of a list. -/
def State.endAll (s : State) (ids : List Nat) (st kind ix : Nat) : State :=
  ids.foldl (fun (s : State) i => s.endWith i st kind ix) s

/-- A command that has been accepted and has not ended. -/
def Cmd.live (x : Cmd) : Bool := x.phase == .accepted || x.phase == .issued || x.phase == .done

/-! ### Engines (R378, R386) -/

def engDma (stack j : Nat) : Nat := 0x100 + 2 * stack + j
def engPass (d : Nat) : Nat := 0x200 + d
def engPort (n : Nat) : Nat := 0x300 + n
def engIssue (d : Nat) : Nat := 0x400 + d
def engColl : Nat := 0x700
def engDispatcher : Nat := 0x701
/-- Blocks have no engine number (R386): the model numbers block b as 0x10000 + b. -/
def engBlock (b : Nat) : Nat := 0x10000 + b

/-- The stacks on which a command's legs move bytes: those of its destination region's dies (R307). -/
def State.legStacks (s : State) (x : Cmd) : List Nat :=
  let of (r : Nat) : List Nat := stacksOf ((s.ctx x.ctx).region r).dmask
  match x.op with
  | .copy p => of p.dst.region
  | .fill p => of p.dst.region
  | .loadPlace _ | .loadVerify _ | .adapterVerify _ | .wsVerify _ => stacksOf (s.part (s.ctxPart x.ctx)).layout.dies
  | .normreduce _ => if x.coll.cross then [] else stacksOf (s.part (s.ctxPart x.ctx)).layout.dies
  | .optstep p => if x.packing then of p.stageRegion else []
  | _ => []

/-- The regions that the HBM MOVs of a program name, and whether it has Pass MOVs (R174). -/
def Program.movRegions (p : Program) : List Nat :=
  p.instrs.filterMap (fun w => match decodeTI w with | some (.mov k m) => if k ≤ 3 then some m.aux else none | _ => none)
def Program.usesPass (p : Program) : Bool :=
  p.instrs.any (fun w => match decodeTI w with | some (.mov k _) => decide (6 ≤ k) | _ => false)

/-- The stacks that the work of an issued command reaches: those of its legs and of the regions that it reads, and those of a RUN's
transfers (R13, R378). -/
def State.workStacks (s : State) (x : Cmd) : List Nat :=
  let of (r : Nat) : List Nat := stacksOf ((s.ctx x.ctx).region r).dmask
  s.legStacks x ++
    (match x.op with
     | .copy p => of p.src.region
     | _ => if x.blocks.isEmpty then [] else (((s.programOf x).getD {}).movRegions).flatMap of)

/-- Both DMA engines of a stack. -/
def engStack (k : Nat) : List Nat := [engDma k 0, engDma k 1]

/-- The engines that hold a command's work (R378): the Dispatcher's queues for one that has not ended; for one that has been issued, its
blocks with the issue units of their dies, the DMA engines of the stacks it reaches, the Pass units, the Collective engine, and the ports
whose frames of its own are not yet acknowledged. -/
def State.enginesOf (s : State) (x : Cmd) : List Nat :=
  (if x.live then [engDispatcher] else []) ++
  (if x.phase = .issued || x.phase = .done then
    let dies := (x.blocks.map dieOf).eraseDups
    x.blocks.map engBlock ++ dies.map engIssue ++ (s.workStacks x).flatMap engStack ++
    (if ((s.programOf x).getD {}).usesPass then dies.map engPass else []) ++
    (match x.op with
     | .reduce _ | .gather _ | .broadcast _ | .permute _ => [engColl]
     | .normreduce _ => if x.coll.cross then [engColl] else []
     | .routeDispatch _ | .routeRetrace _ | .combineForward _ | .combineRetrace _ =>
       (diesOf (s.part (s.ctxPart x.ctx)).layout.dies).map engPass
     | _ => []) ++
    ((s.lnk.unacked.filter (fun u => u.cmd == x.id && decide (u.plane < 32))).map (fun u => engPort u.plane))
  else []).eraseDups

/-- Orders a purge (R378): the engines that hold the work owe an acknowledgement; the order goes out. -/
def State.purge (s : State) (ctx cmd : Option Nat) (beat : Nat) (owed : List Nat) : State × Nat :=
  let id := s.nextId
  ({ s with nextId := id + 1,
            purges := s.purges ++ [{ id := id, ctx := ctx, cmd := cmd, beat := beat, owed := owed }],
            out := s.out ++ owed.map (fun e => .purge id e) }, id)

/-- An engine that the Dispatcher may not issue to (R382, R387). -/
def State.engineHeld (s : State) (e : Nat) : Bool :=
  s.quarantined.contains e || s.purges.any (fun p => p.owed.contains e)

/-- Both DMA engines of a stack are held: no transfer to or from it proceeds (R382). -/
def State.stackHeld (s : State) (k : Nat) : Bool := (engStack k).all s.engineHeld

/-- An overrun leg of another command holds an engine (R54). -/
def State.overrunHolds (s : State) (x : Cmd) (e : Nat) : Bool :=
  s.cmds.any (fun y => y.id != x.id && y.phase == .issued && y.overrun && y.blocks.isEmpty && e != engDispatcher && (s.enginesOf y).contains e)

end Sys2Proof.Machine
end

