-- ==== Sys2Proof/Machine/Frames.lean ====
section
/-! DEFINITION. Link frames (12 R344 to R355, R371): the plane a frame leaves on, sending it, its end-to-end
acknowledgement, and the checks on receipt. -/

namespace Sys2Proof.Machine

/-! ### Frame types (R345) -/

def fDiscover : Nat := 0x01
def fDiscoverReply : Nat := 0x02
def fBeatMarker : Nat := 0x03
def fEpochAnnounce : Nat := 0x04
def fHopAck : Nat := 0x05
def fHopCredit : Nat := 0x06
def fE2eAck : Nat := 0x07
def fE2eNotready : Nat := 0x08
def fCollData : Nat := 0x10
def fCollAbort : Nat := 0x11
def fPermData : Nat := 0x12
def fPermMark : Nat := 0x13
def fChanData : Nat := 0x20
def fChanCommit : Nat := 0x21
def fChanCredit : Nat := 0x22
def fPassTry : Nat := 0x30
def fPassReply : Nat := 0x31
def fPassMark : Nat := 0x32
def fPassRow : Nat := 0x33

/-- The virtual lane of a type (R345). -/
def laneOf (ty : Nat) : Nat :=
  if [fCollData, fPermData, fPermMark].contains ty then 1
  else if [fChanData, fChanCommit].contains ty then 2
  else if 0x30 ≤ ty ∧ ty ≤ 0x33 then 3 else 0

/-- The five types that act on one hop only (R354). -/
def oneHop (ty : Nat) : Bool := [0x01, 0x02, 0x03, 0x05, 0x06].contains ty

/-- Credit units of 256 B that a frame takes on its lane (R345, R346). -/
def frameUnits (fr : Frame) : Nat := (44 + fr.payload.length + 255) / 256

/-! ### Planes (R352) -/

/-- A valid LNK_EXC entry matches a destination: its first PLEN address bits agree. -/
def excMatches (e : W64) (d : Nat) : Bool :=
  let n := Nat.min 24 (bits e.toNat 56 5)
  e.getLsbD 63 && bits e.toNat 32 24 / 2 ^ (24 - n) == d / 2 ^ (24 - n)

/-- The plane mask of a destination. -/
def State.planes (s : State) (d : Nat) : List Nat :=
  (List.range 32).filter (fun n =>
    s.lnk.up.getLsbD n && !s.lnk.excl.getLsbD n && d != s.lnk.addr.toNat &&
      !s.lnk.exc.any (fun e => excMatches e.2 d && e.2.getLsbD n))

/-- The first plane of a mask after plane `p`, modulo 32. -/
def planeAfter (mask : List Nat) (p : Nat) : Option Nat :=
  match mask.find? (fun n => decide (p < n)) with
  | some n => some n
  | none => mask.head?

/-! ### The header (R5, R344) -/

/-- Big-endian bytes of a number (R5). -/
def beBytes (n v : Nat) : List Byte := (leBytes n v).reverse

/-- The number that big-endian bytes spell (R5). -/
def beNat (l : List Byte) : Nat := leNat l.reverse

/-- The 40 header bytes of a frame (R344). -/
def frameHeader (ty : Nat) (fr : Frame) : List Byte :=
  beBytes 1 ty ++ beBytes 1 (fr.hops * 16 + laneOf ty * 4) ++ beBytes 3 fr.dst ++ beBytes 3 fr.src ++ beBytes 2 fr.srcEpoch.toNat ++
    beBytes 1 fr.dstCtx ++ beBytes 1 fr.srcCtx ++ beBytes 2 fr.srcGen.toNat ++ beBytes 2 fr.payload.length ++ beBytes 4 fr.tag.toNat ++
    beBytes 8 fr.key.toNat ++ beBytes 8 fr.off.toNat ++ beBytes 4 fr.lseq

/-- What a frame puts on the wire before its CRC: the header, then the payload in the byte order of the memory it comes from (R5, R344). -/
def frameWire (ty : Nat) (fr : Frame) : List Byte := frameHeader ty fr ++ fr.payload

/-- The big-endian field of `n` bytes from byte `i` of a frame. -/
def beFld (l : List Byte) (i n : Nat) : Nat := beNat (sub8 l i n)

/-- The frame that bytes received on a port spell, with its TYPE (R344). -/
def frameOf (port : Option Nat) (l : List Byte) : Nat × Frame :=
  (beFld l 0 1,
   { port := port, hops := beFld l 1 1 / 16, dst := beFld l 2 3, src := beFld l 5 3, srcEpoch := BitVec.ofNat 16 (beFld l 8 2),
     dstCtx := beFld l 10 1, srcCtx := beFld l 11 1, srcGen := BitVec.ofNat 16 (beFld l 12 2), tag := BitVec.ofNat 32 (beFld l 16 4),
     key := BitVec.ofNat 64 (beFld l 20 8), off := BitVec.ofNat 64 (beFld l 28 8), lseq := beFld l 36 4,
     payload := (l.drop 40).take (beFld l 14 2) })

/-! ### Peers (R371) -/

/-- The link die of a port (R14, R371). -/
def linkDie (p : Nat) : Nat := p / 16

/-- What the device has recorded of another: its entries in the two tables agree but for the die and the time of the last frame. -/
def State.peer (s : State) (d : Nat) : Option Peer := s.lnk.peers.find? (fun q => q.device == d)

/-- Enters a device in a link die's table, in place of the least recently used entry where the table is full, and brings what the other
die's table records of it up to the same (R371, R373). -/
def State.setPeer (s : State) (p : Peer) : State :=
  let rest := (s.lnk.peers.filter (fun q => q.device != p.device || q.die != p.die)).map (fun (q : Peer) =>
    if q.device = p.device then { p with die := q.die, last := q.last } else q)
  let here := rest.filter (fun q => q.die == p.die)
  let old := here.foldl (fun (m : Nat) q => Nat.min m q.last) s.now
  let room := if here.length < Config.peerMax then rest else
    match rest.findIdx? (fun q => q.die == p.die && q.last == old) with | some i => rest.eraseIdx i | none => rest
  { s with lnk := { s.lnk with peers := room ++ [p] } }

/-- A frame is exchanged with a device over a port: the port's link die has the device in its table (R371). -/
def State.meet (s : State) (p d : Nat) : State :=
  s.setPeer { (s.peer d).getD { device := d } with die := linkDie p, last := s.now }

/-! ### Sending -/

/-- HOPS of the frames that leave (R355, R376). -/
def State.hopsOut (s : State) : Nat := Nat.max 1 s.lnk.hopLimit.toNat

/-- A frame leaves on a port: it carries HOPS (R355), takes the port's next LSEQ and enters the replay buffer (R346); it uses the credit of
its lane. -/
def State.putOnPort (s : State) (p ty : Nat) (fr : Frame) : State :=
  let q := s.port p
  let fr := { fr with lseq := q.lseqTx % 2 ^ 32, port := none, hops := s.hopsOut }
  let v := laneOf ty
  let q := { q with lseqTx := q.lseqTx + 1, replayBuf := q.replayBuf ++ [{ ty := ty, fr := fr }],
                    credits := setAt q.credits v ((q.credits[v]?).getD 0 - frameUnits fr) }
  let s := (s.updPort p (fun _ => q)).send (.frame (some p) ty fr)
  if oneHop ty then s else s.meet p fr.dst

/-- Whether a port holds the credit that a frame needs on its lane (R346). -/
def State.hasCredit (s : State) (p ty : Nat) (fr : Frame) : Bool :=
  decide (frameUnits fr ≤ ((s.port p).credits[laneOf ty]?).getD 0)

/-- Whether a port can send a frame: it holds the credit, and the replay buffer of 256 frames has room (R26, R346). -/
def State.canPut (s : State) (p ty : Nat) (fr : Frame) : Bool := decide ((s.port p).replayBuf.length < 256) && s.hasCredit p ty fr

/-- A port sends a frame of its own hop, or holds it behind those that wait (R26, R346). -/
def State.portSend (s : State) (p ty : Nat) (fr : Frame) : State :=
  if (s.port p).waiting.isEmpty && s.canPut p ty fr then s.putOnPort p ty fr
  else s.updPort p (fun q => { q with waiting := q.waiting ++ [(ty, fr)] })

/-- The header fields that every frame of the device carries. -/
def State.stamp (s : State) (fr : Frame) : Frame := { fr with src := s.lnk.addr.toNat, srcEpoch := s.lnk.devEpoch }

/-- The four credits of a HOP_CREDIT as its KEY has them, VL0 first (R345; log 44). -/
def creditKey (l : List Nat) : W64 :=
  BitVec.ofNat 64 (beNat (l.flatMap (fun n => beBytes 2 n)))

/-- A port gives back the credit that it owes, when a HOP_CREDIT can go (R346). -/
def State.giveCredit (s : State) (p : Nat) : State :=
  let q := s.port p
  let fr : Frame := s.stamp { dst := 0xFFFFFF, key := creditKey q.owed }
  if q.owing && q.waiting.isEmpty && s.canPut p fHopCredit fr then
    (s.updPort p (fun q => { q with owed := [0, 0, 0, 0], owing := false })).putOnPort p fHopCredit fr
  else s

/-- A port owes the far end the credit of a frame that it has taken in; the credit of an answer goes back with that of the next frame
(R346; log 44). -/
def State.oweCredit (s : State) (p ty n : Nat) : State :=
  s.updPort p (fun q =>
    { q with owed := setAt q.owed (laneOf ty) ((q.owed[laneOf ty]?).getD 0 + n), owing := q.owing || !(ty == fHopAck || ty == fHopCredit) })

/-- The frames of its own hop that a port holds go as credit and room allow, in order; then what it owes (R346). -/
def State.flushPort (s : State) (p : Nat) : State :=
  ((s.port p).waiting.foldl (fun (s : State) w =>
    match (s.port p).waiting with
    | [] => s
    | k :: rest =>
      if k = w && s.canPut p w.1 w.2 then (s.updPort p (fun q => { q with waiting := rest })).putOnPort p w.1 w.2 else s) s).giveCredit p

/-- The place of the next frame for a destination in its rotation (R352). -/
def State.turn (s : State) (d : Nat) : Nat := Tab.get 0 s.lnk.rotation d

/-- The plane that a frame takes when it is first sent: the lowest for VL0, else the rotation's. -/
def State.firstPlane (s : State) (ty d : Nat) : Option Nat :=
  let m := s.planes d
  if laneOf ty = 0 then m.head? else m[s.turn d % Nat.max 1 m.length]?

/-- The plane of a frame that has its primary plane: that, or the next in the mask (R352). -/
def State.planeFrom (s : State) (d p : Nat) : Option Nat := if (s.planes d).contains p then some p else planeAfter (s.planes d) p

/-- The rotation of a destination moves on when a frame of VL1 to VL3 has taken its primary plane (R352). -/
def State.rotate (s : State) (ty d : Nat) : State :=
  if laneOf ty = 0 then s else { s with lnk := { s.lnk with rotation := Tab.set s.lnk.rotation d (s.turn d + 1) } }

def State.remember (s : State) (u : Unacked) : State := { s with lnk := { s.lnk with unacked := s.lnk.unacked ++ [u] } }

/-- A frame of VL0 waits behind those for the same destination, so that their order holds (R352). -/
def State.mustWait (s : State) (ty d : Nat) : Bool :=
  laneOf ty == 0 && s.lnk.unacked.any (fun u => laneOf u.ty == 0 && u.fr.dst == d && u.plane == 32)

/-- Sends a device-addressed frame for a command (0 for none). A frame of VL1 to VL3 is kept until it is acknowledged; a
frame that finds no plane, no credit or no room waits, with its primary plane if it has one (R346, R352, R353). While the device is
fenced it sends only types 0x01 to 0x06 (R397). -/
def State.sendFrame (s : State) (cmd ty : Nat) (fr : Frame) : State :=
  let fr := s.stamp fr
  let keep := laneOf ty != 0
  if s.fenced && decide (6 < ty) then s
  else if fr.dst = s.lnk.addr.toNat then
    let s := s.send (.frame none ty fr)
    if keep then s.remember { ty := ty, fr := fr, plane := 33, cmd := cmd } else s
  else
    match s.firstPlane ty fr.dst with
    | none =>
      ({ s with lnk := { s.lnk with unreach := sat32 s.lnk.unreach 1 } }).remember { ty := ty, fr := fr, plane := 32, cmd := cmd }
    | some p =>
      let wait := s.mustWait ty fr.dst || !s.canPut p ty fr
      let s := s.rotate ty fr.dst
      if wait then s.remember { ty := ty, fr := fr, plane := 32, cmd := cmd, primary := if keep then some p else none }
      else
        let s := s.putOnPort p ty fr
        if keep then s.remember { ty := ty, fr := fr, plane := p, cmd := cmd, primary := some p } else s

def State.sendFrames (s : State) (cmd ty : Nat) (l : List Frame) : State :=
  l.foldl (fun (s : State) f => s.sendFrame cmd ty f) s

def State.awaitsAck (s : State) (cmd : Nat) : Bool := s.lnk.unacked.any (fun u => u.cmd == cmd)

/-- Takes element `i` out of a list. -/
def dropAt {α : Type} : List α → Nat → List α
  | [], _ => []
  | _ :: t, 0 => t
  | a :: t, i + 1 => a :: dropAt t i

/-- The plane on which a kept frame goes next: its first for one that waits, else its alternate plane (R352). -/
def State.nextPlane (s : State) (u : Unacked) : Option Nat :=
  if u.plane = 32 then
    match u.primary with
    | some p => s.planeFrom u.fr.dst p
    | none => s.firstPlane u.ty u.fr.dst
  else planeAfter (s.planes u.fr.dst) u.plane

/-- Sends kept frame `i` again: a frame that waits has its first sending; another goes on its alternate plane and counts
in LNK_RETX (R347, R352, R353). -/
def State.resendAt (s : State) (i : Nat) : State :=
  match s.lnk.unacked[i]? with
  | none => s
  | some u =>
    if s.fenced && decide (6 < u.ty) then s
    else if u.plane = 33 then
      { s with lnk := { s.lnk with retx := sat32 s.lnk.retx 1 }, out := s.out ++ [.frame none u.ty u.fr] }
    else
      match s.nextPlane u with
      | none => { s with lnk := { s.lnk with unreach := sat32 s.lnk.unreach 1 } }
      | some p =>
        if s.canPut p u.ty u.fr then
          let s := if u.plane = 32 then (if u.primary.isSome then s else s.rotate u.ty u.fr.dst)
            else { s with lnk := { s.lnk with retx := sat32 s.lnk.retx 1 } }
          let s := s.putOnPort p u.ty u.fr
          if laneOf u.ty = 0 then { s with lnk := { s.lnk with unacked := dropAt s.lnk.unacked i } }
          else { s with lnk := { s.lnk with unacked := setAt s.lnk.unacked i { u with plane := p, primary := some (u.primary.getD p) } } }
        else s

/-- A kept frame waits and can be sent now. -/
def State.canGo (s : State) (u : Unacked) : Bool :=
  u.plane == 32 && (match s.nextPlane u with | some p => s.canPut p u.ty u.fr | none => false)

/-- The first frame that waits and can go: one of VL0 before any other, which has strict priority (R346), and in order for a
destination (R352). -/
def State.readyIx (s : State) : Option Nat :=
  let l := s.lnk.unacked
  let first (d : Nat) (i : Nat) : Bool := (l.take i).all (fun v => !(laneOf v.ty == 0 && v.plane == 32 && v.fr.dst == d))
  let ready (vl0 : Bool) (i : Nat) : Bool :=
    match l[i]? with
    | some u => (laneOf u.ty == 0) == vl0 && s.canGo u && (!vl0 || first u.fr.dst i)
    | none => false
  match (List.range l.length).find? (ready true) with
  | some i => some i
  | none => (List.range l.length).find? (ready false)

/-- Sends the waiting frames that can go, at most `n` of them. -/
def State.flushWaiting : Nat → State → State
  | 0, s => s
  | n + 1, s => match s.readyIx with
    | none => s
    | some i => State.flushWaiting n (s.resendAt i)

/-! ### Receiving -/

/-- An epoch or generation `a` is older than `b`, both 16 bits and wrapping. -/
def older16 (a b : BitVec 16) : Bool := a != b && decide ((b - a).toNat < 32768)

/-- A command exchanges traffic with a device (R373): a collective or PERMUTE that lists it, a RUN whose channels pair with
it, a Pass unit command that needs it (R236). -/
def Cmd.talksTo (x : Cmd) (d : Nat) : Bool :=
  x.coll.grp.members.any (fun m => m.1 == d) || x.chans.any (fun c => c.2.peerDev == d) ||
    x.toks.any (fun t => (List.range t.ents.length).any (fun i =>
      match t.ents[i]? with
      | some e => e.device == d && (e.st == 1 || t.waiting.contains i)
      | none => false))

/-- A COMBINE or RETRACE of a batch that has rows on a device (R236). -/
def State.routeNeeds (s : State) (x : Cmd) (d : Nat) : Bool :=
  let on (table : Nat) (b : BitVec 16) : Bool :=
    match Tab.find (s.part (s.ctxPart x.ctx)).tabs table with
    | some t => t.batches.any (fun k => k.b == b && k.sentF.any (fun w => w.1 / 1024 == d))
    | none => false
  match x.op with
  | .combineForward p | .combineRetrace p => on p.table p.batch
  | .routeRetrace p => on p.table p.batch
  | _ => false

/-- Commands that exchange traffic with a device whose epoch changed end in the next window (R373). -/
def State.markPeer (s : State) (d : Nat) : State :=
  { s with cmds := s.cmds.map (fun (x : Cmd) => if x.live && (x.talksTo d || s.routeNeeds x d) then { x with peerEpoch := some d } else x) }

/-- The pairs of a context's channels with a far context restart (R365, R374). -/
def State.resetChans (s : State) (f : ChanEnt → Bool) : State :=
  { s with blocks := s.blocks.map (fun b => (b.1, { b.2 with chans := b.2.chans.filter (fun k => !f k.2.ent) })) }

/-- Records what a frame shows of its sender (R371, R373, R374), in the table of the link die that it came by. -/
def State.learn (s : State) (fr : Frame) : State :=
  if fr.src = s.lnk.addr.toNat then s
  else
    let die := linkDie (fr.port.getD 0)
    let p := (s.peer fr.src).getD { device := fr.src }
    let same := p.epoch == some fr.srcEpoch
    let s := if same || p.epoch.isNone then s else (s.markPeer fr.src).resetChans (fun e => e.peerDev == fr.src)
    let newGen := same && (match Tab.find p.gens fr.srcCtx with | some g => older16 g fr.srcGen | none => false)
    let s := if newGen then
        { (s.resetChans (fun e => e.peerDev == fr.src && e.peerCtx == fr.srcCtx)) with
          cmds := s.cmds.map (fun (x : Cmd) =>
            if x.live && x.chans.any (fun c => c.2.peerDev == fr.src && c.2.peerCtx == fr.srcCtx) then { x with peerEpoch := some fr.src }
            else x) }
      else s
    s.setPeer { p with die := die, epoch := some fr.srcEpoch, gens := Tab.set (if same then p.gens else []) fr.srcCtx fr.srcGen, last := s.now }

/-- A port answers a frame that it has taken in: HOP_ACK for its LSEQ, and the credit that it used (R346). -/
def State.hopTake (s : State) (p ty lseq units : Nat) : State :=
  let s := (s.updPort p (fun q => { q with lseqRx := lseq + 1 })).oweCredit p ty units
  if ty = fHopAck then s else (s.portSend p fHopAck (s.stamp { dst := 0xFFFFFF, key := BitVec.ofNat 64 lseq })).giveCredit p

/-- Answers a good frame on its port (R346). -/
def State.hopAnswer (s : State) (ty : Nat) (fr : Frame) : State :=
  match fr.port with
  | none => s
  | some p => s.hopTake p ty fr.lseq (frameUnits fr)

def State.countStray (s : State) : State := { s with lnk := { s.lnk with stray := sat32 s.lnk.stray 1 } }
def State.countDup (s : State) : State := { s with lnk := { s.lnk with dup := sat32 s.lnk.dup 1 } }
def State.countLate (s : State) : State := { s with lnk := { s.lnk with late := sat32 s.lnk.late 1 } }

/-- The port that a frame arrives on is UP, or it crosses the module fabric (R350). -/
def State.portOpen (s : State) (fr : Frame) : Bool :=
  match fr.port with | none => true | some p => (s.port p).state == 3

/-- A frame carries an older device epoch or generation tag than its receiver has seen of its sender (R348). -/
def State.stale (s : State) (fr : Frame) : Bool :=
  let late (e : BitVec 16) (g : Option (BitVec 16)) : Bool :=
    older16 fr.srcEpoch e || (fr.srcEpoch == e && (match g with | some v => older16 fr.srcGen v | none => false))
  if fr.src = s.lnk.addr.toNat then late s.lnk.devEpoch (some (s.ctx fr.srcCtx).gen)
  else match s.peer fr.src with
    | some p => (match p.epoch with | some e => late e (Tab.find p.gens fr.srcCtx) | none => false)
    | none => false

/-- A frame of a device that has announced itself fenced (R374). -/
def State.fromFenced (s : State) (fr : Frame) : Bool :=
  match s.peer fr.src with | some p => p.fenced | none => false

/-- The checks of R348 but the last, with the fence (R397) and the peers that a fenced device's announcement named (R374):
none when the frame is dropped, else the state that has learned from it. -/
def State.receive (s : State) (ty : Nat) (fr : Frame) : Option State :=
  s.hopAnswer ty fr |> fun s =>
  if s.fenced && laneOf ty != 0 then none
  else if fr.dst != s.lnk.addr.toNat then none
  else
    if s.stale fr || s.fromFenced fr then none else some (s.learn fr)

/-- What a frame that fails those checks counts as. -/
def State.dropFrame (s : State) (ty : Nat) (fr : Frame) : State :=
  let s := s.hopAnswer ty fr
  if s.fenced && laneOf ty != 0 then s.countStray
  else if fr.dst != s.lnk.addr.toNat then { s with lnk := { s.lnk with misroute := sat32 s.lnk.misroute 1 } }
  else if s.stale fr then s.countLate
  else s

/-- A frame's meaning after the checks of R348, on a port that is up. -/
def State.withFrame (s : State) (ty : Nat) (fr : Frame) (f : State → State) : State :=
  if s.portOpen fr then
    match s.receive ty fr with
    | some s => f s
    | none => s.dropFrame ty fr
  else s

/-- The end-to-end acknowledgement of a frame (R347). -/
def State.ack (s : State) (fr : Frame) : State :=
  s.sendFrame 0 fE2eAck { dst := fr.src, dstCtx := fr.srcCtx, srcCtx := fr.dstCtx, srcGen := (s.ctx fr.dstCtx).gen, tag := fr.tag,
                          key := fr.key, off := fr.off, payload := (leBytes 8 1).reverse }

/-- A frame that finds no command yet, or that is refused (R359, R369). -/
def State.notReady (s : State) (fr : Frame) (refused : Bool) : State :=
  s.sendFrame 0 fE2eNotready
    { dst := fr.src, dstCtx := fr.srcCtx, srcCtx := fr.dstCtx, srcGen := (s.ctx fr.dstCtx).gen, tag := fr.tag, key := fr.key,
      off := if refused then fr.off ||| (1#64 <<< 63) else fr.off }

/-- Whether a kept frame is one that an acknowledgement names: same destination, TAG and KEY, and an OFF in its bitmap
(R345). -/
def ackCovers (fr : Frame) (u : Unacked) : Bool :=
  let step := if u.ty = fChanData then 64 else 4096
  let first := fr.off.toNat
  let o := u.fr.off.toNat
  u.fr.dst == fr.src && u.fr.tag == fr.tag && u.fr.key == fr.key && u.plane != 32 && decide (first ≤ o) &&
    (o - first) % step == 0 && decide ((o - first) / step < 64) && bitOf (leNat fr.payload.reverse) ((o - first) / step)

end Sys2Proof.Machine
end

