-- ==== Sys2Proof/Machine/Partition.lean ====
section
/-! DEFINITION. Partition layouts and mode changes (11 R312 to R322): the layout record, kept and rebuilt partitions,
arming, cancelling, and the latch at an edge. -/

namespace Sys2Proof.Machine

/-- Cause codes of a staged change (02 R59). -/
def causeNear : Nat := 1
def causeShape : Nat := 2
def causeBudget : Nat := 3
def causeBusy : Nat := 4
def causeUnaligned : Nat := 5
def causeLate : Nat := 6

/-- Entry `n` of a layout record (R314); none when a reserved byte is nonzero. -/
def layoutEntry (l : List Byte) (n : Nat) : Option Layout :=
  let o := 32 * n
  if allZero (sub8 l (o + 8) 24) && decide (fld l (o + 2) 2 < 2 ^ 14) then
    some { granules := BitVec.ofNat 16 (fld l o 2), streams := BitVec.ofNat 14 (fld l (o + 2) 2),
           lo := BitVec.ofNat 16 (fld l (o + 4) 2), hi := BitVec.ofNat 16 (fld l (o + 6) 2) }
  else none

/-- The ranges of R314 for one entry. -/
def Layout.ok (x : Layout) : Bool :=
  if x.present then
    decide (1 ≤ x.streams.toNat) && decide (x.streams.toNat ≤ 8192) && decide (x.lo.toNat ≤ 36735) &&
      decide (x.lo.toNat < x.hi.toNat) && decide (x.hi.toNat ≤ 36736)
  else x == {}

/-- Two partitions of one layout may stand together (R312). -/
def Layout.apart (x y : Layout) : Bool :=
  x.granules &&& y.granules == 0 &&
    (Nat.land x.dies y.dies == 0 || decide (x.hi.toNat ≤ y.lo.toNat) || decide (y.hi.toNat ≤ x.lo.toNat))

/-- The rules of R312 to R314 over the sixteen entries. -/
def layoutsOk (l : List Layout) : Bool :=
  l.all (·.ok) && decide ((l.map (fun x => if x.present then x.streams.toNat else 0)).foldl (· + ·) 0 ≤ 8192) &&
    (List.range 16).all (fun i => (List.range i).all (fun j =>
      let x := (l[i]?).getD {}
      let y := (l[j]?).getD {}
      !x.present || !y.present || x.apart y))

/-- A partition is kept by a new layout (R315). -/
def State.keeps (s : State) (new : Layout) (n : Nat) : Bool :=
  let old := (s.part n).layout
  old.present && new.present && old.granules == new.granules && old.lo == new.lo &&
    decide (old.hi.toNat ≤ new.hi.toNat) && decide (s.partStreams n ≤ new.streams.toNat)

/-- A partition is rebuilt by a new layout: present in either and not kept (R315). -/
def State.rebuilds (s : State) (new : Layout) (n : Nat) : Bool :=
  ((s.part n).layout.present || new.present) && !s.keeps new n

/-- Contexts of a partition that exist. -/
def State.ctxsOf (s : State) (n : Nat) : List Nat :=
  (s.ctxs.filter (fun c => c.2.state != 0 && c.2.pt.toNat == n)).map (·.1)

def State.anyCtx (s : State) : Bool := s.ctxs.any (fun c => c.2.state != 0)

/-- No rebuilt partition holds a context (R315). -/
def State.rebuildsEmpty (s : State) (l : List Layout) : Bool :=
  (List.range 16).all (fun n => !s.rebuilds ((l[n]?).getD {}) n || (s.ctxsOf n).isEmpty)

/-- The layout that an ARM would arm: the pending one, or the one in force (R318). -/
def State.layoutToArm (s : State) : List Layout :=
  (List.range 16).map (fun n => if s.pt.pending then (s.part n).next else (s.part n).layout)

def State.keptSet (s : State) (l : List Layout) : List Nat :=
  (List.range 16).filter (fun n => s.keeps ((l[n]?).getD {}) n)

/-- The refusal cause of arming for a target beat, 0 for none, in the order of R57. -/
def State.armCause (s : State) (target : Nat) : Nat :=
  if !s.beat.aligned then causeUnaligned
  else if s.pt.armed.isSome then causeBusy
  else if target < s.now + 2 then causeNear
  else if !(layoutsOk s.layoutToArm && s.rebuildsEmpty s.layoutToArm) then causeShape
  else 0

/-- Sets the sixteen pending entries. -/
def State.setNext (s : State) (l : List Layout) : State :=
  (List.range 16).foldl (fun (s : State) n => s.updPart n (fun q => { q with next := (l[n]?).getD {} })) s

/-- Arms the change (R318). -/
def State.armMode (s : State) (target : Nat) (idle : Bool) : State :=
  let l := s.layoutToArm
  let kept := s.keptSet l
  let s := s.setNext l
  { s with pt := { s.pt with
      armed := some target, idle := idle, state := 1, epochNext := s.pt.epoch + 1, target := if idle then s.pt.target else BitVec.ofNat 64 target,
      armedKept := kept } }

/-- Disarms; an armed layout that was pending is pending again (R317, R318). -/
def State.disarmMode (s : State) : State :=
  let s := if s.pt.pending then s else s.setNext []
  { s with pt := { s.pt with armed := none, idle := false, state := 0, armedKept := [] } }

/-- A refused ARM or APPLY_IDLE shows in PT_MODE; an armed change is unaffected (R318). -/
def State.modeRefuse (s : State) (c : Nat) : State :=
  ({ s with pt := { s.pt with cause := BitVec.ofNat 4 c, state := if s.pt.armed.isSome then 1 else 3 } }).raise 8

/-- A cancel is too late once the counter has passed B − 2 (R57). -/
def State.cancelLate (s : State) : Bool :=
  match s.pt.armed with
  | some t => decide (t < s.now + 2)
  | none => false

/-- The refusal of APPLY_IDLE (R319): cause 4 or 2, else 0. -/
def State.idleCause (s : State) : Nat :=
  if s.anyCtx || s.pt.armed.isSome then causeBusy
  else if s.pt.pending && !layoutsOk ((List.range 16).map (fun n => (s.part n).next)) then causeShape
  else 0

/-- A pending or armed layout stands (R317). -/
def State.layoutWaits (s : State) : Bool := s.pt.pending || s.pt.armed.isSome

/-- The record of PARTITION_CONFIG (R316): sixteen layouts when it breaks no rule of R312 to R314. -/
def layoutRecord (l : List Byte) : Option (List Layout) :=
  let es := (List.range 16).map (layoutEntry l)
  if es.all (·.isSome) then
    let ls := es.filterMap id
    if layoutsOk ls then some ls else none
  else none

/-- The record becomes the pending layout (R316); nothing changes an armed one (R317). -/
def State.pendLayout (s : State) (l : List Layout) : State :=
  if s.pt.armed.isSome then s
  else
    let s := s.setNext l
    { s with pt := { s.pt with pending := true } }

/-- The blocks of a partition lose their owners, records and counters (R320, R333). -/
def Block.rebuilt (b : Block) : Block :=
  { b with acct := List.replicate 9 Cnt.zero, preFrom := none, preNs := 0, govFrom := none, govNs := 0, owner := none, spilled := [],
           run := none, lostSession := b.lostSession }

/-- A rebuilt partition begins empty (R320, R430); the blocks that it gives up lose what they counted as well. -/
def State.rebuildPart (s : State) (n : Nat) (new : Layout) : State :=
  let ords := s.numberBlocks new.granules
  let old := (s.part n).ordinals
  let s := s.updPart n (fun q =>
    { layout := new, next := q.next, preemptMin := q.preemptMin, ordinals := ords,
      sched := { next := q.sched.next, lenNext := q.sched.lenNext, originNext := q.sched.originNext } })
  (ords ++ old).foldl (fun (s : State) b => s.updBlock b Block.rebuilt) s

/-- The layout and epoch are latched at the target edge (R320): kept partitions take the layout's new bounds, rebuilt
ones begin empty, units that are present take the epoch. Lagging units keep theirs (R322). -/
def State.latchLayout (s : State) : State :=
  let l := (List.range 16).map (fun n => (s.part n).next)
  let kept := s.pt.armedKept
  let s := (List.range 16).foldl (fun (s : State) n =>
    let new := (l[n]?).getD {}
    if kept.contains n then s.updPart n (fun q => { q with layout := new })
    else if (s.part n).layout.present || new.present then s.rebuildPart n new else s) s
  let s := s.setNext []
  { s with pt := { s.pt with
      pending := false, armed := none, idle := false, state := 2, epoch := s.pt.epoch + 1,
      armedKept := [], prevKept := kept,
      unitEpoch := (List.range unitCount).foldl (fun (t : Tab (BitVec 16)) u =>
        if s.pt.lag.getLsbD u then t else Tab.set t u (s.pt.epoch + 1)) s.pt.unitEpoch } }

/-- A sender's epoch is current at a unit (R321). -/
def PtMod.current (p : PtMod) (u : Nat) (e : BitVec 16) (part : Nat) : Bool :=
  let v := Tab.get 0 p.unitEpoch u
  e == v || (e == v - 1 && p.prevKept.contains part)

/-- A packet's epoch is accepted (R294). -/
def State.epochAccepted (s : State) (e : BitVec 16) (part : Nat) : Bool :=
  e == s.pt.epoch || (e == s.pt.epoch - 1 && s.pt.prevKept.contains part)

end Sys2Proof.Machine
end

