-- ==== Sys2Proof/Machine/Accept.lean ====
section
/-! DEFINITION. Acceptance of a packet (10 R285 to R287, R293, R294): the checks in their order, each opcode's own rules,
and what acceptance does. -/

namespace Sys2Proof.Machine

/-! ### Collective groups and channels (12 R357, R358, R360, R364) -/

/-- Reads the group entry `g` of a context (R357); the member list lies in a region of the context. -/
def State.readGroup (s : State) (c g : Nat) : Option Group :=
  let l := s.home c (0x8000 + 32 * g) 32
  let n := fld l 4 2
  let mref := refOf l 16
  if decide (2 ≤ n) && decide (n ≤ 4096) && decide (fld l 6 2 < n) && decide (1 ≤ fld l 8 2) && decide (fld l 8 2 ≤ 6400) &&
      decide (1 ≤ fld l 10 2) && fld l 0 4 != 0 && fld l 12 4 == 0 && fld l 17 1 == 0 && fld l 24 8 == 0 &&
      s.allows c mref (8 * n) .rd false then
    let ml := s.readRef c mref (8 * n)
    if (List.range n).all (fun i => fld ml (8 * i + 4) 4 == 0) then
      some { jobTag := BitVec.ofNat 32 (fld l 0 4), n := n, myPos := fld l 6 2, rate := fld l 8 2, lat := fld l 10 2,
             members := (List.range n).map (fun i => (fld ml (8 * i) 3, fld ml (8 * i + 3) 1)) }
    else none
  else none

/-- The leg time A of a group in ns (R358). -/
def State.legTime (s : State) (g : Group) : Nat :=
  (s.beat.periodCur.toNat - s.beat.saddleCur.toNat) * 1000 - g.lat * 100

/-- The rules of R358 for a group entry. -/
def State.groupOk (s : State) (c : Nat) (g : Group) : Bool :=
  g.members[g.myPos]? == some (s.lnk.addr.toNat, c) &&
    decide (1000 + g.lat * 100 ≤ (s.beat.periodCur.toNat - s.beat.saddleCur.toNat) * 1000)

/-- The piece length P of a collective (R360). -/
def State.pieceOf (s : State) (g : Group) (unit : Nat) : Nat :=
  Nat.max unit (s.legTime g * g.rate / (g.n - 1) / unit * unit)

/-- The unit G of R358: 320 for W40, else 64. -/
def collUnit (fmt : Nat) : Nat := if fmt = 3 then 320 else 64

/-- Channel entry `k` of a context (R364). -/
def State.readChan (s : State) (c k : Nat) : ChanEnt :=
  let l := s.home c (0xC000 + 32 * k) 32
  { dir := fld l 0 1, peerCtx := fld l 1 1, peerDev := fld l 2 3, peerChan := fld l 5 1, localFirst := fld l 6 2,
    peerFirst := fld l 8 2, count := fld l 10 2, epoch := fld l 12 4 }

/-- The channels that a program's SENDs (DIR 1) and RECVs (DIR 2) name. -/
def Program.chanUses (p : Program) : List (Nat × Nat) :=
  p.instrs.filterMap (fun w => match decodeTI w with
    | some (.mov 4 m) => some (m.aux, 1)
    | some (.mov 5 m) => some (m.aux, 2)
    | _ => none)

/-! ### Order 7: region references -/

/-- Bytes of one side of a COPY (R306). -/
def copyBytes (fmt : Nat) (tiled : Bool) (rows cols pitch len : Nat) : Nat :=
  match Fmt.ofCopy fmt with
  | none => len
  | some f =>
    let tiles := (rows + 63) / 64 * ((cols + 63) / 64)
    if f == .q4 then tiles * 2304 else if f == .q8 then tiles * 4352
    else if tiled then tiles * (if f == .h16 then 8192 else 20480)
    else (rows - 1) * pitch + cols * f.size

/-- Bytes of the route, hold and save areas of a routing table (R212). -/
def RouteTab.routeBytes (d : RouteTab) : Nat := d.nbuf * d.maxTok * 128
def RouteTab.holdBytes (d : RouteTab) : Nat := d.holdRows * (rowBytes d.rowUnits + 64)
def RouteTab.saveBytes (d : RouteTab) : Nat := d.nbuf * d.maxTok * 8 * rowBytes d.rowUnits

/-- What a dispatch under a routing table writes beside its messages: route records, and hold copies under HOLD (R220, R222). -/
def RouteTab.dispatchRefs (d : RouteTab) : List (Ref × Nat × Right × Bool) :=
  (d.route, d.routeBytes, .wr, false) :: (if d.policy = 2 then [(d.hold, d.holdBytes, .wr, false)] else [])

/-- The region references of an operation: reference, length, right, and whether it may write a LOADING region. -/
def State.refsOf (s : State) (c : Nat) (op : Op) : List (Ref × Nat × Right × Bool) :=
  let grp (g : Nat) : Group := (s.readGroup c g).getD {}
  let tab (t : Nat) : RouteTab := (Tab.get {} (s.part (s.ctxPart c)).tabs t).d
  match op with
  | .copy p =>
    [(p.src, copyBytes p.srcFmt p.srcTiled p.rows p.cols p.srcPitch p.length, .rd, false),
     (p.dst, copyBytes p.dstFmt p.dstTiled p.rows p.cols p.dstPitch p.length, .wr, true)]
  | .fill p => [(p.dst, p.length, .wr, true)]
  | .reduce p =>
    [(p.src, p.length, .rd, false), (p.dst, if p.scatter then p.length / (grp p.group).n else p.length, .wr, true)]
  | .gather p => [(p.src, p.length, .rd, false), (p.dst, p.length * (grp p.group).n, .wr, true)]
  | .broadcast p => [(p.src, p.length, .rd, false), (p.dst, p.length, .wr, true)]
  | .normreduce p =>
    (p.result, 32, .wr, false) :: (p.regions.filter (fun r => r.1 != 0)).map (fun r =>
      ({ region := r.1, off := 0 }, 1, .rd, false))
  | .permute p => [(p.plan, 32, .rd, false), (p.cursor, 32, .rd, false), (p.cursor, 32, .wr, false)]
  | .routeDispatch p =>
    [(p.rows, (p.first + p.count) * rowBytes (tab p.table).rowUnits, .rd, false), (p.grec, (p.first + p.count) * 64, .rd, false)] ++
      (tab p.table).dispatchRefs
  | .routeOpen p =>
    let t := tab p.table
    if t.policy = 2 then [(t.route, t.routeBytes, .rd, false), (t.route, t.routeBytes, .wr, false), (t.hold, t.holdBytes, .rd, false)]
    else []
  | .routeRetrace p =>
    [(p.rows, (p.first + p.count) * rowBytes (tab p.table).rowUnits, .rd, false),
     ((tab p.table).route, (tab p.table).routeBytes, .rd, false)]
  | .routeCounts p => [(p.rows, 64, .wr, false)]
  | .routeXset p => [(p.rows, p.count * 8, .rd, false)]
  | .combineForward p | .combineRetrace p =>
    let t := tab p.table
    let save := p.save && (match op with | .combineForward _ => true | _ => false)
    [(p.outp, (p.batch.toNat % Nat.max 1 t.nbuf * t.maxTok + p.first + p.count) * rowBytes t.rowUnits, .wr, false),
     (t.route, t.routeBytes, .rd, false)] ++
      (if save then [(t.save, t.saveBytes, .wr, false), (t.route, t.routeBytes, .wr, false)] else [])
  | .optstep p => if p.pack then [({ region := p.stageRegion, off := p.stageOff }, s.stageBytes c p, .rd, false)] else []
  | .partitionConfig l => [(l, 512, .rd, false)]
  | .censusRead d _ => [(d, 10240, .wr, false)]
  | .accountRead p => [(p.dst, if p.scope = 2 then 72 else 64, .wr, false)]
  | _ => []

/-- Order 7 (R248, R258, R293). -/
def State.refsFail (s : State) (c : Nat) (op : Op) : Fail :=
  failOver (fun _ (r : Ref × Nat × Right × Bool) => chk (s.allows c r.1 r.2.1 r.2.2.1 r.2.2.2) stRegionFault 1 r.1.region) 0
    (s.refsOf c op)

/-! ### Order 8: each opcode's own rules -/

/-- A pending OPTSTEP or PERMUTE of a weight-version entry (R200). -/
def State.stepPending (s : State) (w : Nat) : Bool := (s.weight w).busyBy.isSome

/-- The entry is in use and is that of a TRAIN region in the context's region table (R199). -/
def State.wregReach (s : State) (c w : Nat) : Bool :=
  (s.weight w).used && (s.ctx c).regions.any (fun r => r.2.valid && r.2.kind == 2 && r.2.wreg == w)

/-- A binding for which its command waits at the head of its stream: it names the version that a pending OPTSTEP will create (R199). -/
def State.bindWaits (s : State) (c : Nat) (b : BitVec 32) : Bool :=
  let w := bindWreg b
  s.wregReach c w && bindVersion b == (s.weight w).v + 1 &&
    s.cmds.any (fun x => some x.id == (s.weight w).busyBy && (match x.op with | .optstep _ => x.live | _ => false))

/-- What a binding word adds to the count of the version that it names, when it is for version `v` of entry `w` (R198). -/
def bindAdds (w : Nat) (v : BitVec 16) (b : BitVec 32) : Nat :=
  if b ≠ 0 ∧ bindWreg b = w ∧ bindVersion b = v then 1 else 0

/-- The refusals of R199 for a binding word that comes after others. -/
def State.bindFail (s : State) (c : Nat) (before : List (BitVec 32)) (b : BitVec 32) : Fail :=
  let w := bindWreg b
  let e := s.weight w
  let v := bindVersion b
  let cur := v == e.v
  let old := v == e.v - 1 && e.sValid
  firstFail
    [ chk (cur || old) stVersionStale 0 0,
      chk (bindMode b != 3 || decide (0 < s.holdOf c w v)) stVersionStale 0 0,
      chk (!((e.closing == 1 && cur) || (e.closing == 2 && !cur)) || decide (0 < s.holdOf c w v)) stVersionClosed 0 0,
      chk (decide ((if cur then e.countCur else e.countStash) + ((before ++ [b]).map (bindAdds w v)).foldl (· + ·) 0 ≤ 65535) &&
        (bindMode b != 2 || decide (0 < s.holdOf c w v) || decide (s.holds.length < Config.holdMax))) stVersionCount 0 0 ]

/-- R199: first every entry is looked for, then each binding word is checked, but for one that waits; `at_` is the first word's byte. -/
def State.bindsFail (s : State) (c at_ : Nat) (bs : List (BitVec 32)) : Fail :=
  (failOver (fun i b => chk (b == 0 || s.wregReach c (bindWreg b)) stRegionFault 9 (at_ + 4 * i)) 0 bs).andThen fun _ =>
  failOver (fun i b => if b = 0 ∨ s.bindWaits c b = true then none else s.bindFail c (bs.take i) b) 0 bs

/-- The refusals that RUN and OPTSTEP share (R303). -/
def State.runFail (s : State) (c program first size : Nat) : Fail :=
  let p := s.part (s.ctxPart c)
  let prog := (p.model.bind (fun m => Tab.find m.programs program))
  firstFail
    [ chk ((s.ctx c).load == 2 && prog.isSome) stLoadState 0 0,
      chk (decide (first + size ≤ p.ordinals.length)) stGroupRange 0 0,
      chk (match prog with
        | some q => q.channels == 0 || q.chanUses.all (fun u => (s.readChan c u.1).dir == u.2)
        | none => true) stMalformed 9 16 ]

/-- The group rules of a collective (R358); `byte` names the GROUP parameter. -/
def State.collFail (s : State) (c g byte : Nat) (lenOk : Group → Bool) : Fail :=
  match s.readGroup c g with
  | none => some (stMalformed, 9, byte)
  | some x =>
    (chk (s.groupOk c x) stMalformed 9 byte).andThen fun _ => chk (lenOk x) stMalformed 9 32

def RTable.openBatch (t : RTable) : Bool := t.batches.any (fun b => !b.doneF || (t.d.backward && !b.doneB))

/-- The batch of a table with a tag. -/
def RTable.batch (t : RTable) (b : BitVec 16) : Option BatchSt := t.batches.find? (fun x => x.b == b)

/-- The routing table of a context: one that its model declares. -/
def State.table (s : State) (c t : Nat) : Option RTable :=
  let p := s.part (s.ctxPart c)
  match p.model with
  | some m => if m.users.contains c then Tab.find p.tabs t else none
  | none => none

/-- The slot of a context (R213: CTX names its expert context). -/
def State.slot (s : State) (c t : Nat) : Option SlotSt :=
  match Tab.find (s.part (s.ctxPart c)).slots t with
  | some x => if x.d.ctx = c then some x else none
  | none => none

def SlotSt.buf (x : SlotSt) (b : BitVec 16) : Option SlotBuf :=
  match Tab.find x.bufs (b.toNat % Nat.max 1 x.d.nbuf) with
  | some k => if k.batch = b then some k else none
  | none => none

def SlotBuf.phase (k : SlotBuf) (ph : Nat) : PhaseSt := if ph = 0 then k.fwd else k.bwd

/-- What R216, R224 and R229 ask of a batch when DISPATCH or COMBINE issues and when CLOSE commits: a command that stands behind its OPEN in a stream is
accepted before the OPEN has committed, and ends with PASS_STATE if the batch is not there when its turn comes (log 38). -/
def State.routeNow (s : State) (c : Nat) (op : Op) : Fail :=
  match op with
  | .routeDispatch p =>
    chk (match s.table c p.table with
      | some t => t.dispatch.isSome && decide (p.first + p.count ≤ t.d.maxTok)
      | none => false) stPassState 4 p.table
  | .routeClose p =>
    chk (match s.table c p.table with
      | none => false
      | some t =>
        if p.phase = 0 then (match t.last.bind t.batch with | some x => !x.closedF | none => false)
        else (match t.batch p.batch with | some x => x.doneF && !x.closedB | none => false)) stPassState 4 p.table
  | .combineForward p | .combineRetrace p =>
    chk (match s.table c p.table with | some t => (t.batch p.batch).isSome | none => false) stPassState 4 p.table
  | _ => none

/-- The rules of the ROUTE operations (R211, R215, R227, R231) and of COMBINE (R228). -/
def State.routeFail (s : State) (c : Nat) (op : Op) : Fail :=
  let bad (i : Nat) : Fail := some (stPassState, 4, i)
  match op with
  | .routeOpen p =>
    match s.table c p.table with
    | none => bad p.table
    | some t =>
      let next := match t.last with | none => true | some l => p.batch == l + 1
      let closed := match t.last with
        | none => true
        | some l => (match t.batch l with | some x => x.closedF | none => true)
      let old := match t.batch (p.batch - BitVec.ofNat 16 t.d.nbuf) with
        | some x => if t.d.backward then x.doneB else x.doneF
        | none => true
      chk (next && closed && old) stPassState 4 p.table
  | .routeDispatch p =>
    match s.table c p.table with
    | none => bad p.table
    | some _ => none
  | .routeClose p =>
    match s.table c p.table with
    | none => bad p.table
    | some t => chk (p.phase == 0 || t.d.backward) stPassState 4 p.table
  | .routeRetrace p =>
    match s.table c p.table with
    | none => bad p.table
    | some t =>
      chk (t.d.backward && (match t.batch p.batch with | some x => x.doneF | none => false) &&
        decide (p.first + p.count ≤ t.d.maxTok)) stPassState 4 p.table
  | .routeReturn p =>
    match s.slot c p.table with
    | none => bad p.table
    | some x =>
      chk (match x.buf p.batch with
        | some k => (k.phase p.phase).isSealed
        | none => false) stPassState 4 p.table
  | .routeForceSeal p =>
    match s.slot c p.table with
    | none => bad p.table
    | some x =>
      chk (match Tab.find x.bufs (p.batch.toNat % Nat.max 1 x.d.nbuf) with
        | some k => k.batch == p.batch && !(k.phase p.phase).isSealed && (p.phase == 0 || (k.phase 0).isSealed)
        | none => p.phase == 0) stPassState 4 p.table
  | .routeCounts p =>
    if p.slot then chk (s.slot c p.table).isSome stPassState 4 p.table
    else chk (s.table c p.table).isSome stPassState 4 p.table
  | .routeXset p =>
    let part := s.part (s.ctxPart c)
    let inside := match part.model with
      | some m => m.users.contains c && (match m.window with
          | some w => decide (w.1 ≤ p.first) && decide (p.first + p.count ≤ w.1 + w.2 + 1)
          | none => false)
      | none => false
    let busy := s.parts.any (fun q => q.2.tabs.any (fun t =>
      t.2.openBatch && decide (0 < p.count) && overlaps (t.2.d.xbase, t.2.d.xcountM1) (p.first, p.count - 1)))
    chk (inside && !busy) stPassState 0 0
  | .combineForward p =>
    match s.table c p.table with
    | none => bad p.table
    | some t =>
      chk (t.d.rowFmt != 0 && decide (p.first + p.count ≤ t.d.maxTok)) stPassState 4 p.table
  | .combineRetrace p =>
    match s.table c p.table with
    | none => bad p.table
    | some t =>
      chk (t.d.rowFmt != 0 && t.d.backward && decide (p.first + p.count ≤ t.d.maxTok)) stPassState 4 p.table
  | _ => none

/-- A target of PREEMPT or CONTEXT_RESET is in the issuer's partition (R305). -/
def State.samePart (s : State) (c t : Nat) : Bool := (s.ctx t).state == 1 && (s.ctx t).pt == (s.ctx c).pt

/-- A reset of the target is pending, or took effect within the two beats before (R305). -/
def State.resetBusy (s : State) (t : Nat) : Bool :=
  (s.ctx t).reset.isSome || (match (s.ctx t).lastReset with | some b => decide (s.now ≤ b + 2) | none => false)

/-- A stream would break its partition's quota (R313, R317). -/
def State.streamRoom (s : State) (pt : Nat) : Bool :=
  let p := s.part pt
  decide (s.partStreams pt < p.layout.streams.toNat) && decide (s.strms.length < 8192) &&
    (!s.layoutWaits || !(s.keeps p.next pt) || decide (s.partStreams pt < p.next.streams.toNat))

/-- The refusals of STREAM_OPEN (R302). -/
def State.openFail (s : State) (c : Nat) (p : StreamOpenP) : Fail :=
  let x := s.ctx c
  let hs := s.homeSize c
  let q := Tab.get {} x.cq p.cq
  firstFail
    [ chk (Tab.find x.streams p.lstream).isNone stStreamState 0 0,
      chk (q.defined || p.defineCq) stStreamState 0 0,
      chk (!(q.defined && p.defineCq)) stStreamState 0 0,
      chk (decide (p.ring + 64 * 2 ^ p.ringLog2 ≤ hs) && (!p.defineCq || decide (p.cqOff + 32 * 2 ^ p.cqLog2 ≤ hs)))
        stStreamState 0 0,
      chk (s.streamRoom x.pt.toNat) stNoStreams 0 0 ]

/-- The stream that a local number names, when it is open. -/
def State.openStream (s : State) (c n : Nat) : Option Nat :=
  match Tab.find (s.ctx c).streams n with
  | some g => if (s.strm g).isOpen then some g else none
  | none => none

/-- A range of segments that goes beyond the last of them (R293, R301). -/
def segsFail (n : Nat) (p : LoadP) : Fail :=
  chk (p.segCount == 0 || decide (p.segFirst + p.segCount ≤ n)) stMalformed 9 20

/-- Order 8 (R293). -/
def State.ownFail (s : State) (c : Nat) (op : Op) : Fail :=
  let pt := s.ctxPart c
  let sw := (s.part pt).sw
  match op with
  | .streamOpen p => s.openFail c p
  | .streamClose n => chk (n != 0 && (s.openStream c n).isSome) stStreamState 0 0
  | .loadPlace p => placeFail s c p
  | .loadVerify p => (chk ((s.ctx c).load == 1) stLoadState 0 0).andThen fun _ => segsFail (s.ctx c).ld.segs.length p
  | .unload => none
  | .adapterPlace p => adapterFail s c p
  | .adapterVerify p => (chk (s.ctx c).ld.adOpen stLoadState 0 0).andThen fun _ => segsFail (s.ctx c).ld.adSegs.length p
  | .adapterDetach r => chk (((s.ctx c).region r).valid && ((s.ctx c).region r).kind == 5) stRegionFault 1 r
  | .run p => (s.runFail c p.program p.bgFirst p.bgSize).andThen fun _ => s.bindsFail c 40 p.binds
  | .optstep p =>
    let w := bindWreg p.step
    (s.runFail c p.program p.bgFirst p.bgSize).andThen fun _ =>
    firstFail
      [ chk (s.wregReach c w) stRegionFault 9 40,
        chk (bindVersion p.step == (s.weight w).v) stVersionStale 0 0,
        chk (!s.stepPending w) stVersionClosed 0 0 ]
  | .reduce p => s.collFail c p.group 44 (fun g => p.length % (g.n * collUnit p.fmt) == 0)
  | .gather p => s.collFail c p.group 44 (fun _ => p.length % 64 == 0)
  | .broadcast p => s.collFail c p.group 44 (fun g => p.length % (g.n * 64) == 0 && decide (p.root < g.n))
  | .normreduce p =>
    (failOver (fun i (r : Nat × Nat) => chk (r.1 == 0 || ((s.ctx c).region r.1).kind == 3) stRegionFault 1 (r.1 + 0 * i)) 0
      p.regions).andThen fun _ => s.collFail c p.group 36 (fun _ => true)
  | .permute p =>
    let cur := s.readRef c p.cursor 32
    let w := bindWreg p.bind
    let e := s.weight w
    (s.collFail c p.group 40 (fun _ => true)).andThen fun _ =>
    (chk (fld cur 0 1 == 0 || fld cur 4 4 == p.toEpoch.toNat) stMalformed 9 24).andThen fun _ =>
    (s.bindsFail c 44 [p.bind]).andThen fun _ =>
    if p.bind = 0 ∨ s.bindWaits c p.bind = true then none
    else firstFail
      [ chk (bindVersion p.bind == e.v) stVersionStale 0 0,
        chk (e.countCur == 0 && e.countStash == 0 && !s.stepPending w) stVersionClosed 0 0 ]
  | .routeOpen _ | .routeDispatch _ | .routeClose _ | .routeRetrace _ | .routeReturn _ | .routeForceSeal _
  | .routeCounts _ | .routeXset _ | .combineForward _ | .combineRetrace _ => s.routeFail c op
  | .wsStage p => (chk (!sw.staged) stLoadState 0 0).andThen fun _ => stageFail s c p
  | .wsVerify p => (chk (sw.staged && sw.by_ == c && !sw.closed) stLoadState 0 0).andThen fun _ => segsFail sw.segs.length p
  | .wsSwitch _ _ =>
    chk (sw.staged && sw.by_ == c && !sw.closed && (List.range sw.segs.length).all (fun i => sw.verified.contains i)) stLoadState 0 0
  | .wsAbort => chk (sw.staged && sw.by_ == c && !sw.closed) stLoadState 0 0
  | .preempt t _ | .preemptResume t =>
    chk (t != c && s.samePart c t) stNotPermitted 0 0
  | .contextReset t =>
    (chk (s.samePart c t) stNotPermitted 0 0).andThen fun _ => chk (!s.resetBusy t) stResetBusy 0 0
  | .partitionConfig l =>
    match layoutRecord (s.readRef c l 512) with
    | none => some (stMalformed, 0, 0)
    | some ls => chk (s.pt.armed.isNone && s.rebuildsEmpty ls) stLoadState 0 0
  | .modeArm _ t =>
    chk (s.armCause t == 0) stStageRefused 6 (s.armCause t)
  | .modeCancel => chk (!s.cancelLate) stStageRefused 6 causeLate
  | .accountRead p =>
    if p.scope = 1 then chk (s.openStream c p.lstream).isSome stStreamState 0 0
    else if p.scope = 2 then chk (decide (p.bgFirst + p.bgSize ≤ (s.part pt).ordinals.length)) stGroupRange 0 0
    else none
  | .copy _ | .fill _ | .fence | .signalAdd _ _ | .signalSet _ _ | .wait _ _ _ | .censusRead _ _ => none

/-! ### The checks in order (R293) -/

/-- Order 6: the context's right that an opcode needs (R300). -/
def Ctx.mayIssue (x : Ctx) (c : Nat) : Op → Bool
  | .wsStage _ | .wsVerify _ | .wsSwitch _ _ | .wsAbort | .preempt _ _ | .preemptResume _ => x.ptCtrl
  | .contextReset t => t == c || x.ptCtrl
  | .partitionConfig _ | .modeArm _ _ | .modeCancel => x.devCtrl
  | _ => true

/-- Order 1: the packet itself (R290, R293). -/
def badFail (h : Hdr) (op : Op) : Fail := (packetBad h op).map (fun b => (stMalformed, 9, b))

/-- A MODE_STAGE ARM carries the epoch after the one in force; any other value is out of range (R318). -/
def State.epochFail (s : State) : Op → Fail
  | .modeArm e _ => chk (e == s.pt.epoch + 1) stMalformed 9 18
  | _ => none

/-- Orders 1 to 7. -/
def State.headFail (s : State) (h : Hdr) (op : Op) : Fail :=
  let x := s.ctx h.ctx
  (badFail h op).andThen fun _ =>
  (s.epochFail op).andThen fun _ =>
  (chk (h.pstream == h.stream) stMalformed 9 4).andThen fun _ =>
  (chk (h.gen == x.gen) stGenStale 0 0).andThen fun _ =>
  (chk (s.epochAccepted h.epoch x.pt.toNat) stModeMismatch 0 0).andThen fun _ =>
  (chk (!s.fenced) stFenced 0 0).andThen fun _ =>
  (chk (x.mayIssue h.ctx op) stNotPermitted 0 0).andThen fun _ =>
  s.refsFail h.ctx op

/-- A context under the admission gate: its region table holds a readable BASE region (R267). -/
def Ctx.gated (x : Ctx) : Bool := x.regions.any (fun r => r.2.valid && r.2.kind == 1 && r.2.state == 0 && bitOf r.2.rights 0)

/-- Admission is closed to a command that would begin a request (R267). -/
def State.gateShut (s : State) (g : Nat) (h : Hdr) : Bool :=
  (s.part (s.ctxPart h.ctx)).sw.closed && (s.ctx h.ctx).gated && !(s.strm g).request

/-- All checks; a command that admission turns away is refused with ADMISSION_CLOSED without HOLD_NEW (R267). -/
def State.packetFail (s : State) (g : Nat) (h : Hdr) (op : Op) : Fail :=
  (s.headFail h op).andThen fun _ =>
  (chk (!(s.gateShut g h && !(s.part (s.ctxPart h.ctx)).sw.holdNew)) stAdmission 0 0).andThen fun _ => s.ownFail h.ctx op

/-- The packet waits at the head of its stream: admission holds it (R267), or it names the version that a pending OPTSTEP will create
(R199). -/
def State.packetWaits (s : State) (g : Nat) (h : Hdr) (op : Op) : Bool :=
  ((s.headFail h op).isNone && s.gateShut g h && (s.part (s.ctxPart h.ctx)).sw.holdNew) ||
    ((s.packetFail g h op).isNone && (opBinds op).any (s.bindWaits h.ctx))

/-- The Dispatcher takes packets of a stream (R286, R264, R383): it is open and not halted, and nothing stops the context's fetching. -/
def State.takes (s : State) (g : Nat) : Bool :=
  let x := s.strm g
  let c := s.ctx x.ctx
  s.bist.ready && x.isOpen && !x.halted && c.state == 1 && (match c.reset with | some r => r.done | none => true) &&
    !s.cmds.any (fun k => k.ctx == x.ctx && k.live && k.op == .unload)

/-- The Dispatcher may fetch from a stream (R285, R287): no copy of a packet waits at its head, TAIL is beyond HEAD, and its completion ring
has a free record. -/
def State.fetchable (s : State) (g : Nat) : Bool :=
  let x := s.strm g
  let q := Tab.get {} (s.ctx x.ctx).cq x.cq
  s.takes g && x.held.isNone && x.head != x.tail && q.defined && decide ((q.prod - q.cons).toNat + q.reserved < 2 ^ q.log2)

/-! ### Acceptance -/

/-- Timeout in beats (R55, R59): the packet's, or the default, 0 being treated as 1. -/
def State.timeoutOf (s : State) (h : Hdr) : Nat := if h.timeout = 0 then Nat.max 1 s.beat.timeoutDef.toNat else h.timeout

/-- The lowest free global stream number (R341). -/
def State.freeStream (s : State) : Nat := ((List.range 8192).find? (fun g => (Tab.find s.strms g).isNone)).getD 0

/-- HEAD advances past the packet and its record is reserved (R285, R287). -/
def State.takePacket (s : State) (g : Nat) : State :=
  let x := s.strm g
  let s := s.updStrm g (fun x => { x with head := x.head + 1, tail := if x.head = x.tail then x.tail + 1 else x.tail })
  s.updCtx x.ctx (fun c => { c with cq := Tab.upd {} c.cq x.cq (fun q => { q with reserved := q.reserved + 1 }) })

/-- The command that a packet makes. -/
def State.newCmd (s : State) (g : Nat) (h : Hdr) (op : Op) : Cmd :=
  { id := s.nextId, ctx := h.ctx, strm := g, cq := (s.strm g).cq, h := h, op := op, index := (s.strm g).head,
    acceptBeat := s.now, timeout := s.timeoutOf h, queuedAt := s.time, waitFrom := s.now }

/-- A refusal changes nothing but HEAD, the halt and the record (R293); that of a staged change is source 8 (R456). -/
def State.refuse (s : State) (g : Nat) (h : Hdr) (op : Op) (f : Nat × Nat × Nat) : State :=
  let x := { s.newCmd g h op with phase := .refused, atFetch := true, status := f.1, dkind := f.2.1, dindex := f.2.2 }
  let s := { s.takePacket g with cmds := s.cmds ++ [x], nextId := s.nextId + 1 }
  let s := if f.1 = stStageRefused then s.modeRefuse f.2.2 else s
  if contOnErr h then s else s.halt g f.1

/-- Sequence and piece length of an accepted collective (R359, R360). -/
def State.startColl (s : State) (id c g : Nat) (epoch : BitVec 32) (unit : Nat) : State :=
  let grp := (s.readGroup c g).getD {}
  let old := Tab.get (epoch, 0) (s.ctx c).collSeq g
  let seq := if old.1 = epoch then old.2 else 0
  let s := s.updCtx c (fun x => { x with collSeq := Tab.set x.collSeq g (epoch, seq + 1) })
  s.updCmd id (fun x => { x with coll := { x.coll with grp := grp, seq := seq, piece := s.pieceOf grp unit } })

/-- Engines that will owe an acknowledgement when context `t` is purged (R378). -/
def State.ctxEngines (s : State) (t : Nat) : List Nat :=
  ((s.cmds.filter (fun x => x.ctx == t)).flatMap s.enginesOf).eraseDups

/-- The layout epoch that an operation's frames carry. -/
def opEpoch : Op → BitVec 32
  | .reduce p | .gather p | .broadcast p => p.layoutEpoch
  | .normreduce p => p.layoutEpoch
  | .permute p => p.toEpoch
  | _ => 0

/-- The KEY of a collective's frames (R345): layout epoch, SEQ, phase, leg. -/
def collKeyOf (epoch : BitVec 32) (seq phase leg : Nat) : W64 :=
  BitVec.ofNat 64 (epoch.toNat * 2 ^ 32 + seq % 65536 * 65536 + phase % 4 * 16384 + leg % 16384)

def Cmd.collKey (x : Cmd) : W64 := collKeyOf (opEpoch x.op) x.coll.seq x.coll.phase x.coll.leg

/-- The members of a context's collectives in flight get COLL_ABORT (R374). -/
def State.collAborts (s : State) (t : Nat) : List Frame :=
  (s.cmds.filter (fun x => x.ctx == t && x.live)).flatMap (fun x =>
    if (opGroup x.op).isSome then
      x.coll.grp.members.map (fun m =>
        { dst := m.1, dstCtx := m.2, srcCtx := t, srcGen := (s.ctx t).gen, tag := x.coll.grp.jobTag, key := x.collKey })
    else [])

/-- The beat in whose window a reset accepted now takes effect (R51). -/
def State.effectBeat (s : State) : Nat := if s.beat.windowOpen then s.now + 1 else s.now

/-- A CONTEXT_RESET is acted on when it is accepted (R305, R383 step 1): the purge order goes out and the engines stop. -/
def State.startReset (s : State) (t : Nat) (cmd : Option Nat) (destroy : Bool) (beat : Nat) : State :=
  let owed := s.ctxEngines t
  let aborts := s.collAborts t
  let p := s.purge (some t) none beat owed
  let p := (((p.1.cmds.filter (fun x => x.ctx == t && x.phase == .issued)).foldl (fun (s : State) x =>
    s.freeBlocks x) p.1), p.2)
  (p.1.sendFrames 0 fCollAbort aborts).updCtx t (fun x =>
    { x with reset := some { effectBeat := beat, cmd := cmd, purge := p.2, destroy := destroy } })

/-- A reset of a context is pending: it has yet to take effect (R332). -/
def State.resetComing (s : State) (t : Nat) : Bool := match (s.ctx t).reset with | some r => !r.done | none => false

/-- Kills every running command of a context (R332). -/
def State.killAll (s : State) (t : Nat) : State :=
  (s.cmds.filter (fun x => x.ctx == t && x.phase == .issued)).foldl (fun (s : State) x => s.kill x.id) s

/-- The counts that the binding words of a command take (R198). -/
def State.takeBinds (s : State) (id : Nat) (op : Op) : State :=
  let bs := opBinds op
  (bs.foldl (fun (s : State) b => s.updWeight (bindWreg b) (fun w => w.count (bindVersion b) 1)) s).updCmd id
    (fun x => { x with binds := bs.map (fun b => (bindWreg b, bindVersion b)) })

/-- What the acceptance of an operation does beside queueing it. -/
def State.onAccept (s : State) (id c : Nat) (op : Op) : State :=
  match op with
  | .streamOpen p =>
    let g := s.freeStream
    let pt := s.ctxPart c
    let x : Strm :=
      { reserved := true, cq := p.cq, prio := p.prio, pt := pt, lstream := p.lstream, ctx := c, log2 := p.ringLog2, off := p.ring }
    let s := { s with strms := Tab.set s.strms g x }
    s.updCtx c (fun x =>
      { x with streams := Tab.set x.streams p.lstream g,
               cq := if p.defineCq then Tab.set x.cq p.cq { defined := true, off := p.cqOff, log2 := p.cqLog2 } else x.cq })
  | .loadPlace p => (placeAccept s id c p).updCmd id (fun x => { x with manifest := s.manifestAt c p.manifest })
  | .adapterPlace p => s.updCmd id (fun x => { x with manifest := s.manifestAt c p.manifest })
  | .wsStage p =>
    (s.updPart (s.ctxPart c) (fun q => { q with sw := { q.sw with staged := true, by_ := c } })).updCmd id
      (fun x => { x with manifest := s.manifestAt c p.manifest })
  | .partitionConfig l => s.updCmd id (fun x => { x with layouts := (layoutRecord (s.readRef c l 512)).getD [] })
  | .run p =>
    let s := s.takeBinds id op
    let ents := match (s.part (s.ctxPart c)).model.bind (fun m => Tab.find m.programs p.program) with
      | some q => q.chanUses.foldl (fun (t : Tab ChanEnt) u => Tab.set t u.1 (s.readChan c u.1)) []
      | none => []
    s.updCmd id (fun x => { x with chans := ents })
  | .optstep p =>
    let w := bindWreg p.step
    let e := s.weight w
    let cl := if !e.stash then 1 else if e.sValid then 2 else 0
    let ents := match (s.part (s.ctxPart c)).model.bind (fun m => Tab.find m.programs p.program) with
      | some q => q.chanUses.foldl (fun (t : Tab ChanEnt) u => Tab.set t u.1 (s.readChan c u.1)) []
      | none => []
    let nc := if p.normTag = 0 then none else (Tab.find (s.ctx c).norm p.normTag).filter (fun v => v % 4 != 1)
    let s := s.updWeight w (fun k => { k with closing := cl, busyBy := some id })
    s.updCmd id (fun x => { x with heldNow := cl != 0, chans := ents, normCmd := nc.map (· / 4) })
  | .reduce p => s.startColl id c p.group p.layoutEpoch (collUnit p.fmt)
  | .gather p | .broadcast p => s.startColl id c p.group p.layoutEpoch 64
  | .normreduce p =>
    let s := s.startColl id c p.group p.layoutEpoch 64
    s.updCtx c (fun x => { x with norm := Tab.set x.norm p.tag (id * 4) })
  | .permute p =>
    let drain := (s.cmds.filter (fun x => x.ctx == c && x.live && x.id != id && opGroup x.op == some p.group &&
      (match x.op with
       | .reduce q | .gather q | .broadcast q => q.layoutEpoch == p.fromEpoch
       | .normreduce q => q.layoutEpoch == p.fromEpoch
       | .permute q => q.fromEpoch == p.fromEpoch || q.toEpoch == p.fromEpoch
       | _ => false))).map (·.id)
    let s := s.startColl id c p.group p.toEpoch 64
    let s := if p.bind = 0 then s
      else (s.takeBinds id op).updWeight (bindWreg p.bind) (fun w => { w with closing := 1, busyBy := some id })
    s.updCmd id (fun x => { x with heldNow := !drain.isEmpty, coll := { x.coll with drain := drain } })
  | .wsSwitch hold limit =>
    s.updPart (s.ctxPart c) (fun q =>
      { q with sw := { q.sw with closed := true, holdNew := hold, limit := limit, beatA := s.now, cmd := id, drained := false } })
  | .preempt t hold =>
    let s := s.updCmd id (fun x => { x with phase := .done, issueBeat := s.now })
    if s.resetComing t then s
    else (s.killAll t).updCtx t (fun x => { x with held := some (s.now + hold), heldForever := hold == 0 })
  | .preemptResume t =>
    (s.updCmd id (fun x => { x with phase := .done, issueBeat := s.now })).updCtx t
      (fun x => { x with held := none, heldForever := false })
  | .contextReset t =>
    (s.updCmd id (fun x => { x with phase := .awaiting, issueBeat := s.now })).startReset t (some id) false s.effectBeat
  | .modeArm _ t => s.armMode t false
  | .modeCancel => if s.pt.armed.isSome then s.disarmMode else s
  | _ => s

/-- A request begins and ends with the flags of its commands (R267, R291). -/
def State.requestFlags (s : State) (g : Nat) (h : Hdr) : State :=
  s.updStrm g (fun x =>
    { x with request := if h.flags.getLsbD 4 then false else if h.flags.getLsbD 3 then true else x.request })

/-- Acceptance: HEAD advances, the command enters the Dispatcher's queue, and its operation's acceptance effects happen
(R285, R293). -/
def State.accept (s : State) (g : Nat) (h : Hdr) (op : Op) : State :=
  let x := s.newCmd g h op
  let s := { s.takePacket g with cmds := s.cmds ++ [x], nextId := s.nextId + 1 }
  (s.onAccept x.id h.ctx op).requestFlags g h

/-- The Dispatcher keeps its copy of a packet that waits at the head of its stream, with the record reserved for it (R285, R287). -/
def State.holdPacket (s : State) (g : Nat) (h : Hdr) (op : Op) : State :=
  let x := s.strm g
  (s.updStrm g (fun x => { x with held := some (h, op) })).updCtx x.ctx (fun c =>
    { c with cq := Tab.upd {} c.cq x.cq (fun q => { q with reserved := q.reserved + 1 }) })

/-- A packet of a stream comes to its checks: it waits, is refused, or is accepted. -/
def State.checkPacket (s : State) (g : Nat) (h : Hdr) (op : Op) : State :=
  if s.packetWaits g h op then s.holdPacket g h op
  else
    match s.packetFail g h op with
    | some f => s.refuse g h op f
    | none => s.accept g h op

/-- The copy of a packet that waits is checked afresh, when nothing makes it wait any longer (R199, R268). -/
def State.retryHeld (s : State) (g : Nat) : State :=
  match (s.strm g).held with
  | none => s
  | some (h, op) => if s.takes g && !s.packetWaits g h op then (s.dropHeld g).checkPacket g h op else s

/-- Every packet that waits in a partition. -/
def State.retryAll (s : State) (pt : Nat) : State :=
  ((s.strms.filter (fun g => g.2.held.isSome && g.2.pt == pt)).map (·.1)).foldl (fun (s : State) g => s.retryHeld g) s

/-- Presents a packet of a stream to the Dispatcher; while a packet waits at its head the stream gives no other (R285). -/
def State.fetchOp (s : State) (g : Nat) (h : Hdr) (op : Op) : State :=
  if (s.strm g).held.isSome then s.retryHeld g
  else if s.fetchable g then s.checkPacket g h op else s

end Sys2Proof.Machine
end

