-- ==== Sys2Proof/Machine/Tiles.lean ====
section
/-! DEFINITION. Tiles: where their elements lie in device memory (03 R69, 04 R105) and in a block store (04 R98), what
the elements read as (03 R68, 04 R104), and writing a dense tile (03 R71 to R73, R84). -/

namespace Sys2Proof.Machine

/-- The act `seed`'s free 16 bits for value `i` (R78). -/
def srBits (seed i : Nat) : Nat := Config.freeBits seed i % 65536

/-- The rounding of value `i` under a rounding field where AUTO is RNE (R76, R80). -/
def rndAt (code seed i : Nat) : Rnd := if code = 2 then .sr (srBits seed i) else .rne

/-- A value that the manual leaves unpredictable (R11). -/
def wild (seed i : Nat) : Exact := Fmt.w40.readv ((Config.freeResult seed i).toNat % 2 ^ 40)

/-- A free error of draw `i` of the act `seed`, no larger than a bound (R81, R12; log 9). -/
def freeErr (seed i : Nat) (bound : Dy) : Dy :=
  bound.mul { m := Max.max (-(2 ^ 32)) (Min.min (2 ^ 32) (Config.freeUnit seed i)), e := -32 }

/-- A number that a significand with a 48-bit fraction holds, in W40's range (R81). -/
def fits48 (d : Dy) : Bool :=
  let n := d.m.natAbs
  let k := Nat.log2 n + 1 - 49
  d.m == 0 || (n % 2 ^ k == 0 && decide (-1070 ≤ d.e + (k : Int)))

/-- The lowest bit that is set in a nonzero number, as a number. -/
def lowBit (n : Nat) : Nat := n - (n &&& (n - 1))

/-- Every partial sum of some values, in whatever order, is held by a 48-bit fraction in W40's range (R81): they share a last place, and
their magnitudes together stay below 2^49 of it. -/
def sumExact (l : List Dy) : Bool :=
  let q : Int := l.foldl (fun (k : Int) d => Min.min k d.e) 0
  let ms := l.map (fun d => (d.at q).natAbs)
  let bit := (ms.filter (· != 0)).foldl (fun (b : Nat) n => if b = 0 then lowBit n else Nat.min b (lowBit n)) 0
  decide (ms.foldl (· + ·) 0 ≤ bit * 2 ^ 49) && decide ((-1070 : Int) ≤ q + (Nat.log2 bit : Nat))

/-- A sum with a 48-bit fraction in an order that is not specified (R146, R204; log 9): exact where every partial sum is, else up to a free error
of a unit in the last place an addition. -/
def blurSum (seed i : Nat) (l : List Exact) : Exact :=
  match l with
  | [] => { v := some Fp.zero }
  | [x] => x
  | _ =>
    let t := l.foldl (fun (r : Num × Dy) x =>
      match r.1, x.v with
      | some u, some w => (some (u.add w), r.2.add w.toDy.abs)
      | _, _ => (none, r.2)) (some { neg := true, mag := 0, e := 0 }, Dy.zero)
    let whole := sumExact (l.filterMap (fun x => x.v.map Fp.toDy))
    let err := freeErr seed i (t.2.mul { m := l.length, e := -48 })
    { v := t.1.map (fun v => if whole || err.m = 0 then v else Fp.ofDy (v.toDy.add err) v.neg), sat := l.any (·.sat),
      nz := (match t.1 with | some v => !v.isZero | none => false), isZ := (match t.1 with | some v => v.isZero | none => false) }

/-- Sum of values in their order with a 48-bit fraction (R228, R232): each partial sum that the fraction holds is exact, each other errs by
a free unit of its last place at most; an invalid value makes it invalid, and the sign of a zero is that of R67. -/
def sum48 (seed j : Nat) (l : List Exact) : Exact :=
  let round (i : Nat) (v : Fp) : Fp :=
    let d := v.toDy
    let ulp := d.abs.scale (-48)
    if fits48 d then v else Fp.ofDy (d.add (freeErr seed (16 * j + i) (if Dy.lt ulp { m := 1, e := -1070 } then { m := 1, e := -1070 } else ulp))) v.neg
  let add (r : Num × Num × Nat) (x : Exact) : Num × Num × Nat :=
    ((match r.1, x.v with | some u, some w => some (round r.2.2 (u.add w)) | _, _ => none),
     (match r.2.1, x.v with | some u, some w => some (u.add w) | _, _ => none), r.2.2 + 1)
  match l with
  | [] => { v := some Fp.zero }
  | x :: t =>
    let r := t.foldl add (x.v.map (round 0), x.v, 1)
    { v := r.1, sat := l.any (·.sat), nz := (match r.2.1 with | some v => !v.isZero | none => false),
      isZ := (match r.2.1 with | some v => v.isZero | none => false) }

/-- The format of a tile kind's elements. -/
def kindFmt (k : Nat) : Fmt := if k = 0 ∨ k = 3 then .q8 else if k = 1 ∨ k = 4 then .q4 else if k = 2 then .h16 else .w40

/-- Bytes of a square of the data region (R98). -/
def squareBytes (k : Nat) : Nat := if k = 0 then 16 else if k = 2 then 32 else if k = 4 then 4 else 8

/-- The slot of square (pr, pc): skewed in a block store (R98), in order in device memory. -/
def squareSlot (skew : Bool) (pr pc : Nat) : Nat := 16 * pr + (if skew then (pr + pc) % 16 else pc)

/-- The byte of element value `v` of a square of Q4 or Q8 codes, whose first byte is `o`. -/
def codeAt (f : Fmt) (rd : Nat → Byte) (o v : Nat) : Nat :=
  if f = .q8 then (rd (o + v)).toNat else bits (rd (o + v / 2)).toNat (4 * (v % 2)) 4

/-- The scaled value of a code; a scale code 0xFF is unpredictable (R68). -/
def scaled (f : Fmt) (seed pos scale code : Nat) : Exact :=
  if scale = 255 then wild seed pos else { v := patchValue f scale code }

/-- The value of element (i, j) of a tile whose bytes `rd` gives (R68, R69, R98, R104, R105). -/
def tileElem (k : Nat) (saxis skew : Bool) (seed : Nat) (rd : Nat → Byte) (i j : Nat) : Exact :=
  let pr := i / 4
  let pc := j / 4
  let p := 16 * pr + pc
  let n := squareSlot skew pr pc
  let pos := 64 * i + j
  match k with
  | 0 => scaled .q8 seed pos (rd (4096 + p)).toNat (codeAt .q8 rd (16 * n) (i % 4 * 4 + j % 4))
  | 1 => scaled .q4 seed pos (rd (2048 + p)).toNat (codeAt .q4 rd (8 * n) (i % 4 * 4 + j % 4))
  | 2 =>
    let o := if skew then 32 * n + 2 * (i % 4 * 4 + j % 4) else 2 * pos
    Fmt.h16.readv (leNat [rd o, rd (o + 1)])
  | 3 | 4 =>
    let f := kindFmt k
    let mo := if k = 3 then 2048 else 1024
    let scale := (rd ((if k = 3 then 2560 else 1536) + p)).toNat
    let g := if saxis then j % 4 else i % 4
    let q := if saxis then i % 4 else j % 4
    let nib := bits (leNat [rd (mo + 2 * p), rd (mo + 2 * p + 1)]) (4 * g) 4
    let i0 := nib % 4
    let i1 := nib / 4
    if scale = 0 then { v := some Fp.zero }
    else if i1 ≤ i0 then wild seed pos
    else if q = i0 then scaled f seed pos scale (codeAt f rd (squareBytes k * n) (2 * g))
    else if q = i1 then scaled f seed pos scale (codeAt f rd (squareBytes k * n) (2 * g + 1))
    else { v := some Fp.zero }
  | _ => Fmt.w40.readv (leNat ((List.range 5).map (fun b => rd (5 * pos + b))))

/-- Packs Q4 codes two to a byte, the first in the low half (R69). -/
def nibbles : List Nat → List Byte
  | a :: b :: t => BitVec.ofNat 8 (a % 16 + 16 * (b % 16)) :: nibbles t
  | [a] => [BitVec.ofNat 8 (a % 16)]
  | [] => []

/-- The dense tile, as the block store lays it out, that a compressed one expands to (R96, R104): kept elements with their codes, the others
zero, every patch with its scale; under reserved metadata the codes are free. -/
def expandTile (k : Nat) (saxis : Bool) (seed : Nat) (rd : Nat → Byte) : List Byte :=
  let f := kindFmt k
  let mo := if k = 3 then 2048 else 1024
  let code (n v : Nat) : Nat :=
    let p := 16 * (n / 16) + (n + 256 - n / 16) % 16
    let g := if saxis then v % 4 else v / 4
    let q := if saxis then v / 4 else v % 4
    let nib := bits (leNat [rd (mo + 2 * p), rd (mo + 2 * p + 1)]) (4 * g) 4
    if nib / 4 ≤ nib % 4 then Config.freeBits seed (16 * p + v) % 2 ^ (f.signBit + 1)
    else if q = nib % 4 then codeAt f rd (squareBytes k * n) (2 * g)
    else if q = nib / 4 then codeAt f rd (squareBytes k * n) (2 * g + 1)
    else 0
  ((List.range 256).flatMap (fun n =>
    let c := (List.range 16).map (code n)
    if f = .q8 then c.map (BitVec.ofNat 8) else nibbles c)) ++
    (List.range 256).map (fun p => rd ((if k = 3 then 2560 else 1536) + p))

/-- Where a byte of a tile in the block store lies in the tile's device layout (R98, R99). -/
def devOffset (k o : Nat) : Nat :=
  let s := squareBytes k
  if k = 5 ∨ 256 * s ≤ o then o
  else
    let n := o / s
    let pr := n / 16
    let pc := (n + 256 - pr) % 16
    if k = 2 then
      let e := o % 32 / 2
      2 * (64 * (4 * pr + e / 4) + 4 * pc + e % 4) + o % 2
    else (16 * pr + pc) * s + o % s

/-- A dense tile in its device layout from 64 × 64 values (R69, R71), with what the census counts for it. -/
def packTile (f : Fmt) (md : Nat → Rnd) (x : Nat → Nat → Exact) : List Byte × Tally :=
  match f with
  | .q4 | .q8 =>
    let ps := (List.range 256).map (fun p =>
      let at_ (e : Nat) : Nat × Nat := (4 * (p / 16) + e / 4, 4 * (p % 16) + e % 4)
      toPatch f ((List.range 16).map (fun e => md (64 * (at_ e).1 + (at_ e).2)))
        ((List.range 16).map (fun e => x (at_ e).1 (at_ e).2)))
    (ps.flatMap (fun o => if f = .q8 then o.codes.map (BitVec.ofNat 8) else nibbles o.codes) ++
       ps.map (fun o => BitVec.ofNat 8 o.scale),
     ps.foldl (fun t o => t.add o.tally) {})
  | _ =>
    let ws := (List.range 4096).map (fun e => f.write (md e) (x (e / 64) (e % 64)))
    (ws.flatMap (fun w => leBytes f.size w.code), ws.foldl (fun t w => t.add w.tally) {})

/-- The compressed tile that the pack stage makes of a dense one (R195): the metadata of the current version, each kept
element's bits, each patch's scale. -/
def packSparse (q8 saxis : Bool) (dense cur : List Byte) : List Byte :=
  let f : Fmt := if q8 then .q8 else .q4
  let mo := if q8 then 2048 else 1024
  let md := sub8 cur mo 512
  let rd (o : Nat) : Byte := (dense[o]?).getD 0
  let kept := (List.range 256).flatMap (fun p =>
    let w := leNat [(md[2 * p]?).getD 0, (md[2 * p + 1]?).getD 0]
    let val (v : Nat) : Nat :=
      let g := v / 2
      let q := bits w (4 * g + 2 * (v % 2)) 2
      codeAt f rd ((if q8 then 16 else 8) * p) (if saxis then 4 * q + g else 4 * g + q)
    let vs := (List.range 8).map val
    if q8 then vs.map (BitVec.ofNat 8) else nibbles vs)
  kept ++ md ++ sub8 dense (if q8 then 4096 else 2048) 256

end Sys2Proof.Machine
end

