-- ==== Sys2Proof/Machine/Legs.lean ====
section
/-! DEFINITION. The legs of the commands that move bytes within the device (02 R45): COPY and FILL (10 R306, R307), PLACE
and VERIFY (09 R257, R259), the local part of NORMREDUCE (07 R204), and OPTSTEP's pack stage (07 R195). A leg does its
work at its issue, into staging (log 14); its commit makes it visible. -/

namespace Sys2Proof.Machine

/-! ### What a stream allows (10 R295, R297) -/

/-- OVERLAP (R291). -/
def Cmd.overlap (x : Cmd) : Bool := x.h.flags.getLsbD 0

/-- A WAIT or FENCE. -/
def opHolds : Op → Bool
  | .wait _ _ _ | .fence => true
  | _ => false

/-- The command of the same stream before a command, among those that have not left the Dispatcher; a packet refused at the
fetch is no command. -/
def State.pred (s : State) (x : Cmd) : Option Cmd :=
  (s.cmds.filter (fun y => y.strm == x.strm && decide (y.id < x.id) && !y.atFetch)).getLast?

/-- A predecessor has been issued: it runs or is done, or it stands between two legs. -/
def Cmd.begun (y : Cmd) : Bool := y.phase == .issued || y.phase == .done || (y.phase == .accepted && !y.queued)

/-- The stream allows a command: its predecessor has committed or ended, or is a WAIT or FENCE found satisfied, or, under
OVERLAP, has been issued. -/
def State.streamAllows (s : State) (x : Cmd) : Bool :=
  match s.pred x with
  | none => true
  | some y => y.phase == .refused || (y.phase == .done && opHolds y.op) || (x.overlap && y.begun)

/-! ### Train masks (07 R191, R192) -/

/-- Byte `o` of a region of `size` bytes lies in a slab that the mask freezes; a region without a mask is trained
throughout. -/
def frozen (mask : Option W64) (size o : Nat) : Bool :=
  match mask with
  | none => false
  | some m => !m.getLsbD (o * 64 / Nat.max 1 size)

/-- Stages bytes through a reference but for those in frozen slabs, which keep their content (R192). -/
def State.stageTrained (s : State) (x : Cmd) (ref : Ref) (l : List Byte) : State :=
  (trainedParts (s.trainedMask x ref.region) ((s.ctx x.ctx).region ref.region).size ref.off l.length).foldl (fun (s : State) q =>
    s.stageRef x.id x.ctx { ref with off := q.1 } ((l.drop (q.1 - ref.off)).take q.2)) s

/-- Whether a command's write to byte `o` of region `r` is dropped (R192). -/
def State.drops (s : State) (x : Cmd) (r o : Nat) : Bool :=
  frozen (Tab.find x.masks r) ((s.ctx x.ctx).region r).size o

/-! ### COPY (10 R306) -/

/-- One side of a converting COPY. -/
structure Side where
  ref : Ref
  fmt : Fmt
  grid : Bool
  rows : Nat
  cols : Nat
  pitch : Nat
  deriving DecidableEq, Repr

/-- A side in Q4 or Q8 has only the tiled layout. -/
def sideOf (ref : Ref) (code : Nat) (tiled : Bool) (rows cols pitch : Nat) : Side :=
  let f := (Fmt.ofCopy code).getD .w40
  { ref := ref, fmt := f, grid := tiled || f == .q4 || f == .q8, rows := rows, cols := cols, pitch := pitch }

def copySrc (p : CopyP) : Side := sideOf p.src p.srcFmt p.srcTiled p.rows p.cols p.srcPitch
def copyDst (p : CopyP) : Side := sideOf p.dst p.dstFmt p.dstTiled p.rows p.cols p.dstPitch

/-- The dense tile kind of a format. -/
def Fmt.kind : Fmt → Nat
  | .q8 => 0 | .q4 => 1 | .h16 => 2 | _ => 5

def Side.tileCols (d : Side) : Nat := (d.cols + 63) / 64

/-- The value of element (r, c) of a side, whose bytes from its reference `rd` gives. -/
def Side.elem (d : Side) (seed : Nat) (rd : Nat → Byte) (r c : Nat) : Exact :=
  if d.grid then
    let o := (r / 64 * d.tileCols + c / 64) * tileBytes d.fmt.kind
    tileElem d.fmt.kind false false seed (fun k => rd (o + k)) (r % 64) (c % 64)
  else
    let o := r * d.pitch + c * d.fmt.size
    d.fmt.readv (leNat ((List.range d.fmt.size).map (fun k => rd (o + k))))

/-- How many groups a converting COPY writes: tiles of a tiled destination, else rows; and the bytes of each. -/
def Side.groups (d : Side) : Nat × Nat :=
  if d.grid then ((d.rows + 63) / 64 * d.tileCols, tileBytes d.fmt.kind) else (d.rows, d.cols * d.fmt.size)

/-- Group `k` of a destination: its offset from the reference, its bytes, and the census of its values. Elements of a
partial tile beyond the matrix are zero. -/
def Side.group (d : Side) (rnd seed k : Nat) (x : Nat → Nat → Exact) : Nat × List Byte × Tally :=
  if d.grid then
    let tr := k / Nat.max 1 d.tileCols * 64
    let tc := k % Nat.max 1 d.tileCols * 64
    (k * tileBytes d.fmt.kind, packTile d.fmt (rndAt rnd seed) (fun i j =>
      if decide (tr + i < d.rows) && decide (tc + j < d.cols) then x (tr + i) (tc + j) else { v := some Fp.zero }))
  else
    let ws := (List.range d.cols).map (fun c => d.fmt.write (rndAt rnd seed c) (x k c))
    (k * d.pitch, ws.flatMap (fun w => leBytes d.fmt.size w.code), ws.foldl (fun t w => t.add w.tally) {})

/-- Reads byte `o` from a reference. -/
def State.refByte (s : State) (c : Nat) (r : Ref) (o : Nat) : Byte :=
  let e := (s.ctx c).region r.region
  s.hbm.read (e.key (s.bufOf e) (r.off + o))

/-- One group of a converting COPY. -/
def State.copyGroup (s : State) (x : Cmd) (p : CopyP) (k : Nat) : State :=
  let src := copySrc p
  let dst := copyDst p
  let g := dst.group p.rnd s.fresh k (src.elem (s.fresh + 1) (s.refByte x.ctx p.src))
  let s := { s with fresh := s.fresh + 2 }
  let s := s.stageTrained x { p.dst with off := p.dst.off + g.1 } g.2.1
  let s := s.touch x.ctx p.dst.region (p.dst.off + g.1) g.2.1.length
  s.updCmd x.id (fun y => y.tally x.h.cls dst.fmt g.2.2)

/-- The work of a leg of COPY from group or byte `i`, `n` of them. -/
def State.copyLeg (s : State) (x : Cmd) (p : CopyP) (i n : Nat) : State :=
  if p.srcFmt = 15 then
    let l := (List.range n).map (fun k => s.refByte x.ctx p.src (i + k))
    let s := s.stageTrained x { p.dst with off := p.dst.off + i } l
    s.touch x.ctx p.dst.region (p.dst.off + i) n
  else (List.range n).foldl (fun (s : State) k => s.copyGroup x p (i + k)) s

/-- The work of a leg of FILL: the pattern repeats from the destination's first byte. -/
def State.fillLeg (s : State) (x : Cmd) (p : FillP) (i n : Nat) : State :=
  let l := (List.range n).map (fun k => BitVec.ofNat 8 (p.pattern.toNat / 2 ^ (8 * ((i + k) % 8))))
  let s := s.stageTrained x { p.dst with off := p.dst.off + i } l
  s.touch x.ctx p.dst.region (p.dst.off + i) n

/-! ### VERIFY (09 R259) -/

/-- The segments that a VERIFY hashes and whether they lie in spare buffers. -/
def State.verifySegs (s : State) (x : Cmd) : List Segment × List Nat × Bool :=
  let ld := (s.ctx x.ctx).ld
  let sw := (s.part (s.ctxPart x.ctx)).sw
  match x.op with
  | .loadVerify p => (ld.segs, segRange ld.segs.length p.segFirst p.segCount, false)
  | .adapterVerify p => (ld.adSegs, segRange ld.adSegs.length p.segFirst p.segCount, true)
  | .wsVerify p => (sw.segs, segRange sw.segs.length p.segFirst p.segCount, true)
  | _ => ([], [], false)

/-- A SHAKE256 core in a leg: the segment in hand with the bytes still to hash, and the bytes that it can still hash in the leg. -/
structure HashCore where
  seg : Option (Nat × Nat) := none
  cap : Nat := 0
  deriving DecidableEq, Repr

/-- A core hashes what it has in hand; a segment that it finishes is named. -/
def HashCore.spend (k : HashCore) : HashCore × List Nat :=
  match k.seg with
  | none => (k, [])
  | some (i, n) => if n ≤ k.cap then ({ cap := k.cap - n }, [i]) else ({ seg := some (i, n - k.cap) }, [])

/-- The free core with the most time left. -/
def freeCore (l : List HashCore) : Option Nat :=
  (List.range l.length).foldl (fun (r : Option (Nat × Nat)) n =>
    match l[n]? with
    | some k => if k.seg.isNone && decide ((match r with | some q => q.2 | none => 0) < k.cap) then some (n, k.cap) else r
    | none => r) none |>.map (·.1)

/-- Each further segment goes to the next free core: the cores after the leg, the segments finished, and those not begun (R259). -/
def hashNext (len : Nat → Nat) : List Nat → List HashCore → List Nat → List HashCore × List Nat × Nat
  | [], ks, fin => (ks, fin, 0)
  | i :: t, ks, fin =>
    match freeCore ks with
    | none => (ks, fin, t.length + 1)
    | some n =>
      let r := ({ (ks[n]?).getD {} with seg := some (i, len i) } : HashCore).spend
      hashNext len t (setAt ks n r.1) (fin ++ r.2)

/-- Arithmetic cycles left in the beat on a die. -/
def State.cyclesLeft (s : State) (mhz : Nat) : Nat :=
  ((s.beat.periodCur.toNat - s.beat.saddleCur.toNat) * 1000 - s.beat.at_) * mhz / 1000

/-- The SHAKE256 cores of a partition and the bytes that each can hash in what is left of the beat: six a die, three where two partitions share
it, 48 B a cycle each (R259). -/
def State.hashCaps (s : State) (pt : Nat) : List Nat :=
  (diesOf (s.part pt).layout.dies).flatMap (fun d =>
    let shared := s.parts.any (fun q => q.1 != pt && bitOf q.2.layout.dies d)
    List.replicate (if shared then 3 else 6) (48 * s.cyclesLeft (s.dieMHz d)))

/-- A leg of a VERIFY (R259): every core goes on with the segment in hand and takes further ones while it has time; each segment finished is
judged. -/
def State.verifyLeg (s : State) (x : Cmd) : State :=
  let v := s.verifySegs x
  let caps := s.hashCaps (s.ctxPart x.ctx)
  let cap (c : Nat) : Nat := match s.beat.legCap with | none => c | some b => Nat.min c (Nat.max 1 (b / Nat.max 1 caps.length))
  let r0 := (List.range caps.length).map (fun n => ({ seg := (x.cores[n]?).join, cap := cap ((caps[n]?).getD 0) } : HashCore).spend)
  let rest := v.2.1.drop x.progress
  let r := hashNext (fun i => ((v.1[i]?).map (·.len)).getD 0) rest (r0.map (·.1)) (r0.flatMap (·.2))
  let judged := r.2.1.map (fun i => (i, s.judge x.ctx v.2.2 v.1 i))
  let bad := v.2.1.find? (fun i => judged.any (fun q => q.1 == i && q.2 != 0))
  s.updCmd x.id (fun y =>
    { y with
      okSegs := (judged.filter (fun q => q.2 == 0)).map (·.1), coresNext := r.1.map (·.seg),
      fail := match bad with
        | none => y.fail
        | some i => some (segFail v.1 i (((judged.find? (fun q => q.1 == i)).map (·.2)).getD stDigest)),
      legOver := true, moved := rest.length - r.2.2, final := r.2.2 == 0 && r.1.all (fun k => k.seg.isNone) })

/-! ### NORMREDUCE's local part (07 R204) -/

/-- The trained slabs of the named regions: region, format, first byte, length. -/
def State.normSlabs (s : State) (x : Cmd) (p : NormP) : List (Nat × Nat × Nat × Nat) :=
  (p.regions.filter (fun r => r.1 != 0)).flatMap (fun r =>
    let sz := ((s.ctx x.ctx).region r.1).size
    ((List.range 64).filter (fun k => !frozen (Tab.find x.masks r.1) 64 k)).map (fun k =>
      (r.1, r.2, k * (sz / 64), sz / 64)))

/-- The elements of a gradient region that NORMREDUCE reads, in its format's order from the region's first byte (R192, R204): those whose
bytes lie in trained slabs. DESIGN CHOICE (log 62): a W40 element that a border between a trained and a frozen slab cuts is free. -/
def State.normElems (s : State) (x : Cmd) (r : Nat × Nat) : List Exact :=
  let f := Fmt.ofCode r.2
  let sz := ((s.ctx x.ctx).region r.1).size
  (List.range (sz / f.size)).filterMap (fun i =>
    let out (o : Nat) : Bool := frozen (Tab.find x.masks r.1) sz o
    match out (i * f.size), out (i * f.size + f.size - 1) with
    | false, false => some (f.readv (leNat ((List.range f.size).map (fun k => s.refByte x.ctx { region := r.1, off := 0 } (i * f.size + k)))))
    | true, true => none
    | _, _ => some (wild (s.fresh + 1) i))

/-- The shard's sum of squares (R204): summed with a 48-bit fraction, rounded once in RNE; an infinity that was read counts as saturated. -/
def State.shardSum (s : State) (x : Cmd) (p : NormP) : Written :=
  let l := (p.regions.filter (fun r => r.1 != 0)).flatMap (s.normElems x)
  Fmt.w40.write .rne (blurSum s.fresh 0 (l.map (fun v =>
    { v := v.v.map (fun u => u.mul u), sat := v.sat })))

/-- The last local leg of NORMREDUCE forms S_i, which counts in the packet's census class (R207). -/
def State.normLocal (s : State) (x : Cmd) (p : NormP) : State :=
  let w := s.shardSum x p
  (s.updCmd x.id (fun y =>
    ({ y with coll := { y.coll with values := [(y.coll.grp.myPos, w.code)] } } : Cmd).tally x.h.cls .w40 w.tally)).burn.burn

/-! ### The pack stage of OPTSTEP (07 R195) -/

/-- Packs tile `k`: from the staging region into the buffer that receives the new version. -/
def State.packTileAt (s : State) (x : Cmd) (p : OptP) (k : Nat) : State :=
  let w := s.weight (bindWreg p.step)
  let e := (s.ctx x.ctx).region w.region
  let z := packSizes w.region
  let dense := (List.range z.1).map (fun o =>
    s.refByte x.ctx { region := p.stageRegion, off := p.stageOff } (k * z.1 + o))
  let cur := s.regRead e (if w.curBuf then 1 else 0) (k * z.2) z.2
  s.stage x.id e w.receiving (k * z.2) 0 2 (packSparse (Config.packQ8 w.region) (Config.packSaxis w.region) dense cur)

/-! ### Legs -/

/-- Bytes that the DMA engines of a partition move in what is left of the beat before the window: 2.304 TB/s for each granule (R45, R195,
R204, R257, R334). -/
def State.dmaLeg (s : State) (pt : Nat) : Nat :=
  ((s.beat.periodCur.toNat - s.beat.saddleCur.toNat) * 1000 - s.beat.at_) * 2304 * (s.part pt).layout.granuleCount

/-- The work of a local command: how many units in all, the bytes of one, and the bytes that one leg moves at most. -/
def State.legPlan (s : State) (x : Cmd) : Nat × Nat × Option Nat :=
  let pt := s.ctxPart x.ctx
  match x.op with
  | .copy p =>
    if p.srcFmt = 15 then (p.length, 1, some (s.dmaLeg pt))
    else let g := (copyDst p).groups; (g.1, g.2, some (s.dmaLeg pt))
  | .fill p => (p.length, 1, some (s.dmaLeg pt))
  | .loadPlace p =>
    let m := x.manifest
    let own := (descsOf m).filter (fun d => !d.shared || (match (s.part pt).model with | some k => k.by_ == some x.ctx | none => false))
    ((own.flatMap (zeroRanges p.adopt m)).foldl (fun n r => n + r.2) 0, 1, some (s.dmaLeg pt))
  | .normreduce p => ((s.normSlabs x p).foldl (fun n q => n + q.2.2.2) 0, 1, some (s.dmaLeg pt))
  | .optstep p =>
    let w := s.weight (bindWreg p.step)
    let z := packSizes w.region
    (((s.ctx x.ctx).region w.region).size / z.2, z.1 + 512 + z.2, some (s.dmaLeg pt))
  | _ => (0, 1, none)

/-- Units that the next leg of a local command takes: what is left, within the leg's stated size (log 14) and bound, and
at least one while any is left. -/
def State.legUnits (s : State) (x : Cmd) : Nat × Bool :=
  let q := s.legPlan x
  let left := q.1 - x.progress
  let cap (o : Option Nat) (n : Nat) : Nat := match o with | none => n | some b => Nat.min n (Nat.max 1 (b / Nat.max 1 q.2.1))
  let n := cap s.beat.legCap (cap q.2.2 left)
  (n, decide (left ≤ n))

/-- A local leg does its work, into staging, when it is issued; the window finds it done (R331, R49; log 14). -/
def State.localLeg (s : State) (x : Cmd) : State :=
  let u := s.legUnits x
  let ended (s : State) : State := s.updCmd x.id (fun y => { y with legOver := true, moved := u.1, final := u.2 })
  match x.op with
  | .copy p => ended (s.copyLeg x p x.progress u.1)
  | .fill p => ended (s.fillLeg x p x.progress u.1)
  | .loadVerify _ | .adapterVerify _ | .wsVerify _ => s.verifyLeg x
  | .normreduce p => ended (if u.2 then s.normLocal x p else s)
  | .optstep p => ended ((List.range u.1).foldl (fun (s : State) k => s.packTileAt x p (x.progress + k)) s)
  | _ => ended s

end Sys2Proof.Machine
end

