-- ==== Sys2Proof/Machine/Coll.lean ====
section
/-! DEFINITION. Collectives and PERMUTE (12 R357 to R370; 07 R205 to R207): their legs, the frames they exchange, and what
their completion leaves. -/

namespace Sys2Proof.Machine

/-! ### Geometry of a collective (R362) -/

/-- Legs of a phase: one piece each. -/
def Cmd.legsPerPhase (x : Cmd) : Nat := Nat.max 1 ((x.shardLen + x.coll.piece - 1) / Nat.max 1 x.coll.piece)

/-- Piece `k` of a shard: first byte and length. -/
def Cmd.pieceAt (x : Cmd) (k : Nat) : Nat × Nat :=
  let lo := k * x.coll.piece
  (lo, Nat.min (lo + x.coll.piece) x.shardLen - lo)

/-- Where shard `j` lies in DST: at its own place, or at 0 under SCATTER. -/
def Cmd.dstShard (x : Cmd) (j : Nat) : Nat := if (geoOf x.op).scatter then 0 else j * x.shardLen

/-- Whether byte `b` of shard `j` is frozen (R192), in SRC or in DST; only REDUCE and GATHER leave such bytes. -/
def State.collFrozen (s : State) (x : Cmd) (j b : Nat) : Bool :=
  let g := geoOf x.op
  let so := if g.kind = 2 then b else j * x.shardLen + b
  (g.kind == 1 || g.kind == 2) &&
    (s.drops x g.src.region (g.src.off + so) || s.drops x g.dst.region (g.dst.off + x.dstShard j + b))

/-- The bytes of shard `j` from `lo`, `n` of them, that are exchanged, cut into runs of at most 4,096 B: first byte and
length. A slab is a multiple of 4,096 B, so a run is cut wherever 64 B blocks change from trained to frozen. -/
def State.collRuns (s : State) (x : Cmd) (j lo n : Nat) : List (Nat × Nat) :=
  (List.range ((n + 4095) / 4096)).flatMap (fun q =>
    let a := lo + q * 4096
    let len := Nat.min 4096 (lo + n - a)
    let live := (List.range ((len + 63) / 64)).filter (fun u => !s.collFrozen x j (a + u * 64))
    if live.length = (len + 63) / 64 then [(a, len)]
    else live.map (fun u => (a + u * 64, Nat.min 64 (len - u * 64))))

/-! ### Sending a leg -/

/-- The members but this one: position, device, context. -/
def Cmd.others (x : Cmd) : List (Nat × Nat × Nat) :=
  (List.range x.coll.grp.members.length).filterMap (fun i =>
    if i = x.coll.grp.myPos then none
    else match x.coll.grp.members[i]? with | some m => some (i, m.1, m.2) | none => none)

/-- A data frame of a collective to a member. -/
def State.collFrame (s : State) (x : Cmd) (m : Nat × Nat × Nat) (off : Nat) (l : List Byte) : Frame :=
  { dst := m.2.1, dstCtx := m.2.2, srcCtx := x.ctx, srcGen := (s.ctx x.ctx).gen, tag := x.coll.grp.jobTag, key := x.collKey,
    off := BitVec.ofNat 64 off, payload := l }

/-- Bytes of SRC, and of the DST under construction. -/
def State.collSrc (s : State) (x : Cmd) (o n : Nat) : List Byte :=
  (List.range n).map (fun k => s.refByte x.ctx (geoOf x.op).src (o + k))
def Cmd.collDst (x : Cmd) (o n : Nat) : List Byte := x.coll.buf.readN o n

/-- Sends bytes of shard `j` from a source of bytes to one member. -/
def State.sendShard (s : State) (x : Cmd) (m : Nat × Nat × Nat) (j lo n : Nat) (rd : Nat → Nat → List Byte) : State :=
  s.sendFrames x.id fCollData ((s.collRuns x j lo n).map (fun r => s.collFrame x m (x.dstShard j + r.1) (rd r.1 r.2)))

/-- What leg 0 of phase 1 copies first: the member's own shard, the whole of SRC for GATHER, the root's own shard for
BROADCAST (R362). -/
def State.collOwn (s : State) (x : Cmd) : State :=
  let g := geoOf x.op
  let i := x.coll.grp.myPos
  let put (o : Nat) (l : List Byte) : State :=
    s.updCmd x.id (fun y => { y with coll := { y.coll with buf := y.coll.buf.writeN o l } })
  if g.kind = 1 then put (x.dstShard i) (s.collSrc x (i * x.shardLen) x.shardLen)
  else if g.kind = 2 then put (i * x.shardLen) (s.collSrc x 0 x.shardLen)
  else if g.kind = 3 ∧ i = g.root then put (i * x.shardLen) (s.collSrc x (i * x.shardLen) x.shardLen)
  else s

/-- The frames of the leg that a collective stands at. -/
def State.collSend (s : State) (x : Cmd) : State :=
  let g := geoOf x.op
  let i := x.coll.grp.myPos
  let pc := x.pieceAt x.coll.leg
  if g.kind = 4 then
    s.sendFrames x.id fCollData (x.others.map (fun m => s.collFrame x m 0 (leBytes 5 (Tab.get 0 x.coll.values i))))
  else if x.coll.phase = 2 then
    x.others.foldl (fun (s : State) m =>
      s.sendShard x m i pc.1 pc.2 (fun o n => x.collDst (x.dstShard i + o) n)) s
  else if g.kind = 2 then
    x.others.foldl (fun (s : State) m => s.sendShard x m i pc.1 pc.2 (fun o n => s.collSrc x o n)) s
  else if g.kind = 3 ∧ i ≠ g.root then s
  else
    x.others.foldl (fun (s : State) m =>
      s.sendShard x m m.1 pc.1 pc.2 (fun o n => s.collSrc x (m.1 * x.shardLen + o) n)) s

/-- Bytes that the leg at hand expects from member `m`. -/
def State.collExpects (s : State) (x : Cmd) (m : Nat) : Nat :=
  let g := geoOf x.op
  let i := x.coll.grp.myPos
  let pc := x.pieceAt x.coll.leg
  let count (j : Nat) : Nat := (s.collRuns x j pc.1 pc.2).foldl (fun n r => n + r.2) 0
  if g.kind = 4 then 5
  else if x.coll.phase = 2 then count m
  else if g.kind = 1 then count i
  else if g.kind = 2 then count m
  else if m = g.root then count i else 0

def Cmd.phaseLeg (x : Cmd) : Nat := x.coll.phase * 16384 + x.coll.leg

/-- Bytes that have arrived from member `m` for the leg at hand. -/
def Cmd.collArrived (x : Cmd) (m : Nat) : Nat :=
  (x.coll.got.filter (fun q => q.1 == x.phaseLeg && q.2.1 == m)).foldl (fun n q => n + q.2.2.2) 0

/-- A collective's leg is done when every frame it sent is acknowledged and every byte it expects has arrived (R361). -/
def State.collDone (s : State) (x : Cmd) : Bool :=
  !s.awaitsAck x.id && x.others.all (fun m => decide (s.collExpects x m.1 ≤ x.collArrived m.1))

/-- The legs of a collective that has issued: it is the last when no phase and no piece follows. -/
def Cmd.lastCollLeg (x : Cmd) : Bool :=
  let g := geoOf x.op
  g.kind == 4 ||
    (decide (x.legsPerPhase ≤ x.coll.leg + 1) && (x.coll.phase == 2 || g.kind == 2 || (g.kind == 1 && g.scatter)))

/-- The place after the leg at hand. -/
def Cmd.nextCollLeg (x : Cmd) : CollSt :=
  if x.coll.leg + 1 < x.legsPerPhase then { x.coll with leg := x.coll.leg + 1 } else { x.coll with leg := 0, phase := 2 }

/-- Marks a leg done when it is. -/
def State.settleColl (s : State) (id : Nat) : State :=
  match s.cmd id with
  | none => s
  | some x =>
    if x.phase = .issued && (geoOf x.op).kind != 0 && x.coll.started && s.collDone x then
      s.updCmd id (fun y => { y with phase := .done, final := x.lastCollLeg })
    else s

/-- A collective makes its DST undefined, once, when it comes to the head of its stream (R295, R363; log 62). -/
def State.collVoid (s : State) (id : Nat) : State :=
  match s.cmd id with
  | none => s
  | some x =>
    let k := (geoOf x.op).kind
    if x.live && !x.coll.voided && decide (1 ≤ k) && decide (k ≤ 3) && s.streamAllows x then
      (s.collUndef x).updCmd id (fun y => { y with coll := { y.coll with voided := true } })
    else s

/-- Every collective that has come to the head of its stream. -/
def State.voidColls (s : State) : State := (s.cmds.map (·.id)).foldl (fun (s : State) i => s.collVoid i) s

/-- A leg of a collective is issued at a beat's start (R361): the first copies the member's own part. -/
def State.collLeg (s : State) (x : Cmd) : State :=
  let g := geoOf x.op
  let s := if x.coll.started || g.kind = 4 then s else s.collOwn x
  let s := s.updCmd x.id (fun y => { y with coll := { y.coll with started := true } })
  match s.cmd x.id with
  | none => s
  | some y => (s.collSend y).settleColl x.id

/-- Whether a border of frozen slabs cuts the W40 element of byte `o` of DST: its exchanged bytes are no whole element (R192, R362). -/
def State.cutElem (s : State) (x : Cmd) (o : Nat) : Bool :=
  let g := geoOf x.op
  let n := Nat.max 1 x.shardLen
  g.kind == 1 && g.fmt == .w40 &&
    (List.range 5).any (fun k =>
      let b := o / 5 * 5 + k
      s.collFrozen x (if g.scatter then x.coll.grp.myPos else b / n) (b % n))

/-- The DST that a collective has built becomes visible at its last leg's commit (R363); frozen bytes stay (R192). The trained bytes of a cut
element are undefined (log 62). -/
def State.collLand (s : State) (x : Cmd) : State :=
  let g := geoOf x.op
  let e := (s.ctx x.ctx).region g.dst.region
  let s := ((List.range x.dstLen).foldl (fun (s : State) o =>
    if s.drops x g.dst.region (g.dst.off + o) then s
    else
      let v := if s.cutElem x o then Config.freeByte s.fresh o else x.coll.buf.read o
      { s with hbm := s.hbm.write (e.key (s.writeBuf x.ctx g.dst.region) (g.dst.off + o)) v }) s).burn
  s.touch x.ctx g.dst.region g.dst.off x.dstLen

/-! ### Receiving data (R359, R362) -/

/-- Combines one element of a contribution with the one of the DST under construction, with one RNE rounding (R362). -/
def combineElem (f : Fmt) (isMax : Bool) (buf : Mem) (o : Nat) (l : List Byte) : Mem × Tally :=
  let p := f.readv (leNat (buf.readN o f.size))
  let q := f.readv (leNat l)
  let r : Num := match p.v, q.v with
    | some u, some v => some (if isMax then (if Fp.lt u v then v else u) else u.add v)
    | _, _ => none
  let w := f.write .rne { v := r, sat := p.sat || q.sat }
  (buf.writeN o (leBytes f.size w.code), w.tally)

/-- The byte of a contribution at DST offset `o`: one of the frame at hand, which starts at `first`, or one that came before it. -/
def partByte (early : List (Nat × Byte)) (first : Nat) (l : List Byte) (o : Nat) : Option Byte :=
  if first ≤ o ∧ o < first + l.length then l[o - first]? else (early.find? (fun q => q.1 == o)).map (·.2)

/-- Takes a frame's contribution, element by element (R362). A frame need not hold whole elements: an element that it does not fill is
combined with the frame that fills it, and until then its bytes are kept; `early` holds those kept before. -/
def combineInto (f : Fmt) (isMax : Bool) (buf : Mem) (early : List (Nat × Byte)) (o : Nat) (l : List Byte) :
    Mem × Tally × List (Nat × Byte) :=
  (List.range ((o + l.length + f.size - 1) / f.size - o / f.size)).foldl (fun (a : Mem × Tally × List (Nat × Byte)) i =>
    let at_ := (o / f.size + i) * f.size
    let bs := (List.range f.size).map (fun k => (at_ + k, partByte a.2.2 o l (at_ + k)))
    if bs.all (fun q => q.2.isSome) then
      let r := combineElem f isMax a.1 at_ (bs.filterMap (·.2))
      (r.1, a.2.1.add r.2, a.2.2.filter (fun q => !(decide (at_ ≤ q.1) && decide (q.1 < at_ + f.size))))
    else
      let mine := bs.filterMap (fun q => if o ≤ q.1 ∧ q.1 < o + l.length then q.2.map (fun v => (q.1, v)) else none)
      (a.1, a.2.1, a.2.2 ++ mine)) (buf, {}, early)

/-- The position of a frame's sender in a group. -/
def Group.posOf (g : Group) (fr : Frame) : Option Nat :=
  (List.range g.members.length).find? (fun i => g.members[i]? == some (fr.src, fr.srcCtx))

/-- The command of a context that a collective's frame matches (R359). -/
def State.collMatch (s : State) (fr : Frame) : Option Cmd :=
  s.cmds.find? (fun x =>
    x.ctx == fr.dstCtx && x.live && (geoOf x.op).kind != 0 && x.coll.grp.jobTag == fr.tag &&
      (opEpoch x.op).toNat == bits fr.key.toNat 32 32 && x.coll.seq % 65536 == bits fr.key.toNat 16 16 &&
      (x.coll.grp.posOf fr).isSome)

/-- A frame may belong to a command still to come: a group of the context carries its JOB_TAG and lists its sender, and the
sequence has not passed its SEQ, a 16-bit number that wraps (R345, R359). -/
def State.collExpected (s : State) (fr : Frame) : Bool :=
  (List.range 512).any (fun g =>
    match s.readGroup fr.dstCtx g with
    | none => false
    | some x =>
      x.jobTag == fr.tag && (x.posOf fr).isSome &&
        (match Tab.find (s.ctx fr.dstCtx).collSeq g with
         | none => true
         | some q => q.1.toNat != bits fr.key.toNat 32 32 ||
             !older16 (BitVec.ofNat 16 (bits fr.key.toNat 16 16)) (BitVec.ofNat 16 q.2)))

/-- Data of a collective reaches its command: it is combined in phase 1 of REDUCE, else written at its offset; it is
recorded once (R347, R362). -/
def State.collTake (s : State) (x : Cmd) (pos : Nat) (fr : Frame) : State :=
  let g := geoOf x.op
  let pl := bits fr.key.toNat 14 2 * 16384 + bits fr.key.toNat 0 14
  let o := fr.off.toNat
  if x.coll.got.any (fun q => q.1 == pl && q.2.1 == pos && q.2.2.1 == o) then (s.countDup).ack fr
  else
    let s := s.updCmd x.id (fun y =>
      let y := { y with coll := { y.coll with got := y.coll.got ++ [(pl, pos, o, fr.payload.length)] } }
      if g.kind = 4 then { y with coll := { y.coll with values := Tab.set y.coll.values pos (leNat fr.payload) } }
      else if g.kind = 1 ∧ pl < 32768 then
        let mine (q : Nat × Nat × Nat × Byte) : Bool := q.1 == pl && q.2.1 == pos
        let r := combineInto g.fmt g.isMax y.coll.buf ((y.coll.part.filter mine).map (·.2.2)) o fr.payload
        let rest := y.coll.part.filter (fun q => !mine q)
        ({ y with coll := { y.coll with buf := r.1, part := rest ++ r.2.2.map (fun q => (pl, pos, q)) } } : Cmd).tally x.h.cls g.fmt r.2.1
      else { y with coll := { y.coll with buf := y.coll.buf.writeN o fr.payload } })
    (s.ack fr).settleColl x.id

/-- COLL_DATA (R359). -/
def State.collData (s : State) (fr : Frame) : State :=
  s.withFrame fCollData fr (fun s =>
    match s.collMatch fr with
    | some x => if x.coll.started then s.collTake x ((x.coll.grp.posOf fr).getD 0) fr else s.notReady fr false
    | none => if s.collExpected fr then s.notReady fr false else s.countStray)

/-- COLL_ABORT: the matching command ends with PEER_EPOCH in the next window (R374). -/
def State.collAbort (s : State) (fr : Frame) : State :=
  s.withFrame fCollAbort fr (fun s =>
    let hit (x : Cmd) : Bool := x.ctx == fr.dstCtx && x.live && (opGroup x.op).isSome && x.coll.grp.jobTag == fr.tag &&
      (opEpoch x.op).toNat == bits fr.key.toNat 32 32 && x.coll.seq % 65536 == bits fr.key.toNat 16 16 &&
      (x.coll.grp.posOf fr).isSome
    if s.cmds.any hit then
      { s with cmds := s.cmds.map (fun (x : Cmd) => if hit x then { x with peerEpoch := some fr.src } else x) }
    else s.countStray)

/-! ### NORMREDUCE's result (07 R205 to R207) -/

/-- The sums in ascending order of member position, one RNE rounding an addition (R205). -/
def normSum (vals : Tab Nat) : Exact :=
  match vals with
  | [] => { v := some Fp.zero }
  | (_, v) :: t => t.foldl (fun (a : Exact) q =>
      let b := Fmt.w40.readv q.2
      let r : Num := match a.v, b.v with | some u, some w => some (u.add w) | _, _ => none
      ({ v := r, sat := a.sat || b.sat } : Exact).toW40) (Fmt.w40.readv v)

/-- N = √S, one rounding in RNE; the root is to about 100 bits (R206). -/
def normRoot (sum : Exact) : Exact :=
  match sum.v with
  | none => { v := none }
  | some v => ({ v := some (refSqrt { v with neg := false }) } : Exact).toW40

/-- The factor f and whether it clips (R206): C ÷ N rounded once in RNE. -/
def normFactor (clip : Num) (sum root : Exact) : Exact × Bool :=
  match sum.v, root.v, clip with
  | some sv, some n, some c =>
    if c.isZero || sv.isZero || Fp.le n c then ({ v := some Fp.one }, false)
    else (({ v := some (refQuot c n) } : Exact).toW40, true)
  | some _, some _, none => ({ v := none }, false)
  | _, _, _ => ({ v := some Fp.zero }, false)

/-- The 32-byte result record and the census of S, N and f (R207). -/
def State.normRecord (s : State) (x : Cmd) (p : NormP) : List Byte × Tally :=
  let sum := normSum x.coll.values
  let root := normRoot sum
  let f := normFactor (w40Num p.clip) sum root
  let ws := Fmt.w40.write .rne sum
  let wn := Fmt.w40.write .rne root
  let wf := Fmt.w40.write .rne f.1
  let flags := (if sum.v.isNone then 1 else 0) + (if f.2 then 2 else 0) + (if ws.code == Fmt.w40.top then 4 else 0)
  (leBytes 5 ws.code ++ leBytes 5 wn.code ++ leBytes 5 wf.code ++ leBytes 5 p.clip.toNat ++ leBytes 1 flags ++ leBytes 1 0 ++
     leBytes 2 x.coll.values.length ++ leBytes 8 s.beat.count.toNat,
   (ws.tally.add wn.tally).add wf.tally)

/-! ### PERMUTE (R367 to R370) -/

/-- A move of a plan (R367). -/
structure Move where
  src : Ref
  dst : Ref
  length : Nat
  pos : Nat
  deriving DecidableEq, Repr

def State.planBytes (s : State) (x : Cmd) (p : PermP) (o n : Nat) : List Byte :=
  (List.range n).map (fun k => s.refByte x.ctx p.plan (o + k))

def State.outCount (s : State) (x : Cmd) (p : PermP) : Nat := leNat (s.planBytes x p 0 4)
def State.inCount (s : State) (x : Cmd) (p : PermP) : Nat := leNat (s.planBytes x p 4 4)

def State.moveAt (s : State) (x : Cmd) (p : PermP) (i : Nat) : Move :=
  let l := s.planBytes x p (32 + 32 * i) 32
  { src := refOf l 0, dst := refOf l 8, length := fld l 16 8, pos := fld l 24 2 }

/-- Source entry `i`: position and total bytes. -/
def State.sourceAt (s : State) (x : Cmd) (p : PermP) (i : Nat) : Nat × Nat :=
  let l := s.planBytes x p (32 + 32 * s.outCount x p + 16 * i) 16
  (fld l 0 2, fld l 8 8)

/-- The plan and the cursor lie in regions with the rights they need (R367, R370). -/
def State.planOk (s : State) (x : Cmd) (p : PermP) : Bool :=
  s.allows x.ctx p.plan (32 + 32 * s.outCount x p + 16 * s.inCount x p) .rd false &&
    s.allows x.ctx p.cursor (32 + 8 * s.inCount x p) .rd false && s.allows x.ctx p.cursor (32 + 8 * s.inCount x p) .wr false

/-- Bytes that one leg sends (R369). -/
def State.permLeg (s : State) (x : Cmd) : Nat := s.legTime x.coll.grp * x.coll.grp.rate / 64 * 64

/-- The part of the move list that a leg of at most `left` bytes covers, from move `i` at byte `o`: pieces of moves, and
the place after them. -/
def State.permTake (s : State) (x : Cmd) (p : PermP) : Nat → Nat → Nat → Nat → List (Move × Nat × Nat) × Nat × Nat
  | 0, i, o, _ => ([], i, o)
  | n + 1, i, o, left =>
    let m := s.moveAt x p i
    if left = 0 then ([], i, o)
    else if m.length - o ≤ left then
      let r := State.permTake s x p n (i + 1) 0 (left - (m.length - o))
      ((m, o, m.length - o) :: r.1, r.2)
    else ([(m, o, left)], i, o + left)

/-- A region accepts PERMUTE's bytes: it grants PEER_WR, is LOADING, or is the weight region that the context's own PERMUTE
binds (R369). -/
def State.permOpen (s : State) (c region off n : Nat) (bind : BitVec 32) : Bool :=
  let e := (s.ctx c).region region
  e.valid && decide (off + n ≤ e.size) &&
    (e.state == 1 || s.spareOpen c region || (e.state == 0 && bitOf e.rights 5) ||
      (bind != 0 && e.kind == 2 && e.wreg == bindWreg bind))

/-- Bytes delivered by PERMUTE are written at once and stay invisible until it completes (R369); those of frozen slabs are dropped (R192). -/
def State.permPut (s : State) (c pos region off : Nat) (l : List Byte) : State :=
  let e := (s.ctx c).region region
  let s := (trainedParts (Tab.find (s.masksOf c) region) e.size off l.length).foldl (fun (s : State) q =>
    s.regUndef e (s.writeBuf c region) q.1 q.2) s
  let s := s.touch c region off l.length
  let units := ((List.range ((l.length + 63) / 64)).map (fun u => (c, pos, region, off + 64 * u))).filter (fun q =>
    !s.permSeen.contains q)
  { s with permIn := Tab.upd {} s.permIn (c * 64 + region) (fun (m : Mem) => m.writeN off l), permSeen := s.permSeen ++ units }

/-- Bytes that have arrived from a source position. -/
def State.permArrived (s : State) (c pos : Nat) : Nat :=
  64 * (s.permSeen.filter (fun q => q.1 == c && q.2.1 == pos)).length

/-- The frames of a piece of a move, at most 4,096 B each. -/
def State.permFrames (s : State) (x : Cmd) (m : Move × Nat × Nat) : List Frame :=
  let d := (x.coll.grp.members[m.1.pos]?).getD (0, 0)
  (List.range ((m.2.2 + 4095) / 4096)).map (fun q =>
    let o := m.2.1 + q * 4096
    let n := Nat.min 4096 (m.2.1 + m.2.2 - o)
    { dst := d.1, dstCtx := d.2, srcCtx := x.ctx, srcGen := (s.ctx x.ctx).gen, tag := x.coll.grp.jobTag,
      key := BitVec.ofNat 64 ((opEpoch x.op).toNat * 2 ^ 32 + m.1.dst.region * 2 ^ 24 + x.coll.leg % 2 ^ 24),
      off := BitVec.ofNat 64 (m.1.dst.off + o),
      payload := (List.range n).map (fun k => s.refByte x.ctx m.1.src (o + k)) })

/-- One piece of a move: a local copy, or frames to its member; a source that may not be read, or a local destination that
does not accept it, fails the command (R367, R369). -/
def State.permMove (s : State) (x : Cmd) (p : PermP) (m : Move × Nat × Nat) : State :=
  let bad (r : Nat) : State := s.updCmd x.id (fun y => { y with fail := some (stRegionFault, 1, r) })
  if !s.allows x.ctx { m.1.src with off := m.1.src.off + m.2.1 } m.2.2 .rd false then bad m.1.src.region
  else if m.1.pos = x.coll.grp.myPos then
    if s.permOpen x.ctx m.1.dst.region (m.1.dst.off + m.2.1) m.2.2 p.bind then
      s.permPut x.ctx m.1.pos m.1.dst.region (m.1.dst.off + m.2.1)
        ((List.range m.2.2).map (fun k => s.refByte x.ctx m.1.src (m.2.1 + k)))
    else bad m.1.dst.region
  else s.sendFrames x.id fPermData (s.permFrames x m)

/-- The moves of a PERMUTE are all committed. -/
def State.movesOver (s : State) (x : Cmd) (p : PermP) : Bool := decide (s.outCount x p ≤ x.coll.moveIx)

/-- Every source's recorded count equals its BYTES (R369). -/
def State.sourcesOver (s : State) (x : Cmd) (p : PermP) : Bool :=
  (List.range (s.inCount x p)).all (fun i => leNat ((List.range 8).map (fun k => s.refByte x.ctx p.cursor (32 + 8 * i + k))) ==
    (s.sourceAt x p i).2)

/-- Marks the leg of a PERMUTE done once its frames are acknowledged. Its first leg commits even when there is nothing to send, so
that the cursor of a member that only receives reads in progress (R361, R370). -/
def State.settlePerm (s : State) (id : Nat) : State :=
  match s.cmd id with
  | none => s
  | some x =>
    match x.op with
    | .permute p =>
      if x.phase = .issued && x.coll.started && !s.awaitsAck id && (!s.movesOver x p || x.coll.leg == 0) then
        s.updCmd id (fun y => { y with phase := .done, final := false })
      else s
    | _ => s

/-- A leg of PERMUTE is issued (R369, R370): the first reads the cursor; a cursor that is done completes the command at
once. -/
def State.permIssue (s : State) (x : Cmd) (p : PermP) : State :=
  let cur := (List.range 32).map (fun k => s.refByte x.ctx p.cursor k)
  let own := fld cur 4 4 == p.toEpoch.toNat
  if !s.planOk x p then s.updCmd x.id (fun y => { y with phase := .done, fail := some (stRegionFault, 1, p.plan.region) })
  else if !x.coll.started && fld cur 0 1 == 2 && own then s.updCmd x.id (fun y => { y with phase := .done, final := true })
  else
    let resume := !x.coll.started && fld cur 0 1 == 1 && own
    let s := if x.coll.started || resume then s
      else { s with permSeen := s.permSeen.filter (fun q => q.1 != x.ctx), permIn := s.permIn.filter (fun q => q.1 / 64 != x.ctx) }
    let x := if resume then { x with coll := { x.coll with moveIx := fld cur 8 4, moveOff := fld cur 16 8 } } else x
    let t := s.permTake x p (s.outCount x p - x.coll.moveIx) x.coll.moveIx x.coll.moveOff (s.permLeg x)
    let s := s.updCmd x.id (fun y => { y with coll :=
      { x.coll with started := true, nextIx := t.2.1, nextOff := t.2.2,
                    legTo := t.1.foldl (fun (a : Tab Nat) m => Tab.upd 0 a m.1.pos (· + m.2.2)) [] } })
    let s := t.1.foldl (fun (s : State) m => s.permMove x p m) s
    s.settlePerm x.id

/-- Cumulative bytes committed to a member: those of the moves before the place reached (R369). -/
def State.permSentTo (s : State) (x : Cmd) (p : PermP) (ix off pos : Nat) : Nat :=
  ((List.range ix).map (s.moveAt x p)).foldl (fun n m => if m.pos = pos then n + m.length else n) 0 +
    (if (s.moveAt x p ix).pos = pos then off else 0)

/-- Writes bytes of the cursor. -/
def State.cursorWrite (s : State) (x : Cmd) (p : PermP) (o : Nat) (l : List Byte) : State :=
  let e := (s.ctx x.ctx).region p.cursor.region
  s.regWrite e (s.bufOf e) (p.cursor.off + o) l

/-- A leg of PERMUTE commits: the cursor moves, and a mark goes to each member it sent to (R369, R370). -/
def State.permCommit (s : State) (x : Cmd) (p : PermP) : State :=
  let s := s.updCmd x.id (fun y => { y with coll :=
    { y.coll with moveIx := x.coll.nextIx, moveOff := x.coll.nextOff, leg := x.coll.leg + 1, legTo := [] } })
  let s := s.cursorWrite x p 0
    (leBytes 4 1 ++ leBytes 4 p.toEpoch.toNat ++ leBytes 4 x.coll.nextIx ++ leBytes 4 0 ++ leBytes 8 x.coll.nextOff ++
      leBytes 8 s.beat.count.toNat)
  let s := x.coll.legTo.foldl (fun (s : State) q =>
    if q.1 = x.coll.grp.myPos then
      s.updCmd x.id (fun y => { y with coll :=
        { y.coll with marked := Tab.set y.coll.marked q.1 (s.permSentTo x p x.coll.nextIx x.coll.nextOff q.1) } })
    else
      let d := (x.coll.grp.members[q.1]?).getD (0, 0)
      s.sendFrame x.id fPermMark
        { dst := d.1, dstCtx := d.2, srcCtx := x.ctx, srcGen := (s.ctx x.ctx).gen, tag := x.coll.grp.jobTag,
          key := BitVec.ofNat 64 (p.toEpoch.toNat * 2 ^ 32 + x.coll.leg % 2 ^ 24),
          off := BitVec.ofNat 64 (s.permSentTo x p x.coll.nextIx x.coll.nextOff q.1) }) s
  s

/-- In each window the cursor takes the marked count of every source whose marked bytes have all arrived (R369); a count that moves on is an
update, whose beat it shows (R370). -/
def State.permRecord (s : State) (x : Cmd) (p : PermP) : State :=
  (List.range (s.inCount x p)).foldl (fun (s : State) i =>
    let src := s.sourceAt x p i
    match Tab.find x.coll.marked src.1 with
    | none => s
    | some n =>
      let was := leNat ((List.range 8).map (fun k => s.refByte x.ctx p.cursor (32 + 8 * i + k)))
      if n ≤ s.permArrived x.ctx src.1 ∧ was ≠ n then
        (s.cursorWrite x p (32 + 8 * i) (leBytes 8 n)).cursorWrite x p 24 (leBytes 8 s.beat.count.toNat)
      else s) s

/-- What PERMUTE has delivered becomes visible at its completion (R369); the cursor reads done (R370); the weight region
that it binds keeps V alone (R203). -/
def State.permFinish (s : State) (x : Cmd) (p : PermP) : State :=
  let s := (s.permIn.filter (fun q => q.1 / 64 == x.ctx)).foldl (fun (s : State) q =>
    let e := (s.ctx x.ctx).region (q.1 % 64)
    let b := s.writeBuf x.ctx (q.1 % 64)
    let offs := ((s.permSeen.filter (fun u => u.1 == x.ctx && u.2.2.1 == q.1 % 64)).map (fun u => u.2.2.2)).eraseDups
    offs.foldl (fun (s : State) o =>
      if frozen (Tab.find (s.masksOf x.ctx) (q.1 % 64)) e.size o then s else s.regWrite e b o (q.2.readN o 64)) s) s
  let s := { s with permIn := s.permIn.filter (fun q => q.1 / 64 != x.ctx), permSeen := s.permSeen.filter (fun q => q.1 != x.ctx) }
  let s := s.cursorWrite x p 0 (leBytes 4 2 ++ leBytes 4 p.toEpoch.toNat)
  let s := s.cursorWrite x p 24 (leBytes 8 s.beat.count.toNat)
  if p.bind = 0 then s else s.updWeight (bindWreg p.bind) (fun w => { w with closing := 0, busyBy := none, sValid := false, countStash := 0 })

/-- The PERMUTE of a context that a frame matches (R359, R369). -/
def State.permMatch (s : State) (fr : Frame) : Option (Cmd × PermP × Nat) :=
  s.cmds.findSome? (fun x =>
    match x.op with
    | .permute p =>
      if x.ctx == fr.dstCtx && x.live && x.coll.grp.jobTag == fr.tag && p.toEpoch.toNat == bits fr.key.toNat 32 32 then
        (x.coll.grp.posOf fr).map (fun i => (x, p, i))
      else none
    | _ => none)

/-- A frame may belong to a PERMUTE still to come: a group of the context carries its JOB_TAG and lists its sender (R348, R359). -/
def State.permExpected (s : State) (fr : Frame) : Bool :=
  (List.range 512).any (fun g =>
    match s.readGroup fr.dstCtx g with
    | none => false
    | some x => x.jobTag == fr.tag && (x.posOf fr).isSome)

/-- A frame of PERMUTE that no command matches. -/
def State.permLost (s : State) (fr : Frame) : State := if s.permExpected fr then s.notReady fr false else s.countStray

/-- PERM_DATA (R369). -/
def State.permData (s : State) (fr : Frame) : State :=
  s.withFrame fPermData fr (fun s =>
    match s.permMatch fr with
    | none => s.permLost fr
    | some (x, p, pos) =>
      let r := bits fr.key.toNat 24 8
      if !x.coll.started then s.notReady fr false
      else if s.permOpen x.ctx r fr.off.toNat fr.payload.length p.bind then
        let dup := s.permSeen.contains (x.ctx, pos, r, fr.off.toNat)
        ((if dup then s.countDup else s.permPut x.ctx pos r fr.off.toNat fr.payload)).ack fr
      else s.notReady fr true)

/-- PERM_MARK (R353, R369); one that has come before counts as a duplicate (R347). -/
def State.permMark (s : State) (fr : Frame) : State :=
  s.withFrame fPermMark fr (fun s =>
    match s.permMatch fr with
    | none => s.permLost fr
    | some (x, _, pos) =>
      if x.coll.marks.contains (pos, fr.off.toNat) then (s.countDup).ack fr
      else
        (s.updCmd x.id (fun y => { y with coll :=
          { y.coll with marks := y.coll.marks ++ [(pos, fr.off.toNat)],
                        marked := Tab.set y.coll.marked pos (Nat.max fr.off.toNat (Tab.get 0 y.coll.marked pos)) } })).ack fr)

end Sys2Proof.Machine
end

