-- ==== Sys2Proof/Machine/Route.lean ====
section
/-! DEFINITION. Conditional routing (08): tries and their answers, route records, the life of a batch at its origin and of
a buffer at its slot, RETRACE and COMBINE. -/

namespace Sys2Proof.Machine

/-! ### Messages of the Pass units (R345; log 21) -/

/-- Kinds of a PASS_MARK. -/
def markCommit : Nat := 0
def markClose : Nat := 1
def markReturn : Nat := 2
def markLost : Nat := 3

/-- The number under which an origin keeps a slot: device, partition, slot. -/
def slotKey (dev pt slot : Nat) : Nat := dev * 1024 + pt * 64 + slot

def passFrame (s : State) (dev dstCtx srcCtx : Nat) (a : PassArgs) (off : Nat) (row : List Byte) : Frame :=
  { dst := dev, dstCtx := dstCtx, srcCtx := srcCtx, srcGen := (s.ctx srcCtx).gen,
    tag := BitVec.ofNat 32 (a.slot * 2 ^ 24 + a.table * 2 ^ 16 + a.batch.toNat),
    key := BitVec.ofNat 64 (a.token * 8 + a.entry), off := BitVec.ofNat 64 off, payload := row }

/-- The unit number of a die's Pass unit (R321), and the epoch that it holds. -/
def passUnit (d : Nat) : Nat := 8 + d
def State.passEpoch (s : State) (d : Nat) : BitVec 16 := Tab.get 0 s.pt.unitEpoch (passUnit d)

/-- The die whose Pass unit sends for a command: the origin block's under PDISP, else the lowest of its partition (log 21). -/
def State.sendDie (s : State) (x : Cmd) (origin : Option Nat) : Nat :=
  match origin with | some b => dieOf b | none => (diesOf (s.part (s.ctxPart x.ctx)).layout.dies).headD 0

/-- The home die of a slot (R213). -/
def State.homeDie (s : State) (pt : Nat) (x : SlotSt) : Nat :=
  match (s.part pt).blockAt x.d.bgFirst with | some b => dieOf b | none => 0

/-- The home die of a slot by its number. -/
def State.slotDie (s : State) (pt slot : Nat) : Nat :=
  match Tab.find (s.part pt).slots slot with | some x => s.homeDie pt x | none => 0

/-- Sends a Pass unit message for a command; while the device is fenced nothing goes out (R397). -/
def State.sendPass (s : State) (cmd ty : Nat) (fr : Frame) (a : PassArgs) (nums : List Nat) : State :=
  if s.fenced then s else (s.sendFrame cmd ty fr).send (.pass ty (s.stamp fr) a nums)

/-- A marker for a slot, or for an origin. -/
def State.sendMark (s : State) (dev dstCtx srcCtx : Nat) (a : PassArgs) (kind count : Nat) : State :=
  s.sendPass 0 fPassMark (passFrame s dev dstCtx srcCtx a (16 * count + 8 * a.phase + kind + 1) []) a [kind, count]

/-- A Pass unit message after the checks of R348; a stale one counts in PASS_LATE too (R236). -/
def State.withPass (s : State) (ty : Nat) (fr : Frame) (f : State → State) : State :=
  let late := s.portOpen fr && !s.fenced && fr.dst == s.lnk.addr.toNat && s.stale fr
  let s := if late then { s with passRegs := { s.passRegs with late := sat32 s.passRegs.late 1 } } else s
  s.withFrame ty fr f

/-- A Pass unit message of an older generation than its context is dropped (R236). -/
def State.passLate (s : State) : State := { s with passRegs := { s.passRegs with late := sat32 s.passRegs.late 1 } }

/-- A Pass unit refuses a message of another Pass unit of the device whose epoch is not current for the partition that it serves, and the
command that sent it is requeued as pre-empted (R321). -/
def State.passCurrent (s : State) (fr : Frame) (a : PassArgs) (die : Nat) : Bool :=
  fr.port.isSome || s.pt.current (passUnit die) a.epoch a.opt

def State.passRefused (s : State) (id : Nat) : State :=
  ({ s with pt := { s.pt with mmRefuse := sat32 s.pt.mmRefuse 1 } }).kill id

/-! ### Tries at the origin (R216 to R221) -/

/-- Where the expert table sends an expert ID of a routing table: device, partition, slot (R210, R217). -/
def State.dest (s : State) (d : RouteTab) (id : Nat) : Option (Nat × Nat × Nat) :=
  let e := Tab.get 0 s.xtable (d.xbase + id)
  if id ≤ d.xcountM1 ∧ xValid e = true then some (xDevice e, xPart e, xSlot e) else none

/-- The descriptor of a routing table of a command's partition. -/
def State.tabD (s : State) (x : Cmd) (table : Nat) : RouteTab := (Tab.get {} (s.part (s.ctxPart x.ctx)).tabs table).d

def State.updTab (s : State) (pt table : Nat) (f : RTable → RTable) : State :=
  s.updPart pt (fun q => { q with tabs := q.tabs.map (fun t => if t.1 = table then (t.1, f t.2) else t) })

def RTable.updBatch (t : RTable) (b : BitVec 16) (f : BatchSt → BatchSt) : RTable :=
  { t with batches := t.batches.map (fun (k : BatchSt) => if k.b = b then f k else k) }

/-- What a message about entry `i` of a token names. -/
def State.tokArgs (s : State) (x : Cmd) (k : Tok) (i phase : Nat) (e : RouteEnt) : PassArgs :=
  { pt := e.pt, slot := e.slot, opt := s.ctxPart x.ctx, table := k.table, batch := k.batch, phase := phase, token := k.token,
    entry := i, gen := (s.ctx x.ctx).gen, buf := e.buf, cmd := x.id, nth := k.nth, run := x.kills,
    epoch := s.passEpoch (s.sendDie x k.origin) }

/-- A token with its gate record (R153, R217). -/
def newTok (table : Nat) (d : RouteTab) (b : BitVec 16) (token : Nat) (origin : Option Nat) (row grec : List Byte) : Tok :=
  let n := Nat.min 8 (fld grec 56 1)
  { table := table, batch := b, token := token, origin := origin, row := row, count := n,
    ents := (List.range n).map (fun i => { id := fld grec (2 * i) 2, weight := BitVec.ofNat 40 (fld grec (16 + 5 * i) 5) }),
    spares := (List.range n).filter (fun i => decide (d.kUse ≤ i)) }

/-- Offers entry `i` of a token to its slot: a try goes out, or the entry takes NO_EXPERT (R217). -/
def State.offer (s : State) (x : Cmd) (k : Tok) (i : Nat) : State × Tok :=
  match k.ents[i]? with
  | none => (s, k)
  | some e =>
    match s.dest (s.tabD x k.table) e.id with
    | none => (s, { k with ents := setAt k.ents i { e with st := 6 } })
    | some w =>
      let e := { e with device := w.1, pt := w.2.1, slot := w.2.2 }
      let a := s.tokArgs x k i 0 e
      (s.sendPass x.id fPassTry (passFrame s w.1 0 x.ctx a (64 * x.id + k.nth) k.row) a [],
       { k with ents := setAt k.ents i e, waiting := k.waiting ++ [i], tries := k.tries + 1 })

/-- Offers the next spares until one has a try in flight or none is left (R219). -/
def State.offerSpare : Nat → State → Cmd → Tok → State × Tok
  | 0, s, _, k => (s, k)
  | n + 1, s, x, k =>
    match k.spares with
    | [] => (s, k)
    | i :: t =>
      let r := s.offer x { k with spares := t } i
      if r.2.waiting.isEmpty then State.offerSpare n r.1 x r.2 else r

/-- Rows of a table's hold area in use (R220). -/
def State.holdRowsUsed (s : State) (pt table : Nat) : List Nat :=
  (s.cmds.flatMap (fun y => if s.ctxPart y.ctx = pt then
    (y.toks.filter (fun k => k.table == table)).flatMap (fun k => k.held.map (·.2)) else [])) ++
  (match Tab.find (s.part pt).tabs table with
   | some t => t.batches.flatMap (fun b => b.held.map (fun h => h.2.2))
   | none => [])

/-- The state of an entry of a token. -/
def Tok.setSt (k : Tok) (i st : Nat) : Tok :=
  match k.ents[i]? with
  | some e => { k with ents := setAt k.ents i { e with st := st } }
  | none => k

/-- Where row `row` of the hold area begins. -/
def holdOff (d : RouteTab) (row : Nat) : Nat := d.hold.off + row * (rowBytes d.rowUnits + 64)

/-- A row of a context's hold area is undefined until its dispatch commits (R223, R234). -/
def State.holdUndef (s : State) (c : Nat) (d : RouteTab) (row : Nat) : State :=
  let e := (s.ctx c).region d.hold.region
  s.regUndef e (s.bufOf e) (holdOff d row) (rowBytes d.rowUnits + 64)

/-- A refused entry is held, when the hold area has a row free, else dropped (R220). -/
def State.holdEntry (s : State) (x : Cmd) (k : Tok) (i : Nat) : State × Tok :=
  let d := s.tabD x k.table
  let used := s.holdRowsUsed (s.ctxPart x.ctx) k.table ++ k.held.map (·.2)
  match (List.range d.holdRows).find? (fun r => !used.contains r) with
  | some r => (s.holdUndef x.ctx d r, { k.setSt i 4 with held := k.held ++ [(i, r)] })
  | none => (s, k.setSt i 2)

/-- The policy's last word on the refused entries of a token (R219, R220): a held entry that is tried again and refused
expires. -/
def State.settleRefused (s : State) (x : Cmd) (k : Tok) : State × Tok :=
  let again := match x.op with | .routeOpen _ => true | _ => false
  let done := k.refused.foldl (fun (r : State × Tok) i =>
    if again then (r.1, r.2.setSt i 5) else if (s.tabD x k.table).policy = 2 then r.1.holdEntry x r.2 i else (r.1, r.2.setSt i 2)) (s, k)
  (done.1, { done.2 with refused := [] })

/-- A token without an open try goes on: it tries a spare under REROUTE, or its refused entries are settled. -/
def State.advance (s : State) (x : Cmd) (k : Tok) : State × Tok :=
  if !k.waiting.isEmpty then (s, k)
  else if k.refused.isEmpty then (s, k)
  else if (s.tabD x k.table).policy = 1 ∧ !k.spares.isEmpty then
    let r := State.offerSpare 8 s x k
    if r.2.waiting.isEmpty then r.1.settleRefused x r.2 else r
  else s.settleRefused x k

/-- Dispatches a token: its primary choices are tried in ascending order (R217); its route record is undefined until the
commit (R223). A token that the command has dispatched before is a dispatch of its own (R216). -/
def State.dispatchTok (s : State) (id : Nat) (k : Tok) (prims : List Nat) : State :=
  match s.cmd id with
  | none => s
  | some x =>
    let k := { k with nth := (x.toks.filter (fun o => o.table == k.table && o.batch == k.batch && o.token == k.token)).length }
    let r := prims.foldl (fun (r : State × Tok) i => r.1.offer x r.2 i) (s, k)
    let r := r.1.advance x r.2
    r.1.updCmd id (fun y => { y with toks := y.toks ++ [r.2] })

/-- Bytes of the route record of token `t` of batch `b`: its offset from the route area (R222). -/
def recOff (d : RouteTab) (b : BitVec 16) (t : Nat) : Nat := (b.toNat % Nat.max 1 d.nbuf * d.maxTok + t) * 128

/-- A new dispatch of a token by a command (R216, R217). -/
def State.dispatchNew (s : State) (id c table : Nat) (b : BitVec 16) (token : Nat) (origin : Option Nat)
    (row grec : List Byte) : State :=
  let d := (Tab.get {} (s.part (s.ctxPart c)).tabs table).d
  let e := (s.ctx c).region d.route.region
  let s := s.regUndef e (s.bufOf e) (d.route.off + recOff d b token) 128
  let k := newTok table d b token origin row grec
  s.dispatchTok id k (List.range (Nat.min d.kUse k.count))

/-! ### The answer to a try (R219, R221) -/

/-- A token's entry `i` is answered: a position of a buffer of the slot (R214), a refusal, or a slot that is not enabled. -/
def answerTok (d : RouteTab) (k : Tok) (i : Nat) (pos : Option Nat) (buf : Nat) (disabled : Bool) : Tok :=
  let k := { k with waiting := k.waiting.filter (· != i) }
  match k.ents[i]? with
  | none => k
  | some e =>
    if disabled then k.setSt i 6
    else
      match pos with
      | some p =>
        let k := { k with ents := setAt k.ents i { e with st := 1, buf := buf, pos := p } }
        if i < d.kUse then k
        else
          match k.refused with
          | r :: t => { k.setSt r 3 with refused := t }
          | [] => k
      | none =>
        let k := { k with full := k.full + 1 }
        if i < d.kUse then
          { k with refused := (k.refused.filter (fun r => decide (r < i))) ++ i :: k.refused.filter (fun r => decide (i < r)) }
        else k.setSt i 2

/-- Every try of a command has been answered. -/
def Cmd.toksSettled (x : Cmd) : Bool := x.toks.all (fun k => k.waiting.isEmpty && k.refused.isEmpty)

/-- The commands of the origin that end with their tries. -/
def Cmd.onlyTries (x : Cmd) : Bool :=
  match x.op with | .routeDispatch _ | .routeOpen _ => true | _ => false

def State.settleTries (s : State) (id : Nat) : State :=
  s.updCmd id (fun y => if y.phase = .issued && y.onlyTries && y.toksSettled then { y with phase := .done } else y)

/-- The token of a command that awaits an answer. -/
def Cmd.tokIx (x : Cmd) (a : PassArgs) : Option Nat :=
  (List.range x.toks.length).find? (fun i =>
    match x.toks[i]? with
    | some k =>
      k.table == a.table && k.batch == a.batch && k.token == a.token && k.nth == a.nth && x.id == a.cmd && k.waiting.contains a.entry
    | none => false)

/-- A command has made the try that an answer names. -/
def Cmd.tried (x : Cmd) (a : PassArgs) : Bool :=
  x.id == a.cmd && x.toks.any (fun k =>
    k.table == a.table && k.batch == a.batch && k.token == a.token && k.nth == a.nth && decide (a.entry < k.ents.length))

/-- PASS_REPLY at the origin (R219, R221). An answer to a try that has been answered is a duplicate, one to no try a stray (R347,
R348). -/
def State.passReply (s : State) (fr : Frame) (a : PassArgs) (pos : Option Nat) : State :=
  s.withPass fPassReply fr (fun s =>
    if older16 a.gen (s.ctx fr.dstCtx).gen then (s.ack fr).passLate
    else
      match s.cmds.findSome? (fun x => if x.ctx = fr.dstCtx && x.live then (x.tokIx a).map (fun i => (x, i)) else none) with
      | none =>
        if s.cmds.any (fun x => x.ctx == fr.dstCtx && x.live && x.tried a) then (s.countDup).ack fr else s.countStray
      | some (x, i) =>
        let s := s.ack fr
        let k0 := (x.toks[i]?).getD {}
        if !s.passCurrent fr a (s.sendDie x k0.origin) then s.passRefused x.id
        else
        let k := answerTok (s.tabD x a.table) k0 a.entry pos a.buf a.disabled
        let r := s.advance x k
        (r.1.updCmd x.id (fun y => { y with toks := setAt y.toks i r.2 })).settleTries x.id)

/-! ### A try at its slot (R218) -/

def State.updSlot (s : State) (pt slot : Nat) (f : SlotSt → SlotSt) : State :=
  s.updPart pt (fun q => { q with slots := q.slots.map (fun t => if t.1 = slot then (t.1, f t.2) else t) })

def SlotBuf.setPhase (k : SlotBuf) (ph : Nat) (f : PhaseSt → PhaseSt) : SlotBuf :=
  if ph = 0 then { k with fwd := f k.fwd } else { k with bwd := f k.bwd }

/-- Counts for a slot that land at its next seal or RETURN (R239). -/
def SlotSt.owe (x : SlotSt) (i n : Nat) : SlotSt := { x with pend := setAt x.pend i ((x.pend[i]?).getD 0 + n) }

def SlotSt.land (x : SlotSt) : SlotSt :=
  { x with counters := (List.range 8).foldl (fun (l : List Cnt) i => bump l i ((x.pend[i]?).getD 0)) x.counters,
           pend := List.replicate 8 0 }

/-- The key of R217, of one dispatch of the token (R216): a rerun presents it again. -/
def Resv.sameKey (r : Resv) (fr : Frame) (a : PassArgs) : Bool :=
  r.device == fr.src && r.ctx == fr.srcCtx && r.gen == fr.srcGen && r.token == a.token && r.entry == a.entry &&
    r.cmd == a.cmd && r.nth == a.nth

/-- The key in the backward phase: the tag of the origin's generation may have moved on since the dispatch, which RETRACE does not repeat
(R231, R234), and the record holds the position. -/
def Resv.sameRow (r : Resv) (fr : Frame) (a : PassArgs) : Bool :=
  r.device == fr.src && r.ctx == fr.srcCtx && r.token == a.token && r.entry == a.entry

/-- The lowest position that nothing holds. -/
def SlotBuf.freePos (k : SlotBuf) (cap : Nat) : Option Nat :=
  (List.range cap).find? (fun p => !k.resv.any (fun r => r.pos == p))

/-- Where buffer `j` of an area begins, and its length. -/
def bufBytes (d : SlotDesc) : Nat := d.cap * rowBytes d.rowUnits

/-- A slot writes a buffer area through the region table of its context; where the table forbids it nothing is written (R248, R258). -/
def State.slotWrites (s : State) (d : SlotDesc) (r : Ref) (j : Nat) : Bool :=
  s.allows d.ctx { r with off := r.off + j * bufBytes d } (bufBytes d) .wr false

/-- A buffer area of a slot is undefined until its seal (R218). -/
def State.slotUndef (s : State) (d : SlotDesc) (r : Ref) (j : Nat) : State :=
  let e := (s.ctx d.ctx).region r.region
  if s.slotWrites d r j then s.regUndef e (s.bufOf e) (r.off + j * bufBytes d) (bufBytes d) else s

/-- The batch is the last that its buffer has sealed and released (log 21). -/
def SlotSt.released (x : SlotSt) (b : BitVec 16) : Bool := Tab.find x.past (b.toNat % Nat.max 1 x.d.nbuf) == some b

/-- What a slot decides on a try: a refusal with the counters it owes, or a position and the buffer that holds it. -/
def SlotSt.decide (x : SlotSt) (fr : Frame) (a : PassArgs) : Except (List Nat) (Nat × SlotBuf) :=
  let k := (Tab.find x.bufs (a.batch.toNat % Nat.max 1 x.d.nbuf)).getD { batch := a.batch }
  if k.batch ≠ a.batch then .error [1, 2]
  else if (k.phase a.phase).isSealed || x.released a.batch then .error [1, 3]
  else
    let put (k : SlotBuf) (p : Nat) : SlotBuf :=
      { k with rows := Tab.set k.rows p fr.payload, fwd := { k.fwd with runs := Tab.set k.fwd.runs p a.run } }
    match k.resv.find? (fun r => r.sameKey fr a) with
    | some r => .ok (r.pos, put k r.pos)
    | none =>
      match k.freePos x.d.cap with
      | none => .error [1]
      | some p =>
        .ok (p, put { k with
          resv := k.resv ++ [{ pos := p, device := fr.src, ctx := fr.srcCtx, gen := fr.srcGen, opt := a.opt, table := a.table,
                               token := a.token, entry := a.entry, cmd := a.cmd, nth := a.nth }] } p)

/-- A try that the slot has taken before: the same row of the same run (R347). -/
def SlotSt.seen (x : SlotSt) (fr : Frame) (a : PassArgs) : Bool :=
  match Tab.find x.bufs (a.batch.toNat % Nat.max 1 x.d.nbuf) with
  | some k => k.batch == a.batch && k.resv.any (fun r => r.sameKey fr a && Tab.find k.fwd.runs r.pos == some a.run)
  | none => false

/-- Answers a try. -/
def State.answerTry (s : State) (fr : Frame) (a : PassArgs) (pos : Option Nat) (disabled : Bool) : State :=
  let a := { a with disabled := disabled }
  s.sendPass 0 fPassReply (passFrame s fr.src fr.srcCtx fr.dstCtx a 0 []) a
    (match pos with | some p => [1, p] | none => [0, if disabled then 1 else 0])

/-- PASS_TRY at the home Pass unit. -/
def State.passTry (s : State) (fr : Frame) (a : PassArgs) : State :=
  s.withPass fPassTry fr (fun s =>
    let now := s.passCurrent fr a (s.slotDie a.pt a.slot)
    let s := s.ack fr
    let a := { a with epoch := s.passEpoch (s.slotDie a.pt a.slot) }
    let none_ : State :=
      ({ s with passRegs := { s.passRegs with badDest := sat32 s.passRegs.badDest 1 } }).answerTry fr a none true
    match Tab.find (s.part a.pt).slots a.slot with
    | none => none_
    | some x =>
      let s := if x.seen fr a then s.countDup else s
      if !x.d.enabled then none_
      else if !now then
        (match s.cmds.find? (fun y => y.ctx == fr.srcCtx && y.live && y.tried a) with
         | some y => s.passRefused y.id
         | none => s)
      else
        match x.decide fr a with
        | .error ix => (s.updSlot a.pt a.slot (fun x => ix.foldl (fun (x : SlotSt) i => x.owe i 1) x)).answerTry fr a none false
        | .ok r =>
          let j := a.batch.toNat % Nat.max 1 x.d.nbuf
          let s := if (Tab.find x.bufs j).isNone then s.slotUndef x.d x.d.inp j else s
          (s.updSlot a.pt a.slot (fun x => { x with bufs := Tab.set x.bufs j r.2 })).answerTry fr { a with buf := j } (some r.1) false)

/-! ### The commit of a dispatch (R222 to R224, R239) -/

/-- An entry of a route record; what has a meaning only for SENT is free elsewhere (R222; log 11). -/
def entBytes (seed i : Nat) (e : RouteEnt) : List Byte :=
  let free := Config.freeBits seed i
  let dev := if e.st = 1 then e.device else free % 2 ^ 24
  let place := if e.st = 1 then e.pt * 2 ^ 28 + e.slot * 2 ^ 22 + e.buf * 2 ^ 19 + e.pos
    else free / 2 ^ 24 % 2 ^ 13 * 2 ^ 19 + free / 2 ^ 37 % 4096
  leBytes 2 e.id ++ leBytes 5 e.weight.toNat ++ leBytes 3 dev ++ leBytes 4 (place + e.st * 2 ^ 16)

/-- A route record. -/
def Tok.record (k : Tok) (seed : Nat) : List Byte :=
  let ents := (List.range k.ents.length).flatMap (fun i => entBytes seed i ((k.ents[i]?).getD {}))
  leBytes 4 k.token ++ leBytes 2 k.batch.toNat ++ leBytes 1 k.count ++ leBytes 1 (if k.held.isEmpty then 0 else 1) ++
    leBytes 2 (match k.origin with | some b => b | none => 65535) ++ zeros 6 ++ ents ++ zeros (112 - ents.length)

/-- The entry `i` that a record's bytes spell. -/
def recEnt (l : List Byte) (i : Nat) : RouteEnt :=
  let o := 16 + 14 * i
  let p := fld l (o + 10) 4
  { id := fld l o 2, weight := BitVec.ofNat 40 (fld l (o + 2) 5), device := fld l (o + 7) 3, pt := bits p 28 4, slot := bits p 22 6,
    buf := bits p 19 3, st := bits p 16 3, pos := bits p 0 12 }

def recEnts (l : List Byte) : List (Nat × RouteEnt) :=
  (List.range (Nat.min 8 (fld l 6 1))).map (fun i => (i, recEnt l i))

/-- Where the route record of a token lies. -/
def recRef (d : RouteTab) (b : BitVec 16) (t : Nat) : Ref := { d.route with off := d.route.off + recOff d b t }

def State.readRec (s : State) (c : Nat) (d : RouteTab) (b : BitVec 16) (t : Nat) : List Byte := s.readRef c (recRef d b t) 128

/-- Writes at once through a region of a context. Acceptance has checked the range for a command (R248). -/
def State.putRef (s : State) (c : Nat) (r : Ref) (l : List Byte) : State :=
  let e := (s.ctx c).region r.region
  s.regWrite e (s.bufOf e) r.off l

/-- A row of the hold area: a 64 B header, whose layout the manual leaves open (log 20), and the row. -/
def State.putHold (s : State) (c : Nat) (d : RouteTab) (row : Nat) (l : List Byte) : State :=
  let e := (s.ctx c).region d.hold.region
  (s.regUndef e (s.bufOf e) (holdOff d row) 64).putRef c { d.hold with off := holdOff d row + 64 } l

def Tok.countSt (k : Tok) (st : Nat) : Nat := (k.ents.filter (fun e => e.st == st)).length

/-- The counters of a routing table take what a token came to (R239). -/
def RTable.countTok (t : RTable) (k : Tok) : RTable :=
  let prims := (k.ents.take t.d.kUse).filter (fun e => e.st == 2)
  let ns := [k.tries, k.countSt 1, k.full, prims.length, k.countSt 3, k.held.length, k.countSt 5, k.countSt 6]
  { t with counters := (List.range 8).foldl (fun (l : List Cnt) i => bump l i ((ns[i]?).getD 0)) t.counters }

/-- Commit markers of the SENT entries of a token, and the rows counted for its slots; a marker says which of the slot's rows it commits
(R224). -/
def State.markTok (s : State) (x : Cmd) (k : Tok) (phase : Nat) : State :=
  (List.range k.ents.length).foldl (fun (s : State) i =>
    match k.ents[i]? with
    | some e =>
      if e.st = 1 then
        let key := slotKey e.device e.pt e.slot
        let s := s.updTab (s.ctxPart x.ctx) k.table (fun t => t.updBatch k.batch (fun b =>
          if phase = 0 then { b with sentF := Tab.upd 0 b.sentF key (· + 1) } else { b with sentB := Tab.upd 0 b.sentB key (· + 1) }))
        let n := match (Tab.get {} (s.part (s.ctxPart x.ctx)).tabs k.table).batch k.batch with
          | some b => Tab.get 0 (if phase = 0 then b.sentF else b.sentB) key
          | none => 0
        s.sendMark e.device 0 x.ctx (s.tokArgs x k i phase e) markCommit n
      else s
    | none => s) s

/-- A dispatched token commits: route record, hold copies, counters, commit markers. -/
def State.commitTok (s : State) (x : Cmd) (k : Tok) : State :=
  let d := s.tabD x k.table
  let s := (s.putRef x.ctx (recRef d k.batch k.token) (k.record s.fresh)).burn
  let s := k.held.foldl (fun (s : State) h => s.putHold x.ctx d h.2 k.row) s
  let s := s.updTab (s.ctxPart x.ctx) k.table (fun t => (t.countTok k).updBatch k.batch (fun b =>
    { b with held := b.held ++ k.held.map (fun h => (k.token, h.1, h.2)) }))
  s.markTok x k 0

/-- A held token that was tried again commits: its entry in the record of the batch before becomes SENT or EXPIRED
(R220). -/
def State.commitHeld (s : State) (x : Cmd) (k : Tok) : State :=
  let d := s.tabD x k.table
  let s := (List.range k.ents.length).foldl (fun (s : State) i =>
    match k.ents[i]? with
    | some e =>
      if e.st = 0 then s
      else s.putRef x.ctx { (recRef d (k.batch - 1) k.token) with off := (recRef d (k.batch - 1) k.token).off + 16 + 14 * i }
        (entBytes s.fresh i e)
    | none => s) s
  let s := s.burn.updTab (s.ctxPart x.ctx) k.table (fun t => t.countTok k)
  s.markTok x k 0

/-! ### OPEN, CLOSE, and the rest at the origin -/

/-- The held rows of the batch before are offered to the one that opens (R215, R220). -/
def State.openIssue (s : State) (x : Cmd) (p : RouteP) : State :=
  let t := Tab.get {} (s.part (s.ctxPart x.ctx)).tabs p.table
  let held := match t.batch (p.batch - 1) with | some b => b.held | none => []
  let toks := (held.map (·.1)).eraseDups
  let s := toks.foldl (fun (s : State) tk =>
    let rec_ := s.readRec x.ctx t.d (p.batch - 1) tk
    let mine := held.filter (fun h => h.1 == tk)
    let row := s.readRef x.ctx
      { t.d.hold with off := holdOff t.d ((mine.map (fun h => h.2.2)).headD 0) + 64 } (rowBytes t.d.rowUnits)
    let ents := (recEnts rec_).map (fun e => { e.2 with st := 0 })
    s.dispatchTok x.id { table := p.table, batch := p.batch, token := tk, row := row, count := ents.length, ents := ents }
      (mine.map (fun h => h.2.1))) s
  s.settleTries x.id

/-- A command of a context's routing table that still needs the state of a batch (R229, R231). -/
def Cmd.needsBatch (x : Cmd) (table : Nat) (b : BitVec 16) : Bool :=
  x.live && (match x.op with
    | .combineForward p | .combineRetrace p => p.table == table && p.batch == b
    | .routeRetrace p => p.table == table && p.batch == b
    | _ => false)

/-- OPEN commits: b becomes the dispatch batch (R215). The state of a batch is kept for `NBUF` batches, and as long as a command needs
it. -/
def State.openCommit (s : State) (x : Cmd) (p : RouteP) : State :=
  let pt := s.ctxPart x.ctx
  let again := x.toks.flatMap (fun k => ((List.range k.ents.length).filter (fun i =>
    match k.ents[i]? with | some e => e.st != 0 | none => false)).map (fun i => (k.token, i)))
  let used (b : BitVec 16) : Bool := s.cmds.any (fun y => s.ctxPart y.ctx == pt && y.needsBatch p.table b)
  let s := s.updTab pt p.table (fun t =>
    { (t.updBatch (p.batch - 1) (fun b => { b with held := [] })) with ctx := x.ctx, last := some p.batch, dispatch := some p.batch })
  let s := s.updTab pt p.table (fun t =>
    { t with batches := (t.batches.filter (fun (b : BatchSt) => b.b != p.batch && (decide ((p.batch - b.b).toNat < t.d.nbuf) || used b.b))) ++
        [{ b := p.batch, late := again }] })
  x.toks.foldl (fun (s : State) k => s.commitHeld x k) s

/-- The returns of a phase are complete once every slot that the table closed to has returned (R227). -/
def BatchSt.settle (b : BatchSt) : BatchSt :=
  { b with doneF := b.doneF || (b.closedF && b.toF.all (fun k => b.retF.contains k)),
           doneB := b.doneB || (b.closedB && b.toB.all (fun k => b.retB.contains k)) }

/-- Close markers to every slot of the window, each with the rows committed to it (R224). -/
def State.closeCommit (s : State) (x : Cmd) (table phase : Nat) (batch : BitVec 16) : State :=
  let t := Tab.get {} (s.part (s.ctxPart x.ctx)).tabs table
  let slots := s.windowSlots t.d.xbase t.d.xcountM1
  let b := (t.batch batch).getD {}
  let keys := slots.map (fun w => slotKey w.1 w.2.1 w.2.2)
  let s := slots.foldl (fun (s : State) w =>
    let a : PassArgs :=
      { pt := w.2.1, slot := w.2.2, opt := s.ctxPart x.ctx, table := table, batch := batch, phase := phase, gen := (s.ctx x.ctx).gen }
    s.sendMark w.1 0 x.ctx a markClose (Tab.get 0 (if phase = 0 then b.sentF else b.sentB) (slotKey w.1 w.2.1 w.2.2))) s
  s.updTab (s.ctxPart x.ctx) table (fun t => t.updBatch batch (fun b =>
    BatchSt.settle (if phase = 0 then { b with closedF := true, toF := keys } else { b with closedB := true, toB := keys })))

/-- XSET commits: the words of the context's region become entries (R211). -/
def State.xsetCommit (s : State) (x : Cmd) (p : RouteP) : State :=
  let l := s.readRef x.ctx p.rows (8 * p.count)
  { s with xtable := (List.range p.count).foldl (fun (t : Tab W64) i =>
      Tab.set t (p.first + i) (BitVec.ofNat 64 (fld l (8 * i) 8 % 2 ^ 64) &&& 0x80FFFFFFFFC00000#64)) s.xtable }

/-- The 64 bytes of eight counters (R88, R239). -/
def counterBytes (l : List Cnt) : List Byte := l.flatMap (fun c => leBytes 8 c.word.toNat)

/-- COUNTS commits (R239). -/
def State.countsCommit (s : State) (x : Cmd) (p : RouteP) : State :=
  let pt := s.ctxPart x.ctx
  let l := if p.slot then (Tab.get {} (s.part pt).slots p.table).counters else (Tab.get {} (s.part pt).tabs p.table).counters
  let s := s.putRef x.ctx p.rows (counterBytes l)
  if !p.clear then s
  else if p.slot then s.updSlot pt p.table (fun t => { t with counters := List.replicate 8 Cnt.zero })
  else s.updTab pt p.table (fun t => { t with counters := List.replicate 8 Cnt.zero })

/-! ### Legs of DISPATCH, RETRACE and COMBINE (R238) -/

/-- Tokens that a leg takes: the Pass units of the partition's dies move 400 B a nanosecond each for the time left in the
beat, a token costing its rows with their headers, its gate record and its route record (R237, R238). -/
def State.passLeg (s : State) (x : Cmd) (d : RouteTab) : Nat :=
  let ns := (s.beat.periodCur.toNat - s.beat.saddleCur.toNat) * 1000 - s.beat.at_
  let dies := (diesOf (s.part (s.ctxPart x.ctx)).layout.dies).length
  Nat.max 1 (ns * 400 * dies / (d.kUse * (rowBytes d.rowUnits + 64) + 192))

/-- The tokens of the leg at hand: first, count, and whether it is the last. -/
def State.tokLeg (s : State) (x : Cmd) (d : RouteTab) (first count : Nat) : Nat × Nat × Bool :=
  let left := count - x.progress
  let n := Nat.min left (s.passLeg x d)
  let n := match s.beat.legCap with | none => n | some b => Nat.min n (Nat.max 1 b)
  (first + x.progress, n, decide (left ≤ n))

/-- A leg of DISPATCH (R216, R217). Without a dispatch batch, or with a token number that the batch does not have, the command ends with
PASS_STATE. -/
def State.dispatchLeg (s : State) (x : Cmd) (p : RouteP) : State :=
  let t := Tab.get {} (s.part (s.ctxPart x.ctx)).tabs p.table
  match t.dispatch, s.routeNow x.ctx x.op with
  | some b, none =>
    let u := s.tokLeg x t.d p.first p.count
    let rb := rowBytes t.d.rowUnits
    let s := (List.range u.2.1).foldl (fun (s : State) i =>
      let tk := u.1 + i
      s.dispatchNew x.id x.ctx p.table b tk none (s.readRef x.ctx { p.rows with off := p.rows.off + tk * rb } rb)
        (s.readRef x.ctx { p.grec with off := p.grec.off + tk * 64 } 64)) s
    (s.updCmd x.id (fun y => { y with moved := u.2.1, final := u.2.2 })).settleTries x.id
  | _, _ => s.updCmd x.id (fun y => { y with phase := .done, fail := some (stPassState, 4, p.table) })

/-- The element format of rows (R212). -/
def rowFmt (d : RouteTab) : Fmt := if d.rowFmt = 2 then .w40 else .h16

/-- Element `j` of a row. -/
def rowElem (f : Fmt) (l : List Byte) (j : Nat) : Exact := f.readv (fld l (j * f.size) f.size)

/-- A row of as many elements as its bytes hold, and its census. -/
def makeRow (f : Fmt) (bytes : Nat) (x : Nat → Exact) : List Byte × Tally :=
  let ws := (List.range (bytes / f.size)).map (fun j => f.write .rne (x j))
  (ws.flatMap (fun w => leBytes f.size w.code) ++ zeros (bytes % f.size), ws.foldl (fun t w => t.add w.tally) {})

/-- Exact product of two values. -/
def Exact.mul (a b : Exact) : Exact :=
  { v := (match a.v, b.v with | some u, some w => some (u.mul w) | _, _ => none), sat := a.sat || b.sat }

/-- A leg of RETRACE (R231): each SENT entry's slot gets WEIGHT × g at the recorded position. -/
def State.retraceLeg (s : State) (x : Cmd) (p : RouteP) : State :=
  let t := Tab.get {} (s.part (s.ctxPart x.ctx)).tabs p.table
  if (match t.batch p.batch with | some b => b.lost | none => false) then
    s.updCmd x.id (fun y => { y with phase := .done, fail := some (stSlotLost, 4, p.table) })
  else
    let u := s.tokLeg x t.d p.first p.count
    let rb := rowBytes t.d.rowUnits
    let f := rowFmt t.d
    let s := (List.range u.2.1).foldl (fun (s : State) i =>
      let tk := u.1 + i
      let g := s.readRef x.ctx { p.rows with off := p.rows.off + tk * rb } rb
      let es := recEnts (s.readRec x.ctx t.d p.batch tk)
      let k : Tok := { table := p.table, batch := p.batch, token := tk, count := es.length, ents := es.map (·.2) }
      let s := es.foldl (fun (s : State) e =>
        if e.2.st = 1 then
          let r := makeRow f rb (fun j => (Fmt.w40.readv e.2.weight.toNat).mul (rowElem f g j))
          let a := s.tokArgs x k e.1 1 e.2
          (s.sendPass x.id fPassRow (passFrame s e.2.device 0 x.ctx a (e.2.pos * rb) r.1) a [e.2.pos]).updCmd x.id
            (fun y => y.tally x.h.cls f r.2)
        else s) s
      s.updCmd x.id (fun y => { y with toks := y.toks ++ [k] })) s
    s.updCmd x.id (fun y => { y with moved := u.2.1, final := u.2.2,
                                     phase := if s.awaitsAck x.id then y.phase else .done })

/-- RETRACE is done once its rows are acknowledged. -/
def State.settleRetrace (s : State) (id : Nat) : State :=
  if s.awaitsAck id then s
  else s.updCmd id (fun y => match y.op with
    | .routeRetrace _ => if y.phase = .issued && decide (0 < y.moved) then { y with phase := .done } else y
    | _ => y)

/-! ### COMBINE (R228 to R232) -/

/-- The batch `b` of a command's routing table. -/
def State.batchOf (s : State) (x : Cmd) (table : Nat) (b : BitVec 16) : BatchSt :=
  ((Tab.get {} (s.part (s.ctxPart x.ctx)).tabs table).batch b).getD {}

/-- The formerly held entries of the batch before, token and entry, whose rows a COMBINE adds in its first leg (R230; log 22). -/
def State.lateOf (s : State) (x : Cmd) (p : CombineP) (fwd : Bool) : List (Nat × Nat) :=
  if fwd && x.progress == 0 then (s.batchOf x p.table p.batch).late else []

/-- The SENT entries of a token whose rows a COMBINE pulls: those of its own batch but for the formerly held ones, which lie in the next
batch's buffers; or the formerly held ones of the batch before (R228, R230). -/
def State.combineReads (s : State) (x : Cmd) (p : CombineP) (tk : Nat) (before : Bool) : List (Nat × RouteEnt) :=
  let d := s.tabD x p.table
  let b := if before then p.batch - 1 else p.batch
  let late := (s.batchOf x p.table (if before then p.batch else p.batch + 1)).late
  (recEnts (s.readRec x.ctx d b tk)).filter (fun e => e.2.st == 1 && (late.contains (tk, e.1) == before))

/-- What a local slot's OUT row holds (R213, R228). -/
def State.outRow (s : State) (pt slot buf pos rb : Nat) : List Byte :=
  match Tab.find (s.part pt).slots slot with
  | some x =>
    let r := { x.d.outp with off := x.d.outp.off + (buf * x.d.cap + pos) * rb }
    if s.allows x.d.ctx r rb .rd false then s.readRef x.d.ctx r rb else (List.range rb).map (fun k => Config.freeByte s.fresh k)
  | none => (List.range rb).map (fun k => Config.freeByte s.fresh k)

/-- Rows that a leg of COMBINE pulls: token, whether of the batch before, entry. -/
def State.pullList (s : State) (x : Cmd) (p : CombineP) (fwd : Bool) (first n : Nat) : List (Nat × Bool × Nat × RouteEnt) :=
  (List.range n).flatMap (fun i => (s.combineReads x p (first + i) false).map (fun e => (first + i, false, e.1, e.2))) ++
    (((s.lateOf x p fwd).map (·.1)).eraseDups).flatMap (fun tk => (s.combineReads x p tk true).map (fun e => (tk, true, e.1, e.2)))

def pullKey (tk : Nat) (before : Bool) (i : Nat) : Nat := (tk * 2 + (if before then 1 else 0)) * 8 + i

/-- The weighted or plain sum of pulled rows at element `j`, in ascending entry order (R228, R232); `base` is a first addend. DEDUCED
(log 36): the sum begins with its first addend, so that of a single −0 is −0, and without an addend it is +0. -/
def pulledSum (f : Fmt) (seed j : Nat) (base : Option Exact) (rows : List (Option W40 × List Byte)) : Exact :=
  sum48 seed j ((match base with | some b => [b] | none => []) ++ rows.map (fun r =>
    match r.1 with
    | some w => (Fmt.w40.readv w.toNat).mul (rowElem f r.2 j)
    | none => rowElem f r.2 j))

/-- The rows of one token that have been pulled: entry, weight, row. -/
def Cmd.pulled (x : Cmd) (tk : Nat) (before : Bool) (es : List (Nat × RouteEnt)) : List (Nat × W40 × List Byte) :=
  es.map (fun e => (e.1, e.2.weight, Tab.get [] x.pulls (pullKey tk before e.1)))

/-- Where a COMBINE writes the row of a token of a batch (R228). -/
def combineRef (d : RouteTab) (p : CombineP) (b : BitVec 16) (tk : Nat) : Ref :=
  { p.outp with off := p.outp.off + (b.toNat % Nat.max 1 d.nbuf * d.maxTok + tk) * rowBytes d.rowUnits }

/-- Stages the rows that were pulled for a token in the save area of their batch (R230). -/
def State.saveRows (s : State) (x : Cmd) (d : RouteTab) (b : BitVec 16) (tk : Nat) (rows : List (Nat × W40 × List Byte)) : State :=
  rows.foldl (fun (s : State) q =>
    s.stageRef x.id x.ctx
      { d.save with off := d.save.off + ((b.toNat % Nat.max 1 d.nbuf * d.maxTok + tk) * 8 + q.1) * rowBytes d.rowUnits } q.2.2) s

/-- Writes what a token comes to into staging: its output row, its saved rows. -/
def State.combineTok (s : State) (x : Cmd) (p : CombineP) (fwd : Bool) (tk : Nat) : State :=
  let d := s.tabD x p.table
  let f := rowFmt d
  let rows := x.pulled tk false (s.combineReads x p tk false)
  let r := makeRow f (rowBytes d.rowUnits)
    (fun j => pulledSum f s.fresh j none (rows.map (fun q => (if fwd then some q.2.1 else none, q.2.2))))
  let s := ((s.burn).stageRef x.id x.ctx (combineRef d p p.batch tk) r.1).updCmd x.id (fun y => y.tally x.h.cls f r.2)
  if p.save && fwd then s.saveRows x d p.batch tk rows else s

/-- Adds the rows of the formerly held entries of a token into its row of the batch before, with one more rounding (R230). -/
def State.combineLate (s : State) (x : Cmd) (p : CombineP) (tk : Nat) : State :=
  let d := s.tabD x p.table
  let f := rowFmt d
  let rows := x.pulled tk true (s.combineReads x p tk true)
  if rows.isEmpty then s
  else
    let old := s.readRef x.ctx (combineRef d p (p.batch - 1) tk) (rowBytes d.rowUnits)
    let r := makeRow f (rowBytes d.rowUnits)
      (fun j => pulledSum f s.fresh j (some (rowElem f old j)) (rows.map (fun q => (some q.2.1, q.2.2))))
    let s := ((s.burn).stageRef x.id x.ctx (combineRef d p (p.batch - 1) tk) r.1).updCmd x.id (fun y => y.tally x.h.cls f r.2)
    if p.save then s.saveRows x d (p.batch - 1) tk rows else s

/-- The tokens of the batch before that a COMBINE's leg adds to. -/
def State.lateToks (s : State) (x : Cmd) (p : CombineP) (fwd : Bool) : List Nat := ((s.lateOf x p fwd).map (·.1)).eraseDups

/-- A COMBINE or RETRACE of a batch that has lost a slot ends with SLOT_LOST (R235). -/
def State.slotLost (s : State) (id table : Nat) : State :=
  (s.updCmd id (fun y => { y with phase := .done, fail := some (stSlotLost, 4, table), pulls := [] })).forgetFrames id

/-- Every row that the leg needs has been pulled: the leg does its work and is done. -/
def State.combineEnd (s : State) (id : Nat) (p : CombineP) (fwd : Bool) : State :=
  match s.cmd id with
  | none => s
  | some x =>
    let need := s.pullList x p fwd (p.first + x.progress) x.moved
    if (s.batchOf x p.table p.batch).lost then s.slotLost id p.table
    else if need.all (fun q => (Tab.find x.pulls (pullKey q.1 q.2.1 q.2.2.1)).isSome) then
      let s := (s.lateToks x p fwd).foldl (fun (s : State) tk => s.combineLate x p tk) s
      ((List.range x.moved).foldl (fun (s : State) i => s.combineTok x p fwd (p.first + x.progress + i)) s).updCmd id
        (fun y => { y with phase := .done, pulls := [] })
    else s

/-- A leg of COMBINE pulls its rows: those of local slots at once, the others by a request to their home (log 22). A leg that would add to
a row that its context may not write ends the command (R248). -/
def State.combineLeg (s : State) (x : Cmd) (p : CombineP) (fwd : Bool) : State :=
  let t := Tab.get {} (s.part (s.ctxPart x.ctx)).tabs p.table
  let late := s.lateToks x p fwd
  match s.routeNow x.ctx x.op with
  | some f => s.updCmd x.id (fun y => { y with phase := .done, fail := some f })
  | none =>
    if (s.batchOf x p.table p.batch).lost then s.slotLost x.id p.table
    else if !late.all (fun tk => s.allows x.ctx (combineRef t.d p (p.batch - 1) tk) (rowBytes t.d.rowUnits) .wr false) then
      s.updCmd x.id (fun y => { y with phase := .done, fail := some (stRegionFault, 1, p.outp.region) })
    else
      let u := s.tokLeg x t.d p.first p.count
      let need := s.pullList x p fwd u.1 u.2.1
      let rb := rowBytes t.d.rowUnits
      let s := s.updCmd x.id (fun y =>
        { y with moved := u.2.1, final := u.2.2, pulls := [],
                 toks := need.map (fun q => { table := p.table, batch := p.batch, token := q.1, ents := [q.2.2.2] }) })
      let s := need.foldl (fun (s : State) q =>
        let e := q.2.2.2
        if e.device = s.lnk.addr.toNat then
          s.updCmd x.id (fun y =>
            { y with pulls := Tab.set y.pulls (pullKey q.1 q.2.1 q.2.2.1) (s.outRow e.pt e.slot e.buf e.pos rb) })
        else
          let a : PassArgs :=
            { pt := e.pt, slot := e.slot, opt := s.ctxPart x.ctx, table := p.table, batch := p.batch,
              phase := if q.2.1 then 1 else 0, token := q.1, entry := q.2.2.1, gen := (s.ctx x.ctx).gen, pull := true,
              buf := e.buf, cmd := x.id, run := x.kills, epoch := s.passEpoch (s.sendDie x none) }
          s.sendPass x.id fPassRow (passFrame s e.device 0 x.ctx a (e.pos * rb) []) a [e.pos]) s
      (s.combineEnd x.id p fwd).burn

/-- The returns that a COMBINE waits for are complete at the origin (R229, R232). -/
def State.returnsIn (s : State) (x : Cmd) (p : CombineP) (fwd : Bool) : Bool :=
  match (Tab.get {} (s.part (s.ctxPart x.ctx)).tabs p.table).batch p.batch with
  | some b => b.lost || (if fwd then b.doneF else b.doneB)
  | none => true

/-- Sets SAVED in the record of a token (R230). -/
def State.markSaved (s : State) (x : Cmd) (d : RouteTab) (b : BitVec 16) (tk : Nat) : State :=
  let r := recRef d b tk
  let r := { r with off := r.off + 7 }
  s.putRef x.ctx r [(s.readRef x.ctx r 1).headD 0 ||| 2]

/-- A COMBINE leg's commit sets SAVED in the records of its tokens; the formerly held entries of the batch before have been added
(R230). -/
def State.combineCommit (s : State) (x : Cmd) (p : CombineP) (fwd : Bool) : State :=
  let d := s.tabD x p.table
  let late := s.lateToks x p fwd
  let s := if p.save && fwd then
      late.foldl (fun (s : State) tk => s.markSaved x d (p.batch - 1) tk)
        ((List.range x.moved).foldl (fun (s : State) i => s.markSaved x d p.batch (p.first + x.progress + i)) s)
    else s
  if late.isEmpty then s else s.updTab (s.ctxPart x.ctx) p.table (fun t => t.updBatch p.batch (fun b => { b with late := [] }))

/-! ### PASS_ROW and PASS_MARK -/

/-- A backward row reaches its slot's GRAD buffer (R231); the same row of the same run is a duplicate, and one that no buffer of the slot
expects a stray (R347, R348). -/
def State.gradRow (s : State) (fr : Frame) (a : PassArgs) (pos : Nat) : State :=
  match Tab.find (s.part a.pt).slots a.slot with
  | none => s.countStray
  | some x =>
    match x.buf a.batch with
    | none => s.countStray
    | some k =>
      if !s.passCurrent fr a (s.homeDie a.pt x) then s.passRefused a.cmd
      else if x.d.backward && !k.bwd.isSealed && decide (pos < x.d.cap) then
        let j := a.batch.toNat % Nat.max 1 x.d.nbuf
        let s := s.ack fr
        let run := a.cmd * 2 ^ 32 + a.run
        if Tab.find k.bwd.runs pos = some run then s.countDup
        else
          let s := if k.grads.isEmpty then s.slotUndef x.d x.d.grad j else s
          s.updSlot a.pt a.slot (fun x =>
            { x with bufs := Tab.set x.bufs j { k with grads := Tab.set k.grads pos fr.payload,
                                                       bwd := { k.bwd with runs := Tab.set k.bwd.runs pos run } } })
      else s.countStray

/-- The COMBINE of a context that has asked for a row, and is pulling. -/
def Cmd.pulling (x : Cmd) (c : Nat) (a : PassArgs) : Option (CombineP × Bool) :=
  if x.ctx = c && x.phase == .issued && x.id == a.cmd then
    match x.op with
    | .combineForward p => if p.table = a.table && p.batch = a.batch then some (p, true) else none
    | .combineRetrace p => if p.table = a.table && p.batch = a.batch then some (p, false) else none
    | _ => none
  else none

/-- The answer to a pull at its origin (R228). -/
def State.pulledRow (s : State) (fr : Frame) (a : PassArgs) : State :=
  match s.cmds.findSome? (fun x => (x.pulling fr.dstCtx a).map (fun r => (x, r))) with
  | none => s.countStray
  | some (x, p, fwd) =>
    let s := s.ack fr
    let key := pullKey a.token (a.phase == 1) a.entry
    if (Tab.find x.pulls key).isSome then s.countDup
    else (s.updCmd x.id (fun y => { y with pulls := Tab.set y.pulls key fr.payload })).combineEnd x.id p fwd

/-- PASS_ROW: a row of RETRACE at its slot; a COMBINE's request at the home, answered with the OUT row; or its answer at the
origin. -/
def State.passRow (s : State) (fr : Frame) (a : PassArgs) (pos : Nat) : State :=
  s.withPass fPassRow fr (fun s =>
    if !a.pull then s.gradRow fr a pos
    else if fr.payload.isEmpty then
      match Tab.find (s.part a.pt).slots a.slot with
      | none => s.countStray
      | some x =>
        let rb := rowBytes x.d.rowUnits
        let row := s.outRow a.pt a.slot a.buf pos rb
        (s.ack fr).sendPass 0 fPassRow (passFrame s fr.src fr.srcCtx fr.dstCtx a (pos * rb) row) a [pos]
    else if older16 a.gen (s.ctx fr.dstCtx).gen then (s.ack fr).passLate
    else s.pulledRow fr a)

/-- A close marker's source and a commit marker's place among its source's rows. -/
def markKey (fr : Frame) (a : PassArgs) (count : Nat) : Nat × Nat × Nat × Nat := (fr.src, fr.srcCtx, a.opt * 64 + a.table, count)

/-- A marker that the buffer has taken before (R347). -/
def SlotBuf.marked (k : SlotBuf) (fr : Frame) (a : PassArgs) (kind count : Nat) : Bool :=
  if kind = markClose then
    (k.phase a.phase).closes.any (fun c => c.1 == fr.src && c.2.1 == fr.srcCtx && c.2.2.1 == a.opt * 64 + a.table)
  else (k.phase a.phase).commits.contains (markKey fr a count)

/-- A commit or close marker at a slot (R224). A commit marker commits the reservation of its key, which in the backward phase is that of the
row's position. -/
def SlotBuf.mark (k : SlotBuf) (fr : Frame) (a : PassArgs) (kind count : Nat) : SlotBuf :=
  if kind = markClose then k.setPhase a.phase (fun p => { p with closes := p.closes ++ [markKey fr a count] })
  else
    { k with resv := k.resv.map (fun (r : Resv) =>
        if a.phase = 0 then { r with committed := r.committed || r.sameKey fr a }
        else { r with back := r.back || r.sameRow fr a }) }.setPhase a.phase
      (fun p => { p with commits := p.commits ++ [markKey fr a count] })

/-- A commit or close marker reaches its slot (R224). One for a batch that the buffer has released, or does not hold, is a stray
(R348). -/
def State.slotMark (s : State) (fr : Frame) (a : PassArgs) (kind count : Nat) : State :=
  match Tab.find (s.part a.pt).slots a.slot with
  | none => s.countStray
  | some x =>
    let j := a.batch.toNat % Nat.max 1 x.d.nbuf
    let k := (Tab.find x.bufs j).getD { batch := a.batch }
    if k.batch ≠ a.batch || !x.d.enabled || ((Tab.find x.bufs j).isNone && x.released a.batch) then s.countStray
    else if !s.passCurrent fr a (s.homeDie a.pt x) then s.passRefused a.cmd
    else
      let s := s.ack fr
      if k.marked fr a kind count then s.countDup
      else
        let s := if (Tab.find x.bufs j).isNone then s.slotUndef x.d x.d.inp j else s
        s.updSlot a.pt a.slot (fun x => { x with bufs := Tab.set x.bufs j (k.mark fr a kind count) })

/-- A slot's return for a phase, or the loss of its buffer: the batch's returns are then complete, with the lost flag, and a backward phase
that is not closed has nothing to signal (R227, R235). -/
def BatchSt.takeMark (b : BatchSt) (kind phase key : Nat) : BatchSt :=
  if kind = markLost then { b with lost := true, doneF := true, doneB := true, sigB := b.sigB || !b.closedB }
  else BatchSt.settle (if phase = 0 then { b with retF := b.retF ++ [key] } else { b with retB := b.retB ++ [key] })

/-- A return or lost marker reaches its origin (R227, R235): a COMBINE or RETRACE of the batch in flight ends with the loss. -/
def State.originMark (s : State) (fr : Frame) (a : PassArgs) (kind : Nat) : State :=
  let key := slotKey fr.src a.pt a.slot
  match (Tab.get {} (s.part a.opt).tabs a.table).batch a.batch with
  | none => s.countStray
  | some b =>
    let s := s.ack fr
    if if kind = markLost then b.lost else (if a.phase = 0 then b.retF else b.retB).contains key then s.countDup
    else
      let s := s.updTab a.opt a.table (fun t => t.updBatch a.batch (fun b => b.takeMark kind a.phase key))
      if kind ≠ markLost then s
      else
        ((s.cmds.filter (fun x => s.ctxPart x.ctx == a.opt && x.phase == .issued && x.needsBatch a.table a.batch)).map (·.id)).foldl
          (fun (s : State) id => s.slotLost id a.table) s

/-- PASS_MARK (R224, R227, R235): a commit or close marker at its slot; a return or lost marker at its origin. -/
def State.passMark (s : State) (fr : Frame) (a : PassArgs) (kind count : Nat) : State :=
  s.withPass fPassMark fr (fun s => if kind ≤ markClose then s.slotMark fr a kind count else s.originMark fr a kind)

/-! ### Seals, returns, losses at a slot (R224 to R227, R233, R235) -/

/-- Both conditions of R224. -/
def SlotBuf.sealable (d : SlotDesc) (k : SlotBuf) (ph : Nat) : Bool :=
  let p := k.phase ph
  !p.isSealed && p.closes.length == d.sources && p.commits.length == (p.closes.map (fun c => c.2.2.2)).foldl (· + ·) 0

/-- A context's signal takes an addition (R298). -/
def State.addSignal (s : State) (c n : Nat) (v : W64) : State :=
  s.updCtx c (fun x => { x with sig := Tab.upd 0 x.sig n (· + v) })

/-- A buffer seals in a phase (R224, R225): its committed rows become visible, every other position reads zero, and
SEAL_SIGNAL increases by 1. -/
def State.sealBuf (s : State) (pt slot j ph : Nat) (forced : Bool) : State :=
  let x := Tab.get {} (s.part pt).slots slot
  let k := Tab.get {} x.bufs j
  let rb := rowBytes x.d.rowUnits
  let r := if ph = 0 then x.d.inp else x.d.grad
  let live := k.resv.filter (fun v => if ph = 0 then v.committed else v.back)
  let bytes := (List.range x.d.cap).flatMap (fun p =>
    if live.any (fun v => v.pos == p) then
      let row := Tab.get [] (if ph = 0 then k.rows else k.grads) p
      row.take rb ++ zeros (rb - row.length)
    else zeros rb)
  let s := if s.slotWrites x.d r j then s.putRef x.d.ctx { r with off := r.off + j * bufBytes x.d } bytes else s
  let x := ((x.owe 5 1).owe 6 (if forced then 1 else 0))
  let x := if ph = 0 then (x.owe 0 live.length).owe 4 (k.resv.length - live.length) else x
  let k := k.setPhase ph (fun p => { p with isSealed := true })
  let s := s.updSlot pt slot (fun _ => { x.land with bufs := Tab.set x.bufs j k })
  s.addSignal x.d.ctx x.d.sealSignal 1

/-- Every buffer whose markers are all in seals (R224). -/
def State.sealReady (s : State) : State :=
  let todo := s.parts.flatMap (fun q => q.2.slots.flatMap (fun x => x.2.bufs.flatMap (fun k =>
    ([0, 1].filter (fun ph => k.2.sealable x.2.d ph && (ph == 0 || (x.2.d.backward && k.2.fwd.isSealed)))).map (fun ph => (q.1, x.1, k.1, ph)))))
  todo.foldl (fun (s : State) t => s.sealBuf t.1 t.2.1 t.2.2.1 t.2.2.2 false) s

/-- RET_SIGNAL increases for every batch and phase whose returns are complete (R227). -/
def State.retSignals (s : State) : State :=
  let todo := s.parts.flatMap (fun q => q.2.tabs.flatMap (fun t => t.2.batches.flatMap (fun b =>
    (if b.doneF && !b.sigF then [(t.2.ctx, t.2.d.retSignal)] else []) ++ (if b.doneB && !b.sigB then [(t.2.ctx, t.2.d.retSignal)] else []))))
  let s := { s with parts := s.parts.map (fun q => (q.1, { q.2 with tabs := q.2.tabs.map (fun t =>
    (t.1, { t.2 with batches := t.2.batches.map (fun (b : BatchSt) => { b with sigF := b.doneF, sigB := b.doneB }) })) })) }
  todo.foldl (fun (s : State) t => s.addSignal t.1 t.2 1) s

/-- A message to every source that closed a batch. -/
def State.tellSources (s : State) (pt slot ph kind c : Nat) (b : BitVec 16) (who : List (Nat × Nat × Nat)) : State :=
  who.foldl (fun (s : State) w =>
    let a : PassArgs := { pt := pt, slot := slot, opt := w.2.2 / 64, table := w.2.2 % 64, batch := b, phase := ph }
    s.sendMark w.1 w.2.1 c a kind 0) s

/-- RETURN commits (R227): return markers go out, and the buffer is released when the phase is its last. -/
def State.returnCommit (s : State) (x : Cmd) (p : RouteP) : State :=
  let pt := s.ctxPart x.ctx
  let t := Tab.get {} (s.part pt).slots p.table
  let j := p.batch.toNat % Nat.max 1 t.d.nbuf
  let k := Tab.get {} t.bufs j
  let s := s.tellSources pt p.table p.phase markReturn x.ctx p.batch ((k.phase p.phase).closes.map (fun c => (c.1, c.2.1, c.2.2.1)))
  s.updSlot pt p.table (fun t =>
    let t := (t.owe 7 1).land
    if p.phase = 1 || !t.d.backward then { t with bufs := Tab.drop t.bufs j, past := Tab.set t.past j p.batch }
    else { t with bufs := Tab.set t.bufs j (k.setPhase 0 (fun q => { q with returned := true })) })

/-- FORCE_SEAL commits (R233). -/
def State.forceCommit (s : State) (x : Cmd) (p : RouteP) : State :=
  let pt := s.ctxPart x.ctx
  let t := Tab.get {} (s.part pt).slots p.table
  let j := p.batch.toNat % Nat.max 1 t.d.nbuf
  let s := if (Tab.find t.bufs j).isNone then
      s.updSlot pt p.table (fun t => { t with bufs := Tab.set t.bufs j { batch := p.batch } }) else s
  s.sealBuf pt p.table j p.phase true

/-- Releases every buffer of some slots; each source that holds a reservation there gets a lost marker (R235). -/
def State.releaseSlots (s : State) (hit : Nat → SlotSt → Bool) : State :=
  let todo := s.parts.flatMap (fun q => (q.2.slots.filter (fun x => hit q.1 x.2)).flatMap (fun x =>
    x.2.bufs.map (fun k => (q.1, x.1, x.2.d.ctx, k.2))))
  let s := todo.foldl (fun (s : State) t =>
    let who := (t.2.2.2.resv.map (fun r => (r.device, r.ctx, r.opt * 64 + r.table))).eraseDups
    s.tellSources t.1 t.2.1 0 markLost t.2.2.1 t.2.2.2.batch who) s
  { s with parts := s.parts.map (fun q => (q.1, { q.2 with slots := q.2.slots.map (fun x =>
      if hit q.1 x.2 then
        (x.1, { x.2 with bufs := [], past := (x.2.bufs.filter (fun k => k.2.fwd.isSealed)).foldl (fun t k => Tab.set t k.1 k.2.batch) x.2.past })
      else x) })) }

/-! ### PASS_DIE (R241) -/

/-- Reservations held at a home die and not yet sealed. -/
def State.resOpen (s : State) (d : Nat) : Nat :=
  (s.parts.map (fun q => ((q.2.slots.filter (fun x => s.homeDie q.1 x.2 == d)).map (fun x =>
    (x.2.bufs.map (fun k => if k.2.fwd.isSealed then 0 else k.2.resv.length)).foldl (· + ·) 0)).foldl (· + ·) 0)).foldl (· + ·) 0

/-- Rows that a die's Pass unit has sent and not had answered; a row that no block sent belongs to the lowest die of its
partition (log 21). -/
def State.inflight (s : State) (d : Nat) : Nat :=
  (s.cmds.map (fun x =>
    let low := (diesOf (s.part (s.ctxPart x.ctx)).layout.dies).headD 0
    ((x.toks.filter (fun k => (match k.origin with | some b => dieOf b | none => low) == d)).map (fun k => k.waiting.length)).foldl
      (· + ·) 0)).foldl (· + ·) 0

/-! ### Acknowledgements at the sender (R347, R359, R369) -/

/-- An acknowledged frame is forgotten; what waited for it settles. One that acknowledges no kept frame is a stray (R348). -/
def State.e2eAck (s : State) (fr : Frame) : State :=
  s.withFrame fE2eAck fr (fun s =>
    let gone := (s.lnk.unacked.filter (ackCovers fr)).map (·.cmd)
    if gone.isEmpty then s.countStray
    else
    let s := { s with lnk := { s.lnk with unacked := s.lnk.unacked.filter (fun u => !ackCovers fr u) } }
    gone.eraseDups.foldl (fun (s : State) id => ((s.settleColl id).settlePerm id).settleRetrace id) s)

/-- E2E_NOTREADY: the frame is resent after RETRY_US, by a resend; a REFUSED one ends the sender's PERMUTE with
REGION_FAULT (R359, R369). -/
def State.e2eNotready (s : State) (refused : Bool) (fr : Frame) : State :=
  s.withFrame fE2eNotready fr (fun s =>
    if refused then
      let off := fr.off &&& ~~~(1#64 <<< 63)
      match s.lnk.unacked.find? (fun u => u.fr.dst == fr.src && u.fr.tag == fr.tag && u.fr.key == fr.key && u.fr.off == off) with
      | none => s.countStray
      | some u =>
        (s.updCmd u.cmd (fun y =>
          if y.live then { y with phase := .done, fail := some (stRegionFault, 1, bits u.fr.key.toNat 24 8) } else y)).forgetFrames u.cmd
    else if s.lnk.unacked.any (fun u => u.fr.dst == fr.src && u.fr.tag == fr.tag && u.fr.key == fr.key) then s
    else s.countStray)

end Sys2Proof.Machine
end

