-- ==== Sys2Proof/Machine/Issue.lean ====
section
/-! DEFINITION. Issue points (11 R325 to R328, R333; 01 R25; 02 R47, R48; 10 R295; 16 R468, R470): which accepted commands
start, what they wait for, whom they pre-empt, and what starting them does. -/

namespace Sys2Proof.Machine

/-! ### Schedule (R325) -/

/-- The claimant of the beat in a partition: a claim by a context of the partition that is not held. -/
def State.claimant (s : State) (pt : Nat) : Option Nat :=
  let q := (s.part pt).sched
  let n := q.lenCur.toNat
  let e := Tab.get 0 q.cur (((s.beat.count - q.originCur).toNat) % Nat.max 1 n)
  let c := e.toNat % 256
  let x := s.ctx c
  if e.getLsbD 15 ∧ x.state = 1 ∧ x.pt.toNat = pt ∧ x.held.isNone ∧ !x.heldForever then some c else none

def Ctx.isHeld (x : Ctx) : Bool := x.held.isSome || x.heldForever

/-- The Dispatcher issues a context's commands: not HELD, no reset that has yet to take effect (R383), the device not fenced, no window open. -/
def State.ctxIssues (s : State) (c : Nat) : Bool :=
  let x := s.ctx c
  x.state == 1 && !x.isHeld && (match x.reset with | some r => r.done | none => true) && !s.fenced && !s.beat.windowOpen

/-! ### Units (R321, R322) and engines (R382, R387) -/

/-- The units that an order of a command reaches, among dies and bits of PT_UNIT_LAG. -/
def State.unitsOf (s : State) (x : Cmd) (group : List Nat) : List Nat :=
  let dies := (group.map dieOf).eraseDups
  let all := diesOf (s.part (s.ctxPart x.ctx)).layout.dies
  let movs : List Nat := match s.programOf x with
    | some p => p.instrs.filterMap (fun w => match decodeTI w with | some (.mov k _) => some k | _ => none)
    | none => []
  if !group.isEmpty then
    dies ++ (if movs.any (fun k => decide (k ≤ 3)) then dies.map (· + 16) else []) ++
      (if movs.any (fun k => decide (6 ≤ k)) then dies.map (· + 8) else []) ++
      (if movs.any (fun k => k == 4 || k == 5) then [25, 26] else [])
  else
    match x.op with
    | .copy _ | .fill _ | .loadPlace _ | .loadVerify _ | .adapterVerify _ | .wsVerify _ => all.map (· + 16)
    | .normreduce _ => if x.coll.cross then [24, 25, 26] else all.map (· + 16)
    | .optstep _ => all.map (· + 16)
    | .reduce _ | .gather _ | .broadcast _ | .permute _ => [24, 25, 26]
    | .routeDispatch _ | .routeRetrace _ | .combineForward _ | .combineRetrace _ => all.map (· + 8)
    | _ => []

/-- The engines that a command needs: its blocks and the issue units of their dies, the Collective engine, the Pass units of the partition,
and on each stack that its bytes reach at least one of the two DMA engines (R382, R387). An engine of an overrun leg takes nothing else (R54). -/
def State.enginesReady (s : State) (x : Cmd) (group : List Nat) : Bool :=
  let dies := diesOf (s.part (s.ctxPart x.ctx)).layout.dies
  let taken (e : Nat) : Bool := s.engineHeld e || s.overrunHolds x e
  !group.any (fun b => s.engineHeld (engBlock b) || s.engineHeld (engIssue (dieOf b))) &&
    ((s.legStacks x) ++ (match x.op with | .copy p => stacksOf ((s.ctx x.ctx).region p.src.region).dmask | _ => [])).all (fun k =>
      !(engStack k).all taken) &&
    (match x.op with
     | .reduce _ | .gather _ | .broadcast _ | .permute _ => !taken engColl
     | .normreduce _ => !x.coll.cross || !taken engColl
     | .routeDispatch _ | .routeRetrace _ | .combineForward _ | .combineRetrace _ => dies.all (fun d => !taken (engPass d))
     | _ => true)

/-- A unit that an order reaches refuses it: its epoch is not current for the order (R321). -/
def State.unitRefuses (s : State) (x : Cmd) (group : List Nat) : Bool :=
  (s.unitsOf x group).any (fun u => !s.pt.current u s.pt.epoch (s.ctxPart x.ctx))

def State.unitsLag (s : State) (x : Cmd) (group : List Nat) : Bool :=
  (s.unitsOf x group).any (fun u => s.pt.lag.getLsbD u)

/-- A refused order counts, and its command is requeued as pre-empted (R321). -/
def State.unitRefusal (s : State) (x : Cmd) : State :=
  let s := { s with pt := { s.pt with mmRefuse := sat32 s.pt.mmRefuse 1 } }
  (s.updCmd x.id (fun y => { y with kills := y.kills + 1 })).account x.strm x.ctx 3 1

/-! ### Starting -/

/-- A wait ends at issue, when the command stood in its stream's queue (R336). -/
def State.markIssued (s : State) (x : Cmd) : State :=
  let s := if x.queued then s.accountWait x.strm x.ctx (cycles700 (s.time - x.queuedAt)) else s
  s.updCmd x.id (fun y =>
    { y with phase := .issued, queued := false, issuedOnce := true, issueBeat := s.now, issuedAt := s.time, acked := [],
             masks := if y.issuedOnce then y.masks else s.masksOf y.ctx })

/-- The Dispatcher does a command that needs no engine at its issue. -/
def State.doneNow (s : State) (x : Cmd) : State :=
  (s.markIssued x).updCmd x.id (fun y => { y with phase := .done, final := true })

/-! ### RUN and OPTSTEP -/

/-- The blocks of a group, by partition ordinal (R20). -/
def State.groupOf (s : State) (x : Cmd) : List Nat :=
  match x.groupRange with
  | some g => ((s.part (s.ctxPart x.ctx)).ordinals.drop g.1).take g.2
  | none => []

/-- The first block of a group that is lost or derated (R21, R405). -/
def State.lostBlock (s : State) (group : List Nat) : Option Nat :=
  group.find? (fun b => (s.block b).retired || (s.block b).lostSession || (s.block b).derated)

/-- What a block holds when its program starts (R97, R112, R116, R140, R163, R165). DESIGN CHOICE (log 69): where programs of one loadset declare
different PERSIST_SLOTS, each RUN takes its own program's number; slots at and above it are scratch to it, and their committed copies go. -/
def Block.start (b : Block) (id seed ord size global first : Nat) (args : List (BitVec 32)) (p : Program) : Block :=
  let keep := p.keepBytes
  { b with
    run := some id, ordinal := ord, pc := 0, loops := [], ended := false, acked := false, queue := [], tq := [], drain := none,
    idx := [0, BitVec.ofNat 32 ord, BitVec.ofNat 32 size, BitVec.ofNat 32 global, BitVec.ofNat 32 (first + ord)] ++
      List.replicate 7 0 ++ (args ++ List.replicate 4 0).take 4,
    bs := b.bs.undef keep 1048576 seed, bsSaved := some (b.bs.part 0 keep), shadow := [], land := [],
    sums := {}, lane := {}, ptakePos := 0, bars := 0, barWait := false,
    work := (List.range 8).map (fun e => (e, fullTile (seed + 1 + e))),
    cs := b.cs.filter (fun e => decide (e.off + e.units ≤ p.csRes)),
    fold := (List.range 12).foldl (fun (t : Tab FoldSlot) f =>
      if f < p.persist then Tab.upd {} t f (fun x => { x with working := {}, written := false })
      else Tab.set t f { working := fullTile (seed + 9 + f), written := true }) b.fold }

/-- Numbers for free values that a block's start takes. -/
def startSeeds : Nat := 22

/-- The weights of R468, in mW by step. -/
def blockWeight (step : Nat) : Nat :=
  ([1000, 903, 812, 727, 648, 574, 506, 442, 396][step]?).getD 396

/-- Predicted power with the blocks of a group, in mW (R468, R470). -/
def State.predicted (s : State) (group : List Nat) : Nat :=
  s.crest.baseW.toNat * 1000 +
    ((s.crest.charged ++ group.filter (fun b => !s.crest.charged.contains b)).map (fun b =>
      blockWeight (s.die (dieOf b)).step)).foldl (· + ·) 0

/-- Δ (R469), RAMP_W being treated as within 50 to 750 (R485). -/
def State.rampDelta (s : State) : Nat :=
  Nat.min (Nat.min 750 (Nat.max 50 s.crest.rampW.toNat)) (19 * (s.beat.periodCur.toNat - s.beat.saddleCur.toNat))

/-- C_eff (R469, R476): the ceiling, lowered by THROTTLE_N as sampled at the last edge and by the coolant. -/
def State.ceff (s : State) : Nat :=
  let c := s.crest.ceilW.toNat
  let c := if s.crest.throttleIn then Nat.min c s.crest.thrCeilW.toNat else c
  if s.crest.coolCap then Nat.min c 3000 else c

/-- The grant and the floor in force (R469): before the first measured beat they follow from BASE_W. -/
def State.grantNow (s : State) : Nat :=
  if s.crest.measured then s.crest.grantW else Nat.min s.ceff (s.crest.baseW.toNat + s.rampDelta)
def State.floorNow (s : State) : Int :=
  if s.crest.measured then s.crest.floorW else (s.crest.baseW.toNat : Int) - s.rampDelta

/-- The governor holds a command (R470): source 9, CREST_HOLD once a beat, its dies, and the held list. -/
def State.hold (s : State) (x : Cmd) (group : List Nat) : State :=
  let s := if s.crest.heldCmds.contains x.id then s
    else { s with crest := { s.crest with heldCmds := s.crest.heldCmds ++ [x.id], holdCnt := sat32 s.crest.holdCnt 1 } }
  let s := ((group.map dieOf).eraseDups).foldl (fun (s : State) d => s.updDie d (fun k => { k with heldInBeat := true })) s
  let s := group.foldl (fun (s : State) b => s.updBlock b (fun k => k.governed s.beat.at_)) s
  s.updCmd x.id (fun y => { y with waitFrom := s.now + 1 })

/-- The priority number of a command (R283). -/
def State.prioOf (s : State) (x : Cmd) : Nat := (s.strm x.strm).prio

/-- The commands that run on blocks. -/
def State.runners (s : State) (group : List Nat) : List Nat := (group.filterMap (fun b => (s.block b).run)).eraseDups

/-- A command pre-empts its blockers: the claimant those of other contexts (R327); another by priority (R328). -/
def State.mayPreempt (s : State) (x : Cmd) (pt : Nat) (blockers : List Cmd) : Bool :=
  let d := (s.part pt).preemptMin.toNat
  let cl := s.claimant pt
  let others := blockers.all (fun y => y.ctx != x.ctx)
  others &&
    (cl == some x.ctx ||
     (decide (1 ≤ d) && (match cl with | none => true | some c => blockers.any (fun y => y.ctx == c)) &&
       blockers.all (fun y => decide (s.prioOf x + d ≤ s.prioOf y))))

/-! ### Residency (R333) -/

/-- The record size that a context declares (R269); 0 for one without resident data. -/
def State.recordOf (s : State) (c : Nat) : Nat := (s.ctx c).ld.record

/-- A block needs a transfer before a context's RUN: the owner's record is to be spilled, or the context's own filled
back. -/
def State.needsSpill (s : State) (c b : Nat) : Bool :=
  match (s.block b).owner with
  | some o => o != c && s.recordOf o != 0
  | none => false
def State.needsFill (s : State) (c b : Nat) : Bool := (s.block b).owner != some c && (Tab.find (s.block b).spilled c).isSome

/-- A context takes blocks that need no transfer: what they keep for it is undefined. -/
def Block.take (b : Block) (c seed : Nat) : Block :=
  if b.owner = some c then b
  else
    { b with
      owner := some c, bs := b.bs.undef 0 1048576 seed, cs := [],
      fold := (List.range 6).map (fun f => (f, { committed := fullTile (seed + 1 + f) })) }

/-- Bytes by granule of a list of blocks, each with a number. -/
def granuleSums (l : List (Nat × Nat)) : Tab Nat :=
  l.foldl (fun (t : Tab Nat) p => if p.2 = 0 then t else Tab.upd 0 t (granuleOf p.1) (· + p.2)) []

/-- The next legs of a transfer can go out: no done RUN of its blocks is uncommitted, the DMA units of its dies do not lag, and
on every stack of theirs one DMA engine is free to serve (R322, R333, R382). -/
def State.spillGo (s : State) (j : SpillJob) : Bool :=
  let dies := (j.blocks.map dieOf).eraseDups
  decide (j.begin_ ≤ s.now) && j.blocks.all (fun b => (s.block b).parked.isEmpty && (s.block b).run.isNone) &&
    dies.all (fun d => !s.pt.lag.getLsbD (16 + d) &&
      (stacksOf (2 ^ d)).all (fun k => !s.stackHeld k))

def SpillJob.launch (j : SpillJob) : SpillJob := { j with started := true, flying := true }

/-- Opens a transfer of blocks to a context. A leg takes the whole beat: its legs begin in this beat when it starts and nothing was
killed for them in it, else in the next. -/
def State.openSpill (s : State) (c : Nat) (blocks : List Nat) (killed : Bool) : State :=
  let sp := blocks.map (fun b => (b, match (s.block b).owner with
    | some o => if o = c then 0 else s.recordOf o
    | none => 0))
  let fi := blocks.map (fun b => (b, if s.needsFill c b then s.recordOf c else 0))
  let j : SpillJob :=
    { ctx := c, blocks := blocks, begin_ := if s.beat.at_ = 0 ∧ killed = false then s.now else s.now + 1,
      spill := granuleSums sp, fill := granuleSums fi }
  { s with spillJobs := s.spillJobs ++ [if s.spillGo j then j.launch else j] }

/-! ### Issuing a RUN -/

/-- Starts a RUN or an OPTSTEP's program on its blocks. -/
def State.startRun (s : State) (x : Cmd) (group : List Nat) (p : Program) : State :=
  let args := match x.op with | .run q => q.args | .optstep q => q.args | _ => []
  let first := match x.groupRange with | some g => g.1 | none => 0
  let s := s.markIssued x
  let s := s.updCmd x.id (fun y => { y with blocks := group })
  let s := { s with crest := { s.crest with charged := s.crest.charged ++ group.filter (fun b => !s.crest.charged.contains b) } }
  (List.range group.length).foldl (fun (s : State) i =>
    let b := (group[i]?).getD 0
    { (s.updBlock b (fun k => ((k.taken s.beat.at_).take x.ctx (s.fresh + startSeeds)).start x.id s.fresh i group.length b first args p)) with
      fresh := s.fresh + 2 * startSeeds }) s

/-- A RUN whose blocks are free (R333, R470, R25). -/
def State.runReady (s : State) (x : Cmd) (group : List Nat) (p : Program) (killed : Bool) : State :=
  let move := group.filter (fun b => s.needsSpill x.ctx b || s.needsFill x.ctx b)
  if s.spillJobs.any (fun j => j.blocks.any group.contains) then s
  else if !move.isEmpty then s.openSpill x.ctx move killed
  else if s.grantNow * 1000 < s.predicted group then s.hold x group
  else s.startRun x group p

/-- Whether the NORMREDUCE of an OPTSTEP's tag is still to commit, has committed, or has ended otherwise: 0, 1, 2 (R208). -/
def State.normState (s : State) (x : Cmd) : Nat :=
  match x.op with
  | .optstep _ =>
    match x.normCmd with
    | none => 1
    | some id => if s.cmds.any (fun y => y.id == id && y.live) then 0 else 2
  | _ => 1

/-- A RUN that may pre-empt kills its blockers only when nothing else blocks it (R327, R328): no transfer of resident data holds its
blocks (R333), and the governor's grant has room for it, unless its own resident data has to move first (R470). -/
def State.runClaims (s : State) (x : Cmd) (group : List Nat) (p : Program) (ids : List Nat) : State :=
  let move := group.any (fun b => s.needsSpill x.ctx b || s.needsFill x.ctx b)
  if s.spillJobs.any (fun j => j.blocks.any group.contains) then s
  else if !move && decide (s.grantNow * 1000 < s.predicted group) then s.hold x group
  else (ids.foldl (fun (s : State) i => s.kill i) s).runReady x group p true

/-- Tries to issue a RUN or an OPTSTEP's program. -/
def State.tryRun (s : State) (pt : Nat) (x : Cmd) : State :=
  match s.programOf x with
  | none => s
  | some p =>
    let group := s.groupOf x
    match s.lostBlock group with
    | some b => s.endWith x.id stEngineLost 7 b
    | none =>
      if s.unitsLag x group || !s.enginesReady x group then s
      else if s.unitRefuses x group then s.unitRefusal x
      else if x.heldNow then s
      else if s.normState x = 0 then s
      else if s.normState x ≠ 1 then s.endWith x.id stNormFailed 0 0
      else
        let mhz := s.slowest group
        -- R47: the budget of the whole beat; R25: the cycles that are left
        if budgetOf s.beat.periodCur.toNat s.beat.saddleCur.toNat mhz < p.budget then
          (group.foldl (fun (s : State) b => s.updBlock b (fun k => k.governed s.beat.at_)) s).updCmd x.id (fun y => { y with waitFrom := s.now + 1 })
        else if s.cyclesLeft mhz < p.budget then s
        else
          let ids := s.runners group
          if ids.isEmpty then s.runReady x group p false
          else
            let ys := s.cmds.filter (fun y => ids.contains y.id)
            if s.mayPreempt x pt ys then s.runClaims x group p ids else s

/-! ### Legs and the Dispatcher's own commands -/

/-- A leg begins: its units and engines are there. -/
def State.tryLeg (s : State) (x : Cmd) (f : State → Cmd → State) : State :=
  if s.unitsLag x [] || !s.enginesReady x [] then s
  else if s.unitRefuses x [] then s.unitRefusal x
  else
    let s := s.markIssued x
    match s.cmd x.id with
    | some y => f s y
    | none => s

/-- A COMBINE waits for its returns; it counts as issued from then on for its timeout (R229). -/
def State.tryCombine (s : State) (x : Cmd) (p : CombineP) (fwd : Bool) : State :=
  if s.returnsIn x p fwd then s.tryLeg x (fun s y => s.combineLeg y p fwd)
  else if x.issuedOnce then s
  else s.updCmd x.id (fun y => { y with issuedOnce := true, issueBeat := s.now })

/-- Conditions of STREAM_CLOSE and LOADSET_UNLOAD: nothing else of the stream or the context is left (R302, R264). -/
def State.alone (s : State) (x : Cmd) : Bool :=
  match x.op with
  | .streamClose n =>
    (match Tab.find (s.ctx x.ctx).streams n with
     | some g => !s.cmds.any (fun y => y.strm == g && y.id != x.id && (y.live || y.phase == .awaiting))
     | none => true)
  | .unload => !s.cmds.any (fun y => y.ctx == x.ctx && y.id != x.id && (y.live || y.phase == .awaiting))
  | _ => true

/-- One accepted command at an issue point. Collectives and PERMUTE issue at a beat's start only (R361); WAIT and FENCE
are tested at edges (R297); SWITCH waits for the drain (R268). -/
def State.tryIssue (s : State) (pt : Nat) (id : Nat) : State :=
  match s.cmd id with
  | none => s
  | some x =>
    if !(x.phase == .accepted && s.ctxIssues x.ctx && s.streamAllows x) then s
    else
      match x.op with
      | .run _ => s.tryRun pt x
      | .optstep _ => if x.packing then s.tryLeg x (fun s y => s.localLeg y) else s.tryRun pt x
      | .copy _ | .fill _ | .loadPlace _ | .loadVerify _ | .adapterVerify _ | .wsVerify _ =>
        s.tryLeg x (fun s y => s.localLeg y)
      | .normreduce _ => if x.coll.cross then s else s.tryLeg x (fun s y => s.localLeg y)
      | .routeDispatch p => s.tryLeg x (fun s y => s.dispatchLeg y p)
      | .routeRetrace p => s.tryLeg x (fun s y => s.retraceLeg y p)
      | .combineForward p => s.tryCombine x p true
      | .combineRetrace p => s.tryCombine x p false
      | .routeOpen p => s.tryLeg x (fun s y => s.openIssue y p)
      | .reduce _ | .gather _ | .broadcast _ | .permute _ | .wait _ _ _ | .fence | .wsSwitch _ _ => s
      | .streamClose _ | .unload => if s.alone x then s.doneNow x else s
      | _ => s.doneNow x

/-! ### The issue point (R326) -/

/-- Orders commands by priority number, then by acceptance. -/
def insertCmd (s : State) (x : Cmd) : List Cmd → List Cmd
  | [] => [x]
  | y :: t => if s.prioOf x < s.prioOf y then x :: y :: t else y :: insertCmd s x t

def sortCmds (s : State) (l : List Cmd) : List Cmd := l.foldl (fun (a : List Cmd) x => insertCmd s x a) []

/-- The accepted commands of a partition in the order of R326: the claimant's, then the others'. -/
def State.issueOrder (s : State) (pt : Nat) : List Nat :=
  let l := s.cmds.filter (fun x => x.phase == .accepted && s.ctxPart x.ctx == pt)
  let mine := l.filter (fun x => some x.ctx == s.claimant pt)
  let rest := l.filter (fun x => some x.ctx != s.claimant pt)
  ((sortCmds s mine) ++ (sortCmds s rest)).map (·.id)

/-- One pass over the accepted commands of a partition. -/
def State.issuePass (s : State) (pt : Nat) : State :=
  (s.issueOrder pt).foldl (fun (s : State) i => s.tryIssue pt i) s

/-- The commands that have ended and whose records are still to be written. -/
def State.endedCount (s : State) : Nat := (s.cmds.filter (fun x => x.phase == .refused)).length

/-- Passes until none ends a command, at most `n`. -/
def State.issuePasses (pt : Nat) : Nat → State → State
  | 0, s => s
  | n + 1, s => let t := s.issuePass pt; if t.endedCount = s.endedCount then t else State.issuePasses pt n t

/-- An issue point within a partition; a command that ends at it makes another (R326). -/
def State.issuePoint (s : State) (pt : Nat) : State := State.issuePasses pt (s.cmds.length + 1) s.voidColls

/-- A command ends outside the window, and its partition has an issue point (R326). -/
def State.endNow (s : State) (id st kind ix : Nat) : State :=
  match s.cmd id with
  | none => s
  | some x => (s.endWith id st kind ix).issuePoint (s.ctxPart x.ctx)

/-! ### Legs at a beat's start (R361, R369) -/

/-- The next leg of a collective or PERMUTE; the first waits for its stream and for the drain set (R368), and a device that
is not aligned takes part in none (R39). At most 64 run at once. DESIGN CHOICE (log 61): a collective that is accepted while ALIGNED is 0
is neither refused nor failed; its legs wait, and its timeout begins with its first issue. -/
def State.collIssue (s : State) (id : Nat) : State :=
  match s.cmd id with
  | none => s
  | some x =>
    let busy := (s.cmds.filter (fun y => (opGroup y.op).isSome && y.coll.started && y.live && y.id != id)).length
    let room := x.coll.started || decide (busy < 64)
    if !(x.phase == .accepted && s.ctxIssues x.ctx && s.streamAllows x && s.beat.aligned && room) then s
    else
      match x.op with
      | .reduce _ | .gather _ | .broadcast _ => s.tryLeg x (fun s y => s.collLeg y)
      | .normreduce _ => if x.coll.cross then s.tryLeg x (fun s y => s.collLeg y) else s
      | .permute p => if x.heldNow then s else s.tryLeg x (fun s y => s.permIssue y p)
      | _ => s

def State.collLegs (s : State) : State :=
  (s.cmds.map (·.id)).foldl (fun (s : State) i => s.collIssue i) s.voidColls

end Sys2Proof.Machine
end

