-- ==== Sys2Proof/Machine/Chan.lean ====
section
/-! DEFINITION. Channels between blocks (12 R364 to R366; 06 R165, R168, R179; 11 R335): credits, what SEND and RECV do, the
frames they exchange, and the landing areas. -/

namespace Sys2Proof.Machine

/-- The number under which a block keeps a channel of a context. -/
def chanKey (c k : Nat) : Nat := c * 64 + k

/-- The ordinal of a block in a partition (R20). -/
def State.ordinalOf (s : State) (pt b : Nat) : Nat := (s.part pt).ordinals.idxOf b

/-- The far ordinal that an entry pairs with a near one (R364). -/
def ChanEnt.pairOf (e : ChanEnt) (ord : Nat) : Option Nat :=
  if e.localFirst ≤ ord ∧ ord < e.localFirst + e.count then some (e.peerFirst + (ord - e.localFirst)) else none

/-- The KEY of a channel's frames (R345): layout epoch, receiving ordinal, sending ordinal. -/
def chanKeyWord (epoch recv send : Nat) : W64 := BitVec.ofNat 64 (epoch % 2 ^ 32 * 2 ^ 32 + recv % 65536 * 65536 + send % 65536)

def State.chan (s : State) (b k : Nat) : Chan := Tab.get {} (s.block b).chans k

def State.updChan (s : State) (b k : Nat) (f : Chan → Chan) : State :=
  s.updBlock b (fun x => { x with chans := Tab.upd {} x.chans k f })

/-- The counts of a pair restart when its entry has changed (R365). -/
def State.useChan (s : State) (b k : Nat) (e : ChanEnt) : State :=
  match Tab.find (s.block b).chans k with
  | some c => if c.ent = e then s else s.updChan b k (fun _ => { ent := e })
  | none => s.updChan b k (fun _ => { ent := e })

/-! ### SEND and RECV on a block -/

/-- A SEND has the credit that it needs (R365). -/
def Chan.maySend (c : Chan) (n : Nat) : Bool := decide (c.sent + n ≤ c.grant)

/-- The units of a SEND go out in frames of at most 64 units (R345). -/
def State.sendUnits (s : State) (x : Cmd) (b ch : Nat) (pair : Nat) (l : List Byte) : State :=
  let k := chanKey x.ctx ch
  let c := s.chan b k
  let n := l.length / 64
  let ord := s.ordinalOf (s.ctxPart x.ctx) b
  let fr (i : Nat) : Frame :=
    { dst := c.ent.peerDev, dstCtx := c.ent.peerCtx, srcCtx := x.ctx, srcGen := (s.ctx x.ctx).gen,
      tag := BitVec.ofNat 32 c.ent.peerChan, key := chanKeyWord c.ent.epoch pair ord, off := BitVec.ofNat 64 (c.sent + 64 * i), again := c.again && i == 0,
      payload := (l.drop (4096 * i)).take 4096 }
  (s.sendFrames x.id fChanData ((List.range ((n + 63) / 64)).map fr)).updChan b k (fun c => { c with sent := c.sent + n, again := false })

/-- Every unit of an area is staged. -/
def Area.full (a : Area) : Bool := (List.range a.units).all (fun u => (Tab.find a.staged (a.base + u)).isSome)

/-- An armed area that is not yet filled, with an address and a size (R365). -/
def Area.adoptable (a : Area) (addr units : Nat) : Bool :=
  a.addr == addr && a.units == units && a.consumed.isNone && !a.complete && !a.full

/-- A RECV arms an area, or adopts the one that a killed RUN armed and that is not yet filled (R365); the area is undefined until its LAND
(R179). -/
def State.armArea (s : State) (x : Cmd) (b ch pair addr units : Nat) : State :=
  let k := chanKey x.ctx ch
  let c := s.chan b k
  if c.areas.any (fun a => a.adoptable addr units) then s
  else
    let ord := s.ordinalOf (s.ctxPart x.ctx) b
    let seed := s.fresh
    let s := (s.burn).updBlock b (fun y =>
      { y with bs := y.bs.undef addr (addr + 64 * units) seed, bsSaved := y.bsSaved.map (fun m => m.undef addr (addr + 64 * units) seed) })
    let s := s.updChan b k (fun c =>
      { c with granted := c.granted + units, areas := c.areas ++ [{ addr := addr, units := units, base := c.granted }] })
    s.sendFrame x.id fChanCredit
      { dst := c.ent.peerDev, dstCtx := c.ent.peerCtx, srcCtx := x.ctx, srcGen := (s.ctx x.ctx).gen,
        tag := BitVec.ofNat 32 c.ent.peerChan, key := chanKeyWord c.ent.epoch ord pair, off := BitVec.ofNat 64 (c.granted + units) }

/-- The oldest armed area of a channel. -/
def Chan.oldest (c : Chan) : Option Area := c.areas.find? (fun a => a.consumed.isNone)

/-- LAND consumes the oldest armed area, whose content becomes defined for the RUN (R179). -/
def State.landArea (s : State) (b k id : Nat) (a : Area) : State :=
  (s.updBlock b (fun y => { y with bs := y.bs.writeN a.addr a.bytes })).updChan b k (fun c =>
    { c with areas := c.areas.map (fun (q : Area) => if q.base = a.base && q.consumed.isNone then { q with consumed := some id } else q) })

/-! ### At the receiver -/

/-- Areas that the committed count covers are complete, once the data that it counts has arrived (R353, R366). -/
def Chan.settle (c : Chan) : Chan :=
  { c with areas := c.areas.map (fun (a : Area) => if a.base + a.units ≤ c.told && a.full then { a with complete := true } else a) }

/-- The units of a data frame: index and bytes. -/
def frameUnitList (fr : Frame) : List (Nat × List Byte) :=
  (List.range (fr.payload.length / 64)).map (fun i => (fr.off.toNat + i, sub8 fr.payload (64 * i) 64))

/-- Whether a unit is staged, and with the same bytes. -/
def Chan.holds (c : Chan) (u : Nat × List Byte) : Bool :=
  c.areas.any (fun a => Tab.find a.staged u.1 == some u.2)
def Chan.holdsOther (c : Chan) (u : Nat × List Byte) : Bool :=
  c.areas.any (fun a => !a.complete && (Tab.find a.staged u.1).isSome) && !c.holds u

/-- A unit lies in an armed area that is not complete. -/
def Chan.fits (c : Chan) (u : Nat) : Bool := c.areas.any (fun a => !a.complete && decide (a.base ≤ u) && decide (u < a.base + a.units))

/-- A resent frame discards what was staged at or beyond its first unit (R366). -/
def Chan.discard (c : Chan) (u : Nat) : Chan :=
  { c with areas := c.areas.map (fun (a : Area) => if a.complete then a else { a with staged := a.staged.filter (fun q => decide (q.1 < u)) }) }

def Chan.put (c : Chan) (u : Nat × List Byte) : Chan :=
  { c with areas := c.areas.map (fun (a : Area) =>
      if !a.complete && decide (a.base ≤ u.1) && decide (u.1 < a.base + a.units) then { a with staged := Tab.set a.staged u.1 u.2 } else a) }

/-- The receiving block of a channel frame and its channel's key: the channel is armed there and pairs with the sender
(R348, R364). -/
def State.recvChan (s : State) (fr : Frame) : Option (Nat × Nat) :=
  let k := chanKey fr.dstCtx (bits fr.tag.toNat 0 6)
  let ord := bits fr.key.toNat 16 16
  match (s.part (s.ctxPart fr.dstCtx)).blockAt ord with
  | none => none
  | some b =>
    match Tab.find (s.block b).chans k with
    | none => none
    | some c =>
      if (s.ctx fr.dstCtx).state = 1 && c.ent.dir == 2 && c.ent.peerDev == fr.src && c.ent.peerCtx == fr.srcCtx &&
          c.ent.pairOf ord == some (bits fr.key.toNat 0 16) then some (b, k)
      else none

def State.dropEpoch (s : State) : State := { s with lnk := { s.lnk with epochDrop := sat32 s.lnk.epochDrop 1 } }

/-- CHAN_DATA stages its units (R347, R366). Of the first frame that the rerun of a killed sender resends (`again`), what
was staged at and beyond its first unit is discarded. -/
def State.chanData (s : State) (fr : Frame) : State :=
  s.withFrame fChanData fr (fun s =>
    match s.recvChan fr with
    | none => s.countStray
    | some (b, k) =>
      let c := if fr.again then (s.chan b k).discard fr.off.toNat else s.chan b k
      let us := frameUnitList fr
      if c.ent.epoch != bits fr.key.toNat 32 32 then s.dropEpoch
      else if us.all (fun u => c.holds u || decide (u.1 < c.told) && !c.fits u.1) then ((s.updChan b k (fun _ => c)).countDup).ack fr
      else if us.all (fun u => c.fits u.1) then
        let c := if us.any c.holdsOther then c.discard fr.off.toNat else c
        (s.updChan b k (fun _ => (us.foldl Chan.put c).settle)).ack fr
      else s.countStray)

/-- CHAN_COMMIT completes the areas that its count covers (R366); a count that has come before is a duplicate (R347). -/
def State.chanCommit (s : State) (fr : Frame) : State :=
  s.withFrame fChanCommit fr (fun s =>
    match s.recvChan fr with
    | none => s.countStray
    | some (b, k) =>
      if (s.chan b k).ent.epoch != bits fr.key.toNat 32 32 then s.dropEpoch
      else if (s.chan b k).tolds.contains fr.off.toNat then (s.countDup).ack fr
      else
        (s.updChan b k (fun c =>
          ({ c with told := Nat.max c.told fr.off.toNat, tolds := c.tolds ++ [fr.off.toNat] } : Chan).settle)).ack fr)

/-- CHAN_CREDIT raises the grant of the sending block (R365); the first credit of a channel takes the entry from the
context's table. -/
def State.chanCredit (s : State) (fr : Frame) : State :=
  s.withFrame fChanCredit fr (fun s =>
    let ch := bits fr.tag.toNat 0 6
    let k := chanKey fr.dstCtx ch
    let ord := bits fr.key.toNat 0 16
    let ok (e : ChanEnt) : Bool := e.dir == 1 && e.peerDev == fr.src && e.peerCtx == fr.srcCtx &&
      e.pairOf ord == some (bits fr.key.toNat 16 16)
    match (s.part (s.ctxPart fr.dstCtx)).blockAt ord with
    | none => s.countStray
    | some b =>
      if (s.ctx fr.dstCtx).state != 1 then s.countStray
      else
        let s := match Tab.find (s.block b).chans k with
          | some c => if ok c.ent then s else if ok (s.readChan fr.dstCtx ch) then s.useChan b k (s.readChan fr.dstCtx ch) else s
          | none => if ok (s.readChan fr.dstCtx ch) then s.useChan b k (s.readChan fr.dstCtx ch) else s
        let c := s.chan b k
        if !ok c.ent then s.countStray
        else if c.ent.epoch != bits fr.key.toNat 32 32 then s.dropEpoch
        else s.updChan b k (fun c => { c with grant := Nat.max c.grant fr.off.toNat }))

/-- At a RUN's commit the units that it sent are committed: CHAN_COMMIT carries the count of each block's channel (R366). -/
def State.sendCommits (s : State) (x : Cmd) (b : Nat) : State :=
  match (s.block b).parked.find? (fun k => k.id == x.id) with
  | none => s
  | some p =>
    (p.sent.filter (fun q => q.1 / 64 == x.ctx && decide ((s.chan b q.1).committed < q.2))).foldl (fun (s : State) q =>
      let e := (s.chan b q.1).ent
      let ord := s.ordinalOf (s.ctxPart x.ctx) b
      s.sendFrame 0 fChanCommit
        { dst := e.peerDev, dstCtx := e.peerCtx, srcCtx := x.ctx, srcGen := (s.ctx x.ctx).gen,
          tag := BitVec.ofNat 32 e.peerChan, key := chanKeyWord e.epoch ((e.pairOf ord).getD 0) ord, off := BitVec.ofNat 64 q.2 }) s

end Sys2Proof.Machine
end

