-- ==== Sys2Proof/Machine/Window.lean ====
section
/-! DEFINITION. The saddle window (02 R48 to R55): what its opening fixes, the resets, fences and losses that take effect at
step 2 (13 R383, R397, R373), the commits of step 3 and what each operation commits, and the records of step 4 (10 R287
to R289, R299). -/

namespace Sys2Proof.Machine

/-! ### Completion records (R287 to R289, R291) -/

/-- Where the record of producer index `i` lies in a ring. -/
def Cq.slot (q : Cq) (i : Nat) : Nat := q.off + i % 2 ^ q.log2 * 32

/-- The PHASE of producer index `i`. -/
def Cq.phase (q : Cq) (i : Nat) : Bool := i / 2 ^ q.log2 % 2 == 0

/-- The generation tag that a record carries: that of the target for a CONTEXT_RESET that was accepted (R305). -/
def State.recordGen (s : State) (x : Cmd) : BitVec 16 :=
  match x.op with
  | .contextReset t => if x.atFetch then (s.ctx x.ctx).gen else (s.ctx t).gen
  | _ => (s.ctx x.ctx).gen

def State.updCq (s : State) (c q : Nat) (f : Cq → Cq) : State := s.updCtx c (fun x => { x with cq := Tab.upd {} x.cq q f })

/-- The interrupt source of a completion ring (R456). -/
def cqSource (c q : Nat) : Nat := 320 + 2 * c + (if q = 0 then 0 else 1)

/-- A command that ends with a status writes its record into its reservation; a QUIET command that ends with OK only gives
the reservation back. -/
def State.writeRecord (s : State) (x : Cmd) : State :=
  let q := Tab.get {} (s.ctx x.ctx).cq x.cq
  let s := if (Tab.find s.strms x.strm).isSome && !x.atFetch then s.account x.strm x.ctx 2 1 else s
  let s := s.updCq x.ctx x.cq (fun q => { q with reserved := q.reserved - 1 })
  if x.h.flags.getLsbD 1 && x.status == 0 then s
  else
    let i := q.prod.toNat
    let l := recordBytes x (x.opcode.getD x.op.code) (s.recordGen x) (q.phase i) s.beat.count
    let s := s.regWrite ((s.ctx x.ctx).region 0) 0 (q.slot i) l
    let s := s.updCq x.ctx x.cq (fun q => { q with prod := q.prod + 1 })
    if x.h.flags.getLsbD 2 then s.raise (cqSource x.ctx x.cq) else s

/-- A command leaves the Dispatcher with its record. -/
def State.finish (s : State) (x : Cmd) : State := (s.writeRecord x).dropCmd x.id

/-! ### What each operation commits -/

/-- PLACE zeroes the bytes that it owns and no segment covers, spare buffers too, and writes the load report (R257). -/
def State.placeCommit (s : State) (x : Cmd) (p : LoadP) : State :=
  let c := x.ctx
  let m := x.manifest
  let mine := match (s.part (s.ctxPart c)).model with | some k => k.by_ == some c | none => false
  let own := (descsOf m).filter (fun d => !d.shared || mine)
  let s := own.foldl (fun (s : State) d =>
    let e := (s.ctx c).region d.index
    let s := (zeroRanges p.adopt m d).foldl (fun (s : State) r => s.regZero e 0 r.1 r.2) s
    if d.dual && !(p.adopt && d.fixed.isSome) then s.regZero e 1 0 d.size else s) s
  let s := s.regWrite ((s.ctx c).region 0) 0 (roundUp (p.manifest + (mhdr m).size) 64) (loadReport (s.ctx c) m)
  (s.updCtx c (fun k => { k with load := 1 })).updPart (s.ctxPart c) (fun q =>
    { q with model := q.model.map (fun k => if k.claim = some x.id then { k with claim := none } else k) })

/-- The segments that a leg of a VERIFY has found right become verified with its commit (R259). -/
def State.keepVerified (s : State) (x : Cmd) : State :=
  match x.op with
  | .adapterVerify _ => s.updCtx x.ctx (fun c => { c with ld := { c.ld with adVerified := mergeNums c.ld.adVerified x.okSegs } })
  | .wsVerify _ =>
    s.updPart (s.ctxPart x.ctx) (fun q => { q with sw := { q.sw with verified := mergeNums q.sw.verified x.okSegs } })
  | .loadVerify _ =>
    s.updCtx x.ctx (fun c => ({ c with ld := { c.ld with verified := mergeNums c.ld.verified x.okSegs } } : Ctx).redefine)
  | _ => s

/-- VERIFY's commit: the loadset becomes ACTIVE once every segment is verified (R259). -/
def State.verifyCommit (s : State) (x : Cmd) : State :=
  if (s.ctx x.ctx).load = 1 && (s.ctx x.ctx).allVerified then s.activate x.ctx else s

/-- Extents of a context that a purge in progress still holds (R382). -/
def State.owe (s : State) (c : Nat) (rs : List Extent) : State :=
  let ps := (s.purges.filter (fun p => p.ctx == some c && !p.owed.isEmpty)).map (·.id)
  if ps.isEmpty then s else { s with hbmOwed := s.hbmOwed ++ rs.map (fun e => (e.dmask, e.lo, e.hi, ps)) }

/-- What an unload of a context releases: its private regions, and the shared ones with the last user (R264). -/
def State.released (s : State) (c : Nat) : List Extent :=
  let last := match (s.part (s.ctxPart c)).model with
    | some k => k.users.contains c && (k.users.filter (· != c)).isEmpty
    | none => false
  ((s.ctx c).regions.filter (fun r => r.1 != 0 && r.2.valid && (!r.2.isShared || last))).map (fun r => r.2.extent)

/-- LOADSET_UNLOAD's commit, which extends the chain (R264, R430). -/
def State.unloadCommit (s : State) (c : Nat) : State :=
  ((s.owe c (s.released c)).unload c).updPart (s.ctxPart c) (fun q => q.extend 4 c s.beat.count (zeros 64))

/-- ADAPTER_ATTACH PLACE opens the spare buffers for delivery (R265). -/
def State.attachCommit (s : State) (x : Cmd) : State :=
  let m := x.manifest
  s.updCtx x.ctx (fun c =>
    { c with ld := { c.ld with adSegs := segsOf m, adRegs := (descsOf m).map (·.index), adVerified := [], adManifest := m, adOpen := true } })

/-- The VERIFY that verifies an adapter's last segment flips CUR (R265, R430). -/
def State.attachVerified (s : State) (x : Cmd) : State :=
  let ld := (s.ctx x.ctx).ld
  if ld.adOpen && (List.range ld.adSegs.length).all (fun i => ld.adVerified.contains i) then
    let rs := ld.adRegs
    let s := s.updCtx x.ctx (fun c =>
      { c with regions := c.regions.map (fun r => if rs.contains r.1 then (r.1, r.2.setCur (1 - r.2.cur)) else r),
               ld := { c.ld with adOpen := false, adSegs := [], adRegs := [], adVerified := [], adManifest := [] } })
    s.updPart (s.ctxPart x.ctx) (fun q => q.extend 2 x.ctx s.beat.count (manifestDigest ld.adManifest))
  else s

/-- DETACH zeroes both buffers (R265). -/
def State.detachCommit (s : State) (x : Cmd) (r : Nat) : State :=
  let e := (s.ctx x.ctx).region r
  let s := s.regZero e 0 0 e.size
  if e.dual then s.regZero e 1 0 e.size else s

/-- WEIGHT_SWITCH STAGE opens the spare buffers (R266). -/
def State.stageCommit (s : State) (x : Cmd) : State :=
  let m := x.manifest
  s.updPart (s.ctxPart x.ctx) (fun q =>
    { q with sw := { staged := true, isOpen := true, by_ := x.ctx, segs := segsOf m, regs := (descsOf m).map (·.index),
                     digest := manifestDigest m } })

/-- The switch: CUR flips and BASE_GEN advances in every context of the partition (R268, R430). Admission reopens at the
edge. -/
def State.switchCommit (s : State) (x : Cmd) : State :=
  let pt := s.ctxPart x.ctx
  let sw := (s.part pt).sw
  let turn (e : RegEntry) : RegEntry := (e.setCur (1 - e.cur)).setBaseGen (e.baseGen + 1)
  let s := sw.regs.foldl (fun (s : State) r => s.updShared pt r turn) s
  s.updPart pt (fun q =>
    ({ q with
       model := q.model.map (fun m => { m with shared := m.shared.map (fun r =>
         if sw.regs.contains r.1 then
           let e := turn { w0 := BitVec.ofNat 64 r.2.2.1, w1 := BitVec.ofNat 64 r.2.2.2 }
           (r.1, r.2.1, e.w0.toNat, e.w1.toNat)
         else r) }),
       sw := { closed := true, drained := true, holdNew := sw.holdNew } } : Part).extend 3 x.ctx s.beat.count sw.digest)

/-- ABORT closes the spare buffers and leaves their content undefined (R266). -/
def State.abortCommit (s : State) (x : Cmd) : State :=
  let pt := s.ctxPart x.ctx
  let s := (s.part pt).sw.regs.foldl (fun (s : State) r =>
    let e := (s.ctx x.ctx).region r
    s.regUndef e (1 - e.cur) 0 e.size) s
  s.updPart pt (fun q => { q with sw := {} })

/-- The bindings of a committed command: HOLD takes a hold, RELEASE gives one back (R198). -/
def State.bindCommit (s : State) (x : Cmd) : State :=
  (opBinds x.op).foldl (fun (s : State) b =>
    if bindMode b = 2 then s.addHold x.ctx (bindWreg b) (bindVersion b)
    else if bindMode b = 3 then s.removeHold x.ctx (bindWreg b) (bindVersion b)
    else s) s

/-- What a RUN staged on its blocks becomes permanent, and what it sent over channels is committed (R25, R365, R366). -/
def State.blocksCommit (s : State) (x : Cmd) : State :=
  let p := (s.programOf x).getD {}
  let s := x.blocks.foldl (fun (s : State) b => s.sendCommits x b) s
  x.blocks.foldl (fun (s : State) b => s.updBlock b (fun k => k.commit x.id s.fresh p)) s.burn.burn

/-- The tokens that a command has dispatched commit (R222 to R224, R239). -/
def State.toksCommit (s : State) (x : Cmd) : State := x.toks.foldl (fun (s : State) k => s.commitTok x k) s

/-- What a RUN leaves: its blocks and its dispatched tokens. -/
def State.runCommit (s : State) (x : Cmd) : State := (s.blocksCommit x).toksCommit x

/-- A new train mask takes its place in the gradient region that is paired with the stepped one, in the context's own table, or where the
region is SHARED in every table and in the model that a later PLACE attaches (R191, R202; log 17). -/
def State.setMask (s : State) (c region : Nat) (m : W64) : State :=
  let g := Config.gradPair region
  let mark (e : RegEntry) : RegEntry := if e.kind = 3 then { e with desc := { e.desc with mask := m } } else e
  let e := (s.ctx c).region g
  if e.valid && e.isShared then
    (s.updShared (s.ctxPart c) g mark).updPart (s.ctxPart c) (fun q =>
      { q with model := q.model.map (fun k => { k with shared := k.shared.map (fun r =>
          if r.1 = g then (r.1, { r.2.1 with mask := m }, r.2.2) else r) }) })
  else if e.valid then s.updCtx c (fun x => x.setRegion g (mark e)) else s

/-- An OPTSTEP commits (R202): V advances, the mask and the stash change hands, the closing mark goes, and the packets that wait for the new
version are checked afresh before any other. -/
def State.advanceVersion (s : State) (x : Cmd) (p : OptP) : State :=
  let w := s.weight (bindWreg p.step)
  let s := s.updWeight (bindWreg p.step) (fun w =>
    { w with
      v := w.v + 1, closing := 0, busyBy := none,
      curBuf := if w.stash then !w.curBuf else w.curBuf, sValid := w.stash,
      countStash := if w.stash then w.countCur else 0, countCur := 0,
      mask := if p.newMask then p.mask else w.mask })
  let s := if p.newMask then s.setMask x.ctx w.region p.mask else s
  s.retryAll (s.ctxPart x.ctx)

/-- NORMREDUCE's commit writes its result record, and its tag counts as committed (R207, R208). -/
def State.normCommit (s : State) (x : Cmd) (p : NormP) : State :=
  let r := s.normRecord x p
  let s := s.putRef x.ctx p.result r.1
  let s := { s with
    census := landCensus x.ctx (tallyKeys x.h.cls .w40 r.2 []) s.census,
    cmds := s.cmds.map (fun (y : Cmd) => if y.normCmd = some x.id then { y with normCmd := none } else y) }
  s.updCtx x.ctx (fun c => { c with norm := if Tab.get 0 c.norm p.tag / 4 = x.id then Tab.set c.norm p.tag (x.id * 4 + 1) else c.norm })

/-- The census of a context as CENSUS_READ writes it (R88). -/
def State.censusBytes (s : State) (c : Nat) : List Byte :=
  (List.range 1280).flatMap (fun i => leBytes 8 (Tab.get Cnt.zero s.census (c * 1280 + i)).word.toNat)

/-- Sums of the idle counters over a list of blocks (R338). -/
def State.idleSums (s : State) (bs : List Nat) : List Cnt :=
  (List.range 9).map (fun i => bs.foldl (fun (a : Cnt) b =>
    let c := ((s.block b).acct[i]?).getD Cnt.zero
    let t := a.add c.count
    { t with sticky := t.sticky || c.sticky }) Cnt.zero)

/-- ACCOUNT_READ's commit: snapshot and clear are one action (R338). -/
def State.accountCommit (s : State) (x : Cmd) (p : AccountP) : State :=
  let none8 := List.replicate 8 Cnt.zero
  match p.scope with
  | 0 =>
    let s := s.putRef x.ctx p.dst (counterBytes (s.ctx x.ctx).acct)
    if p.clear then s.updCtx x.ctx (fun c => { c with acct := none8 }) else s
  | 1 =>
    match Tab.find (s.ctx x.ctx).streams p.lstream with
    | none => s
    | some g =>
      let s := s.putRef x.ctx p.dst (counterBytes (s.strm g).acct)
      if p.clear then s.updStrm g (fun k => { k with acct := none8 }) else s
  | _ =>
    let bs := ((s.part (s.ctxPart x.ctx)).ordinals.drop p.bgFirst).take p.bgSize
    let s := s.putRef x.ctx p.dst (counterBytes (s.idleSums bs))
    if p.clear then bs.foldl (fun (s : State) b => s.updBlock b (fun k => { k with acct := List.replicate 9 Cnt.zero })) s else s

/-- A stream closes (R302): its number and its local number are free. -/
def State.dropStream (s : State) (c n : Nat) : State :=
  match Tab.find (s.ctx c).streams n with
  | none => s
  | some g => let s := s.dropHeld g; { s with strms := Tab.drop s.strms g }.updCtx c (fun x => { x with streams := Tab.drop x.streams n })

/-- What the commit of a leg or of a whole command does, beside making its staging visible. -/
def State.opCommit (s : State) (x : Cmd) : State :=
  match x.op with
  | .streamOpen p =>
    match Tab.find (s.ctx x.ctx).streams p.lstream with
    | some g => s.updStrm g (fun k => { k with isOpen := true, reserved := false, acct := List.replicate 8 Cnt.zero })
    | none => s
  | .streamClose n => s.dropStream x.ctx n
  | .loadPlace p => if x.final then s.placeCommit x p else s
  | .loadVerify _ => let s := s.keepVerified x; if x.final then s.verifyCommit x else s
  | .unload => s.unloadCommit x.ctx
  | .adapterPlace _ => s.attachCommit x
  | .adapterVerify _ => let s := s.keepVerified x; if x.final then s.attachVerified x else s
  | .adapterDetach r => s.detachCommit x r
  | .run _ => (s.runCommit x).bindCommit x
  | .copy _ | .fill _ => s
  | .reduce _ | .gather _ | .broadcast _ => if x.final then s.collLand x else s
  | .normreduce p => if x.coll.cross then s.normCommit x p else s
  | .permute p => if !x.coll.started then s else if x.final then (s.permFinish x p).bindCommit x else s.permCommit x p
  | .routeOpen p => s.openCommit x p
  | .routeDispatch _ => s.toksCommit x
  | .routeClose p =>
    let last := ((Tab.get {} (s.part (s.ctxPart x.ctx)).tabs p.table).last).getD p.batch
    s.closeCommit x p.table p.phase (if p.phase = 0 then last else p.batch)
  | .routeRetrace p =>
    let s := x.toks.foldl (fun (s : State) k => s.markTok x k 1) s
    if x.final && p.close then s.closeCommit x p.table 1 p.batch else s
  | .routeReturn p => s.returnCommit x p
  | .routeForceSeal p => s.forceCommit x p
  | .routeCounts p => s.countsCommit x p
  | .routeXset p => s.xsetCommit x p
  | .combineForward p => s.combineCommit x p true
  | .combineRetrace p => s.combineCommit x p false
  | .wsStage _ => s.stageCommit x
  | .wsVerify _ => s.keepVerified x
  | .wsSwitch _ _ => s.switchCommit x
  | .wsAbort => s.abortCommit x
  | .optstep p =>
    let s := if x.packing then s else s.runCommit x
    if x.final && (x.packing || !p.pack) then s.advanceVersion x p else s
  | .fence | .wait _ _ _ | .preempt _ _ | .preemptResume _ | .contextReset _ | .modeArm _ _ | .modeCancel => s
  | .signalAdd n v => s.addSignal x.ctx n v
  | .signalSet n v => s.updCtx x.ctx (fun c => { c with sig := Tab.set c.sig n v })
  | .partitionConfig _ => s.pendLayout x.layouts
  | .censusRead d clear =>
    let s := s.putRef x.ctx d (s.censusBytes x.ctx)
    if clear then { s with census := clearCensusCtx x.ctx s.census } else s
  | .accountRead p => s.accountCommit x p

/-- Whether a done command's commit ends it: its last leg, and for an OPTSTEP with pack its last pack leg. -/
def Cmd.ends (x : Cmd) : Bool :=
  x.final && (match x.op with
    | .optstep p => x.packing || !p.pack
    | .normreduce _ => x.coll.cross
    | _ => true)

/-- What a leg that is not the last leaves: the place of the next one. -/
def Cmd.nextLeg (x : Cmd) : Cmd :=
  let y := { x with phase := .accepted, queued := false, writes := [], census := [], sigs := [], toks := [], pulls := [], okSegs := [],
                    progress := x.progress + x.moved, moved := 0, leg := x.leg + 1, blocks := [], carried := false,
                    legOver := false, overrun := false, cores := x.coresNext }
  match x.op with
  | .reduce _ | .gather _ | .broadcast _ => { y with coll := x.nextCollLeg }
  | .normreduce _ => if x.final then { y with coll := { x.coll with cross := true } } else y
  | .optstep _ => if x.packing then y else { y with packing := true, progress := 0 }
  | _ => y

/-- A command that is to end after the commit of its done leg ends, with its record (R45, R50). -/
def State.endDoomed (s : State) (id : Nat) (f : Nat × Nat × Nat) : State :=
  let s := s.endWith id f.1 f.2.1 f.2.2
  match s.cmd id with | some y => s.finish y | none => s

/-- A done command, or a done leg of one, commits (R49 step 3): its staging, its census and its signals become visible and
its operation's commit happens; a command that ends writes its record. -/
def State.commitCmd (s : State) (x : Cmd) : State :=
  let s := { s with hbm := s.hbm.land x.writes, census := landCensus x.ctx x.census s.census }
  let s := x.sigs.foldl (fun (s : State) q => s.addSignal x.ctx q.1 q.2) s
  let s := s.opCommit x
  if x.ends then (s.unbind x).finish x
  else
    -- PERMUTE's commit has moved its own place on (R370)
    let s := s.updCmd x.id (fun y =>
      let z := x.nextLeg
      match x.op with
      | .permute _ => { z with coll := y.coll }
      | _ => z)
    match x.doomed with
    | some f => s.endDoomed x.id f
    | none => s

/-! ### The order of commits (R49, R52, R295) -/

/-- An earlier command of the same stream that has not left the Dispatcher; a CONTEXT_RESET that waits to finish, and a
refusal at fetch, hold nothing up. -/
def State.blockedBy (s : State) (x : Cmd) : List Cmd :=
  s.cmds.filter (fun y => y.strm == x.strm && decide (y.id < x.id) && y.phase != .awaiting && !y.atFetch)

/-- A command has had its turn in this window. -/
def State.turned (s : State) (id : Nat) : State :=
  { s with beat := { s.beat with winDone := s.beat.winDone.filter (· != id) } }

/-- A CLOSE whose batch is not there to be closed when its turn comes ends with PASS_STATE (R224; log 38). -/
def State.closeFail (s : State) (x : Cmd) : Fail :=
  match x.op with | .routeClose _ => s.routeNow x.ctx x.op | _ => none

/-- The turn of one command in the window: `n` commits are left. A command that was not done at step 1 waits for the next. -/
def State.turnOf (r : State × Nat) (id : Nat) : State × Nat :=
  let s := r.1
  match s.cmd id with
  | none => r
  | some x =>
    let before := s.blockedBy x
    if x.phase = .refused then (if x.atFetch || before.isEmpty then (s.finish x, r.2) else r)
    else if x.phase ≠ .done then r
    else if !s.beat.winDone.contains id then r
    else if !before.all (fun y => y.carried && y.phase == .done) then r
    else
      match x.fail.or (s.closeFail x) with
      | some f =>
        if before.isEmpty then ((s.keepVerified x).endDoomed id f, r.2) else r
      | none =>
        if r.2 = 0 then
          (({ (s.updCmd id (fun y => { y with carried := true })) with
             beat := { s.beat with commitCarry := sat32 s.beat.commitCarry 1 } }).turned id, 0)
        else ((s.commitCmd x).turned id, r.2 - 1)

/-- Steps 3 and 4 with what the window has left: records of packets refused at the fetch, carried commands, then the others in
the order of acceptance. -/
def State.commits (s : State) : State :=
  let first (x : Cmd) : Bool := x.phase == .refused && x.atFetch
  let order := (s.cmds.filter first).map (·.id) ++ (s.cmds.filter (fun x => x.carried && !first x)).map (·.id) ++
    (s.cmds.filter (fun x => !x.carried && !first x)).map (·.id)
  let r := order.foldl State.turnOf (s, s.beat.winLeft)
  { r.1 with beat := { r.1.beat with winLeft := r.2 } }

/-! ### PERMUTE in a window (R369) -/

/-- Cursors take the marked counts; a PERMUTE whose moves are committed and whose sources are complete completes. -/
def State.permWindow (s : State) : State :=
  (s.cmds.map (·.id)).foldl (fun (s : State) id =>
    match s.cmd id with
    | none => s
    | some x =>
      match x.op with
      | .permute p =>
        if x.coll.started && (x.phase == .accepted || x.phase == .issued) then
          let s := s.permRecord x p
          if s.movesOver x p && s.sourcesOver x p && (s.blockedBy x).isEmpty then ((s.permFinish x p).unbind x).finish x else s
        else s
      | _ => s) s

/-! ### Overruns (R54) -/

/-- The payload of the OVERRUN and HUNG records (R448). -/
def overrunPayload (x : Cmd) (cycles : Nat) : List Byte :=
  leBytes 4 x.h.tag.toNat ++ leBytes 2 x.h.stream ++ leBytes 2 (match x.groupRange with | some g => g.1 | none => 0) ++
    leBytes 4 cycles ++ zeros 4

/-- The event of a command that overran or hung: its source is the lowest block not done, when it holds blocks (R380). -/
def Cmd.lateEvent (x : Cmd) (code cycles : Nat) : Event :=
  let b := (x.blocks.filter (fun b => !x.acked.contains b)).foldl (fun (m : Option Nat) b =>
    match m with | none => some b | some k => some (Nat.min k b)) none
  { code := code, kind := if b.isSome then 7 else 0, index := b.getD 0, ctx := x.ctx, payload := overrunPayload x cycles }

/-- A PERMUTE that has sent all it has to send waits for its sources: no leg of it is in flight. -/
def State.onlyWaits (s : State) (x : Cmd) : Bool :=
  match x.op with
  | .permute p => x.coll.started && s.movesOver x p
  | _ => false

/-- No reset of a context waits for its window; the engines of one that does have stopped its work (R378). -/
def State.resetTaken (s : State) (c : Nat) : Bool := match (s.ctx c).reset with | some r => r.done | none => true

/-- Step 1: the legs that have moved their bytes are done, the set of done commands is fixed, and the cycles that the others have run are
taken down (R49, R54). -/
def State.fixDone (s : State) (capacity : Nat) (cycles : List (Nat × Nat)) : State :=
  let s := { s with cmds := s.cmds.map (fun (x : Cmd) => if x.phase == Phase.issued && x.legOver then { x with phase := .done } else x) }
  { s with
    beat := { s.beat with winDone := (s.cmds.filter (fun x => x.phase == .done)).map (·.id), winLeft := capacity },
    cmds := s.cmds.map (fun (x : Cmd) =>
      if x.phase == .issued then { x with ran := ((cycles.find? (fun q => q.1 == x.id)).map (·.2)).getD 0 } else x) }

/-- A command or leg that is not done when the window opens has overrun: it is counted, once a run, and recorded. DESIGN CHOICE (log 61): none is
counted for a command whose context's reset is pending, whose engines have stopped it (R378), nor for a PERMUTE that only waits for its
sources, no leg of which is in flight. -/
def State.countOverruns (s : State) : State :=
  (s.cmds.filter (fun x => x.phase == .issued && !x.overrun && !s.onlyWaits x && s.resetTaken x.ctx)).foldl (fun (s : State) x =>
    let s := { s with beat := { s.beat with overrun := sat32 s.beat.overrun 1 } }
    let s := (s.account x.strm x.ctx 5 1).note (x.lateEvent 0x104 x.ran)
    s.updCmd x.id (fun y => { y with overrun := true })) s

/-! ### Step 2: resets, fence, lost peers -/

/-- Every open stream of a context halts. -/
def State.haltCtx (s : State) (c st : Nat) : State :=
  (s.strms.filter (fun g => g.2.ctx == c && g.2.isOpen)).foldl (fun (s : State) g => s.halt g.1 st) s

/-- A reset takes effect (R383 steps 2 to 4, R384, R263, R235): the context's commands end with PURGED, GEN advances, its
streams halt, its holds go, its channels and collective sequences restart, its slots' buffers are released. -/
def State.takeReset (s : State) (c : Nat) (r : ResetSt) : State :=
  let ids := (s.cmds.filter (fun x => x.ctx == c && x.phase != .refused && some x.id != r.cmd)).map (·.id)
  let s := s.endAll ids stPurged 0 0
  let pt := s.ctxPart c
  let s := s.releaseSlots (fun p x => p == pt && x.d.ctx == c)
  let s := { s with blocks := s.blocks.map (fun (b : Nat × Block) => (b.1, { b.2 with chans := b.2.chans.filter (fun k => k.1 / 64 != c) })) }
  let s := (s.dropHolds c).updCtx c (fun x =>
    let x := if x.load = 1 then x.undefineUnverified else x
    { x with gen := x.gen + 1, held := none, heldForever := false, collSeq := [], lastReset := some s.now,
             reset := some { r with done := true } })
  s.haltCtx c stPurged

/-- Resets whose window this is. -/
def State.takeResets (s : State) : State :=
  s.ctxs.foldl (fun (s : State) c =>
    match (s.ctx c.1).reset with
    | some r => if !r.done && decide (r.effectBeat ≤ s.now) then s.takeReset c.1 r else s
    | none => s) s

/-- A command that is to end but is done commits first (R50): one that its commit does not end, being a leg that others follow (R45), ends
after it; one that has failed ends with its own status (R127). -/
def Cmd.doom (x : Cmd) (st kind ix : Nat) : Cmd :=
  { x with peerEpoch := none, doomed := if x.ends then x.doomed else some (x.doomed.getD (st, kind, ix)) }

/-- Commands that exchange traffic with a device whose epoch changed (R373, R374); one that is done commits (R50). -/
def State.takePeers (s : State) : State :=
  (s.cmds.filter (fun x => x.live && x.peerEpoch.isSome)).foldl (fun (s : State) x =>
    let d := x.peerEpoch.getD 0
    if x.phase = Phase.done then s.updCmd x.id (fun y => y.doom stPeerEpoch 8 d) else s.endWith x.id stPeerEpoch 8 d) s

/-- The window after a fence (R397): what is accepted and not done ends with FENCED, and every stream halts. -/
def State.takeFence (s : State) : State :=
  if !s.fence.atWindow then s
  else
    let ids := (s.cmds.filter (fun x => x.live && x.phase != .done)).map (·.id)
    let s := { s with cmds := s.cmds.map (fun (x : Cmd) => if x.phase == Phase.done then x.doom stFenced 0 0 else x) }
    let s := s.endAll ids stFenced 0 0
    let s := (s.strms.filter (fun g => g.2.isOpen && !g.2.halted)).foldl (fun (s : State) g => s.halt g.1 stFenced) s
    { s with fence := { s.fence with atWindow := false } }

/-- Commands that were not done on a block that the derating table retired end (R405). -/
def State.takeLost (s : State) : State :=
  (s.cmds.filter (fun x => x.live && x.lostBlk.isSome)).foldl (fun (s : State) x => s.endWith x.id stEngineLost 7 (x.lostBlk.getD 0)) s

/-- Requested census clears take effect (R87). -/
def State.takeClears (s : State) : State :=
  let cs := s.cens.clears.foldl (fun (t : Tab Cnt) q =>
    match q.2 with
    | none => clearCensusCtx q.1 t
    | some (cls, fmt) => (List.range 5).foldl (fun (t : Tab Cnt) n => Tab.drop t (censusKey q.1 cls fmt n)) t) s.census
  { s with census := cs, cens := { s.cens with clears := [] } }

/-- Memory that a finished purge held is free again (R382). -/
def State.pruneOwed (s : State) : State :=
  let open_ (id : Nat) : Bool := s.purges.any (fun p => p.id == id && !p.owed.isEmpty)
  { s with hbmOwed := s.hbmOwed.filter (fun o => o.2.2.2.any open_) }

/-- A reset finishes once its purge is acknowledged or its engines are quarantined (R383 step 7): OK, or ENGINE_LOST naming
the first engine quarantined. -/
def State.finishReset (s : State) (c : Nat) (r : ResetSt) (p : Option Purge) : State :=
  let lost := p.bind (·.lostEngine)
  let s := { s with purges := s.purges.filter (fun q => q.id != r.purge) }
  let s := s.updCtx c (fun x =>
    { x with reset := match r.next with
        | some q => some { effectBeat := q.1, cmd := none, purge := q.2, destroy := true }
        | none => if r.destroy then x.reset.map (fun q => { q with cmd := none }) else none })
  match r.cmd.bind s.cmd with
  | none => if r.destroy then s else s.raise (64 + c)
  | some x =>
    let x := match lost with
      | none => x
      | some e => { x with status := stEngineLost, dkind := if 65536 ≤ e then 7 else 10, dindex := e % 65536 }
    let s := (s.finish x).raise (64 + c)
    if lost.isSome && !contOnErr x.h then s.halt x.strm stEngineLost else s

/-- Resets that can finish do, and command purges that are acknowledged are forgotten. -/
def State.finishResets (s : State) : State :=
  let s := s.ctxs.foldl (fun (s : State) c =>
    match (s.ctx c.1).reset with
    | some r =>
      let p := s.purges.find? (fun q => q.id == r.purge)
      if r.done && (match p with | some q => q.owed.isEmpty | none => true) then s.finishReset c.1 r p else s
    | none => s) s
  ({ s with purges := s.purges.filter (fun p => p.cmd.isNone || !p.owed.isEmpty) }).pruneOwed

/-! ### Transfers of resident data (11 R333, R334) -/

/-- What a spill or fill leg of a granule moves at most (R334). -/
def State.spillCap (s : State) : Nat := (s.beat.periodCur.toNat - s.beat.saddleCur.toNat) * 2304000

/-- A granule's next leg: its spill first, then its fill. -/
def SpillJob.leg (j : SpillJob) (cap : Nat) : SpillJob :=
  let all := ((j.spill ++ j.fill).map (·.1)).eraseDups
  { j with
    flying := false,
    spill := j.spill.map (fun (p : Nat × Nat) => (p.1, p.2 - cap)),
    fill := all.filterMap (fun g => if Tab.get 0 j.spill g = 0 then (Tab.find j.fill g).map (fun (n : Nat) => (g, n - cap)) else (Tab.find j.fill g).map (fun (n : Nat) => (g, n))) }

/-- A transfer has moved all it has to move. -/
def SpillJob.over (j : SpillJob) : Bool := j.spill.all (fun p => p.2 == 0) && j.fill.all (fun p => p.2 == 0)

/-- The resident and landing bytes that a context's programs declare. -/
def State.keepOf (s : State) (c : Nat) : Nat :=
  match (s.part (s.ctxPart c)).model with
  | some m => m.programs.foldl (fun (n : Nat) (p : Nat × Program) => Nat.max n p.2.keepBytes) 0
  | none => 0

/-- A block's record as it is spilled (R333; log 12). -/
def Block.toSpill (b : Block) (keep : Nat) : Spilled :=
  { lines := b.bs.part 0 keep, cs := b.cs, fold := b.fold.map (fun (f : Nat × FoldSlot) => (f.1, f.2.committed)) }

/-- The bytes of a record as they lie in HBM: the lines, the cell-store shares, then the committed fold slots (R269, R333; log 12). -/
def Spilled.bytes (r : Spilled) (keep size : Nat) : List Byte :=
  (r.lines.readN 0 keep ++ r.cs.flatMap (·.tile) ++ r.fold.flatMap (fun (f : Nat × Mem) => f.2.readN 0 20480)).take size

/-- Where a block's record lies in its owner's SPILL region: in the part of its die, at the block's position among the partition's usable
blocks of that die (R269). -/
def State.recordAt (s : State) (c b : Nat) (size : Nat) : Nat :=
  let p := s.part (s.ctxPart c)
  let ds := diesOf p.layout.dies
  let pos := (p.ordinals.filter (fun k => dieOf k == dieOf b)).idxOf b
  ds.idxOf (dieOf b) * spillPart p.layout.dies size + pos * s.recordOf c

/-- A spill writes a block's record into the SPILL region of its owner (R333). -/
def State.writeSpill (s : State) (c b : Nat) : State :=
  match (s.ctx c).ld.spillRegion with
  | none => s
  | some r =>
    let e := (s.ctx c).region r
    let keep := s.keepOf c
    s.regWrite e 0 (s.recordAt c b e.size) (((s.block b).toSpill keep).bytes keep (s.recordOf c))

/-- What a block holds without a record: undefined content. -/
def Block.blank (b : Block) (seed : Nat) : Block :=
  { b with bs := b.bs.undef 0 1048576 seed, cs := [],
           fold := (List.range 6).map (fun f => (f, { committed := fullTile (seed + 1 + f) })) }

/-- A block takes its new owner, with the owner's record when it holds one. -/
def Block.swap (b : Block) (c seed keep : Nat) (old : Option (Nat × Nat)) : Block :=
  let sp := match old with | some o => Tab.set b.spilled o.1 (b.toSpill o.2) | none => b.spilled
  let n := { b.blank seed with owner := some c }
  match Tab.find sp c with
  | some r => { n with spilled := Tab.drop sp c, bs := n.bs.graft r.lines 0 keep, cs := r.cs,
                       fold := r.fold.map (fun (f : Nat × Mem) => (f.1, { committed := f.2 })) }
  | none => { n with spilled := sp }

/-- The last leg of a transfer commits: the blocks take their new owner; spills count for the old ones (R336 index 6). -/
def State.endTransfer (s : State) (j : SpillJob) : State :=
  let owes (b : Nat) : Option Nat := match (s.block b).owner with
    | some o => if o ≠ j.ctx ∧ s.recordOf o ≠ 0 then some o else none
    | none => none
  let olds := (j.blocks.filterMap owes).eraseDups
  let s := j.blocks.foldl (fun (s : State) b =>
    let old := (owes b).map (fun o => (o, s.keepOf o))
    let s := match old with | some o => s.writeSpill o.1 b | none => s
    { (s.updBlock b (fun k => (k.taken s.beat.at_).swap j.ctx s.fresh (s.keepOf j.ctx) old)) with fresh := s.fresh + 8 }) s
  olds.foldl (fun (s : State) o => s.updCtx o (fun x => { x with acct := bump x.acct 6 1 })) s

/-- The legs in flight commit. -/
def State.commitSpills (s : State) : State :=
  let js := s.spillJobs.map (fun (j : SpillJob) => if j.flying then j.leg s.spillCap else j)
  let s := (js.filter (fun j => j.started && j.over)).foldl (fun (s : State) j => s.endTransfer j) s
  { s with spillJobs := js.filter (fun j => !(j.started && j.over)) }

/-! ### The window opens -/

/-- Steps 1 to 4 of R49 on a device that is ready. -/
def State.window (s : State) (o : WindowObs) : State :=
  let s := s.fixDone (Nat.max o.capacity ((s.beat.saddleCur.toNat * 1000 - 500) * 400 / 1000)) o.cycles
  let s := s.countOverruns
  let s := (s.takeResets).finishResets
  let s := ((s.takeFence).takePeers).takeLost
  let s := s.takeClears
  let s := s.sealReady
  let s := s.commits
  let s := s.permWindow
  let s := (s.retSignals).commitSpills
  s.finishResets

/-- SADDLE_WINDOW_OPEN: once a beat, while the module has power. -/
def State.openWindow (s : State) (o : WindowObs) : State :=
  if s.beat.windowOpen || !s.crest.powered then s
  else
    let at_ := (s.beat.periodCur.toNat - s.beat.saddleCur.toNat) * 1000
    let s := { s with beat := { s.beat with windowOpen := true, at_ := at_ } }
    if s.bist.ready then (s.window o).settle else s

/-- SADDLE_WINDOW_OPEN (R48, R49). -/
def execSaddleWindowOpen (o : WindowObs) (s : State) : Host.Outcome State Fault Refusal := .next (s.openWindow o)

end Sys2Proof.Machine
end

