-- ==== Sys2Proof/Machine/PacketRows.lean ====
section
/-! DEFINITION. The meanings of the packet rows (10 R285 to R305): the Dispatcher fetches a packet from a stream, and the
issue point that its acceptance is follows (11 R326; assumption log 2). What the command then does is the meaning of its
issue and of its commit. -/

namespace Sys2Proof.Machine

/-- A refusal made while a window is open has its record written in that window. -/
def State.recordNow (s : State) : State :=
  if s.beat.windowOpen then (s.cmds.filter (fun x => x.atFetch && x.phase == .refused)).foldl (fun (s : State) x => s.finish x) s
  else s

/-- A packet of a stream comes to the Dispatcher (R285, R293, R326). -/
def State.present (s : State) (h : Hdr) (op : Op) : State :=
  match s.openStream h.ctx h.stream with
  | none => s
  | some g => (((s.fetchOp g h op).recordNow).issuePoint (s.ctxPart h.ctx)).settle

/-- PACKET_FETCH (R285, R293, R326): the 64 bytes at HEAD are fetched and checked. A packet that is none of R301's is refused with
MALFORMED at the byte that breaks its form. -/
def execPacketFetch (g : Nat) (s : State) : Host.Outcome State Fault Refusal :=
  let x := s.strm g
  if x.held.isSome then .next (((s.retryHeld g).recordNow).issuePoint (s.ctxPart x.ctx)).settle
  else
  let l := s.home x.ctx (x.off + x.head.toNat % 2 ^ x.log2 * 64) 64
  match packetOf x.ctx x.lstream l with
  | (h, .ok op) => .next (((s.fetchOp g h op).recordNow).issuePoint (s.ctxPart x.ctx)).settle
  | (h, .error b) =>
    if s.fetchable g then
      let id := s.nextId
      .next ((((s.refuse g h .fence (stMalformed, 9, b)).updCmd id (fun y => { y with opcode := some (fld l 0 1) })).recordNow).issuePoint
        (s.ctxPart x.ctx)).settle
    else .next s

/-- COMMAND_ISSUE (R326): an issue point within a partition, `t` ns into the beat, in which a leg moves at most `leg` bytes
(R45; assumption log 4, 14). -/
def execCommandIssue (pt t leg : Nat) (s : State) : Host.Outcome State Fault Refusal :=
  .next (({ s with beat := { s.beat with at_ := t, legCap := some leg } } : State).issuePoint pt).settle

/-- STREAM_OPEN (R302). -/
def execStreamOpen (h : Hdr) (p : StreamOpenP) (s : State) : Host.Outcome State Fault Refusal :=
  .next (s.present h (.streamOpen p))

/-- STREAM_CLOSE (R302). -/
def execStreamClose (h : Hdr) (lstream : Nat) (s : State) : Host.Outcome State Fault Refusal :=
  .next (s.present h (.streamClose lstream))

/-- LOADSET_LOAD PLACE (R257, R262). -/
def execLoadsetLoadPlace (h : Hdr) (p : LoadP) (s : State) : Host.Outcome State Fault Refusal :=
  .next (s.present h (.loadPlace p))

/-- LOADSET_LOAD VERIFY (R259). -/
def execLoadsetLoadVerify (h : Hdr) (p : LoadP) (s : State) : Host.Outcome State Fault Refusal :=
  .next (s.present h (.loadVerify p))

/-- LOADSET_UNLOAD (R264). -/
def execLoadsetUnload (h : Hdr) (s : State) : Host.Outcome State Fault Refusal :=
  .next (s.present h (.unload))

/-- ADAPTER_ATTACH PLACE (R265). -/
def execAdapterAttachPlace (h : Hdr) (p : LoadP) (s : State) : Host.Outcome State Fault Refusal :=
  .next (s.present h (.adapterPlace p))

/-- ADAPTER_ATTACH VERIFY (R265). -/
def execAdapterAttachVerify (h : Hdr) (p : LoadP) (s : State) : Host.Outcome State Fault Refusal :=
  .next (s.present h (.adapterVerify p))

/-- ADAPTER_DETACH (R265). -/
def execAdapterDetach (h : Hdr) (region : Nat) (s : State) : Host.Outcome State Fault Refusal :=
  .next (s.present h (.adapterDetach region))

/-- RUN (R303). -/
def execRun (h : Hdr) (p : RunP) (s : State) : Host.Outcome State Fault Refusal :=
  .next (s.present h (.run p))

/-- COPY (R303, R306). -/
def execCopy (h : Hdr) (p : CopyP) (s : State) : Host.Outcome State Fault Refusal :=
  .next (s.present h (.copy p))

/-- FILL (R303). -/
def execFill (h : Hdr) (p : FillP) (s : State) : Host.Outcome State Fault Refusal :=
  .next (s.present h (.fill p))

/-- REDUCE (R303, R358). -/
def execReduce (h : Hdr) (p : CollP) (s : State) : Host.Outcome State Fault Refusal :=
  .next (s.present h (.reduce p))

/-- GATHER (R303, R358). -/
def execGather (h : Hdr) (p : CollP) (s : State) : Host.Outcome State Fault Refusal :=
  .next (s.present h (.gather p))

/-- BROADCAST (R303, R358). -/
def execBroadcast (h : Hdr) (p : CollP) (s : State) : Host.Outcome State Fault Refusal :=
  .next (s.present h (.broadcast p))

/-- NORMREDUCE (R204, R303). -/
def execNormreduce (h : Hdr) (p : NormP) (s : State) : Host.Outcome State Fault Refusal :=
  .next (s.present h (.normreduce p))

/-- PERMUTE (R303, R367). -/
def execPermute (h : Hdr) (p : PermP) (s : State) : Host.Outcome State Fault Refusal :=
  .next (s.present h (.permute p))

/-- ROUTE OPEN (R215). -/
def execRouteOpen (h : Hdr) (p : RouteP) (s : State) : Host.Outcome State Fault Refusal :=
  .next (s.present h (.routeOpen p))

/-- ROUTE DISPATCH (R216). -/
def execRouteDispatch (h : Hdr) (p : RouteP) (s : State) : Host.Outcome State Fault Refusal :=
  .next (s.present h (.routeDispatch p))

/-- ROUTE CLOSE (R224). -/
def execRouteClose (h : Hdr) (p : RouteP) (s : State) : Host.Outcome State Fault Refusal :=
  .next (s.present h (.routeClose p))

/-- ROUTE RETRACE (R231). -/
def execRouteRetrace (h : Hdr) (p : RouteP) (s : State) : Host.Outcome State Fault Refusal :=
  .next (s.present h (.routeRetrace p))

/-- ROUTE RETURN (R227). -/
def execRouteReturn (h : Hdr) (p : RouteP) (s : State) : Host.Outcome State Fault Refusal :=
  .next (s.present h (.routeReturn p))

/-- ROUTE FORCE_SEAL (R233). -/
def execRouteForceSeal (h : Hdr) (p : RouteP) (s : State) : Host.Outcome State Fault Refusal :=
  .next (s.present h (.routeForceSeal p))

/-- ROUTE COUNTS (R239). -/
def execRouteCounts (h : Hdr) (p : RouteP) (s : State) : Host.Outcome State Fault Refusal :=
  .next (s.present h (.routeCounts p))

/-- ROUTE XSET (R211). -/
def execRouteXset (h : Hdr) (p : RouteP) (s : State) : Host.Outcome State Fault Refusal :=
  .next (s.present h (.routeXset p))

/-- COMBINE forward (R228). -/
def execCombineForward (h : Hdr) (p : CombineP) (s : State) : Host.Outcome State Fault Refusal :=
  .next (s.present h (.combineForward p))

/-- COMBINE backward (R232). -/
def execCombineRetrace (h : Hdr) (p : CombineP) (s : State) : Host.Outcome State Fault Refusal :=
  .next (s.present h (.combineRetrace p))

/-- WEIGHT_SWITCH STAGE (R266). -/
def execWeightSwitchStage (h : Hdr) (p : LoadP) (s : State) : Host.Outcome State Fault Refusal :=
  .next (s.present h (.wsStage p))

/-- WEIGHT_SWITCH VERIFY (R266). -/
def execWeightSwitchVerify (h : Hdr) (p : LoadP) (s : State) : Host.Outcome State Fault Refusal :=
  .next (s.present h (.wsVerify p))

/-- WEIGHT_SWITCH SWITCH (R267, R268). -/
def execWeightSwitchSwitch (h : Hdr) (holdNew : Bool) (limit : Nat) (s : State) : Host.Outcome State Fault Refusal :=
  .next (s.present h (.wsSwitch holdNew limit))

/-- WEIGHT_SWITCH ABORT (R266). -/
def execWeightSwitchAbort (h : Hdr) (s : State) : Host.Outcome State Fault Refusal :=
  .next (s.present h (.wsAbort))

/-- OPTSTEP (R200, R304). -/
def execOptstep (h : Hdr) (p : OptP) (s : State) : Host.Outcome State Fault Refusal :=
  .next (s.present h (.optstep p))

/-- FENCE (R297). -/
def execFence (h : Hdr) (s : State) : Host.Outcome State Fault Refusal :=
  .next (s.present h (.fence))

/-- SIGNAL ADD (R298). -/
def execSignalAdd (h : Hdr) (sig : Nat) (v : W64) (s : State) : Host.Outcome State Fault Refusal :=
  .next (s.present h (.signalAdd sig v))

/-- SIGNAL SET (R298). -/
def execSignalSet (h : Hdr) (sig : Nat) (v : W64) (s : State) : Host.Outcome State Fault Refusal :=
  .next (s.present h (.signalSet sig v))

/-- WAIT (R297). -/
def execWait (h : Hdr) (sig limit : Nat) (v : W64) (s : State) : Host.Outcome State Fault Refusal :=
  .next (s.present h (.wait sig limit v))

/-- PREEMPT (R332). -/
def execPreempt (h : Hdr) (target holdBeats : Nat) (s : State) : Host.Outcome State Fault Refusal :=
  .next (s.present h (.preempt target holdBeats))

/-- PREEMPT RESUME (R332). -/
def execPreemptResume (h : Hdr) (target : Nat) (s : State) : Host.Outcome State Fault Refusal :=
  .next (s.present h (.preemptResume target))

/-- CONTEXT_RESET (R305, R383). -/
def execContextReset (h : Hdr) (target : Nat) (s : State) : Host.Outcome State Fault Refusal :=
  .next (s.present h (.contextReset target))

/-- PARTITION_CONFIG (R316). -/
def execPartitionConfig (h : Hdr) (layout : Ref) (s : State) : Host.Outcome State Fault Refusal :=
  .next (s.present h (.partitionConfig layout))

/-- MODE_STAGE ARM (R318). -/
def execModeStageArm (h : Hdr) (newEpoch : BitVec 16) (target : Nat) (s : State) : Host.Outcome State Fault Refusal :=
  .next (s.present h (.modeArm newEpoch target))

/-- MODE_STAGE CANCEL (R318). -/
def execModeStageCancel (h : Hdr) (s : State) : Host.Outcome State Fault Refusal :=
  .next (s.present h (.modeCancel))

/-- CENSUS_READ (R88). -/
def execCensusRead (h : Hdr) (dst : Ref) (clear : Bool) (s : State) : Host.Outcome State Fault Refusal :=
  .next (s.present h (.censusRead dst clear))

/-- ACCOUNT_READ (R338). -/
def execAccountRead (h : Hdr) (p : AccountP) (s : State) : Host.Outcome State Fault Refusal :=
  .next (s.present h (.accountRead p))

end Sys2Proof.Machine
end

