-- ==== Sys2Proof/Machine/Links.lean ====
section
/-! DEFINITION. Data-link ports (12 R346, R349 to R354, R371 to R374): training, discovery, failure and failover, markers
received, announcements, and the per-hop acknowledgements. -/

namespace Sys2Proof.Machine

/-! ### Ports -/

def bitMask32 (n : Nat) : BitVec 32 := 1#32 <<< n
def State.setUp (s : State) (p : Nat) (v : Bool) : State :=
  { s with lnk := { s.lnk with up := if v then s.lnk.up ||| bitMask32 p else s.lnk.up &&& ~~~(bitMask32 p) } }

/-- The interrupt source of a port (R456). -/
def portSource (p : Nat) : Nat := 16 + p

/-- A port changes its state (R377, R456). -/
def State.portTo (s : State) (p : Nat) (st : BitVec 3) (f : Port → Port) : State :=
  (s.updPort p (fun q => { (f q) with state := st })).raise (portSource p)

/-- Cairn code 0x602 (R354, R448). -/
def failoverPayload (p cause : Nat) : List Byte := leBytes 1 p ++ leBytes 1 cause ++ zeros 6

/-- A kept frame was last sent on a port, and is the one that the port's replay buffer holds. -/
def Unacked.isOn (u : Unacked) (p : Nat) (k : Kept) : Bool :=
  u.plane == p && u.ty == k.ty && u.fr.dst == k.fr.dst && u.fr.key == k.fr.key && u.fr.off == k.fr.off && u.fr.tag == k.fr.tag

/-- A device-addressed frame of a failed port's replay buffer is resent on its alternate plane (R352, R354): a frame kept until its
end-to-end acknowledgement as such, another by itself; it waits where no plane can take it. -/
def State.resendFrom (s : State) (p : Nat) (k : Kept) : State :=
  match (List.range s.lnk.unacked.length).find? (fun i =>
      match s.lnk.unacked[i]? with | some u => u.isOn p k | none => false) with
  | some i => s.resendAt i
  | none =>
    match (if laneOf k.ty = 0 then (s.planes k.fr.dst).head? else planeAfter (s.planes k.fr.dst) p) with
    | some q =>
      if s.canPut q k.ty k.fr && !s.mustWait k.ty k.fr.dst then s.putOnPort q k.ty k.fr
      else s.remember { ty := k.ty, fr := k.fr, plane := 32, cmd := 0, primary := if laneOf k.ty = 0 then none else some q }
    | none =>
      ({ s with lnk := { s.lnk with unreach := sat32 s.lnk.unreach 1 } }).remember { ty := k.ty, fr := k.fr, plane := 32, cmd := 0 }

/-- What a port loses when it goes out of service: nothing is in flight on it, and it holds and owes no credit. -/
def Port.quiet (q : Port) : Port :=
  { q with replayBuf := [], waiting := [], credits := [0, 0, 0, 0], owed := [0, 0, 0, 0], owing := false }

/-- A port fails (R354): its UP bit clears; the one-hop frames of its replay buffer go, and the device-addressed ones are sent again on
their alternate planes; the failover is counted and recorded. -/
def State.failPort (s : State) (p cause : Nat) : State :=
  let lost := (s.port p).replayBuf.filter (fun k => !oneHop k.ty)
  let s := (s.setUp p false).portTo p 5 (fun q => { q.quiet with cause := BitVec.ofNat 4 cause, rejoin := true })
  let s := { s with lnk := { s.lnk with failover := sat32 s.lnk.failover 1 } }
  let s := s.note { code := 0x602, kind := 10, index := engPort p, payload := failoverPayload p cause }
  lost.foldl (fun (s : State) k => s.resendFrom p k) s

/-- The payload of DISCOVER (R345): device ID, port, slot strap, plane-offset strap, in the order of control payloads. -/
def State.discoverPayload (s : State) (p : Nat) : List Byte :=
  beBytes 8 Config.deviceId.toNat ++ leBytes 1 p ++ leBytes 1 s.lnk.strapSlot.toNat ++ leBytes 1 s.lnk.planeOff.toNat ++ zeros 5

/-- A port sends DISCOVER (R350, R374). -/
def State.sendDiscover (s : State) (p : Nat) : State :=
  s.portSend p fDiscover
    (s.stamp { dst := 0xFFFFFF, tag := if s.fenced then 1 else 0, key := BitVec.ofNat 64 s.time, payload := s.discoverPayload p })

/-- Ports carry nothing until a start has brought them up (R407), nor after the module's power has gone. -/
def State.linksLive (s : State) : Bool := s.bist.memUp && s.crest.powered

/-- A port's training ends (R343, R350, R354): with all eight lanes discovery begins; with fewer it does not come up. The far end is sure
of VL0's 16 credits alone (R346). -/
def State.portTrained (s : State) (p lanes : Nat) : State :=
  let q := s.port p
  if s.linksLive && q.enable && !q.quarantined && decide (p < 32) && (q.state == 0 || q.state == 1 || q.state == 5) then
    if 8 ≤ lanes then
      (s.portTo p 2 (fun q => { q.quiet with lanes := 8, lseqTx := 1, lseqRx := 1, credits := [16, 0, 0, 0] })).sendDiscover p
    else s.updPort p (fun q => { q with lanes := BitVec.ofNat 8 lanes })
  else s

/-- What a DISCOVER_REPLY carries (R345): address, system plane, the number of the switch's next edge. -/
def replyAddr (fr : Frame) : Nat := beFld fr.payload 0 3
def replyPlane (fr : Frame) : Nat := beFld fr.payload 3 2
def replyBeat (fr : Frame) : Nat := beFld fr.payload 8 8

/-- A port that comes up grants the far end the buffers that it has for VL1 to VL3 (R346; log 44). -/
def State.firstCredit (s : State) (p : Nat) : State :=
  (s.updPort p (fun q =>
    { q with owed := (List.range 4).map (fun v => (q.owed[v]?).getD 0 + (if v = 0 then 0 else Config.laneBuffer v)), owing := true })).giveCredit p

/-- The checks of R350: 1 slot, 2 plane, 3 address, as the list has them. -/
def State.replyFails (s : State) (p : Nat) (fr : Frame) : Option Nat :=
  if replyAddr fr % 32 ≠ s.lnk.strapSlot.toNat then some 1
  else if replyPlane fr ≠ p + 32 * s.lnk.planeOff.toNat then some 2
  else if s.lnk.addrValid && replyAddr fr != s.lnk.addr.toNat then some 3
  else none

/-- A marker error on a port (R41): the first on the port in a beat is recorded; kind 0 offset, 1 number. -/
def State.markError (s : State) (p kind : Nat) (offNs : Int) : State :=
  let b := s.beat
  let first := !b.markSeen.contains p
  let s := { s with beat := { b with
    markErr := if kind = 0 then sat32 b.markErr 1 else b.markErr, cntErr := if kind = 1 then sat32 b.cntErr 1 else b.cntErr,
    markPort := BitVec.ofNat 5 p, markSeen := if first then b.markSeen ++ [p] else b.markSeen } }
  if first then
    s.note { code := 0x103, kind := 10, index := engPort p, payload := leBytes 1 p ++ leBytes 1 kind ++ zeros 2 ++ leBytes 4 (offNs % 2 ^ 32).toNat }
  else s

/-- The number of the edge that a reply or marker is about: the coming one, or under a late marker the present beat's. -/
def State.edgeNumber (s : State) (coming : Bool) : Nat := if coming then s.now + 1 else s.now

/-- The system beat number of a reply (R38, R351): the first accepted one aligns the counter, a later one is checked; under
LOCAL it is ignored. -/
def State.replyNumber (s : State) (p n : Nat) : State :=
  if s.beat.srcAct = 2 then s
  else if !s.beat.aligned then
    if s.beat.alignTo.isSome then s else { s with beat := { s.beat with alignTo := some (BitVec.ofNat 64 n) } }
  else if n ≠ s.edgeNumber true then s.markError p 1 0 else s

/-- DISCOVER_REPLY (R349 to R351). -/
def State.discoverReply (s : State) (p arrival : Nat) (fr : Frame) : State :=
  let q := s.port p
  if !(q.state == 2 || q.state == 3) then s
  else
    let s := s.hopAnswer fDiscoverReply { fr with port := some p }
    match s.replyFails p fr with
    | some k =>
      let s := (s.setUp p false).portTo p 4 (fun q => { q.quiet with cause := 4 })
      s.note { code := 0x601, kind := 10, index := engPort p,
               payload := leBytes 1 p ++ leBytes 1 (Config.freeBits s.fresh k) ++ zeros 6 } |>.burn
    | none =>
      let lat := (arrival - fr.key.toNat - fr.tag.toNat) / 2
      let up (s : State) : State := if q.state = 3 ∨ q.rejoin then s else s.setUp p true
      let f (q : Port) : Port := { q with lat := BitVec.ofNat 16 lat, plane := BitVec.ofNat 16 (replyPlane fr) }
      let s := if q.state = 3 then s.updPort p f else (s.portTo p 3 f).firstCredit p
      let s := up { s with lnk := { s.lnk with addrValid := true, addr := BitVec.ofNat 24 (replyAddr fr) } }
      let s := s.replyNumber p (replyBeat fr)
      State.flushWaiting s.lnk.unacked.length s

/-- The commands that exchange traffic with a device end in the next window, and the channels paired with it restart (R373). -/
def State.losePeer (s : State) (d : Nat) : State := (s.markPeer d).resetChans (fun e => e.peerDev == d)

/-- Records a device's epoch and whether it is fenced (R373, R374), in the table of the port's link die. -/
def State.notePeer (s : State) (p d : Nat) (epoch : BitVec 16) (fenced : Bool) : State :=
  let old := (s.peer d).getD { device := d }
  s.setPeer { old with die := linkDie p, epoch := some epoch, gens := if old.epoch = some epoch then old.gens else [], fenced := fenced, last := s.now }

/-- A frame's SRC_EPOCH is older than the one recorded for its sender (R348). -/
def State.oldEpoch (s : State) (fr : Frame) : Bool :=
  match (s.peer fr.src).bind (·.epoch) with | some e => older16 fr.srcEpoch e | none => false

/-- EPOCH_ANNOUNCE (R372 to R374): KEY carries the new epoch. A device that is known to be fenced stays so: a DISCOVER alone ends
that. -/
def State.epochAnnounce (s : State) (p : Nat) (fenced : Bool) (fr : Frame) : State :=
  if (s.port p).state ≠ 3 then s
  else
    let s := s.hopAnswer fEpochAnnounce { fr with port := some p }
    if fr.dst ≠ s.lnk.addr.toNat then { s with lnk := { s.lnk with misroute := sat32 s.lnk.misroute 1 } }
    else if s.oldEpoch fr then s.countLate
    else (s.losePeer fr.src).notePeer p fr.src (BitVec.ofNat 16 fr.key.toNat) (fenced || s.fromFenced fr)

/-- DISCOVER of a device (R373, R374). -/
def State.discoverSeen (s : State) (p : Nat) (fenced : Bool) (fr : Frame) : State :=
  let st := (s.port p).state
  if !(st == 2 || st == 3) then s
  else
    let s := s.hopAnswer fDiscover { fr with port := some p }
    if s.oldEpoch fr then s.countLate
    else
      let moved := match (s.peer fr.src).bind (·.epoch) with | some e => e != fr.srcEpoch | none => false
      (if moved || (fenced && !s.fromFenced fr) then s.losePeer fr.src else s).notePeer p fr.src fr.srcEpoch fenced

/-! ### Per hop (R346) -/

/-- Frames of the replay buffer from an LSEQ on go out again (R346). -/
def State.replay (s : State) (p lseq : Nat) : State :=
  let from_ (q : Port) : List Kept := q.replayBuf.dropWhile (fun k => k.fr.lseq != lseq)
  (s.updPort p (fun q =>
    { q with
      replay := sat32 q.replay 1,
      replayBuf := q.replayBuf.takeWhile (fun k => k.fr.lseq != lseq) ++ (from_ q).map (fun (k : Kept) =>
        { k with again := true, failed := if k.again && k.fr.lseq == lseq then k.failed + 1 else k.failed }) })).sendAll
    ((from_ (s.port p)).map (fun k => .frame (some p) k.ty k.fr))

/-- A NACK says that the eighth replay of its frame has failed too (R354). -/
def Port.spent (q : Port) (lseq : Nat) : Bool := q.replayBuf.any (fun k => k.fr.lseq == lseq && k.again && decide (7 ≤ k.failed))

/-- A good answer takes its frame out of the replay buffer, and with it the answers that went before it on the hop, since no answer is
answered itself (R346; log 44). -/
def Port.answered (q : Port) (lseq : Nat) : Port :=
  { q with replayBuf := q.replayBuf.filter (fun k => k.fr.lseq != lseq && !(k.ty == fHopAck && decide (k.fr.lseq < lseq))) }

/-- What a port holds back goes as far as credit and room allow: the frames of its own hop, then the frames that wait for a plane (R346). -/
def State.flush (s : State) (p : Nat) : State :=
  let s := s.flushPort p
  State.flushWaiting s.lnk.unacked.length s

/-- HOP_ACK: a good answer takes the frame out of the replay buffer; a NACK replays from it, and after eight failed replays of the
frame the port fails (R346, R354). -/
def State.hopAck (s : State) (p : Nat) (nack : Bool) (lseq : Nat) : State :=
  let q := s.port p
  if !(q.state == 2 || q.state == 3) || !q.replayBuf.any (fun k => k.fr.lseq == lseq) then s
  else
    let s := s.hopTake p fHopAck q.lseqRx 1
    if !nack then (s.updPort p (fun q => q.answered lseq)).flush p
    else if q.spent lseq then s.failPort p 2
    else s.replay p lseq

/-- HOP_CREDIT: the far end grants credit; frames that wait for it go (R346). -/
def State.hopCredit (s : State) (p : Nat) (g : List Nat) : State :=
  let q := s.port p
  if !(q.state == 2 || q.state == 3) then s
  else
    ((s.updPort p (fun q => { q with credits := (List.range 4).map (fun v => (q.credits[v]?).getD 0 + (g[v]?).getD 0 % 65536) })).hopTake
      p fHopCredit q.lseqRx 1).flush p

/-- A frame fails its CRC: it is counted and answered with a NACK (R346). -/
def State.crcError (s : State) (p lseq : Nat) : State :=
  let q := s.port p
  if !(q.state == 2 || q.state == 3) then s
  else
    (s.updPort p (fun q => { q with crcErr := sat32 q.crcErr 1 })).portSend p fHopAck
      (s.stamp { dst := 0xFFFFFF, tag := 1, key := BitVec.ofNat 64 lseq })

/-- The types of R345. -/
def frameTypes : List Nat :=
  [0x01, 0x02, 0x03, 0x04, 0x05, 0x06, 0x07, 0x08, 0x10, 0x11, 0x12, 0x13, 0x20, 0x21, 0x22, 0x30, 0x31, 0x32, 0x33]

/-- A frame of a reserved type is dropped and counted (R345). -/
def State.badType (s : State) (p ty : Nat) : State :=
  if (s.port p).state == 3 && !frameTypes.contains ty then
    ({ s with lnk := { s.lnk with badType := sat32 s.lnk.badType 1 } }).hopTake p ty (s.port p).lseqRx 1
  else s

/-- PORT_FAILURE on a port that is training, in discovery, or up (R354). -/
def State.portFailure (s : State) (p cause : Nat) : State :=
  let st := (s.port p).state
  if st == 1 || st == 2 || st == 3 then s.failPort p cause else s

/-- The codewords that ports corrected and could not correct in the beat that ends (R377). -/
def State.countFec (s : State) (l : List (Nat × Nat × Nat)) : State :=
  l.foldl (fun (s : State) q =>
    s.updPort q.1 (fun t => { t with fecCorr := sat32 t.fecCorr q.2.1, fecUncorr := sat32 t.fecUncorr q.2.2 })) s

/-- EPOCH_ANNOUNCE to every device of the peer tables (R372, R374), sent while the device still has its old epoch, ahead of all that
waits: it goes out before the ports go down, so it does not wait for credit (log 44). -/
def State.announce (s : State) (new : BitVec 16) (fenced : Bool) : State :=
  ((s.lnk.peers.filter (fun p => decide (s.now ≤ p.last + 16))).map (·.device)).eraseDups.foldl (fun (s : State) d =>
    match (s.planes d).head? with
    | some p =>
      if s.linksLive then
        s.putOnPort p fEpochAnnounce (s.stamp { dst := d, tag := if fenced then 1 else 0, key := new.zeroExtend 64 })
      else s
    | none => { s with lnk := { s.lnk with unreach := sat32 s.lnk.unreach 1 } }) s

/-- A write of RETRAIN (R377). -/
def State.retrainPort (s : State) (p : Nat) : State :=
  (s.setUp p false).portTo p (if (s.port p).enable then 1 else 0) (fun q => { q.quiet with lanes := 0, rejoin := false })

end Sys2Proof.Machine
end

