-- ==== Sys2Proof/Machine/Recovery.lean ====
section
/-! DEFINITION. Faults and recovery (13): the fence, hung commands, late acknowledgements, quarantine, the device reset and the
units that come back, and the limits of waiting commands. -/

namespace Sys2Proof.Machine

/-! ### Stobin messages out (R394, R426) -/

def Fence.mgmt (f : Fence) (port : Nat) : Mgmt := if port = 0 then f.portA else f.portB
def Fence.setMgmt (f : Fence) (port : Nat) (m : Mgmt) : Fence := if port = 0 then { f with portA := m } else { f with portB := m }

/-- Sends a Stobin message on a port, numbered from SEQ 1 in each start (R426). -/
def State.tell (s : State) (port ty : Nat) (body : List Byte) : State :=
  let m := s.fence.mgmt port
  ({ s with fence := s.fence.setMgmt port { m with sendSeq := m.sendSeq + 1 } }).send (.stobin port ty m.sendSeq body)

/-! ### The fence (R396, R397) -/

/-- The device becomes fenced (R397): the announcement goes out with the epoch unchanged, what follows is cut off, and what has
been accepted ends in the next window. -/
def State.enterFence (s : State) (cause : Nat) : State :=
  let s := s.announce s.lnk.devEpoch true
  let s := { s with fence := { s.fence with cause := cause, lift := false, atWindow := true } }
  s.noteDev 0x703 (leBytes 1 cause ++ zeros 7)

/-- A fence that waits for its lift is lifted at a beat edge (R396). -/
def State.liftFence (s : State) : State :=
  if s.fence.lift then
    ({ s with fence := { s.fence with cause := 0, lift := false, atWindow := false } }).noteDev 0x704 (zeros 8)
  else s

/-! ### Device reset (R388 to R391) -/

/-- The reset of a CONTEXT_RESET that is pending writes no record of its own (R389 step 6): its reservation goes. -/
def State.absorb (s : State) (x : Cmd) : State :=
  (s.updCq x.ctx x.cq (fun q => { q with reserved := q.reserved - 1 })).dropCmd x.id

/-- Every context is treated as reset at the moment of the order (R389 steps 5 and 6). -/
def State.resetCtxs (s : State) : State :=
  let s := (s.cmds.filter (fun x => x.phase == .awaiting)).foldl (fun (s : State) x => s.absorb x) s
  s.ctxs.foldl (fun (s : State) c =>
    let x := s.ctx c.1
    if x.state = 0 then s.updCtx c.1 (fun k => { k with reset := none })
    else
      let r : ResetSt := { effectBeat := s.now, cmd := none, purge := 0, destroy := x.state == 2 }
      (s.takeReset c.1 r).updCtx c.1 (fun k => { k with reset := if r.destroy then some { r with done := true } else none })) s

/-- A block at a device reset: no quarantine, no order held. -/
def Block.afresh (b : Block) : Block := { b with lostSession := false }

/-- Ports go down (R372); counters, configuration and the last failure stand (R375). -/
def Port.down (q : Port) : Port := { q.quiet with state := 0, lanes := 0, rejoin := false, quarantined := false }

/-- All work stops and every quarantine ends (R389 step 2); a unit that lags goes on to until it reports ready (R322). -/
def State.stopWork (s : State) : State :=
  let ps := s.lnk.ports.map (fun (p : Nat × Port) => (p.1, p.2.down))
  { s with
    purges := [], quarantined := [], faultQuarantine := false, missedEdge := 0, spillJobs := [], hbmOwed := [],
    blocks := s.blocks.map (fun (b : Nat × Block) => (b.1, b.2.afresh)),
    pt := { s.pt with unitReady := [] },
    crest := { s.crest with charged := [], heldCmds := [] },
    lnk := { s.lnk with up := 0, peers := [], unacked := [], rotation := [], ports := ps } }

/-- A warm reset clears every pending bit and every in-service mark, and keeps all configuration (R462). -/
def Irq.clear (q : Irq) : Irq := { q with pend := [], bankPend := [], inService := [] }

/-- What one port keeps beyond a start: its lease timer (R395, R426). -/
def Mgmt.afresh (m : Mgmt) : Mgmt := { running := m.running, leaseMs := m.leaseMs }

/-- The mirror is OFF until step 6 of the next start (R446). -/
def Cairn.mirrorOff (c : Cairn) : Cairn := { c with mirrorSt := 0 }

/-- A reset can cut off the transfer of a record to the always-on domain (R443); whether it does is open (log 6). The record
cut off has taken its SEQ. -/
def State.cutRecord (s : State) : State :=
  match s.cairn.queue with
  | [] => s
  | _ :: rest =>
    if Config.freeBits s.fresh 0 % 2 = 1 then
      ({ s with cairn := { s.cairn with queue := rest, seq := s.cairn.seq + 1, cutOff := some (s.cairn.seq + 1) } }).burn
    else s.burn

/-- The device goes into a start of a kind (0 cold, 1 warm): Ramalink goes down, the pins take their boot meanings, the nonce of
the start is new (R389, R396, R421, R478). -/
def State.toStart (s : State) (kind : Bool) : State :=
  let b := s.bist
  ({ s with
     rlLanes := 0, phase := .boot, irq := s.irq.clear, cairn := s.cairn.mirrorOff,
     fence := { cause := 1, leaseOk := s.fence.leaseOk, portA := s.fence.portA.afresh, portB := s.fence.portB.afresh },
     bist := { b with
       kind := kind, ready := false, mode := 0, started := false, memUp := false, warmBound := kind && (b.memUp || b.inHold), inHold := false,
       sdActive := false, wakePending := false, keys := [], policy := 0, nonce := Config.freeResult s.fresh 1 } }).burn

/-- Self-test that a reset interrupts ends with a code (R432). -/
def State.stopBist (s : State) (code : Nat) : State :=
  if s.bist.state = 1 ∨ s.bist.state = 2 then
    { s with bist := { s.bist with state := 4, abortCode := BitVec.ofNat 8 code } }
  else s

/-- A thermal trip leaves only a cold reset (R476). -/
def State.tripHold (s : State) : Bool := s.crest.tripped

/-- A device warm reset (R389), with the cause of its record: 0 R388, 1 RESET, 2 start retry. -/
def State.warmReset (s : State) (cause : Nat) : State :=
  if s.tripHold || !s.crest.powered then s
  else
    let s := s.noteDev 0x702 (leBytes 1 cause ++ zeros 7)
    let s := s.announce (s.lnk.devEpoch + 1) s.fenced
    let s := { s with lnk := { s.lnk with devEpoch := s.lnk.devEpoch + 1 }, fence := { s.fence with cause := 1 } }
    let s := (s.stopBist 5).resetCtxs
    ((s.stopWork).cutRecord).toStart true

/-- HBM content of which nothing is promised (R390, R391). -/
def lostHbm (seed : Nat) : Mem := Mem.undef {} 0 (Config.hbmStacks * 2 ^ 37) seed

/-- What a cold reset keeps of the start, delivery and self-test registers: they lie in the always-on domain (R30, R417, R438 to R440). -/
def Bist.cold (b : Bist) : Bist :=
  { attempts := b.attempts, cause := b.cause, step := b.step, imgState := b.imgState, img := b.img, chunks := b.chunks, noBist := b.noBist,
    abortCode := b.abortCode, sdRefuse := b.sdRefuse, beats := b.beats, overflow := b.overflow, state := b.state, resSel := b.resSel,
    w0 := b.w0, w1 := b.w1, resDrop := b.resDrop, ring := b.ring, jnl := b.jnl, rpt := b.rpt, baseCamp := b.baseCamp }

/-- What a cold reset keeps of the beat: the counter (R32, R390), and the model's own measure of time. -/
def Beat.cold (b : Beat) : Beat :=
  { count := b.count, windowOpen := b.windowOpen, at_ := b.at_, clock := b.clock, legCap := b.legCap,
    src := b.srcAct, srcAct := b.srcAct, phaseErr := b.phaseErr }

/-- The surroundings' readings stand through a cold reset; everything of the governor's own returns to its reset values. -/
def Crest.cold (c : Crest) : Crest :=
  { vinHigh := c.vinHigh, vinLow := c.vinLow, tripLatch := c.tripLatch, powered := c.powered, temps := c.temps,
    coolCap := c.coolCap, throttleN := c.throttleN, throttleIn := c.throttleIn, measured := c.measured, pinW := c.pinW,
    grantW := c.grantW, floorW := c.floorW, coolIn := c.coolIn, coolOut := c.coolOut, flow := c.flow, vin := c.vin, iin := c.iin }

/-- A cold reset keeps only the always-on domain's content (R390, R30): the beat counter, the device epoch, which advances
(R371), the recorder, the start-attempt counter, the lease timers, the straps, and what self-test has left. -/
def State.coldReset (s : State) (ph : PinPhase) : State :=
  if !s.crest.powered || (s.tripHold && s.crest.temps.any (fun t => decide (720 ≤ t))) then s
  else
    let s := s.announce (s.lnk.devEpoch + 1) s.fenced
    let s := (s.stopBist 5).cutRecord
    let t : State :=
      { pending := s.pending, out := s.out, fresh := s.fresh + 1, nextId := s.nextId, beat := s.beat.cold, cairn := s.cairn,
        crest := s.crest.cold, fence := s.fence, bist := s.bist.cold, hbm := lostHbm s.fresh,
        lnk := { devEpoch := s.lnk.devEpoch + 1, strapSlot := s.lnk.strapSlot, planeOff := s.lnk.planeOff } }
    { (t.toStart false) with phase := ph }

/-! ### Late in a window -/

/-- Records and resets that complete while the window is open still belong to it, and so do the commits of done commands that
waited for such a record (R295, R380, R383 step 7). -/
def State.lateWindow (s : State) : State :=
  if s.beat.windowOpen && s.bist.ready then
    (s.commits).finishResets
  else s

/-! ### Hung commands (R55, R380, R368) -/

/-- An accepted command that nothing but an engine holds up: a lagging unit, or one that owes an acknowledgement (R322, R382). -/
def State.waitsEngine (s : State) (x : Cmd) : Bool :=
  let s := { s with beat := { s.beat with windowOpen := false } }
  let g := s.groupOf x
  x.phase == .accepted && s.ctxIssues x.ctx && s.streamAllows x && !x.heldNow && (s.unitsLag x g || !s.enginesReady x g)

/-- The beat from which a command's timeout runs: that of its issue (R55), or for a command that waits on an engine (R322, R382),
on the returns of its COMBINE (R229), in a held context between two legs (R332) or for its sources (R369), as those rules say. -/
def State.timeoutFrom (s : State) (x : Cmd) : Option Nat :=
  match x.phase with
  | .issued => some x.issueBeat
  | .accepted =>
    if s.waitsEngine x then some x.waitFrom
    else if x.issuedOnce && !x.queued && ((s.ctx x.ctx).isHeld || s.onlyWaits x) then some x.issueBeat
    else match x.op with
      | .combineForward _ | .combineRetrace _ => if x.issuedOnce then some x.issueBeat else none
      | .permute _ => if x.heldNow then some x.acceptBeat else none
      | _ => none
  | _ => none

/-- A command is hung at the window of beat I + T − 1 (R55). -/
def State.hung (s : State) (x : Cmd) : Bool :=
  s.beat.windowOpen && (match s.timeoutFrom x with | some i => decide (i + x.timeout ≤ s.now + 1) | none => false)

/-- A PERMUTE that is still held for its drain set (R368). -/
def Cmd.drains (x : Cmd) : Bool := match x.op with | .permute _ => x.heldNow | _ => false

/-- A hung command is purged alone (R380): it is counted and recorded, its engines owe acknowledgements, and it ends with
TIMEOUT; a PERMUTE still held ends with LAYOUT_BUSY. -/
def State.hang (s : State) (x : Cmd) : State :=
  let e := x.lateEvent 0x105 x.ran
  let s := { s with beat := { s.beat with hung := sat32 s.beat.hung 1 } }
  let s := (s.note e).purge none (some x.id) s.now (s.enginesOf x) |>.1
  if x.drains then s.endWith x.id stLayoutBusy 0 0 else s.endWith x.id stTimeout e.kind e.index

/-- COMMAND_HANG (R55, R380). -/
def execCommandHang (id : Nat) (s : State) : Host.Outcome State Fault Refusal :=
  .next (match s.cmd id with
    | some x => if s.hung x && s.bist.ready then ((s.hang x).lateWindow).settle else s
    | none => s)

/-- WAIT_TIMEOUT (R297, R298): the limit of a WAIT at the head of its stream has passed and the signal is too low. -/
def execWaitTimeout (id : Nat) (s : State) : Host.Outcome State Fault Refusal :=
  .next (match s.cmd id with
    | some x =>
      match x.op with
      | .wait g limit v =>
        if x.phase = .accepted ∧ limit ≠ 0 ∧ x.acceptBeat + limit ≤ s.now ∧ s.streamAllows x = true ∧
            (Tab.get 0 (s.ctx x.ctx).sig g).toNat < v.toNat then
          (s.endNow id stWaitTimeout 0 0).settle
        else s
      | _ => s
    | none => s)

/-- VERSION_BUSY (R201): an OPTSTEP has been held for its wait limit. -/
def execVersionBusy (id : Nat) (s : State) : Host.Outcome State Fault Refusal :=
  .next (match s.cmd id with
    | some x =>
      match x.op with
      | .optstep p =>
        if x.phase = .accepted ∧ x.heldNow = true ∧ p.waitLimit ≠ 0 ∧ x.acceptBeat + p.waitLimit ≤ s.now then
          (s.endNow id stVersionBusy 0 0).settle
        else s
      | _ => s
    | none => s)

/-- DRAIN_TIMEOUT (R268): by the window of beat A + L − 1 the partition has not drained. -/
def execDrainTimeout (pt : Nat) (s : State) : Host.Outcome State Fault Refusal :=
  let w := (s.part pt).sw
  .next (if w.closed && !w.drained && s.beat.windowOpen && decide (w.beatA + w.limit ≤ s.now + 1) && (s.cmd w.cmd).isSome then
      ((s.endWith w.cmd stDrain 0 0).lateWindow).settle
    else s)

/-! ### Purge acknowledgements and quarantine (R378, R381, R386, R387) -/

def State.dropOwed (s : State) (id : Option Nat) (e : Nat) : State :=
  { s with purges := s.purges.map (fun (p : Purge) =>
      if id.isNone || id == some p.id then { p with owed := p.owed.filter (· != e) } else p) }

/-- PURGE_ACK (R378): an engine has stopped the named work and answers. -/
def execPurgeAck (purge engine : Nat) (s : State) : Host.Outcome State Fault Refusal :=
  .next (((s.dropOwed (some purge) engine).pruneOwed).lateWindow).settle

/-- An essential engine (R386): the second of a stack's DMA engines is one. -/
def State.essential (s : State) (e : Nat) : Bool :=
  if 0x10000 ≤ e then false
  else if 0x100 ≤ e ∧ e < 0x130 then s.quarantined.contains (if e % 2 = 0 then e + 1 else e - 1)
  else decide (0x400 ≤ e)

/-- DETAIL of an engine: KIND and INDEX (R386). -/
def engDetail (e : Nat) : Nat × Nat := if 0x10000 ≤ e then (7, e - 0x10000) else (10, e)

/-- Commands that run on an engine or are queued to it (R387). -/
def State.onEngine (s : State) (e : Nat) : List Nat :=
  (s.cmds.filter (fun x =>
    (x.phase == .issued && (s.enginesOf x).contains e) ||
      (x.phase == .accepted && decide (0x10000 ≤ e) && (s.groupOf x).contains (e - 0x10000)))).map (·.id)

/-- What an engine's quarantine does to the engine (R387). -/
def State.loseEngine (s : State) (e : Nat) : State :=
  if 0x10000 ≤ e then
    (s.updBlock (e - 0x10000) (fun b =>
      { b with lostSession := true, owner := none, bs := b.bs.undef 0 1048576 s.fresh, cs := [],
               fold := (List.range 6).map (fun f => (f, { committed := fullTile (s.fresh + 1 + f) })) })) |>.burn
  else if 0x200 ≤ e ∧ e < 0x208 then s.releaseSlots (fun pt x => s.homeDie pt x == e - 0x200)
  else if 0x300 ≤ e ∧ e < 0x320 then
    (s.failPort (e - 0x300) (s.port (e - 0x300)).cause.toNat).updPort (e - 0x300) (fun q => { q with quarantined := true })
  else s

/-- An engine is quarantined (R387). -/
def State.quarantine (s : State) (e : Nat) : State :=
  let d := engDetail e
  let s := s.note { code := 0x701, kind := d.1, index := d.2, payload := leBytes 4 (d.1 * 2 ^ 24 + d.2) ++ zeros 4 }
  let ids := s.onEngine e
  let s := { s with
    faultQuarantine := true, quarantined := s.quarantined ++ [e],
    purges := s.purges.map (fun (p : Purge) =>
      if p.owed.contains e then
        { p with owed := p.owed.filter (· != e), lostEngine := match p.lostEngine with | some k => some k | none => some e }
      else p) }
  ((s.loseEngine e).endAll ids stEngineLost d.1 d.2).pruneOwed

/-- A purge acknowledgement of an engine is missing at the opening of the window of beat F + 2 (R381). -/
def State.overdue (s : State) (purge engine : Nat) : Bool :=
  s.beat.windowOpen && s.purges.any (fun p => p.id == purge && p.owed.contains engine && decide (p.beat + 2 ≤ s.now))

/-- QUARANTINE (R387, R388): the engine is quarantined, or, being essential, costs the device a warm reset. -/
def execQuarantine (purge engine : Nat) (s : State) : Host.Outcome State Fault Refusal :=
  .next (if s.overdue purge engine then
      (if s.essential engine then (s.warmReset 0).settle else ((s.quarantine engine).lateWindow).settle)
    else s)

/-- EDGE_ACK_MISS (R388): the second of two consecutive beat edges whose acknowledgement is missed orders a warm reset. -/
def execEdgeAckMiss (s : State) : Host.Outcome State Fault Refusal :=
  .next (if !s.bist.ready then s
    else if s.missedEdge ≠ 0 ∧ s.missedEdge = s.now then (s.warmReset 0).settle
    else { s with missedEdge := s.now + 1 })

/-- UNIT_READY (R322): a lagging unit reports ready; it latches at the next edge. -/
def execUnitReady (u : Nat) (s : State) : Host.Outcome State Fault Refusal :=
  .next (if s.pt.lag.getLsbD u && !s.pt.unitReady.contains u then { s with pt := { s.pt with unitReady := s.pt.unitReady ++ [u] } } else s)

end Sys2Proof.Machine
end

