-- ==== Sys2Proof/Machine/CairnOps.lean ====
section
/-! DEFINITION. The Cairn recorder (15 R442 to R455): writing records, their rate limits, the mirror, reading and clearing. -/

namespace Sys2Proof.Machine

/-! ### Records (R442) -/

/-- The valid mark (R442). -/
def markOf (seq : Nat) : Nat := 0x4341524E * 2 ^ 32 + seq % 2 ^ 32

/-- The bytes of a record. -/
def Event.record (e : Event) (seq supp : Nat) : List Byte :=
  leBytes 2 e.code ++ leBytes 2 (40 + e.payload.length) ++ leBytes 4 (e.kind % 256 * 2 ^ 24 + e.index % 2 ^ 24) ++ leBytes 8 seq ++
    leBytes 8 e.beat.toNat ++ leBytes 2 supp ++ leBytes 1 e.ctx ++ zeros 5 ++ e.payload ++ leBytes 8 (markOf seq)

/-- Bytes `lo` to `hi - 1` of a store meet a record. -/
def LogRec.meets (r : LogRec) (lo hi : Nat) : Bool := decide (r.start < hi) && decide (lo < r.start + r.bytes.length)

/-- A record enters a store of `cap` bytes at `pos` (R445): one that would not fit before the end starts at byte 0 and the bytes
it skips are zeroed; the records it overwrites leave whole. -/
def logPut (cap pos : Nat) (l : List LogRec) (seq : Nat) (bytes : List Byte) : List LogRec × Nat :=
  let n := bytes.length
  let start := if pos + n ≤ cap then pos else 0
  let kept := l.filter (fun r => !(r.meets start (start + n)) && (start != 0 || pos == 0 || !(r.meets pos cap)))
  (kept ++ [{ seq := seq, start := start, bytes := bytes }], start + n)

/-- The recorder writes a record with the next SEQ (R443 to R445). -/
def Cairn.writeRec (c : Cairn) (e : Event) : Cairn × List Byte :=
  let k := c.code e.code
  let seq := c.seq + 1
  let bytes := e.record seq k.supp
  let r := logPut Config.cairnRing c.ringPos c.ring seq bytes
  ({ (c.setCode e.code { k with supp := 0 }) with seq := seq, ring := r.1, ringPos := r.2 }, bytes)

/-- BURST and REFILL in force (R450). -/
def CodeSt.burstOf (k : CodeSt) : Nat := Nat.max 1 k.burst
def CodeSt.refillOf (k : CodeSt) : Nat := Nat.max 1 k.refill

/-- A record of a code goes out as an EVENT on both ports (R451) and raises source 1 (R455), as its code says. -/
def State.afterRecord (s : State) (k : CodeSt) (bytes : List Byte) : State :=
  let s := if k.event then (s.tell 0 0x50 bytes).tell 1 0x50 bytes else s
  if k.irq then s.raise 1 else s

/-- A record that the recorder writes of its own accord. -/
def State.recordSelf (s : State) (e : Event) : State :=
  let e := { e with beat := s.beat.count }
  let k := s.cairn.code e.code
  let r := s.cairn.writeRec e
  ({ s with cairn := r.1 }).afterRecord k r.2

/-- An event of a rate-limited code takes a token (R450). -/
def CodeSt.take (k : CodeSt) : CodeSt :=
  { k with tokens := k.tokens - 1, edges := if k.tokens = k.burstOf then 0 else k.edges }

/-- The recorder takes the first event of its queue (R444, R450): it is written, or, finding no token, suppressed. -/
def State.recordNext (s : State) : State :=
  match s.cairn.queue with
  | [] => s
  | e :: rest =>
    let c := { s.cairn with queue := rest }
    let k := c.code e.code
    if !recorderCode e.code && k.tokens == 0 then
      { s with cairn := c.setCode e.code { k with supp := Nat.min 65535 (k.supp + 1) } }
    else
      let c := if recorderCode e.code then c else c.setCode e.code k.take
      let r := c.writeRec e
      ({ s with cairn := r.1 }).afterRecord k r.2

/-- CAIRN_RECORD_WRITE (R444). -/
def execCairnRecordWrite (s : State) : Host.Outcome State Fault Refusal :=
  .next (if s.crest.powered then s.recordNext.settle else s)

/-- A code's token is due (R450): edges are counted from the first one after its bucket fell below BURST. -/
def CodeSt.due (k : CodeSt) : Bool := decide (k.tokens < k.burstOf) && decide (k.refillOf < k.edges)

/-- A token is added. -/
def CodeSt.fill (k : CodeSt) : CodeSt :=
  { k with tokens := k.tokens + 1, edges := if k.tokens + 1 = k.burstOf then 0 else k.edges - k.refillOf }

/-- CAIRN_REFILL (R450). -/
def execCairnRefill (code : Nat) (s : State) : Host.Outcome State Fault Refusal :=
  let k := s.cairn.code code
  .next (if !recorderCode code && k.due then { s with cairn := s.cairn.setCode code k.fill } else s)

/-- Every bucket below BURST counts a beat edge (R450). -/
def Cairn.countEdge (c : Cairn) : Cairn :=
  { c with codes := c.codes.map (fun (p : Nat × CodeSt) =>
      (p.1, if p.2.tokens < p.2.burstOf then { p.2 with edges := p.2.edges + 1 } else p.2)) }

/-! ### The mirror (R446) -/

/-- Bytes of the mirror (R446). -/
def mirrorBytes : Nat := 3 * 2 ^ 30

/-- The first record of the ring that has not been copied. -/
def Cairn.unmirrored (c : Cairn) : Option LogRec := c.ring.find? (fun r => decide (c.mirrored < r.seq))

/-- The mirror catches up from step 6 of a start (R446): a cold start begins it empty. -/
def Cairn.mirrorStart (c : Cairn) (cold : Bool) : Cairn :=
  let c := if cold then { c with mirror := [], mirrorPos := 0, mirrored := 0 } else c
  { c with mirrorSt := if c.unmirrored.isSome then 1 else 2 }

/-- MIRROR_COPY (R446): the next record in SEQ order is copied. -/
def execMirrorCopy (s : State) : Host.Outcome State Fault Refusal :=
  let c := s.cairn
  .next (if c.mirrorSt = 0 then s
    else match c.unmirrored with
      | none => s
      | some r =>
        let m := logPut mirrorBytes c.mirrorPos c.mirror r.seq r.bytes
        let c := { c with mirror := m.1, mirrorPos := m.2, mirrored := r.seq }
        { s with cairn := { c with mirrorSt := if c.unmirrored.isSome then c.mirrorSt else 2 } })

/-! ### Reading (R453, R454) -/

/-- The record with a SEQ, from the ring or else the mirror while it is in service. -/
def Cairn.held (c : Cairn) (seq : Nat) : Option LogRec :=
  match c.ring.find? (fun r => r.seq == seq) with
  | some r => some r
  | none => if c.mirrorSt = 0 then none else c.mirror.find? (fun r => r.seq == seq)

/-- The outcome of a read (R453): 0 OK, 1 NOT_YET, 2 CLEARED, 3 OVERWRITTEN, 4 TORN. -/
def Cairn.readStatus (c : Cairn) (seq : Nat) : Nat :=
  if c.seq < seq then 1 else if seq ≤ c.cleared then 2 else if c.torn.contains seq then 4
  else if (c.held seq).isSome then 0 else 3

/-- A write of CAIRN_RD_SEQ captures a record (R453). -/
def Cairn.capture (c : Cairn) (v : W64) : Cairn :=
  let st := c.readStatus v.toNat
  let b := if st = 0 then ((c.held v.toNat).map (·.bytes)).getD [] else []
  { c with rdSeq := v, rdStatus := BitVec.ofNat 3 st, rdLen := BitVec.ofNat 11 b.length, rdBuf := b }

/-- Records in SEQ order from `first` on, at most `n` of them and 24,576 bytes (R454). -/
def takeRecords : Nat → Nat → List LogRec → List (List Byte)
  | 0, _, _ => []
  | _, _, [] => []
  | n + 1, room, r :: t => if r.bytes.length ≤ room then r.bytes :: takeRecords n (room - r.bytes.length) t else []

/-- What CAIRN_DATA carries. -/
def Cairn.readFrom (c : Cairn) (first n : Nat) : List (List Byte) :=
  let old := if c.mirrorSt = 0 then [] else
    c.mirror.filter (fun r => match c.ring.head? with | some h => decide (r.seq < h.seq) | none => true)
  takeRecords n 24576 ((old ++ c.ring).filter (fun r => decide (first ≤ r.seq) && decide (c.cleared < r.seq)))

/-! ### Clearing (R452) -/

/-- "CAIRNCLR" (R452). -/
def clearMagic : List Byte := [0x43, 0x41, 0x49, 0x52, 0x4E, 0x43, 0x4C, 0x52]

def clearUpto (r : List Byte) : Nat := fld r 24 8
def clearKey (r : List Byte) : List Byte := sub8 r 64 8

/-- The STATE of a clear record (R452): 0 accepted, 1 MALFORMED, 2 DEVICE, 3 KEY, 4 SIGNATURE, 5 STALE, 6 FUTURE. -/
def State.clearState (s : State) (r : List Byte) : Nat :=
  if r.length ≠ 3392 ∨ sub8 r 0 8 ≠ clearMagic ∨ allZero (sub8 r 32 32) = false ∨ allZero (sub8 r 3381 11) = false then 1
  else if fld r 8 8 ≠ Config.deviceId.toNat ∨ fld r 16 8 ≠ s.bist.nonce.toNat then 2
  else match s.ownerKey 1 (clearKey r) with
    | none => 3
    | some k =>
      if !Config.mldsaVerify k.pub (sub8 r 0 64) (sub8 r 72 3309) then 4
      else if clearUpto r ≤ s.cairn.cleared then 5
      else if s.cairn.seq < clearUpto r then 6 else 0

/-- The records up to UPTO are zeroed in the ring and in the mirror. -/
def Cairn.clearTo (c : Cairn) (upto : Nat) : Cairn :=
  { c with cleared := upto, ring := c.ring.filter (fun r => decide (upto < r.seq)),
           mirror := c.mirror.filter (fun r => decide (upto < r.seq)) }

/-- A clear record is submitted by a path (0 Ramalink, 1 MGMT-A, 2 MGMT-B): CLEARED or CLEAR_REFUSED is written (R452). -/
def State.submitClear (s : State) (path : Nat) (r : List Byte) : State × Nat :=
  let st := s.clearState r
  if st = 0 then
    let s := { s with cairn := s.cairn.clearTo (clearUpto r) }
    (s.recordSelf { code := 0x001, payload := leBytes 8 (clearUpto r) ++ clearKey r ++ leBytes 1 path ++ zeros 7 }, 0)
  else (s.recordSelf { code := 0x002, payload := leBytes 1 st ++ leBytes 1 path ++ zeros 6 ++ clearKey r }, st)

/-- GO of CAIRN_CLR_CTRL (R455). -/
def State.clearGo (s : State) : State :=
  let r := s.submitClear 0 s.cairn.clrBuf
  { r.1 with cairn := { r.1.cairn with clrState := BitVec.ofNat 4 r.2 } }

/-- A write of CAIRN_CLR_DATA appends 8 bytes, up to 3,392 (R455). -/
def Cairn.clearData (c : Cairn) (v : W64) : Cairn :=
  if c.clrBuf.length + 8 ≤ 3392 then { c with clrBuf := c.clrBuf ++ leBytes 8 v.toNat } else c

/-- A write of CAIRN_CODEn (R450, R455): a changed BURST fills the bucket. -/
def Cairn.codeWrite (c : Cairn) (n : Nat) (v : W64) : Cairn :=
  let k := c.code n
  let k := { k with event := v.getLsbD 1, irq := v.getLsbD 0 }
  if recorderCode n then c.setCode n k
  else
    let old := k.burstOf
    let k := { k with burst := bits v.toNat 8 8, refill := bits v.toNat 16 16 }
    c.setCode n (if k.burstOf = old then k else { k with tokens := k.burstOf, edges := 0 })

/-- A record cut off by a reset is found torn at the next start (R443). -/
def State.findTorn (s : State) : State :=
  match s.cairn.cutOff with
  | none => s
  | some q =>
    ({ s with cairn := { s.cairn with cutOff := none, torn := s.cairn.torn ++ [q], tornBit := true } }).recordSelf
      { code := 0x003, payload := leBytes 8 q }

end Sys2Proof.Machine
end

