-- ==== Sys2Proof/Machine/Start.lean ====
section
/-! DEFINITION. Starts (14 R406 to R424; 09 R270, R271; 01 R16, R17; 16 R478 to R480): the straps, the start bundle and its
checks, the repair map, ready, failed starts and base camp. -/

namespace Sys2Proof.Machine

/-! ### The start report (R421) -/

/-- Replaces bytes of a list from a position. -/
def patch (l : List Byte) (o : Nat) (v : List Byte) : List Byte := l.take o ++ v ++ l.drop (o + v.length)

def Bist.report (b : Bist) (o : Nat) (v : List Byte) : Bist := { b with rpt := patch b.rpt o v }

/-- The report as a start begins it. -/
def State.newReport (s : State) : State :=
  let b := s.bist
  let r := leBytes 2 1 ++ leBytes 1 0 ++ leBytes 1 b.step.toNat ++ leBytes 1 b.attempts.toNat ++ leBytes 1 (if b.kind then 1 else 0) ++
    leBytes 2 0 ++ leBytes 8 b.nonce.toNat ++ zeros 208 ++ leBytes 8 Config.deviceId.toNat ++ zeros 1816
  { s with bist := { b with rpt := r } }

/-! ### Failed starts (R417, R418, R420) -/

/-- Base camp (R417, R418): Ramalink at four lanes, the pins in their base-camp meanings. -/
def State.enterCamp (s : State) : State :=
  { s with bist := { s.bist with mode := 2, baseCamp := true }, phase := .baseCamp, rlLanes := 4 }

/-- A start fails at a step with a cause (R417): the report says so; below three attempts a warm reset is ordered, else base
camp. -/
def State.failStart (s : State) (step cause detail : Nat) : State :=
  let b := { s.bist with cause := BitVec.ofNat 8 cause, step := BitVec.ofNat 8 step }
  let b := ((b.report 2 (leBytes 1 cause ++ leBytes 1 step)).report 6 (leBytes 2 detail)).report 16 (leBytes 8 s.now)
  let s := { s with bist := b }
  if s.bist.attempts.toNat < 3 then s.warmReset 2 else s.enterCamp

/-! ### The configuration flash (R423, R424) -/

def flashCert (o : Nat) : List Byte := sub8 Config.flash o 5376
def certKey (c : List Byte) : List Byte := sub8 c 0 8
def certPub (c : List Byte) : List Byte := sub8 c 24 1952

/-- A certificate of a role that the root has signed (R424). -/
def certOk (c : List Byte) (role : Nat) : Bool :=
  let root := flashCert 0x2000
  fld c 8 1 == role && sub8 c 16 8 == certKey root && certKey c == keyId (certPub c) && sub8 c 2048 8 == certKey root &&
    Config.mldsaVerify (certPub root) (sub8 c 0 2048) (sub8 c 2056 3309)

def flashMagic : List Byte := [0x48, 0x54, 0x39, 0x43, 0x46, 0x47, 0x46, 0x4C]

/-- The number of firmware certificates. -/
def firmwareCerts : Nat := fld Config.flash 10 1

/-- The first offset of the flash that breaks R423 or R424, if any. -/
def flashBad : Option Nat :=
  if sub8 Config.flash 0 8 ≠ flashMagic ∨ fld Config.flash 8 2 ≠ 1 ∨ firmwareCerts = 0 ∨ 4 < firmwareCerts then some 0
  else if Config.shake256 (certPub (flashCert 0x2000)) ≠ Config.rootDigest ∨ certOk (flashCert 0x2000) 0 = false then some 0x2000
  else match (List.range firmwareCerts).find? (fun i => !certOk (flashCert (0x4000 + 0x2000 * i)) 1) with
    | some i => some (0x4000 + 0x2000 * i)
    | none => if certOk (flashCert 0xC000) 2 then none else some 0xC000

/-- What CERTS carries (R428). -/
def certBytes : List Byte := sub8 Config.flash 0x2000 (0xC000 + 5376 - 0x2000)

/-! ### Steps 1 and 2 (R407, R479) -/

/-- The straps of SB0 to SB11 (R478). -/
def strapSlotOf (v : Nat) : Nat := bits v 0 5
def strapPlane (v : Nat) : Nat := bits v 5 5

/-- The combinations that fail a start (R479). -/
def strapsBad (v : Nat) : Bool := !bitOf v 11 || strapPlane v == 31

/-- A cold start loads the straps into LNK_POS and BEAT_CTRL.SRC (R33, R479). -/
def State.loadStraps (s : State) (v : Nat) : State :=
  let src : BitVec 2 := if bitOf v 10 then 2 else 0
  { s with lnk := { s.lnk with strapSlot := BitVec.ofNat 5 (strapSlotOf v), planeOff := BitVec.ofNat 8 (strapPlane v) },
           beat := { s.beat with src := src, srcAct := src, aligned := s.beat.aligned && src == 2 } }

/-- Step 1 begins: the attempt is counted, RESTART is written, delivery is cleared, the nonce is new (R417, R421, R440, R448). -/
def State.beginStart (s : State) : State :=
  let b := s.bist
  let n := Nat.min 255 (b.attempts.toNat + 1)
  let s := { s with
    phase := .boot,
    bist := { b with attempts := BitVec.ofNat 8 n, step := 1, cause := 0, imgState := 0, img := [], started := true, mode := 0,
                     nonce := Config.freeResult s.fresh 2 } }
  let s := (s.burn.recordSelf { code := 0x004, payload := leBytes 1 (if b.kind then 1 else 0) ++ leBytes 1 n ++ zeros 6 }).findTorn
  s.newReport

def State.atStep (s : State) (k : Nat) : State := { s with bist := { s.bist with step := BitVec.ofNat 8 k } }

/-- Step 2 ends with Ramalink trained; a warm start's training is a retrain (R276). -/
def State.trained (s : State) (lanes : Nat) : State :=
  let s := { s with rlLanes := lanes }
  if s.bist.kind then (s.noteDev 0x502 (leBytes 1 lanes ++ zeros 7)).raise 11 else s

/-- Whether what the hardware finds fails a step, with the cause. -/
def failsAt (o : StartObs) (k : Nat) : Bool := o.failStep == some k

/-- Steps 1 and 2 of a start; then it waits for the bundle. -/
def State.firstSteps (s : State) (straps : Nat) (o : StartObs) : State :=
  let s := s.beginStart
  if !s.bist.kind && (strapsBad straps || failsAt o 1) then s.failStart 1 0x01 straps
  else
    let s := (if s.bist.kind then s else s.loadStraps straps).atStep 2
    if o.lanes < 4 then s.failStart 2 0x02 0
    else match flashBad with
      | some f => s.failStart 2 0x04 (f / 4096)
      | none =>
        if failsAt o 2 then s.failStart 2 o.cause o.detail
        else (s.trained o.lanes).atStep 3

/-- START (R406, R407). -/
def execStart (straps : Nat) (o : StartObs) (s : State) : Host.Outcome State Fault Refusal :=
  .next (if s.crest.powered && !s.bist.started && !s.bist.inHold && !s.tripHold && s.bist.mode == 0 then (s.firstSteps straps o).settle else s)

/-! ### The bundle (R411 to R416) -/

def bundleMagic : List Byte := [0x48, 0x54, 0x39, 0x42, 0x55, 0x4E, 0x44, 0x4C]
def imageMagic : List Byte := [0x48, 0x54, 0x39, 0x49, 0x4D, 0x41, 0x47, 0x45]
def ownerMagic : List Byte := [0x48, 0x54, 0x39, 0x4F, 0x57, 0x4E, 0x45, 0x52]
def repairMagic : List Byte := [0x48, 0x54, 0x39, 0x52, 0x45, 0x50, 0x4D, 0x50]

/-- Part `i` of a bundle (0 image, 1 owner record, 2 repair map): offset and length. -/
def bundlePart (l : List Byte) (i : Nat) : Nat × Nat := (fld l (16 + 8 * i) 4, fld l (20 + 8 * i) 4)
def partBytes (l : List Byte) (i : Nat) : List Byte := let p := bundlePart l i; (l.drop p.1).take p.2

/-- Parts lie on 64-byte offsets behind the header, inside what was delivered, and apart (R411). -/
def partOk (l : List Byte) (i : Nat) : Bool :=
  let p := bundlePart l i
  p.2 == 0 || (p.1 % 64 == 0 && decide (64 ≤ p.1) && decide (p.1 + p.2 ≤ l.length) &&
    (List.range i).all (fun j =>
      let q := bundlePart l j
      q.2 == 0 || decide (p.1 + p.2 ≤ q.1) || decide (q.1 + q.2 ≤ p.1)))

/-- The image's layout (R412). -/
def fwImageOk (m : List Byte) : Bool :=
  let n := fld m 12 4
  decide (3456 ≤ m.length) && m.take 8 == imageMagic && fld m 8 2 == 1 && n % 64 == 0 && m.length == 3456 + n &&
    allZero (sub8 m 10 2) && allZero (sub8 m 24 40) && allZero (sub8 m (128 + n + 3317) 11)

/-- The owner record's layout (R414). -/
def ownerOk (m : List Byte) : Bool :=
  let n := fld m 10 1
  m.take 8 == ownerMagic && fld m 8 2 == 1 && decide (n ≤ 16) && decide (fld m 11 1 ≤ 1) && allZero (sub8 m 12 4) &&
    m.length == 16 + 1960 * n &&
    (List.range n).all (fun i => decide (fld m (16 + 1960 * i) 1 ≤ 7) && allZero (sub8 m (17 + 1960 * i) 7))

def ownerKeys (m : List Byte) : List OwnerKey :=
  (List.range (fld m 10 1)).map (fun i => { roles := fld m (16 + 1960 * i) 1, pub := sub8 m (24 + 1960 * i) 1952 })

/-- An entry of the repair map (R415). -/
def entKind (e : Nat) : Nat := bits e 60 4
def entryOk (e : Nat) : Bool :=
  match entKind e with
  | 1 => decide (bits e 47 13 < 5120) && decide (bits e 40 7 < 68) && bits e 0 40 == 0
  | 2 => decide (bits e 47 13 < 5120) && bits e 0 47 == 0
  | 3 => decide (bits e 55 5 < 24) && decide (bits e 42 6 < 48) && bits e 0 24 == 0
  | 4 => decide (bits e 55 5 < 24) && decide (bits e 39 16 < 36864) && bits e 0 39 == 0
  | _ => false

def repairCount (m : List Byte) : Nat := fld m 8 4
def repairEntry (m : List Byte) (i : Nat) : Nat := fld m (16 + 8 * i) 8

/-- The repair map's entries, duplicates ignored. -/
def repairEntries (m : List Byte) : List W64 :=
  ((List.range (repairCount m)).map (fun i => BitVec.ofNat 64 (repairEntry m i))).eraseDups

/-- The first bundle byte that breaks R411, R412, R414 or R415. -/
def bundleBad (l : List Byte) : Option Nat :=
  let im := bundlePart l 0
  let ow := bundlePart l 1
  let re := bundlePart l 2
  let rm := partBytes l 2
  if l.length < 64 ∨ l.take 8 ≠ bundleMagic then some 0
  else if fld l 8 2 ≠ 1 then some 8
  else if !allZero (sub8 l 10 6) then some 10
  else if !allZero (sub8 l 40 24) then some 40
  else if im.2 = 0 ∨ partOk l 0 = false then some 16
  else if !partOk l 1 then some 24
  else if !partOk l 2 then some 32
  else if !fwImageOk (partBytes l 0) then some im.1
  else if ow.2 ≠ 0 ∧ ownerOk (partBytes l 1) = false then some ow.1
  else if re.2 ≠ 0 ∧ (rm.take 8 ≠ repairMagic ∨ 65536 < repairCount rm ∨ allZero (sub8 rm 12 4) = false ∨
      rm.length ≠ 16 + 8 * repairCount rm) then some re.1
  else if re.2 = 0 then none
  else ((List.range (repairCount rm)).find? (fun i => !entryOk (repairEntry rm i))).map (fun i => re.1 + 16 + 8 * i)

/-- The firmware certificate that an image's signature block names (R413). -/
def firmwareCert (id : List Byte) : Option (List Byte) :=
  ((List.range firmwareCerts).map (fun i => flashCert (0x4000 + 0x2000 * i))).find? (fun c => certKey c == id && certOk c 1)

/-- The checks of R413 in order: cause and detail of the first that fails. -/
def bundleFail (l : List Byte) : Option (Nat × Nat) :=
  match bundleBad l with
  | some o => some (0x06, o / 64)
  | none =>
    let m := partBytes l 0
    let n := fld m 12 4
    if Config.shake256 (sub8 m 128 n) ≠ sub8 m 64 64 then some (0x07, 0)
    else match firmwareCert (sub8 m (128 + n) 8) with
      | none => some (0x08, 0)
      | some c => if Config.mldsaVerify (certPub c) (m.take 128) (sub8 m (136 + n) 3309) then none else some (0x08, 0)

/-! ### Repair (R16, R271, R416) -/

def entBlock (e : W64) : Nat := bits e.toNat 47 13

/-- A block retired by a repair map (R16, R416): named outright, or with more than four failed cells. -/
def mapRetires (m : List W64) (b : Nat) : Bool :=
  m.any (fun e => entKind e.toNat == 2 && entBlock e == b) ||
    decide (4 < (m.filter (fun e => entKind e.toNat == 1 && entBlock e == b)).length)

/-- The blocks that a map names. -/
def mapBlocks (m : List W64) : List Nat :=
  ((m.filter (fun e => entKind e.toNat == 1 || entKind e.toNat == 2)).map entBlock).eraseDups

/-- Spares assigned: the logical cells listed in blocks that stay in service (R416). -/
def cellRepairs (m : List W64) : Nat :=
  (m.filter (fun e => entKind e.toNat == 1 && decide (bits e.toNat 40 7 < 64) && !mapRetires m (entBlock e))).length

/-- The bank of a row entry. -/
def rowBank (e : W64) : Nat := bits e.toNat 42 18

/-- The rows of a map that a start applies anew, at most one a bank and none in a bank that holds another (R271). -/
def newRows : List W64 → List W64 → List W64
  | _, [] => []
  | had, e :: t =>
    if entKind e.toNat = 3 ∧ had.any (fun r => rowBank r == rowBank e) = false then e :: newRows (had ++ [e]) t else newRows had t

/-- Cells and blocks of the map (R416): a cold start retires the blocks it names; a warm start retires a newly listed one for the session,
and so, where blocks have been in service since power-up, one with a new cell repair. -/
def State.repairBlocks (s : State) (m : List W64) : State :=
  let old := s.bist.repairMap
  (mapBlocks m).foldl (fun (s : State) b =>
    if s.bist.kind then
      let fresh := m.any (fun e => entKind e.toNat == 1 && entBlock e == b && !old.contains e)
      if (s.block b).retired || !(mapRetires m b || (fresh && s.bist.served)) then s else s.updBlock b (fun k => { k with lostSession := true })
    else if mapRetires m b then s.updBlock b (fun k => { k with retired := true }) else s) s

/-- A repaired row over retained content loses it (R271); `lostRows` keeps the number of the act, by which a VERIFY knows such bytes. -/
def State.loseRow (s : State) (e : W64) : State :=
  { s with hbm := (Config.rowBytes e).foldl (fun (m : Mem) r => m.undef r.1 r.2 s.fresh) s.hbm, lostRows := s.lostRows ++ [s.fresh],
           fresh := s.fresh + 1 }

/-- The stacks whose journal entry is in SAVED, TESTED or RESTORING (R435). -/
def Bist.toRestore (b : Bist) : List Nat := (b.jnl.filter (fun j => decide (2 ≤ j.2.state))).map (·.1)

/-- Step 6 (R271, R435, R446): rows and units of the map are applied, interrupted chunks are restored, the mirror comes back. Content is
retained only where the device has been in service since power-up or a cold reset. -/
def State.repairMemory (s : State) (m : List W64) (o : StartObs) : State :=
  let b := s.bist
  let had := if b.kind then b.rowsApplied else []
  let new := newRows had m
  let rows := m.filter (fun e => entKind e.toNat == 3)
  let unrep := rows.filter (fun e => !had.contains e && !new.contains e)
  let stale := had.filter (fun e => !rows.contains e)
  let back := b.toRestore
  let lost := if b.kind && b.served then new.filter (fun e => !back.contains (bits e.toNat 55 5) || o.lost.contains e) else []
  let units := m.filter (fun e => entKind e.toNat == 4)
  let r := (((b.report 250 (leBytes 2 new.length ++ leBytes 2 unrep.length ++ leBytes 2 lost.length ++ leBytes 2 units.length)).report 258
    (leBytes 2 stale.length)).report 260 (leBytes 1 back.length)).report 264 ((lost.take 222).flatMap (fun e => leBytes 8 e.toNat))
  let jn := b.jnl.map (fun (j : Nat × Jnl) => (j.1, { j.2 with state := 0 }))
  let s := { s with
    bist := { r with rowsApplied := had ++ new, jnl := jn, memUp := true },
    hbmRetired := units.map (fun e => (bits e.toNat 55 5, bits e.toNat 39 16)),
    cairn := s.cairn.mirrorStart (!b.kind) }
  lost.foldl (fun (s : State) e => s.loseRow e) s

/-- Usable blocks of a die (R17). -/
def State.usable (s : State) (d : Nat) : Nat :=
  Config.blocksPerDie - (s.blocks.filter (fun b => dieOf b.1 == d && (b.2.retired || b.2.lostSession))).length

/-- The die that misses R17, if one does. -/
def State.fewBlocks (s : State) : Option Nat :=
  match (List.range 8).find? (fun d => decide (s.usable d < 632)) with
  | some d => some d
  | none => if ((List.range 8).map s.usable).foldl (· + ·) 0 < 5056 then some 7 else none

/-! ### Ready (R408) -/

/-- Discovery starts on every enabled port (R407 step 8): it trains first. -/
def State.startPorts (s : State) : State :=
  (List.range 32).foldl (fun (s : State) p => if (s.port p).enable && !(s.port p).quarantined then s.portTo p 1 id else s) s

/-- The start reaches ready (R408). -/
def State.becomeReady (s : State) : State :=
  let b := s.bist
  let r := ((b.report 2 (leBytes 1 0 ++ leBytes 1 9)).report 16 (leBytes 8 s.now)).report 232
    ((List.range 8).flatMap (fun d => leBytes 2 (s.usable d)))
  let s := { s with
    bist := { r with ready := true, mode := 1, served := true, attempts := 0, step := 9, cause := 0, baseCamp := false },
    phase := .run, crest := { s.crest with tripLatch := false },
    fence := { s.fence with cause := 1, lift := false, atWindow := false } }
  let s := (s.noteDev 0x703 (leBytes 1 1 ++ zeros 7)).noteDev 0x801 (zeros 8)
  let s := ((s.startPorts).tell 0 0x60 s.bist.rpt).tell 1 0x60 s.bist.rpt
  s.raise 6

/-- Steps 4 to 8 over the bundle in the delivery buffer (R407, R413). -/
def State.lastSteps (s : State) (o : StartObs) : State :=
  let l := s.bist.img
  let s := s.atStep 4
  let no (s : State) : State := { s with bist := { s.bist with imgState := 4 } }
  match (if failsAt o 4 then some (o.cause, o.detail) else bundleFail l) with
  | some f => (no s).failStart 4 f.1 f.2
  | none =>
    let im := partBytes l 0
    let ow := partBytes l 1
    let re := partBytes l 2
    let has (i : Nat) : Bool := (bundlePart l i).2 != 0
    let od := if has 1 then Config.shake256 ow else zeros 64
    let rd := if has 2 then Config.shake256 re else zeros 64
    let m := if has 2 then repairEntries re else []
    let b := { s.bist with
      imgState := 3, keys := if has 1 then ownerKeys ow else [], policy := if has 1 then fld ow 11 1 else 0,
      imageVersion := BitVec.ofNat 64 (fld im 16 8), imageMeasure := Config.shake256 (im.take 128), ownerDigest := od, repairDigest := rd }
    let s := { s with bist := b.report 24 (leBytes 8 (fld im 16 8) ++ b.imageMeasure ++ od ++ rd) }.atStep 5
    if failsAt o 5 then s.failStart 5 o.cause o.detail
    else
      let s := s.atStep 6
      if failsAt o 6 then s.failStart 6 o.cause o.detail
      else
        let s := (s.repairMemory m o).repairBlocks m
        let s := { s with bist := { s.bist with repairMap := m }.report 248 (leBytes 2 (cellRepairs m)) }.atStep 7
        if failsAt o 7 then s.failStart 7 o.cause o.detail
        else match s.fewBlocks with
          | some d => s.failStart 7 0x0B d
          | none =>
            let s := s.atStep 8
            if failsAt o 8 then s.failStart 8 o.cause o.detail else s.becomeReady

/-- A start waits for its bundle (R407 step 3). -/
def State.awaitsBundle (s : State) : Bool := s.bist.started && s.bist.mode == 0 && s.bist.step == 3

/-- GO (R410): delivery ends and the start goes on. -/
def State.imgGo (s : State) (o : StartObs) : State := if s.awaitsBundle then s.lastSteps o else s

/-- A write of BIST_IMG_DATA (R410, R440). -/
def Bist.imgData (b : Bist) (v : W64) : Bist :=
  if (b.imgState == 0 || b.imgState == 1) && decide (b.img.length + 8 ≤ 16777216) then
    { b with imgState := 1, img := b.img ++ leBytes 8 v.toNat }
  else b

/-- CLEAR restarts delivery at byte 0 (R410). -/
def Bist.imgClear (b : Bist) : Bist := { b with imgState := 0, img := [] }

/-- START_STEP_TIMEOUT (R407, R420): the step that the start is at misses its bound; step 3 fails with NO_BUNDLE. -/
def execStartStepTimeout (step cause : Nat) (s : State) : Host.Outcome State Fault Refusal :=
  .next (if s.bist.started && s.bist.mode == 0 && decide (s.bist.step.toNat = step) then
      (s.failStart step (if step = 3 then 0x05 else cause) 0).settle
    else s)

/-- WARM_TIMEOUT (R389, R409): a warm start whose stacks were in service has not declared ready within 10 s. -/
def execWarmTimeout (s : State) : Host.Outcome State Fault Refusal :=
  .next (if s.bist.kind && s.bist.warmBound && !s.bist.ready && s.bist.mode == 0 then
      let st := s.bist.step.toNat
      let b := (({ s.bist with cause := 0x0F } : Bist).report 2 (leBytes 1 0x0F ++ leBytes 1 st)).report 6 (leBytes 2 st)
      (({ s with bist := b } : State).coldReset .reset).settle
    else s)

/-- RETRY (R419): accepted in base camp; the counter is set to 2 and a warm reset takes the delivered bundle to step 4. -/
def State.retryStart (s : State) (o : StartObs) : State :=
  if s.bist.mode ≠ 2 then s
  else
    let img := s.bist.img
    let s := { s with bist := { s.bist with attempts := 2 } }.warmReset 2
    let s := s.firstSteps 0 o
    if s.awaitsBundle then { s with bist := { s.bist with img := img, imgState := 2 } }.lastSteps o else s

/-- RECOVER_N (R478): held low in base camp, it acts as RETRY. -/
def execRecoverN (o : StartObs) (s : State) : Host.Outcome State Fault Refusal :=
  .next (s.retryStart o).settle

/-- MODULE_RESET (R390, R480): MOD_RST_N is asserted. -/
def execModuleReset (s : State) : Host.Outcome State Fault Refusal :=
  .next (s.coldReset .reset).settle

/-- The word of BIST_STAT (R440). -/
def Bist.statWord (b : Bist) : W64 :=
  BitVec.ofNat 64 (b.abortCode.toNat * 2 ^ 56 + b.sdRefuse.toNat * 2 ^ 48 + Nat.min 1024 b.ring.length * 2 ^ 32 +
    Nat.min 65535 b.beats * 2 ^ 16 + (if b.overflow then 2 ^ 15 else 0) + b.state.toNat)

end Sys2Proof.Machine
end

