-- ==== Sys2Proof/Machine/Matrix.lean ====
section
/-! DEFINITION. The matrix engine of a block (04): operands from the block store and the cell stores, skipping,
accumulation, the drain buffer and the checksum lane. -/

namespace Sys2Proof.Machine

/-! ### An instruction in a block's queues (06 R164, R184) -/

/-- The value of an index register when the instruction issued (R163). -/
def QI.ix (q : QI) (n : Nat) : Int := ((q.idx[n]?).getD 0).toInt

/-- Lines that a program can address: the shadow pool is not addressable (R165). -/
def Program.topLine (p : Program) : Nat := 4096 - p.shadowLines

/-- A byte range lies in the part of the block store that a program can address. -/
def Program.inStore (p : Program) (a : Int) (n : Nat) : Bool :=
  decide (0 ≤ a) && decide (a + n ≤ ((p.topLine * 256 : Nat) : Int))

/-- Lines of a byte range. -/
def linesOf (a n : Nat) : List Nat :=
  if n = 0 then [] else (List.range ((a + n - 1) / 256 - a / 256 + 1)).map (· + a / 256)

/-- The resident lines that a write touches are redirected (R166); the landing lines that it touches are noted (R165). -/
def Block.redirect (b : Block) (p : Program) (ls : List Nat) : Block :=
  { b with
    shadow := b.shadow ++ (ls.filter (fun l => decide (l < p.resLines) && !b.shadow.contains l)).eraseDups,
    land := b.land ++ (ls.filter (fun l => decide (p.resLines ≤ l) && decide (l < p.resLines + p.landLines) && !b.land.contains l)).eraseDups }

/-- Writes bytes of the block store: what lies outside it is lost. -/
def Block.put (b : Block) (p : Program) (a : Int) (l : List Byte) : Block :=
  if p.inStore a l.length then
    ({ b with bs := b.bs.writeN a.toNat l } : Block).redirect p (linesOf a.toNat l.length)
  else b

/-- Makes a range of the block store undefined: what lies outside it is left out. -/
def Block.spoil (b : Block) (p : Program) (a : Int) (n seed : Nat) : Block :=
  let lo := (Max.max 0 a).toNat
  let hi := Nat.min (a + n).toNat (p.topLine * 256)
  if lo < hi then ({ b with bs := b.bs.undef lo hi seed } : Block).redirect p (linesOf lo (hi - lo)) else b

/-! ### Operands (R94 to R98, R164, R170) -/

/-- An operand of an MM with its addresses formed: source 0 BS, 1 CAPTURE, 2 CS; first line, stride, cell-store offset. -/
structure Opnd where
  isB : Bool
  src : Nat
  line : Int
  stride : Nat
  off : Int
  n : Nat
  units : Nat
  kind : Nat
  turn : Bool
  saxis : Bool
  skip : Bool
  deriving DecidableEq, Repr

def opndA (q : QI) (f : MmF) : Opnd :=
  { isB := false, src := f.asrc, line := (f.aline : Int) + (if f.asrc = 2 then 0 else q.ix f.aix), stride := f.atstr,
    off := (f.acs : Int) + (if f.asrc = 2 then q.ix f.aix else 0), n := mmN f, units := mmUnitsA f, kind := mmKindA f,
    turn := f.aturn, saxis := f.saxis, skip := f.tskip && f.asrc != 2 }

def opndB (q : QI) (f : MmF) : Opnd :=
  { isB := true, src := f.bsrc, line := (f.bline : Int) + (if f.bsrc = 2 then 0 else q.ix f.bix), stride := f.btstr,
    off := (f.bcs : Int) + (if f.bsrc = 2 then q.ix f.bix else 0), n := mmN f, units := mmUnitsB f, kind := mmKindB f,
    turn := f.bturn, saxis := f.saxis, skip := f.tskip && f.bsrc != 2 }

/-- The lines that an operand reads from the block store: the first, with the bitmap line, and the one after the last. -/
def Opnd.lines (o : Opnd) : Int × Int :=
  (o.line - (if o.skip then 1 else 0), o.line + (((o.n - 1) * o.stride + tileLines o.kind : Nat) : Int))

/-- The operand lies inside the block store or the cell store (R96, R164). -/
def Opnd.inside (o : Opnd) (p : Program) : Bool :=
  let fits := decide (0 ≤ o.off) && decide (o.off + ((o.n * o.units : Nat) : Int) ≤ 512)
  let stored := decide (0 ≤ o.lines.1) && decide (o.lines.2 ≤ (p.topLine : Int))
  if o.src = 2 then fits else stored && (o.src == 0 || fits)

/-- A misaligned compressed operand, which the cell stores hold in expanded form (R96). -/
def Opnd.expands (o : Opnd) : Bool := (o.kind == 3 && o.units == 9) || (o.kind == 4 && o.units == 5)

/-- The tile kind of an operand's share in the cell stores. -/
def Opnd.shareKind (o : Opnd) : Nat := if o.expands then o.kind - 3 else o.kind

/-- The tile kind of an operand as it is read: what the block store holds, or its share. -/
def Opnd.readKind (o : Opnd) : Nat := if o.src = 2 then o.shareKind else o.kind

/-- The bytes of tile `t` of an operand as what holds them has them; none where the content is undefined (R97). -/
def Opnd.bytes (o : Opnd) (b : Block) (id t : Nat) : Option (Nat → Byte) :=
  if o.src = 2 then
    (b.cs.find? (fun e => (e.off : Int) == o.off + ((t * o.units : Nat) : Int) && e.units == o.units && e.forB == o.isB &&
        e.kind == o.shareKind && e.turn == o.turn && (e.saxis == o.saxis || decide (o.shareKind < 3)) &&
        (e.by_.isNone || e.by_ == some id))).map
      (fun e => fun k => (e.tile[k]?).getD 0)
  else some (fun k => b.bs.read ((o.line + ((t * o.stride : Nat) : Int)).toNat * 256 + k))

/-- The occupancy bit of tile `t` (R107). -/
def Opnd.occupied (o : Opnd) (b : Block) (t : Nat) : Bool :=
  !o.skip || bitOf (b.bs.read ((o.line - 1).toNat * 256 + t / 8)).toNat (t % 8)

/-- The 4,096 elements of tile `t` as the operand is read: row and column of A or B (R102). -/
def Opnd.tile (o : Opnd) (b : Block) (id seed t : Nat) : List Exact :=
  match o.bytes b id t with
  | none => (List.range 4096).map (fun e => wild seed (4096 * t + e))
  | some rd => (List.range 4096).map (fun e =>
      if o.turn then tileElem o.readKind o.saxis true seed rd (e % 64) (e / 64)
      else tileElem o.readKind o.saxis true seed rd (e / 64) (e % 64))

/-- The bytes of tile `t` of a captured operand as the cell stores keep them. -/
def Opnd.share (o : Opnd) (b : Block) (seed t : Nat) : List Byte :=
  let a := (o.line + ((t * o.stride : Nat) : Int)).toNat * 256
  if o.expands then expandTile o.kind o.saxis (seed + t) (fun k => b.bs.read (a + k)) else b.bs.readN a (tileBytes o.kind)

/-- The shares that a CAPTURE writes (R95, R96). -/
def Opnd.capture (o : Opnd) (b : Block) (id seed : Nat) : Block :=
  if o.src = 1 then
    let lo := o.off.toNat
    let hi := lo + o.n * o.units
    let kept := b.cs.filter (fun e => decide (e.off + e.units ≤ lo) || decide (hi ≤ e.off))
    let new := (List.range o.n).map (fun t =>
      ({ off := lo + t * o.units, units := o.units, forB := o.isB, kind := o.shareKind, turn := o.turn, saxis := o.saxis,
         tile := o.share b seed t, by_ := some id } : CsEntry))
    { b with cs := kept ++ (if hi ≤ 512 then new else []) }
  else b

/-! ### The product (R92, R107 to R112, R79, R81) -/

/-- The operands of the k-slices that contribute: for each slice its position, the 64 elements of A's column and of B's row. A
skipped tile, and in an MM without an aligned operand a slice whose A elements all read zero, contributes nothing. DESIGN CHOICE (log 64):
such a slice is not issued whatever B holds, so a NaN or an infinity of B in it leaves no trace. -/
def mmSlices (f : MmF) (a b : List (List Exact)) (used : Nat → Bool) : List (Nat × List Exact × List Exact) :=
  let aligned := (f.sparse == 1 && alignedK true f.aturn f.saxis) || (f.sparse == 2 && alignedK false f.bturn f.saxis)
  (List.range (mmN f)).flatMap (fun t =>
    if used t then
      let ta := (a[t]?).getD []
      let tb := (b[t]?).getD []
      ((List.range 64).map (fun k =>
        (64 * t + k, (List.range 64).map (fun i => (ta[64 * i + k]?).getD { v := none }),
          (List.range 64).map (fun j => (tb[64 * k + j]?).getD { v := none })))).filter (fun s =>
        aligned || s.2.1.any (fun v => match v.v with | some x => !x.isZero | none => true))
    else [])

/-- The exact sum of a start value and the products of one output element over some slices, and the sum of their
magnitudes. -/
def mmSum (i j : Nat) (start : Num) (sl : List (Nat × List Exact × List Exact)) : Num × Dy :=
  sl.foldl (fun (r : Num × Dy) s =>
    match r.1, ((s.2.1[i]?).bind (·.v)), ((s.2.2[j]?).bind (·.v)) with
    | some v, some x, some y => (some (v.add (x.mul y)), r.2.add (x.mul y).toDy.abs)
    | _, _, _ => (none, r.2)) (start, Dy.zero)

/-- An element of a slice that one output element takes was an infinity, converted to the largest finite value (R64, R84). -/
def mmSat (i j : Nat) (sl : List (Nat × List Exact × List Exact)) : Bool :=
  sl.any (fun s => ((s.2.1[i]?).map (·.sat)).getD false || ((s.2.2[j]?).map (·.sat)).getD false)

/-- A number with a free error inside a bound. -/
def Fp.blur (v : Fp) (err : Dy) : Fp := if err.m = 0 then v else Fp.ofDy (v.toDy.add err) false

/-- One output element (R79): its W40 bits and its exact sum with the flag of R84, that an infinity was converted or a rounding met an exact
magnitude beyond the largest finite value. The first chunk starts
from what the cells hold; `rnd` is the rounding field. -/
def mmElem (rnd seed : Nat) (i j : Nat) (start : Num) (chunks : List (Nat × List (Nat × List Exact × List Exact))) :
    W40 × Exact :=
  let pos := 64 * i + j
  let step (r : Exact × Num) (c : Nat × List (Nat × List Exact × List Exact)) : Exact × Num :=
    let q := mmSum i j r.1.v c.2
    let e := (mmSum i j r.2 c.2).1
    let md := if rnd = 2 ∨ (rnd = 0 ∧ c.1 ≠ 0) then Rnd.sr (srBits (seed + 1) (4096 * c.1 + pos)) else .rne
    let sat := r.1.sat || mmSat i j c.2 || Num.beyond q.1
    match q.1 with
    | none => ({ v := none, sat := sat }, e)
    | some v =>
      let v := v.blur (freeErr seed (4096 * c.1 + pos) (q.2.scale (-36)))
      let w := Fmt.w40.write md { v := some v }
      ({ v := (Fmt.w40.readv w.code).v, sat := sat }, e)
  let r := chunks.foldl step ({ v := start }, start)
  ((match r.1.v with | some v => BitVec.ofNat 40 (Fmt.w40.write .rne { v := some v }).code | none => 0x7FF0000000),
   { v := r.2, sat := r.1.sat || Num.beyond r.2 })

/-- A tile of W40 values as bytes. -/
def tileMem (l : List W40) : Mem := Mem.writeN {} 0 (l.flatMap (fun w => leBytes 5 w.toNat))

/-- Element `e` of a W40 tile. -/
def w40At (m : Mem) (e : Nat) : Exact := Fmt.w40.readv (leNat (m.readN (5 * e) 5))

/-! ### The checksum lane (R122) -/

def optSum (l : List (Option Dy)) : Option Dy :=
  l.foldl (fun (a : Option Dy) x => match a, x with | some u, some v => some (u.add v) | _, _ => none) (some Dy.zero)

def optMul : Option Dy → Option Dy → Option Dy
  | some u, some v => some (u.mul v)
  | _, _ => none

def optAdd : Option Dy → Option Dy → Option Dy
  | some u, some v => some (u.add v)
  | _, _ => none

/-- A checksum vector takes the products of a slice: element i of `xs` times the sum of `ys`. -/
def laneAdd (acc xs ys : List (Option Dy)) : List (Option Dy) :=
  let t := optSum ys
  (List.range 64).map (fun i => optAdd ((acc[i]?).getD (some Dy.zero)) (optMul ((xs[i]?).getD none) t))

def Lane.slice (n : Lane) (s : Nat × List Exact × List Exact) : Lane :=
  let a := s.2.1.map (fun v => v.v.map Fp.toDy)
  let b := s.2.2.map (fun v => v.v.map Fp.toDy)
  let aa := a.map (fun v => v.map Dy.abs)
  let bb := b.map (fun v => v.map Dy.abs)
  { r := laneAdd n.r a b, c := laneAdd n.c b a, g := laneAdd n.g aa bb, h := laneAdd n.h bb aa }

/-! ### MM -/

/-- Numbers for free values that an MM takes. -/
def mmSeeds : Nat := 4096

/-- The effect of an MM on its block (R92 to R97, R107 to R117, R122): the sums become its results, captures enter the cell
stores, and a tile that is emitted or folded enters the drain buffer. -/
def Block.mm (b : Block) (p : Program) (id seed pos : Nat) (q : QI) (f : MmF) : Block :=
  let oa := opndA q f
  let ob := opndB q f
  let good := oa.inside p && ob.inside p
  let read (o : Opnd) (s : Nat) : List (List Exact) := (List.range (mmN f)).map (fun t => o.tile b id s t)
  let sl := mmSlices f (read oa (seed + 2)) (read ob (seed + 3)) (fun t => oa.occupied b t && ob.occupied b t)
  let chunks := (List.range ((mmN f + 63) / 64)).map (fun c => (c, sl.filter (fun s => s.1 / 4096 == c)))
  let start (e : Nat) : Num := if f.acc = 1 then (w40At b.sums e).v else some Fp.zero
  let out := (List.range 4096).map (fun e =>
    if good then mmElem f.rnd seed (e / 64) (e % 64) (start e) chunks
    else (BitVec.ofNat 40 (Fmt.w40.write .rne (wild (seed + 4) e)).code, wild (seed + 4) e))
  let sums := tileMem (out.map (·.1))
  let lane := sl.foldl Lane.slice (if f.acc = 1 then b.lane else {})
  let b := ob.capture (oa.capture b id (seed + 5)) id (seed + 5 + 1024)
  let b := { b with sums := sums, lane := lane }
  if f.hold then b
  else
    { b with drain := some { tile := sums, exact := out.map (·.2), toFold := f.acc == 2, slot := f.fslot, init := f.finit,
                             cks := f.cks, fmt := f.fmt, cls := f.cls, rnd := f.rnd, pos := pos, lane := lane } }

/-! ### The end of a drain (R114, R116, R123 to R126) -/

/-- The bin of R400: temperature band and load band. -/
def binOf (temp : Int) (power : Nat) : Nat :=
  let t := if temp < 360 then 0 else Nat.min 7 (((temp - 360) / 80).toNat + 1)
  4 * t + (if power < 3000 then 0 else if power < 5250 then 1 else if power < 6750 then 2 else 3)

/-- The temperature, in 0.125 °C, at the sensor nearest a block: one of the 60 of its die (R476); the manual does not say
which, so it is free (log 23). -/
def State.tempOf (s : State) (b : Nat) : Int := (s.crest.temps[60 * dieOf b + Config.nearSensor b % 60]?).getD 0

def State.bin (s : State) (b : Nat) : Nat := binOf (s.tempOf b) s.crest.pinW

/-- The payload of a CHECKSUM or ECHO record (R449). -/
def State.checkPayload (s : State) (b program kind pos lane1 lane2 : Nat) (rows cols : Nat) : List Byte :=
  let d := dieOf b
  leBytes 2 b ++ leBytes 1 program ++ leBytes 1 kind ++ leBytes 2 pos ++ leBytes 1 lane1 ++ leBytes 1 lane2 ++
    leBytes 8 rows ++ leBytes 8 cols ++ leBytes 2 ((s.tempOf b) % 65536).toNat ++ leBytes 1 (s.die d).step ++
    leBytes 1 (s.bin b) ++ leBytes 4 (s.die d).droop.toNat ++ leBytes 2 s.crest.pinW ++ zeros 6

/-- Lines of a check that fail (R123): the sums of the tile differ from the lane's by more than the band; the lane's own
rounding and the drain's err by a sixteenth of it at most (R124; log 9). A line with an invalid value does not fail. -/
def failing (band seed : Nat) (sums want ref : List (Option Dy)) : List Nat :=
  (List.range 64).filter (fun i =>
    match (sums[i]?).getD none, (want[i]?).getD (some Dy.zero), (ref[i]?).getD (some Dy.zero) with
    | some u, some v, some g =>
      Dy.lt (g.scale (-(band : Int))) (((u.add v.neg).add (freeErr seed i (g.scale (-(band : Int) - 4)))).abs)
    | _, _, _ => false)

def maskOf (l : List Nat) : Nat := l.foldl (fun m i => m + 2 ^ i) 0

/-- SUSPECT_ROW and SUSPECT_COL (R125). -/
def suspect (l : List Nat) : Nat :=
  match l with
  | [] => 15
  | i :: t => if t.all (fun k => k / 8 == i / 8) then i / 8 else 14

/-- The program number of a command. -/
def opProgram : Op → Nat
  | .run p => p.program
  | .optstep p => p.program
  | _ => 0

/-- A command's RUN is marked failed (R126, R158); the first failing block is named. -/
def Cmd.suspectBlock (x : Cmd) (b : Nat) : Cmd := if x.fail.isSome then x else { x with fail := some (stChecksum, 7, b) }

/-- The comparison of a drained tile (R122 to R126, R400). -/
def State.compareTile (s : State) (x : Cmd) (b : Nat) (d : Drain) (vals : List Num) : State :=
  let die := dieOf b
  let dys := vals.map (fun v => v.map Fp.toDy)
  let row (i : Nat) : Option Dy := optSum ((List.range 64).map (fun j => (dys[64 * i + j]?).getD none))
  let col (j : Nat) : Option Dy := optSum ((List.range 64).map (fun i => (dys[64 * i + j]?).getD none))
  let band := (s.derate.table.band[d.fmt]?).getD 20
  let rows := failing band s.fresh ((List.range 64).map row) d.lane.r d.lane.g
  let cols := failing band (s.fresh + 1) ((List.range 64).map col) d.lane.c d.lane.h
  let bin := s.bin b
  let s := (s.burn).burn
  let s := s.updDie die (fun q => { q with ckChecked := Tab.upd 0 q.ckChecked bin (fun n => sat32 n 1) })
  if rows.isEmpty && cols.isEmpty then s
  else
    let s := s.note { code := 0x201, kind := 7, index := b, ctx := x.ctx,
                      payload := s.checkPayload b (opProgram x.op) d.fmt d.pos (suspect rows) (suspect cols) (maskOf rows) (maskOf cols) }
    let s := s.updBlock b (fun q => { q with ckFail := Tab.upd 0 q.ckFail bin (fun n => sat32 n 1) })
    s.updCmd x.id (fun y => y.suspectBlock b)

/-- The working copy of a fold slot: until a RUN writes a persistent slot it is the committed copy (R116). -/
def FoldSlot.view (f : FoldSlot) : Mem := if f.written then f.working else f.committed

def Block.slot (b : Block) (n : Nat) : FoldSlot := Tab.get {} b.fold n
def Block.setSlot (b : Block) (n : Nat) (m : Mem) : Block :=
  { b with fold := Tab.upd {} b.fold n (fun f => { f with working := m, written := true }) }

/-- Whether the drain buffer can empty: a fold slot always takes it, the tile queue while an entry is free (R114, R141). -/
def Block.drains (b : Block) (p : Program) (d : Drain) : Bool := d.toFold || decide (b.tq.length + p.work < 8)

/-- Adds a tile into a fold slot with one rounding a value (R79, R111). -/
def foldValues (rnd seed : Nat) (init : Bool) (old : Mem) (d : Drain) (vals : List Num) : List (W40 × Tally) :=
  (List.range 4096).map (fun e =>
    let v := (vals[e]?).getD none
    let x := (d.exact[e]?).getD { v := v }
    let o := (w40At old e).v
    let add (u : Num) : Num := if init then u else match o, u with | some a, some b => some (a.add b) | _, _ => none
    let md := if rnd = 1 ∨ init then Rnd.rne else .sr (srBits seed e)
    let w := Fmt.w40.write md { v := add v, sat := x.sat || Num.beyond (add x.v), nz := ({ v := add x.v } : Exact).nonzero }
    (BitVec.ofNat 40 w.code, w.tally))

/-- The census of values as they reach the tile queue (R84). -/
def emitTally (d : Drain) (vals : List Num) : Tally :=
  (List.range 4096).foldl (fun t e =>
    let x := (d.exact[e]?).getD { v := none }
    t.add (Fmt.w40.write .rne { v := (vals[e]?).getD none, sat := x.sat, nz := x.nonzero }).tally) {}

/-- DRAIN_END: the tile leaves for the tile queue or its fold slot; `upset` lists the elements that a hardware fault has
changed on the way. -/
def State.endDrain (s : State) (b : Nat) (x : Cmd) (d : Drain) (upset : List (Nat × W40)) : State :=
  let vals := (List.range 4096).map (fun e =>
    match upset.find? (fun u => u.1 == e) with
    | some u => w40Num u.2
    | none => (w40At d.tile e).v)
  let s := if d.cks then s.compareTile x b d vals else s
  let k := s.block b
  if d.toFold then
    let out := foldValues d.rnd s.fresh d.init (k.slot d.slot).view d vals
    let s := s.setBlock b (({ k with drain := none } : Block).setSlot d.slot (tileMem (out.map (·.1))))
    (s.updCmd x.id (fun y => y.tally d.cls .w40 (out.foldl (fun t o => t.add o.2) {}))).burn
  else
    let tile := tileMem (vals.map (fun v => BitVec.ofNat 40 (Fmt.w40.write .rne { v := v }).code))
    let s := s.setBlock b { k with drain := none, tq := k.tq ++ [tile] }
    s.updCmd x.id (fun y => y.tally d.cls .w40 (emitTally d vals))

end Sys2Proof.Machine
end

