-- ==== Sys2Proof/Machine/Vector.lean ====
section
/-! DEFINITION. The vector engine of a block (05): descriptors with their addresses formed, the operations, reductions,
OCC, GATE, and echo sampling. -/

namespace Sys2Proof.Machine

/-! ### Operands (R132 to R135, R140, R164) -/

/-- A descriptor with its base formed. -/
structure VOp where
  d : Desc
  base : Int
  deriving DecidableEq, Repr

def Program.vop (p : Program) (q : QI) (n ix : Nat) : VOp :=
  let d := ((p.descs[n]?).bind decodeDesc).getD {}
  { d := d, base := (d.base : Int) + (if d.space = .bs then q.ix ix else 0) }

/-- Element index of (r, c) in a linear descriptor (R133). -/
def Desc.index (d : Desc) (r c : Nat) : Nat := r * d.rs + c * d.cs

/-- A tile-layout descriptor that reads or writes its tile turned (R134). -/
def Desc.turned (d : Desc) : Bool := d.rs == 1

/-- Bytes from the lowest to the highest that a descriptor can touch, from its base. -/
def Desc.span (d : Desc) : Nat :=
  if d.tile then tileBytes d.fmt.kind else (d.index (d.rows - 1) (d.cols - 1) + 1) * d.fmt.size

/-- Where the first byte of element (r, c) lies, from the base, of what holds it. -/
def Desc.place (d : Desc) (r c : Nat) : Nat := d.index r c * d.fmt.size

/-- The descriptor lies inside what it names: the block store, on a line when it is a tile (R164), or an entry or a slot that there is, where
an index is below 4,096 (R115, R133). -/
def VOp.inside (o : VOp) (p : Program) : Bool :=
  match o.d.space with
  | .const => true
  | .bs => p.inStore o.base o.d.span && (!o.d.tile || o.base % 256 == 0)
  | .tq => decide (o.d.index (o.d.rows - 1) (o.d.cols - 1) < 4096)
  | .fs => decide (o.d.index (o.d.rows - 1) (o.d.cols - 1) < 4096) && decide (o.d.base % 16 + p.persist ≤ 11)

/-- What holds an operand: block store 0, queue entries 16 to 23, work entries 32 to 39, fold slots 48 to 63. -/
def VOp.holder (o : VOp) : Nat :=
  match o.d.space with
  | .bs => 0
  | .tq => if 8 ≤ o.d.base then 32 + o.d.base % 8 else 16 + o.d.base % 8
  | .fs => 48 + o.d.base % 16
  | .const => 255

/-- The content of what holds an operand. DESIGN CHOICE (log 67): the manual is silent on a VEC that names a work entry at or beyond w; each of the
eight has storage of its own. -/
def Block.held (b : Block) (h : Nat) : Mem :=
  if h = 0 then b.bs
  else if h < 32 then (b.tq[h - 16]?).getD {}
  else if h < 48 then Tab.get {} b.work (h - 32)
  else (b.slot (h - 48)).view

/-- The first byte of an operand in what holds it. -/
def VOp.start (o : VOp) : Nat := if o.d.space = .bs then o.base.toNat else 0

/-- Element (r, c) of an operand (R132 to R134). -/
def VOp.elem (o : VOp) (b : Block) (seed r c : Nat) : Exact :=
  match o.d.space with
  | .const => Fmt.w40.readv o.d.value.toNat
  | _ =>
    let m := b.held o.holder
    if o.d.tile then
      let rd (k : Nat) : Byte := m.read (o.start + k)
      if o.d.turned then tileElem o.d.fmt.kind false true seed rd c r else tileElem o.d.fmt.kind false true seed rd r c
    else o.d.fmt.readv (leNat (m.readN (o.start + o.d.place r c) o.d.fmt.size))

/-- First bytes and sizes of the elements of an operand. -/
def VOp.spots (o : VOp) : List (Nat × Nat) :=
  if o.d.tile then [(o.start, o.d.span)]
  else (List.range (o.d.rows * o.d.cols)).map (fun e => (o.start + o.d.place (e / o.d.cols) (e % o.d.cols), o.d.fmt.size))

/-- A byte range meets an element of an operand in what holds both. -/
def VOp.meets (o : VOp) (lo n : Nat) : Bool := o.spots.any (fun v => decide (lo < v.1 + v.2) && decide (v.1 < lo + n))

/-- Destination and source overlap other than by coinciding exactly (R135). -/
def VOp.clashes (dst src : VOp) : Bool :=
  src.d.space != .const && dst.holder == src.holder && dst != src &&
    !(decide (dst.start + dst.d.span ≤ src.start) || decide (src.start + src.d.span ≤ dst.start)) &&
    dst.spots.any (fun u => src.meets u.1 u.2)

/-! ### Operations (R144, R145, R150) -/

def anyInvalid (l : List Exact) : Bool := l.any (fun x => x.v.isNone)
def anySat (l : List Exact) : Bool := l.any (·.sat)

/-- Exact operations on values; invalid operands give invalid (R67). -/
def Exact.add (a b : Exact) : Exact :=
  { v := (match a.v, b.v with | some u, some w => some (u.add w) | _, _ => none), sat := a.sat || b.sat }

def Exact.neg (a : Exact) : Exact := { a with v := a.v.map Fp.negate }

def Exact.times (a b : Exact) : Exact :=
  { v := (match a.v, b.v with | some u, some w => some (u.mul w) | _, _ => none), sat := a.sat || b.sat,
    nz := a.nonzero && b.nonzero }

def Exact.ofInt (n : Int) : Exact := { v := some { neg := decide (n < 0), mag := n.natAbs, e := 0 } }

/-- The smaller or larger of two numbers, −0 below +0 (R145). -/
def Exact.pick (max : Bool) (a b : Exact) : Exact :=
  match a.v, b.v with
  | some u, some w =>
    let aLess := u.lt w || (u.eqv w && u.neg && !w.neg)
    let r := if aLess == max then b else a
    { r with sat := a.sat || b.sat }
  | _, _ => { v := none, sat := a.sat || b.sat }

/-- The condition of CMP (R145). -/
def cmpHolds (mod : Nat) (a b : Num) : Bool :=
  match a, b with
  | some u, some w =>
    (match mod with
     | 0 => u.eqv w
     | 1 => !u.eqv w
     | 2 => u.lt w
     | 3 => u.le w
     | 4 => w.lt u
     | _ => w.le u)
  | _, _ => false

/-- A one-operand operation of R144 from its value at a finite operand. -/
def onFinite (a : Exact) (f : Fp → Exact) : Exact :=
  match a.v with
  | none => a
  | some v => let r := f v; { r with sat := r.sat || a.sat }

/-- 2^a, its error free in the bound, with its edges (R82, R149). -/
def vExp2 (off : Int) (v : Fp) : Exact :=
  if Dy.lt { m := 1100, e := 0 } v.toDy then { v := some (w40Max false), sat := true }
  else if Dy.lt v.toDy { m := -1200, e := 0 } then { v := some Fp.zero, nz := true }
  else pickUlp 2 off (refExp2 v)

/-- The transcendental operations (R82, R144, R149; log 9); an intermediate rounding into W40 that saturates is counted (R84). DESIGN CHOICE (log
68): the square root of −0 is −0; R82 has no row for it. -/
def transOp (op seed i : Nat) (a : Exact) : Exact :=
  let off := Config.freeUnit seed i
  onFinite a (fun v =>
    match op with
    | 0x10 => vExp2 off v
    | 0x11 => if v.neg || v.isZero then { v := none } else pickUlp 2 off (refLog2 v)
    | 0x12 => if v.isZero then { v := some (w40Max v.neg), sat := true } else pickUlp 1 off (refRecip v)
    | 0x13 =>
      if v.isZero then { v := some (w40Max false), sat := true }
      else if v.neg then { v := none } else pickUlp 2 off (refRecip (refSqrt v))
    | 0x14 => if v.isZero then { v := some v } else if v.neg then { v := none } else pickUlp 1 off (refSqrt v)
    | 0x18 =>
      let r := refSigmoid v
      let x := if r.isZero then { v := some r, nz := true } else pickUlp 8 off r
      { x with sat := x.sat || sigmoidSat v }
    | 0x19 =>
      let x := pickAbs off (refTanh v)
      { x with nz := !v.isZero, isZ := v.isZero, sat := x.sat || tanhSat v }
    | _ =>
      let x := pickAbs off (refSoftplus v)
      { x with nz := true, sat := x.sat || powSat v })

/-- The derivative operations but DSOFTMAX: g × f′(y), intermediate values in W40 (R150). -/
def derivOp (op : Nat) (y g : Exact) : Exact :=
  let one := Exact.ofInt 1
  let sq := (y.times y).toW40
  match op with
  | 0x20 => g.times ((y.times ((one.add y.neg).toW40)).toW40)
  | 0x21 => g.times ((one.add sq.neg).toW40)
  | 0x22 =>
    (match y.v, g.v with
     | some u, some w => { v := some (if !u.neg && !u.isZero then w else Fp.zero), sat := g.sat || y.sat }
     | _, _ => { v := none, sat := g.sat || y.sat })
  | 0x23 => g.times y
  | 0x24 => g.times sq.neg
  | _ =>
    let cube := (sq.times y).toW40
    g.times ((cube.times { v := some { neg := true, mag := 1, e := -1 } }).toW40)

/-- One element of an element-wise operation, before its rounding into the destination. -/
def vecOp (op mod seed i : Nat) (a b c : Exact) : Exact :=
  match op with
  | 0x01 => a
  | 0x02 => a.add b
  | 0x03 => a.add b.neg
  | 0x04 => a.times b
  | 0x05 => (a.times b).add c
  | 0x06 => Exact.pick false a b
  | 0x07 => Exact.pick true a b
  | 0x08 => { Exact.ofInt (if cmpHolds mod a.v b.v then 1 else 0) with sat := a.sat || b.sat }
  | 0x09 =>
    let x := match c.v with | some u => if u.isZero then b else a | none => b
    { x with sat := anySat [a, b, c] }
  | 0x0A => { a with v := a.v.map (fun v => { v with neg := false }) }
  | 0x0B => a.neg
  | 0x1B => transOp 0x1B seed i a
  | 0x1A => Exact.pick true a { v := some Fp.zero }
  | _ => if 0x20 ≤ op then derivOp op a b else transOp op seed i a

/-- A random draw into a destination format (R147; log 10): a normal draw's magnitude is at most 6.3, and in H16 at most the largest value of the
format within it. -/
def randOp (op seed i : Nat) (f : Fmt) : Exact :=
  let r := Config.freeBits seed i
  if op = 0x30 then
    (if f = .h16 then { v := some { neg := false, mag := r % 256, e := -8 } }
     else { v := some { neg := false, mag := r % 2 ^ 28, e := -28 } })
  else { v := some { neg := r % 2 == 1, mag := r / 2 % (if f = .h16 then 1686110209 else 1691143373), e := -28 } }

/-! ### Reductions (R146, R150) -/

/-- The elements that a reduction takes for output position `o`: a row, or a column under MOD[0]. -/
def axisOf (byCol : Bool) (rows cols o : Nat) : List (Nat × Nat) :=
  if byCol then (List.range rows).map (fun r => (r, o)) else (List.range cols).map (fun c => (o, c))

/-- RSUM, RMAX and RSSQ at one output, with the destination's value under MOD[1]. -/
def reduceOp (op seed i : Nat) (l : List Exact) (old : Option Exact) : Exact :=
  let l := if op = 0x2A then l.map (fun x => x.times x) else l
  let l := match old with | some o => l ++ [o] | none => l
  if op = 0x29 then
    match l with
    | [] => { v := none }
    | x :: t => t.foldl (Exact.pick true) x
  else blurSum seed i l

/-! ### What a VEC writes -/

/-- Which descriptor a destination's elements are: rows and columns that it writes. -/
def Desc.shape (d : Desc) : Nat × Nat := (d.rows, d.cols)

/-- Numbers for free values that a VEC takes. -/
def vecSeeds : Nat := 6

/-- The values of a VEC but OCC by row and column of its destination (R144 to R150). -/
def vecValue (b : Block) (op : Nat) (v : VecF) (seed : Nat) (dst : VOp) (src : List VOp) (r c : Nat) : Exact :=
  let i := 64 * r + c
  let get (n : Nat) (r c : Nat) : Exact :=
    match src[n]? with
    | some o => o.elem b (seed + 1 + n) r c
    | none => { v := none }
  if op = 0x30 ∨ op = 0x31 then randOp op seed i dst.d.fmt
  else if vecReduces op then
    let a := (src[0]?).getD dst
    let byCol := bitOf v.mod 0
    let shape := if a.d.space = .const then (dst.d.rows, dst.d.cols) else a.d.shape
    reduceOp op seed i ((axisOf byCol shape.1 shape.2 (if byCol then c else r)).map (fun q => get 0 q.1 q.2))
      (if bitOf v.mod 1 then some (dst.elem b (seed + 4) r c) else none)
  else if op = 0x26 then
    let byCol := bitOf v.mod 0
    let terms := (axisOf byCol dst.d.rows dst.d.cols (if byCol then c else r)).map (fun q =>
      ((get 1 q.1 q.2).times (get 0 q.1 q.2)).toW40)
    let sum := (blurSum seed (if byCol then c else r) terms).toW40
    (get 0 r c).times (((get 1 r c).add sum.neg).toW40)
  else vecOp op v.mod seed i (get 0 r c) (get 1 r c) (get 2 r c)

/-- Puts bytes into what holds an operand. -/
def Block.putHeld (b : Block) (p : Program) (h a : Nat) (l : List Byte) : Block :=
  if h = 0 then b.put p a l
  else if h < 32 then { b with tq := setAt b.tq (h - 16) ((b.held h).writeN a l) }
  else if h < 48 then { b with work := Tab.set b.work (h - 32) ((b.held h).writeN a l) }
  else b.setSlot (h - 48) ((b.held h).writeN a l)

/-- The bytes of a tile in the block store from those of its device layout (R98, R99). -/
def storeTile (k : Nat) (dev : List Byte) : List Byte := (List.range (tileBytes k)).map (fun o => (dev[devOffset k o]?).getD 0)

/-- Makes what holds an operand undefined: a part of the block store, or an entry or slot whole. -/
def Block.spoilHeld (b : Block) (p : Program) (o : VOp) (seed : Nat) : Block :=
  if o.holder = 0 then b.spoil p o.base o.d.span seed
  else if o.holder < 32 then { b with tq := setAt b.tq (o.holder - 16) (fullTile seed) }
  else if o.holder < 48 then { b with work := Tab.set b.work (o.holder - 32) (fullTile seed) }
  else if o.d.base % 16 + p.persist ≤ 11 then b.setSlot (o.holder - 48) (fullTile seed) else b

/-- Writes values into a destination, with the census of what is written (R71, R77, R131). DESIGN CHOICE (log 66): of several elements that a zero
stride puts at one place, the last in row-major order stays. -/
def Block.writeOut (b : Block) (p : Program) (dst : VOp) (md : Nat → Rnd) (x : Nat → Nat → Exact) : Block × Tally :=
  let d := dst.d
  if d.tile then
    let t := packTile d.fmt md (fun i j => if d.turned then x j i else x i j)
    (b.put p dst.base (storeTile d.fmt.kind t.1), t.2)
  else
    (List.range (d.rows * d.cols)).foldl (fun (r : Block × Tally) e =>
      let w := d.fmt.write (md e) (x (e / d.cols) (e % d.cols))
      (r.1.putHeld p dst.holder (dst.start + d.place (e / d.cols) (e % d.cols)) (leBytes d.fmt.size w.code), r.2.add w.tally))
      (b, {})

/-- OCC: the bitmap of up to 1,024 elements in walk order (R148). -/
def occBytes (x : Nat → Exact) (n : Nat) : List Byte :=
  (List.range ((n + 7) / 8)).map (fun k =>
    BitVec.ofNat 8 ((List.range 8).foldl (fun m t =>
      let e := 8 * k + t
      if e < n then (match (x e).v with | some v => if v.isZero then m else m + 2 ^ t | none => m) else m) 0))

/-- The operands of a VEC: destination, and the sources that its operation uses (R173). -/
def vecOperands (p : Program) (q : QI) (op : Nat) (v : VecF) : VOp × List VOp :=
  (p.vop q v.dd v.dix, ([p.vop q v.sa v.saix, p.vop q v.sb v.sbix, p.vop q v.sc v.scix]).take (vecSources op))

/-- The effect of a VEC on its block, and what the census counts. A host error of R135 or R164 leaves every value
unpredictable (R11; log 11). -/
def Block.vec (b : Block) (p : Program) (seed : Nat) (q : QI) (op : Nat) (v : VecF) : Block × Tally :=
  let ops := vecOperands p q op v
  let dst := ops.1
  let src := ops.2
  if op = 0x38 then
    let a := (src[0]?).getD dst
    let n := Nat.min 1024 (a.d.rows * a.d.cols)
    let m := (n + 7) / 8
    let near := a.holder == 0 && dst != a && a.meets dst.base.toNat m
    if a.inside p && p.inStore dst.base m && !near then
      (b.put p dst.base (occBytes (fun e => a.elem b (seed + 1) (e / a.d.cols) (e % a.d.cols)) n), {})
    else (b.spoil p dst.base m seed, {})
  else
    let good := dst.inside p && src.all (fun o => o.inside p && !dst.clashes o)
    let md (e : Nat) : Rnd := rndAt v.rnd (seed + 5) e
    let x (r c : Nat) : Exact := if good then vecValue b op v seed dst src r c else wild seed (64 * r + c)
    if dst.inside p then b.writeOut p dst md x
    else
      let ws := (List.range (dst.d.rows * dst.d.cols)).map (fun e => dst.d.fmt.write (md e) (x (e / dst.d.cols) (e % dst.d.cols)))
      (b.spoilHeld p dst seed, ws.foldl (fun t w => t.add w.tally) {})

/-! ### Echo sampling (R157, R158) -/

/-- Operations that echo sampling covers: element-wise, rounded in RNE, and not into Q4 or Q8. -/
def echoes (op : Nat) (v : VecF) (dst : Desc) : Bool :=
  decide (op < 0x26) && v.rnd != 2 && dst.fmt != .q4 && dst.fmt != .q8

/-- Which of the groups of window `k`, of 2^e groups each, a block samples: a free phase (R157; log 10). -/
def echoPhase (b e k : Nat) : Nat := Config.echoPhase b k % 2 ^ e

/-- Groups sampled among those from group `from_` of a block's run of covered groups: one in every window of 2^e (R157). -/
def sampled (b e from_ groups : Nat) : Nat :=
  ((List.range (groups / 2 ^ e + 2)).filter (fun i =>
    let k := from_ / 2 ^ e + i
    let g := k * 2 ^ e + echoPhase b e k
    decide (from_ ≤ g) && decide (g < from_ + groups))).length

/-- Whether a pass is an H16 pass (R130): every operand that is neither a constant nor a broadcast, and the destination, are
H16. -/
def h16Pass (dst : Desc) (src : List Desc) : Bool :=
  dst.fmt == .h16 && src.all (fun a => a.space == .const || a.rs == 0 || a.cs == 0 || a.fmt == .h16)

/-- The echo of a VEC: its groups go on with the block's run of covered groups, those sampled count in the die's bins, and a mismatch, which the
hardware finds in a sampled group, is recorded and fails the RUN. -/
def State.echo (s : State) (x : Cmd) (p : Program) (b : Nat) (q : QI) (op : Nat) (v : VecF) : State :=
  let ops := vecOperands p q op v
  let e := (s.derate.table.echo[dieOf b]?).getD 0
  if e = 0 || !echoes op v ops.1.d then s
  else
    let lanes := if h16Pass ops.1.d (ops.2.map (·.d)) then 128 else 64
    let groups := (ops.1.d.rows * ops.1.d.cols + lanes - 1) / lanes
    let n := sampled b e (s.block b).echoRun groups
    let bin := s.bin b
    let s := (s.updBlock b (fun k => { k with echoRun := k.echoRun + groups })).updDie (dieOf b) (fun k =>
      { k with echoChecked := if n = 0 then k.echoChecked else Tab.upd 0 k.echoChecked bin (fun c => sat32 c n) })
    match (if n = 0 then none else q.echo) with
    | none => s
    | some l =>
      let s := s.note { code := 0x301, kind := 7, index := b, ctx := x.ctx,
                        payload := s.checkPayload b (opProgram x.op) op q.pos (l % 64) ((l + 32) % 64) 0 0 }
      let s := s.updBlock b (fun k => { k with echoFail := Tab.upd 0 k.echoFail bin (fun c => sat32 c 1) })
      s.updCmd x.id (fun y => y.suspectBlock b)

/-- A VEC runs. -/
def State.runVec (s : State) (x : Cmd) (p : Program) (b : Nat) (q : QI) (op : Nat) (v : VecF) : State :=
  let r := (s.block b).vec p s.fresh q op v
  let s := { s.setBlock b r.1 with fresh := s.fresh + vecSeeds }
  let s := s.updCmd x.id (fun y => y.tally v.cls (p.vop q v.dd v.dix).d.fmt r.2)
  s.echo x p b q op v

/-! ### GATE (R151 to R153, R181) -/

/-- A candidate: expert ID, score, and whether the score was an infinity (R64). -/
abbrev Cand := Nat × Fp × Bool

/-- A candidate comes before another: the larger score, then the lower ID. -/
def Cand.before (a b : Cand) : Bool := b.2.1.lt a.2.1 || (b.2.1.eqv a.2.1 && decide (a.1 < b.1))

def insertCand (a : Cand) : List Cand → List Cand
  | [] => [a]
  | b :: t => if Cand.before a b then a :: b :: t else b :: insertCand a t

/-- The first `k` candidates in order. -/
def topCands (k : Nat) (l : List Cand) : List Cand := (l.foldl (fun (a : List Cand) c => insertCand c a) []).take k

/-- Candidates in a token's record (R152, R153). -/
def recordCands (l : List Byte) : List Cand :=
  (List.range (Nat.min 8 (fld l 56 1))).filterMap (fun i =>
    match w40Num (BitVec.ofNat 40 (fld l (16 + 5 * i) 5)) with
    | some v => some (fld l (2 * i) 2, v, false)
    | none => none)

/-- The softmax of the selected scores: each power and quotient within two units in the last place (R149, R152; log 9). A weight counts as
saturated where a score was an infinity or a rounding on the way saturated, in any term of the sum (R84). -/
def softmax (seed : Nat) (l : List Cand) : List Exact :=
  match l with
  | [] => []
  | m :: _ =>
    let pow (i : Nat) (v : Fp) : Exact :=
      let d := ({ v := some (v.add m.2.1.negate) } : Exact).toW40
      onFinite ((d.times (({ v := some { neg := false, mag := log2eFix, e := -96 } } : Exact).toW40)).toW40)
        (vExp2 (Config.freeUnit seed i))
    let ps := (List.range l.length).map (fun i => pow i ((l[i]?).getD (0, Fp.zero, false)).2.1)
    let hot := anySat ps || l.any (·.2.2)
    let sum := blurSum (seed + 1) 0 ps
    (List.range l.length).map (fun i =>
      match ((ps[i]?).getD sum).v, sum.v with
      | some a, some t =>
        let w := if a.isZero then { v := some a, nz := true } else pickUlp 2 (Config.freeUnit (seed + 2) i) (a.mul (refRecip t))
        { w with sat := w.sat || hot }
      | _, _ => { v := none })

/-- The gate record of a selection, with the census of its weights. -/
def gateRecord (g : GateF) (seed : Nat) (sel : List Cand) : List Byte × Tally :=
  let ws := if g.norm then softmax seed sel else sel.map (fun c => ({ v := some c.2.1, sat := c.2.2 } : Exact))
  let out := (List.range ws.length).map (fun i => Fmt.w40.write (rndAt g.rnd (seed + 3) i) ((ws[i]?).getD { v := none }))
  (sel.flatMap (fun c => leBytes 2 c.1) ++ zeros (16 - 2 * sel.length) ++ out.flatMap (fun w => leBytes 5 w.code) ++
    zeros (40 - 5 * sel.length) ++ leBytes 1 sel.length ++ leBytes 1 (if g.norm then 1 else 0) ++ zeros 6,
   out.foldl (fun t w => t.add w.tally) {})

/-- GATE of one token. A MERGE into a normed record leaves it unpredictable. -/
def Block.gateRow (b : Block) (p : Program) (seed : Nat) (sc : VOp) (g : GateF) (out : Nat) (r : Nat) : Block × Tally :=
  let old := b.bs.readN (out + 64 * r) 64
  let scores := (List.range sc.d.cols).filterMap (fun c =>
    let e := sc.elem b (seed + 1) r c
    e.v.map (fun v => ((g.expertBase + c) % 65536, v, e.sat)))
  if g.merge && bitOf (fld old 57 1) 0 then (b.spoil p (out + 64 * r : Nat) 64 seed, {})
  else
    let w := gateRecord g (seed + 2 + 4 * r) (topCands (g.km1 + 1) ((if g.merge then recordCands old else []) ++ scores))
    (b.put p (out + 64 * r : Nat) w.1, w.2)

/-- Numbers for free values that a GATE takes. -/
def gateSeeds : Nat := 260

/-- The score descriptor and the first record of a GATE. -/
def gateOperands (p : Program) (q : QI) (g : GateF) : VOp × Int := (p.vop q g.sd g.six, (g.outp : Int) + q.ix g.oix)

/-- GATE runs: one record per row of scores. -/
def State.runGate (s : State) (x : Cmd) (p : Program) (b : Nat) (q : QI) (g : GateF) : State :=
  let ops := gateOperands p q g
  let sc := ops.1
  let n := 64 * sc.d.rows
  let clash := sc.holder == 0 && sc.meets ops.2.toNat n
  let r := if sc.inside p && p.inStore ops.2 n && ops.2 % 64 == 0 && !clash then
      (List.range sc.d.rows).foldl (fun (a : Block × Tally) t =>
        let w := a.1.gateRow p s.fresh sc g ops.2.toNat t
        (w.1, a.2.add w.2)) (s.block b, {})
    else ((s.block b).spoil p ops.2 n s.fresh, {})
  ({ s.setBlock b r.1 with fresh := s.fresh + gateSeeds }).updCmd x.id (fun y => y.tally g.cls .w40 r.2)

end Sys2Proof.Machine
end

