-- ==== Sys2Proof/Machine/Mov.lean ====
section
/-! DEFINITION. What MOVs do (06 R174 to R176, R188; 08 R216, R226; 12 R365): transfers between HBM and the block store,
SEND and RECV, PDISP and PTAKE. -/

namespace Sys2Proof.Machine

/-! ### Regions as a RUN sees them (07 R192, R197; 06 R167) -/

/-- The buffer that a region index resolves to for a RUN: a bound region's is that of the version it names, and an OPTSTEP's
stepped region is the buffer that receives the new version (R197). -/
def State.runBuf (s : State) (x : Cmd) (e : RegEntry) : Nat :=
  let w := s.weight e.wreg
  let bound : Nat :=
    match x.binds.find? (fun q => q.1 == e.wreg) with
    | some q => if w.v = q.2 then (if w.curBuf then 1 else 0) else if w.curBuf then 0 else 1
    | none => s.bufOf e
  if e.kind = 2 then
    match x.op with
    | .optstep p => if bindWreg p.step = e.wreg then w.receiving else bound
    | _ => bound
  else s.bufOf e

/-- The byte that block `b` loads: one that its RUN has stored is seen as R167 allows, else it is undefined. -/
def State.runByte (s : State) (x : Cmd) (b key : Nat) : Byte :=
  match (x.writes.filter (fun w => w.addr == key)).getLast? with
  | some w => if w.lvl = 2 || (w.lvl == 1 && w.blk == b) then w.val else s.hbm.read key
  | none => s.hbm.read key

/-- Loads bytes of a region. -/
def State.runLoad (s : State) (x : Cmd) (b : Nat) (e : RegEntry) (o n : Nat) : List Byte :=
  (List.range n).map (fun k => s.runByte x b (e.key (s.runBuf x e) (o + k)))

/-- Stores bytes of a region into staging, 64 at a time; bytes in frozen slabs are not written (R192). -/
def State.runStore (s : State) (x : Cmd) (b r : Nat) (e : RegEntry) (o : Nat) (l : List Byte) : State :=
  (List.range ((o % 64 + l.length + 63) / 64)).foldl (fun (s : State) i =>
    let lo := Nat.max o ((o / 64 + i) * 64)
    let hi := Nat.min (o + l.length) ((o / 64 + i + 1) * 64)
    if s.drops x r lo then s else s.stage x.id e (s.runBuf x e) lo b 0 (sub8 l (lo - o) (hi - lo))) s

/-! ### Addresses -/

/-- Bytes that a MOV moves at its block-store side. -/
def movBytes (m : MovF) (kind : Nat) : Nat :=
  if kind = 2 ∨ kind = 3 then (m.count + 1) * tileBytes m.tkind
  else if 6 ≤ kind then (m.count + 1) * rowBytes (bits m.off 20 8) else (m.count + 1) * 64

def movAddr (m : MovF) (q : QI) : Int := (m.bsaddr : Int) + q.ix m.bix

/-- The byte offset in the region (R164): the index register's value, shifted, is added. -/
def movOffset (m : MovF) (q : QI) : Int := (m.off : Int) + q.ix m.xix * 2 ^ m.xsh

/-- The gate-record address of a PDISP, with the index register added (R216). -/
def movGrec (m : MovF) (q : QI) : Int := ((bits m.off 0 20 : Nat) : Int) + q.ix m.bix

/-- Alignment of the block-store address, and of a byte kind's memory offset (R175, which states none for RECV, PDISP and PTAKE). -/
def movAligned (m : MovF) (kind : Nat) (q : QI) : Bool :=
  (if kind = 2 ∨ kind = 3 then movAddr m q % 256 == 0 else decide (4 < kind) || movAddr m q % 64 == 0) && (decide (1 < kind) || movOffset m q % 64 == 0)

/-- A command is the OPTSTEP that steps a region: its stores reach the region, which grants no right to write (R194, R197, R249). -/
def Cmd.steps (x : Cmd) (e : RegEntry) : Bool :=
  match x.op with
  | .optstep p => e.kind == 2 && e.wreg == bindWreg p.step
  | _ => false

/-- The memory range of a MOV lies in its region, and the region's rights allow it (R176), or its OPTSTEP steps the region. -/
def State.movAllowed (s : State) (x : Cmd) (kind : Nat) (q : QI) (m : MovF) : Bool :=
  let e := (s.ctx x.ctx).region m.aux
  let o := (movOffset m q).toNat
  decide (0 ≤ movOffset m q) &&
    (s.allows x.ctx { region := m.aux, off := o } (movBytes m kind) (if kind % 2 = 0 then .rd else .wr) false ||
      (kind % 2 == 1 && x.steps e && e.valid && e.state == 0 && decide (o + movBytes m kind ≤ e.size)))

/-! ### The transfers -/

/-- Bytes of the block store; outside it they are unpredictable (R11; log 11). -/
def Block.take64 (b : Block) (p : Program) (good : Bool) (seed : Nat) (a : Int) (n : Nat) : List Byte :=
  if good && p.inStore a n then b.bs.readN a.toNat n else (List.range n).map (fun k => Config.freeByte seed k)

/-- A load or store ends: LDB, STB, LDT, STT (R175, R99). -/
def State.moveEnd (s : State) (x : Cmd) (p : Program) (b : Nat) (q : QI) (kind : Nat) (m : MovF) : State :=
  let e := (s.ctx x.ctx).region m.aux
  let a := movAddr m q
  let o := (movOffset m q).toNat
  let n := movBytes m kind
  let t := tileBytes m.tkind
  let good := movAligned m kind q
  if kind % 2 = 0 then
    if good && p.inStore a n then
      let l := s.runLoad x b e o n
      let l := if kind = 0 then l
        else (List.range (m.count + 1)).flatMap (fun i => storeTile m.tkind (sub8 l (i * t) t))
      s.updBlock b (fun k => k.put p a l)
    else (s.updBlock b (fun k => k.spoil p a n s.fresh)).burn
  else
    let l := (s.block b).take64 p good s.fresh a n
    let dev (c : List Byte) : List Byte :=
      -- byte j of the device layout stands at the place that devOffset sends to j
      let inv : Tab Nat := (List.range t).foldl (fun (r : Tab Nat) k => Tab.set r (devOffset m.tkind k) k) []
      (List.range t).map (fun j => (c.drop (Tab.get 0 inv j)).headD 0)
    let l := if kind = 1 then l else (List.range (m.count + 1)).flatMap (fun i => dev (sub8 l (i * t) t))
    (s.runStore x b m.aux e o l).burn

/-! ### Channels -/

/-- The entry that a RUN uses for a channel in a direction, and the ordinal it pairs block `b` with (R364). -/
def State.channelOf (s : State) (x : Cmd) (b dir ch : Nat) : Option (ChanEnt × Nat) :=
  match Tab.find x.chans ch with
  | some e =>
    if e.dir = dir then (e.pairOf (s.ordinalOf (s.ctxPart x.ctx) b)).map (fun o => (e, o)) else none
  | none => none

/-- A SEND has its credit (R365). -/
def State.sendReady (s : State) (x : Cmd) (b : Nat) (m : MovF) : Bool :=
  match s.channelOf x b 1 m.aux with
  | none => true
  | some c =>
    let s := s.useChan b (chanKey x.ctx m.aux) c.1
    (s.chan b (chanKey x.ctx m.aux)).maySend (m.count + 1)

/-- SEND; a block that the entry pairs with none ends its RUN with REGION_FAULT (log 24). -/
def State.runSend (s : State) (x : Cmd) (p : Program) (b : Nat) (q : QI) (m : MovF) : State :=
  match s.channelOf x b 1 m.aux with
  | none => s.endNow x.id stRegionFault 0 0
  | some c =>
    ((s.useChan b (chanKey x.ctx m.aux) c.1).sendUnits x b m.aux c.2
      ((s.block b).take64 p (movAligned m 4 q) s.fresh (movAddr m q) (movBytes m 4))).burn

/-- RECV: an address formed at run time is not checked against the landing lines (R164); an area outside the block store is a host error that arms
nothing. -/
def State.runRecv (s : State) (x : Cmd) (p : Program) (b : Nat) (q : QI) (m : MovF) : State :=
  match s.channelOf x b 2 m.aux with
  | none => s.endNow x.id stRegionFault 0 0
  | some c =>
    let a := movAddr m q
    if p.inStore a (movBytes m 5) then
      (s.useChan b (chanKey x.ctx m.aux) c.1).armArea x b m.aux c.2 a.toNat (m.count + 1)
    else (s.updBlock b (fun k => k.spoil p a (movBytes m 5) s.fresh)).burn

/-! ### The Pass unit (R216, R217, R226) -/

/-- PDISP: each row with its gate record is dispatched under the routing table (R216, R217); on a die whose Pass unit is
quarantined the RUN ends (R387). -/
def State.runPdisp (s : State) (x : Cmd) (p : Program) (b : Nat) (q : QI) (m : MovF) : State :=
  let fail := s.endNow x.id stPassState 4 m.aux
  if s.quarantined.contains (engPass (dieOf b)) then s.endNow x.id stEngineLost 10 (engPass (dieOf b))
  else match s.table x.ctx m.aux with
  | none => fail
  | some t =>
    match t.dispatch with
    | none => fail
    | some batch =>
      let g := movGrec m q
      let first : Int := (((s.block b).ordinal * t.d.tokPerBlock : Nat) : Int) + (g - (t.d.grecBase : Int)) / 64
      let n := m.count + 1
      let rb := rowBytes (bits m.off 20 8)
      let denied := t.d.dispatchRefs.find? (fun r => !s.allows x.ctx r.1 r.2.1 r.2.2.1 r.2.2.2)
      if bits m.off 20 8 != t.d.rowUnits || decide (first < 0) || decide ((t.d.maxTok : Int) < first + (n : Int)) then fail
      else if denied.isSome then s.endNow x.id stRegionFault 1 ((denied.map (fun r => r.1.region)).getD 0)
      else
        let rows := (s.block b).take64 p (movAligned m 6 q) s.fresh (movAddr m q) (n * rb)
        let recs := (s.block b).take64 p (g % 64 == 0) (s.fresh + 1) g (n * 64)
        (List.range n).foldl (fun (s : State) i =>
          s.dispatchNew x.id x.ctx m.aux batch (first.toNat + i) (some b) (sub8 rows (i * rb) rb) (sub8 recs (i * 64) 64))
          (s.burn).burn

/-- The buffers of a slot that are sealed and have not returned in their current phase: index, buffer, phase (R226). -/
def SlotSt.openBufs (x : SlotSt) : List (Nat × SlotBuf × Nat) :=
  x.bufs.filterMap (fun (k : Nat × SlotBuf) =>
    if k.2.bwd.isSealed && !k.2.bwd.returned then some (k.1, k.2, 1)
    else if k.2.fwd.isSealed && !k.2.fwd.returned then some (k.1, k.2, 0) else none)

/-- The oldest of them. -/
def SlotSt.oldestBuf (x : SlotSt) : Option (Nat × SlotBuf × Nat) :=
  x.openBufs.foldl (fun (r : Option (Nat × SlotBuf × Nat)) k =>
    match r with
    | none => some k
    | some o => if older16 k.2.1.batch o.2.1.batch then some k else r) none

/-- PTAKE: rows of the oldest sealed buffer (R226); positions beyond CAP or the block's share read as zero rows. -/
def State.runPtake (s : State) (x : Cmd) (p : Program) (b : Nat) (q : QI) (m : MovF) : State :=
  let fail := s.endNow x.id stPassState 4 m.aux
  if s.quarantined.contains (engPass (dieOf b)) then s.endNow x.id stEngineLost 10 (engPass (dieOf b))
  else match s.slot x.ctx m.aux with
  | none => fail
  | some t =>
    match t.oldestBuf with
    | none => fail
    | some k =>
      if bits m.off 20 8 != t.d.rowUnits then fail
      else
        let rb := rowBytes t.d.rowUnits
        let ref := if k.2.2 = 1 then t.d.grad else t.d.inp
        let area : Ref := { ref with off := ref.off + k.1 * bufBytes t.d }
        if !s.allows x.ctx area (bufBytes t.d) .rd false then s.endNow x.id stRegionFault 1 ref.region else
        let pos := (s.block b).ptakePos
        let g : Int := (s.ordinalOf (s.ctxPart x.ctx) b : Int) - (t.d.bgFirst : Int)
        let row (i : Nat) : List Byte :=
          let at_ : Int := g * (t.d.rpb : Int) + (pos + i : Nat)
          if pos + i < t.d.rpb && decide (0 ≤ at_) && decide (at_ < (t.d.cap : Int)) then
            s.readRef x.ctx { ref with off := ref.off + (k.1 * t.d.cap + at_.toNat) * rb } rb
          else zeros rb
        let l := (List.range (m.count + 1)).flatMap row
        let done (y : Block) : Block := { y with ptakePos := pos + m.count + 1 }
        if movAligned m 7 q && p.inStore (movAddr m q) l.length then s.updBlock b (fun y => done (y.put p (movAddr m q) l))
        else (s.updBlock b (fun y => done (y.spoil p (movAddr m q) l.length s.fresh))).burn

end Sys2Proof.Machine
end

