-- ==== Sys2Proof/Machine/Engine.lean ====
section
/-! DEFINITION. How a block runs its program (06 R163, R178 to R189): the queues of its engines, the scoreboard, issue,
loops, barriers, and the end. -/

namespace Sys2Proof.Machine

/-! ### What an instruction touches (R184 to R188) -/

def QI.ti (q : QI) : Option TI := decodeTI q.word

/-- Engine queues: 0 matrix, 1 vector, 2 HBM MOV, 3 SEND, 4 Pass MOV, 5 RECV. -/
def QI.engine (q : QI) : Nat :=
  match q.ti with
  | some (.mm _) => 0
  | some (.mov k _) => if k ≤ 3 then 2 else if k = 4 then 3 else if k = 5 then 5 else 4
  | _ => 1

/-- Block-store lines: first, the one after the last, and whether they are written (R186). -/
structure Lines where
  lo : Nat
  hi : Nat
  wr : Bool
  deriving DecidableEq, Repr

def bytesLines (a : Int) (n : Nat) (wr : Bool) : Lines := { lo := a.toNat / 256, hi := ((a + n).toNat + 255) / 256, wr := wr }

def VOp.ranges (o : VOp) (wr : Bool) : List Lines := if o.d.space = .bs then [bytesLines o.base o.d.span wr] else []

def QI.ranges (q : QI) (p : Program) : List Lines :=
  match q.ti with
  | some (.mm f) =>
    ([opndA q f, opndB q f].filter (fun o => o.src != 2)).map (fun o =>
      ({ lo := o.lines.1.toNat, hi := o.lines.2.toNat, wr := false } : Lines))
  | some (.vec op v) =>
    let ops := vecOperands p q op v
    (if op = 0x38 then [bytesLines ops.1.base 128 true] else ops.1.ranges true) ++ ops.2.flatMap (fun o => o.ranges false)
  | some (.gate g) =>
    let ops := gateOperands p q g
    bytesLines ops.2 (64 * ops.1.d.rows) true :: ops.1.ranges false
  | some (.mov k m) =>
    bytesLines (movAddr m q) (movBytes m k) (k == 0 || k == 2 || k == 5 || k == 7) ::
      (if k = 6 then [bytesLines (movGrec m q) (64 * (m.count + 1)) false] else [])
  | _ => []

def Lines.meets (a b : Lines) : Bool := (a.wr || b.wr) && decide (a.lo < b.hi) && decide (b.lo < a.hi)

/-- Fold slots that an instruction reads or writes. -/
def QI.slots (q : QI) (p : Program) : List Nat :=
  match q.ti with
  | some (.mm f) => if f.acc = 2 then [f.fslot] else []
  | some (.vec op v) =>
    let ops := vecOperands p q op v
    ((ops.1 :: ops.2).filter (fun o => o.d.space == .fs)).map (fun o => o.d.base % 16)
  | some (.gate g) => let o := (gateOperands p q g).1; if o.d.space = .fs then [o.d.base % 16] else []
  | _ => []

/-- Queue entries that an instruction names: how many must be full (R141). -/
def QI.entries (q : QI) (p : Program) : Nat :=
  let need (l : List VOp) : Nat :=
    l.foldl (fun n o => if o.d.space = .tq ∧ o.d.base < 8 then Nat.max n (o.d.base + 1) else n) 0
  match q.ti with
  | some (.vec op v) => let ops := vecOperands p q op v; need (ops.1 :: ops.2)
  | some (.gate g) => need [(gateOperands p q g).1]
  | _ => 0

/-- An instruction waits for an earlier one that has not finished: its engine's order, which HBM MOVs keep only among those
that no hazard holds (R188), overlapping lines, or a fold slot (R185). -/
def QI.waitsFor (p : Program) (q e : QI) : Bool :=
  (q.engine == e.engine && q.engine != 2) ||
    (q.ranges p).any (fun a => (e.ranges p).any a.meets) || (q.slots p).any (e.slots p).contains

/-- What an instruction needs beside that: a free drain buffer, full queue entries, a fold slot without a drain on its way,
credit. -/
def State.tiReady (s : State) (x : Cmd) (p : Program) (b : Nat) (q : QI) : Bool :=
  let k := s.block b
  match q.ti with
  | some (.mm f) => f.hold || k.drain.isNone
  | some (.vec _ _) | some (.gate _) =>
    decide (q.entries p ≤ k.tq.length) &&
      (match k.drain with | some d => !d.toFold || !(q.slots p).contains d.slot | none => true)
  | some (.mov 4 m) => s.sendReady x b m
  | _ => true

/-- The places in a block's queues whose instructions can run now. -/
def State.eligible (s : State) (x : Cmd) (p : Program) (b : Nat) : List Nat :=
  let l := (s.block b).queue
  (List.range l.length).filter (fun i =>
    match l[i]? with
    | some q => (l.take i).all (fun e => !q.waitsFor p e) && s.tiReady x p b q
    | none => false)

/-! ### Running -/

/-- TQPOP (R141, R177); a pop without a full entry leaves the queue unpredictable (R11; log 11). -/
def Block.pop (b : Block) (p : Program) (seed n : Nat) : Block :=
  if n ≤ b.tq.length then { b with tq := b.tq.drop n }
  else { b with tq := List.replicate (Config.freeBits seed 0 % (9 - p.work)) (fullTile (seed + 1)) }

/-- The program of a command that runs, with the command. -/
def State.runOf (s : State) (b : Nat) : Option (Cmd × Program) :=
  match (s.block b).run with
  | none => none
  | some id =>
    match s.cmd id with
    | none => none
    | some x => (s.programOf x).map (fun p => (x, p))

/-- An instruction of a queue runs. -/
def State.runTI (s : State) (x : Cmd) (p : Program) (b : Nat) (q : QI) : State :=
  match q.ti with
  | some (.mm f) => { s.setBlock b ((s.block b).mm p x.id s.fresh q.pos q f) with fresh := s.fresh + mmSeeds }
  | some (.vec op v) => s.runVec x p b q op v
  | some (.gate g) => s.runGate x p b q g
  | some (.sync 0 a _) => ((s.updBlock b (fun k => k.pop p s.fresh (a + 1))).burn).burn
  | some (.mov 4 m) => s.runSend x p b q m
  | some (.mov 5 m) => s.runRecv x p b q m
  | some (.mov 6 m) => s.runPdisp x p b q m
  | some (.mov 7 m) => s.runPtake x p b q m
  | some (.mov k m) => s.moveEnd x p b q k m
  | _ => s

/-- Runs the instruction at place `i` of a block's queues and takes it out. -/
def State.runAt (s : State) (x : Cmd) (p : Program) (b i : Nat) : State :=
  match (s.block b).queue[i]? with
  | none => s
  | some q => (s.updBlock b (fun k => { k with queue := dropAt k.queue i })).runTI x p b q

/-- Engines run what they can, at most `n` instructions; a transfer of an HBM MOV ends by DMA_TRANSFER_END alone. -/
def State.pump (b : Nat) : Nat → State → State
  | 0, s => s
  | n + 1, s =>
    match s.runOf b with
    | none => s
    | some r =>
      let ready := (s.eligible r.1 r.2 b).filter (fun i =>
        match (s.block b).queue[i]? with | some q => q.engine != 2 | none => false)
      match ready with
      | [] => s
      | i :: _ => State.pump b n (s.runAt r.1 r.2 b i)

def State.pumpAll (s : State) (b : Nat) : State := State.pump b ((s.block b).queue.length + 1) s

/-! ### Issue (R163, R183, R184, R186) -/

/-- The end of a loop's pass: the index register counts it, and the next pass begins or the loop is left. -/
def loopBack : List LoopSt → Nat → List (BitVec 32) → List LoopSt × Nat × List (BitVec 32)
  | [], n, ix => ([], n, ix)
  | l :: t, n, ix =>
    if n = l.stop then
      let ix := setAt ix l.dst ((ix[l.dst]?).getD 0 + 1)
      if 0 < l.left then ({ l with left := l.left - 1 } :: t, l.first, ix) else loopBack t n ix
    else (l :: t, n, ix)

/-- Issue goes on at an instruction, or at the top of a loop that ends before it. -/
def Block.goto (b : Block) (n : Nat) : Block :=
  let r := loopBack b.loops n b.idx
  { b with loops := r.1, pc := r.2.1, idx := r.2.2 }

def Block.next (b : Block) : Block := b.goto (b.pc + 1)

/-- The instruction that a block issues next. -/
def State.fetchTI (s : State) (b : Nat) : Option (Cmd × Program × Nat) :=
  match s.runOf b with
  | none => none
  | some r =>
    if r.1.phase = .issued && !(s.block b).ended then (r.2.instrs[(s.block b).pc]?).map (fun w => (r.1, r.2, w)) else none

/-- A block's next instruction is the one that a row names: what runs then; the interrupt lines follow (R457, R458). -/
def State.withTI (s : State) (b : Nat) (t : TI) (f : Cmd → Program → Nat → State) : State :=
  match s.fetchTI b with
  | none => s
  | some r => if decodeTI r.2.2 = some t then (f r.1 r.2.1 r.2.2).settle else s

/-- Depth of an engine's queue (R184): HBM MOVs, SENDs, Pass MOVs and RECVs share one. -/
def Block.room (b : Block) (q : QI) : Bool :=
  let mine := b.queue.filter (fun e => (if 2 ≤ q.engine then decide (2 ≤ e.engine) else e.engine == q.engine))
  decide (mine.length < (if q.engine = 0 then 8 else 16))

/-- The scoreboard can track an instruction (R186). -/
def Block.tracks (b : Block) (p : Program) (q : QI) : Bool :=
  decide ((b.queue.map (fun e => (e.ranges p).length)).foldl (· + ·) (q.ranges p).length ≤ 48)

/-- A MOV between HBM and the block store breaks R176. -/
def State.movFaults (s : State) (x : Cmd) (q : QI) : Option Nat :=
  match q.ti with
  | some (.mov k m) => if k ≤ 3 && !s.movAllowed x k q m then some m.aux else none
  | _ => none

/-- Issues an instruction to its engine's queue, where it runs at once if nothing holds it. -/
def State.issueTI (s : State) (b : Nat) (t : TI) (echo : Option Nat) : State :=
  s.withTI b t (fun x p w =>
    let k := s.block b
    let q : QI := { pos := k.pc, word := w, idx := k.idx, echo := echo }
    if k.room q && k.tracks p q then
      match s.movFaults x q with
      | some r => s.endNow x.id stRegionFault 1 r
      | none => (s.setBlock b { k.next with queue := k.queue ++ [q] }).pumpAll b
    else s)

/-! ### Transfers and drains that end -/

/-- A MOV between HBM and the block store needs a DMA engine on every stack of its region (R13, R382). -/
def State.dmaFree (s : State) (x : Cmd) (q : QI) : Bool :=
  match q.ti with
  | some (.mov k m) => decide (3 < k) || (stacksOf ((s.ctx x.ctx).region m.aux).dmask).all (fun d => !s.stackHeld d)
  | _ => true

/-- DMA_TRANSFER_END: the first HBM MOV that nothing holds ends its transfer (R188); one on a stack whose DMA engines are both held does not
proceed (R382). -/
def State.transferEnd (s : State) (b : Nat) : State :=
  match s.runOf b with
  | none => s
  | some r =>
    match (s.eligible r.1 r.2 b).filter (fun i =>
        match (s.block b).queue[i]? with | some q => q.engine == 2 && s.dmaFree r.1 q | none => false) with
    | [] => s
    | i :: _ => ((s.runAt r.1 r.2 b i).pumpAll b).settle

/-- DRAIN_END on a block. -/
def State.drainOf (s : State) (b : Nat) (upset : List (Nat × W40)) : State :=
  match s.runOf b with
  | none => s
  | some r =>
    match (s.block b).drain with
    | none => s
    | some d => if (s.block b).drains r.2 d then ((s.endDrain b r.1 d upset).pumpAll b).settle else s

/-! ### SYNC and CTL (R177 to R180, R182, R183, R189) -/

/-- No try of a block is unanswered, and its rerouting is over (R221). -/
def Cmd.passIdle (x : Cmd) (b : Nat) : Bool :=
  x.toks.all (fun k => k.origin != some b || (k.waiting.isEmpty && k.refused.isEmpty))

/-- Nothing of a kind of R177's FENCE is unfinished on a block. -/
def State.quiet (s : State) (x : Cmd) (b : Nat) (kind : Nat) : Bool :=
  let k := s.block b
  let none_ (f : TI → Bool) : Bool := k.queue.all (fun q => match q.ti with | some t => !f t | none => true)
  match kind with
  | 0 => none_ (fun t => match t with | .mov n _ => n == 0 || n == 2 | _ => false)
  | 1 => none_ (fun t => match t with | .mov n _ => n == 1 || n == 3 | _ => false)
  | 2 => none_ (fun t => match t with | .mov n _ => n == 4 | _ => false)
  | 3 => none_ (fun t => match t with | .mov n _ => n == 6 || n == 7 | _ => false) && x.passIdle b
  | 4 => none_ (fun t => match t with | .mm _ => true | _ => false) && k.drain.isNone
  | _ => none_ (fun t => match t with | .vec _ _ => true | .gate _ => true | _ => false)

/-- FENCE: holds issue until every kind of the mask is quiet; the stores that it covers are then seen by their own block
(R167). -/
def State.fenceTI (s : State) (b mask : Nat) : State :=
  s.withTI b (.sync 2 mask 0) (fun x _ _ =>
    if (List.range 6).all (fun i => !bitOf mask i || s.quiet x b i) then
      let s := s.updBlock b Block.next
      if bitOf mask 1 then
        s.updCmd x.id (fun y =>
          { y with writes := y.writes.map (fun w => if w.blk = b ∧ w.lvl = 0 then { w with lvl := 1 } else w) })
      else s
    else s)

/-- BAR: the last block of the group to arrive releases all; stores that were fenced are then seen by every block (R167,
R178). -/
def State.barTI (s : State) (b : Nat) : State :=
  s.withTI b (.sync 3 0 0) (fun x _ _ =>
    let k := s.block b
    if k.barWait then s
    else
      let s := s.setBlock b { k with bars := k.bars + 1, barWait := true }
      if x.blocks.all (fun c => decide (k.bars + 1 ≤ (s.block c).bars)) then
        let s := x.blocks.foldl (fun (s : State) c =>
          s.updBlock c (fun y => if y.barWait && y.bars == k.bars + 1 then { y with barWait := false }.next else y)) s
        s.updCmd x.id (fun y => { y with writes := y.writes.map (fun w => if w.lvl = 1 then { w with lvl := 2 } else w) })
      else s)

/-- TQWAIT: in the vector queue's order, until enough entries are full. -/
def State.tqwaitTI (s : State) (b a : Nat) : State :=
  s.withTI b (.sync 1 a 0) (fun _ _ _ =>
    let k := s.block b
    if k.queue.all (fun q => q.engine != 1) && decide (a + 1 ≤ k.tq.length) then s.setBlock b k.next else s)

/-- SIGNAL acts on the block with group ordinal 0 alone (R180). -/
def State.signalTI (s : State) (b sig : Nat) (v : BitVec 32) : State :=
  s.withTI b (.sync 4 sig v) (fun x _ _ =>
    let s' := s.updBlock b Block.next
    if (s.block b).ordinal = 0 then s'.updCmd x.id (fun y => { y with sigs := y.sigs ++ [(sig, v.zeroExtend 64)] }) else s')

/-- LAND: until the oldest armed area of the channel is complete (R179). -/
def State.landTI (s : State) (b ch : Nat) : State :=
  s.withTI b (.sync 5 ch 0) (fun x _ _ =>
    let key := chanKey x.ctx ch
    match (s.chan b key).oldest with
    | none => s
    | some a => if a.complete then (s.landArea b key x.id a).updBlock b Block.next else s)

/-- Writes an index register. A body that writes its loop's register leaves it unpredictable (R183; log 11). -/
def Block.setIx (b : Block) (seed dst : Nat) (v : BitVec 32) : Block :=
  let v := if b.loops.any (fun l => l.dst == dst) then BitVec.ofNat 32 (Config.freeBits seed 0) else v
  { b with idx := setAt b.idx dst v }

/-- A CTL that writes an index register from the values of the block's registers. -/
def State.ctlTI (s : State) (b : Nat) (t : TI) (dst : Nat) (f : (Nat → BitVec 32) → BitVec 32) : State :=
  s.withTI b t (fun _ _ _ =>
    (s.updBlock b (fun k => (k.setIx s.fresh dst (f (fun n => (k.idx[n]?).getD 0))).next)).burn)

/-- LOOP (R183): the count is taken once on entry; a count of zero skips the body. -/
def Block.loop (b : Block) (seed dst sa : Nat) (imm : BitVec 32) (body : Nat) : Block :=
  let n := (imm + (b.idx[sa]?).getD 0).toInt.toNat
  let b' := b.setIx seed dst 0
  if n = 0 then b'.goto (b.pc + 1 + body)
  else { b' with loops := { first := b.pc + 1, stop := b.pc + 1 + body, left := n - 1, dst := dst } :: b.loops, pc := b.pc + 1 }

/-- CTL END (R141, R189): the full entries are discarded, so that pending drains finish; the block has ended once every
instruction that it issued has finished. -/
def State.ctlEndTI (s : State) (b : Nat) : State :=
  s.withTI b (.ctl 0 0 0 0 0 0) (fun x _ _ =>
    let k := s.block b
    let s := if k.queue.all (fun q => q.engine != 1) then s.setBlock b { k with tq := [] } else s
    let k := s.block b
    if k.queue.isEmpty && k.drain.isNone && x.passIdle b then s.setBlock b { k with ended := true } else s)

/-- A block's done acknowledgement (R189): with the last one the RUN is done, and its blocks keep what it staged for its
commit. `n` is the cycles that the block took. -/
def State.doneAck (s : State) (b n : Nat) : State :=
  match s.runOf b with
  | none => s
  | some r =>
    if (s.block b).ended && !(s.block b).acked then
      let s := s.updBlock b (fun k => { k with acked := true })
      let s := s.updCmd r.1.id (fun y => { y with cycles := Nat.max y.cycles n, acked := y.acked ++ [b] })
      if r.1.blocks.all (fun c => (s.block c).acked) then
        let s := r.1.blocks.foldl (fun (s : State) c => s.updBlock c (fun k => k.park r.1.id s.fresh r.2)) s
        ((s.updCmd r.1.id (fun y => { y with phase := .done, final := true })).burn).settle
      else s.settle
    else s

end Sys2Proof.Machine
end

