-- ==== Sys2Proof/Machine/TileRows.lean ====
section
/-! DEFINITION. The meanings of the tile-instruction rows (04 R92 to R127, 05 R129 to R158, 06 R169 to R189). A row is a
block's next instruction: it acts only where the block's program stands at that instruction, and it waits where R184 to
R188 hold it (assumption log 3). -/

namespace Sys2Proof.Machine

/-- A VEC of an operation. -/
def State.vecRow (s : State) (b op : Nat) (v : VecF) (echo : Option Nat) : State := s.issueTI b (.vec op v) echo

/-- A MOV of a kind. -/
def State.movRow (s : State) (b kind : Nat) (m : MovF) : State := s.issueTI b (.mov kind m) none

/-- MM (R92, R170): the matrix engine multiplies two operand sequences. -/
def execMm (b : Nat) (f : MmF) (s : State) : Host.Outcome State Fault Refusal :=
  .next (s.issueTI b (.mm f) none)

/-- DRAIN_END (R114): a finished tile leaves the drain buffer. -/
def execDrainEnd (b : Nat) (upset : List (Nat × W40)) (s : State) : Host.Outcome State Fault Refusal :=
  .next (s.drainOf b upset)

/-- CVT (R144): a in the destination format. -/
def execCvt (b : Nat) (v : VecF) (echo : Option Nat) (s : State) : Host.Outcome State Fault Refusal :=
  .next (s.vecRow b 0x01 v echo)

/-- ADD (R144): a + b. -/
def execAdd (b : Nat) (v : VecF) (echo : Option Nat) (s : State) : Host.Outcome State Fault Refusal :=
  .next (s.vecRow b 0x02 v echo)

/-- SUB (R144): a − b. -/
def execSub (b : Nat) (v : VecF) (echo : Option Nat) (s : State) : Host.Outcome State Fault Refusal :=
  .next (s.vecRow b 0x03 v echo)

/-- MUL (R144): a × b. -/
def execMul (b : Nat) (v : VecF) (echo : Option Nat) (s : State) : Host.Outcome State Fault Refusal :=
  .next (s.vecRow b 0x04 v echo)

/-- FMA (R144): a × b + c, rounded once. -/
def execFma (b : Nat) (v : VecF) (echo : Option Nat) (s : State) : Host.Outcome State Fault Refusal :=
  .next (s.vecRow b 0x05 v echo)

/-- MIN (R144): the smaller of a and b. -/
def execMin (b : Nat) (v : VecF) (echo : Option Nat) (s : State) : Host.Outcome State Fault Refusal :=
  .next (s.vecRow b 0x06 v echo)

/-- MAX (R144): the larger of a and b. -/
def execMax (b : Nat) (v : VecF) (echo : Option Nat) (s : State) : Host.Outcome State Fault Refusal :=
  .next (s.vecRow b 0x07 v echo)

/-- CMP (R144): 1 where a MOD b holds, else 0. -/
def execCmp (b : Nat) (v : VecF) (echo : Option Nat) (s : State) : Host.Outcome State Fault Refusal :=
  .next (s.vecRow b 0x08 v echo)

/-- SEL (R144): a where c is true, else b. -/
def execSel (b : Nat) (v : VecF) (echo : Option Nat) (s : State) : Host.Outcome State Fault Refusal :=
  .next (s.vecRow b 0x09 v echo)

/-- ABS (R144): the magnitude of a. -/
def execAbs (b : Nat) (v : VecF) (echo : Option Nat) (s : State) : Host.Outcome State Fault Refusal :=
  .next (s.vecRow b 0x0A v echo)

/-- NEG (R144): −a. -/
def execNeg (b : Nat) (v : VecF) (echo : Option Nat) (s : State) : Host.Outcome State Fault Refusal :=
  .next (s.vecRow b 0x0B v echo)

/-- EXP2 (R144): 2^a. -/
def execExp2 (b : Nat) (v : VecF) (echo : Option Nat) (s : State) : Host.Outcome State Fault Refusal :=
  .next (s.vecRow b 0x10 v echo)

/-- LOG2 (R144): log2 a. -/
def execLog2 (b : Nat) (v : VecF) (echo : Option Nat) (s : State) : Host.Outcome State Fault Refusal :=
  .next (s.vecRow b 0x11 v echo)

/-- RECIP (R144): 1 ÷ a. -/
def execRecip (b : Nat) (v : VecF) (echo : Option Nat) (s : State) : Host.Outcome State Fault Refusal :=
  .next (s.vecRow b 0x12 v echo)

/-- RSQRT (R144): 1 ÷ √a. -/
def execRsqrt (b : Nat) (v : VecF) (echo : Option Nat) (s : State) : Host.Outcome State Fault Refusal :=
  .next (s.vecRow b 0x13 v echo)

/-- SQRT (R144): √a. -/
def execSqrt (b : Nat) (v : VecF) (echo : Option Nat) (s : State) : Host.Outcome State Fault Refusal :=
  .next (s.vecRow b 0x14 v echo)

/-- SIGMOID (R144): 1 ÷ (1 + 2^(−a log2 e)). -/
def execSigmoid (b : Nat) (v : VecF) (echo : Option Nat) (s : State) : Host.Outcome State Fault Refusal :=
  .next (s.vecRow b 0x18 v echo)

/-- TANH (R144): 2 × SIGMOID(2a) − 1. -/
def execTanh (b : Nat) (v : VecF) (echo : Option Nat) (s : State) : Host.Outcome State Fault Refusal :=
  .next (s.vecRow b 0x19 v echo)

/-- RELU (R144): max(a, +0). -/
def execRelu (b : Nat) (v : VecF) (echo : Option Nat) (s : State) : Host.Outcome State Fault Refusal :=
  .next (s.vecRow b 0x1A v echo)

/-- SOFTPLUS (R144): ln 2 × log2(1 + 2^(a log2 e)). -/
def execSoftplus (b : Nat) (v : VecF) (echo : Option Nat) (s : State) : Host.Outcome State Fault Refusal :=
  .next (s.vecRow b 0x1B v echo)

/-- DSIG (R150): the incoming gradient times the derivative formed from the output. -/
def execDsig (b : Nat) (v : VecF) (echo : Option Nat) (s : State) : Host.Outcome State Fault Refusal :=
  .next (s.vecRow b 0x20 v echo)

/-- DTANH (R150): the incoming gradient times the derivative formed from the output. -/
def execDtanh (b : Nat) (v : VecF) (echo : Option Nat) (s : State) : Host.Outcome State Fault Refusal :=
  .next (s.vecRow b 0x21 v echo)

/-- DRELU (R150): the incoming gradient times the derivative formed from the output. -/
def execDrelu (b : Nat) (v : VecF) (echo : Option Nat) (s : State) : Host.Outcome State Fault Refusal :=
  .next (s.vecRow b 0x22 v echo)

/-- DEXP (R150): the incoming gradient times the derivative formed from the output. -/
def execDexp (b : Nat) (v : VecF) (echo : Option Nat) (s : State) : Host.Outcome State Fault Refusal :=
  .next (s.vecRow b 0x23 v echo)

/-- DRECIP (R150): the incoming gradient times the derivative formed from the output. -/
def execDrecip (b : Nat) (v : VecF) (echo : Option Nat) (s : State) : Host.Outcome State Fault Refusal :=
  .next (s.vecRow b 0x24 v echo)

/-- DRSQRT (R150): the incoming gradient times the derivative formed from the output. -/
def execDrsqrt (b : Nat) (v : VecF) (echo : Option Nat) (s : State) : Host.Outcome State Fault Refusal :=
  .next (s.vecRow b 0x25 v echo)

/-- DSOFTMAX (R150): y ⊙ (g − Σ g ⊙ y) along an axis. -/
def execDsoftmax (b : Nat) (v : VecF) (s : State) : Host.Outcome State Fault Refusal :=
  .next (s.vecRow b 0x26 v none)

/-- RSUM (R146): the sum along an axis. -/
def execRsum (b : Nat) (v : VecF) (s : State) : Host.Outcome State Fault Refusal :=
  .next (s.vecRow b 0x28 v none)

/-- RMAX (R146): the maximum along an axis. -/
def execRmax (b : Nat) (v : VecF) (s : State) : Host.Outcome State Fault Refusal :=
  .next (s.vecRow b 0x29 v none)

/-- RSSQ (R146): the sum of squares along an axis. -/
def execRssq (b : Nat) (v : VecF) (s : State) : Host.Outcome State Fault Refusal :=
  .next (s.vecRow b 0x2A v none)

/-- RANDU (R147): a uniform draw. -/
def execRandu (b : Nat) (v : VecF) (s : State) : Host.Outcome State Fault Refusal :=
  .next (s.vecRow b 0x30 v none)

/-- RANDN (R147): a normal draw. -/
def execRandn (b : Nat) (v : VecF) (s : State) : Host.Outcome State Fault Refusal :=
  .next (s.vecRow b 0x31 v none)

/-- OCC (R148): the occupancy bits of a. -/
def execOcc (b : Nat) (v : VecF) (s : State) : Host.Outcome State Fault Refusal :=
  .next (s.vecRow b 0x38 v none)

/-- GATE (R151): selects each token's top-k experts. -/
def execGate (b : Nat) (g : GateF) (s : State) : Host.Outcome State Fault Refusal :=
  .next (s.issueTI b (.gate g) none)

/-- LDB (R175): region bytes into the block store. -/
def execLdb (b : Nat) (m : MovF) (s : State) : Host.Outcome State Fault Refusal :=
  .next (s.movRow b 0 m)

/-- STB (R175): block-store bytes into a region. -/
def execStb (b : Nat) (m : MovF) (s : State) : Host.Outcome State Fault Refusal :=
  .next (s.movRow b 1 m)

/-- LDT (R175): region tiles into block-store tiles. -/
def execLdt (b : Nat) (m : MovF) (s : State) : Host.Outcome State Fault Refusal :=
  .next (s.movRow b 2 m)

/-- STT (R175): block-store tiles into region tiles. -/
def execStt (b : Nat) (m : MovF) (s : State) : Host.Outcome State Fault Refusal :=
  .next (s.movRow b 3 m)

/-- DMA_TRANSFER_END (R187, R188): the transfer of an HBM MOV ends. -/
def execDmaTransferEnd (b : Nat) (s : State) : Host.Outcome State Fault Refusal :=
  .next (s.transferEnd b)

/-- SEND (R365): sends block-store units on a channel within its credit. -/
def execSend (b : Nat) (m : MovF) (s : State) : Host.Outcome State Fault Refusal :=
  .next (s.movRow b 4 m)

/-- RECV (R365): arms a landing area and grants credit. -/
def execRecv (b : Nat) (m : MovF) (s : State) : Host.Outcome State Fault Refusal :=
  .next (s.movRow b 5 m)

/-- PDISP (R217): dispatches token rows under a routing table. -/
def execPdisp (b : Nat) (m : MovF) (s : State) : Host.Outcome State Fault Refusal :=
  .next (s.movRow b 6 m)

/-- PTAKE (R226): takes rows of the oldest sealed slot buffer. -/
def execPtake (b : Nat) (m : MovF) (s : State) : Host.Outcome State Fault Refusal :=
  .next (s.movRow b 7 m)

/-- TQPOP (R141, R177): frees the oldest full queue entries. -/
def execTqpop (b a8 : Nat) (s : State) : Host.Outcome State Fault Refusal :=
  .next (s.issueTI b (.sync 0 a8 0) none)

/-- TQWAIT (R177): holds issue until entries are full. -/
def execTqwait (b a8 : Nat) (s : State) : Host.Outcome State Fault Refusal :=
  .next (s.tqwaitTI b a8)

/-- SYNC FENCE (R177): holds issue until the kinds of its mask are complete. -/
def execSyncFence (b mask : Nat) (s : State) : Host.Outcome State Fault Refusal :=
  .next (s.fenceTI b mask)

/-- BAR (R178): the block-group barrier. -/
def execBar (b : Nat) (s : State) : Host.Outcome State Fault Refusal :=
  .next (s.barTI b)

/-- SYNC SIGNAL (R180): adds to a context signal at the RUN's commit. -/
def execSyncSignal (b sig : Nat) (v : BitVec 32) (s : State) : Host.Outcome State Fault Refusal :=
  .next (s.signalTI b sig v)

/-- LAND (R179): holds issue until the oldest armed area is complete. -/
def execLand (b ch : Nat) (s : State) : Host.Outcome State Fault Refusal :=
  .next (s.landTI b ch)

/-- CTL END (R189): ends the program once what it issued has finished. -/
def execCtlEnd (b : Nat) (s : State) : Host.Outcome State Fault Refusal :=
  .next (s.ctlEndTI b)

/-- CTL BUDGET (R182, R190): a declaration; it changes nothing. -/
def execBudget (b : Nat) (imm : BitVec 32) (s : State) : Host.Outcome State Fault Refusal :=
  .next (s.withTI b (.ctl 1 0 0 0 imm 0) (fun _ _ _ => s.updBlock b Block.next))

/-- CTL LOOP (R183). -/
def execLoop (b dst sa : Nat) (imm : BitVec 32) (body : Nat) (s : State) : Host.Outcome State Fault Refusal :=
  .next (s.withTI b (.ctl 2 dst sa 0 imm body) (fun _ _ _ =>
    (s.updBlock b (fun k => k.loop s.fresh dst sa imm body)).burn))

/-- CTL SETI (R182): I[DST] = IMM. -/
def execSeti (b dst : Nat) (imm : BitVec 32) (s : State) : Host.Outcome State Fault Refusal :=
  .next (s.ctlTI b (.ctl 3 dst 0 0 imm 0) dst (fun _ => imm))

/-- CTL ADDI (R182): I[DST] = I[SA] + IMM. -/
def execAddi (b dst sa : Nat) (imm : BitVec 32) (s : State) : Host.Outcome State Fault Refusal :=
  .next (s.ctlTI b (.ctl 4 dst sa 0 imm 0) dst (fun i => i sa + imm))

/-- CTL MULI (R182): I[DST] = I[SA] × IMM. -/
def execMuli (b dst sa : Nat) (imm : BitVec 32) (s : State) : Host.Outcome State Fault Refusal :=
  .next (s.ctlTI b (.ctl 5 dst sa 0 imm 0) dst (fun i => i sa * imm))

/-- CTL MADD (R182): I[DST] = I[SA] × IMM + I[SB]. -/
def execMadd (b dst sa sb : Nat) (imm : BitVec 32) (s : State) : Host.Outcome State Fault Refusal :=
  .next (s.ctlTI b (.ctl 6 dst sa sb imm 0) dst (fun i => i sa * imm + i sb))

/-- CTL DIVI (R182): I[DST] = floor(I[SA] ÷ IMM). -/
def execDivi (b dst sa : Nat) (imm : BitVec 32) (s : State) : Host.Outcome State Fault Refusal :=
  .next (s.ctlTI b (.ctl 7 dst sa 0 imm 0) dst (fun i => BitVec.ofInt 32 ((i sa).toInt / imm.toInt)))

/-- CTL MODI (R182): I[DST] = I[SA] − IMM × floor(I[SA] ÷ IMM). -/
def execModi (b dst sa : Nat) (imm : BitVec 32) (s : State) : Host.Outcome State Fault Refusal :=
  .next (s.ctlTI b (.ctl 8 dst sa 0 imm 0) dst (fun i => BitVec.ofInt 32 ((i sa).toInt % imm.toInt)))

/-- BLOCK_DONE_ACK (R189): a block's done acknowledgement. -/
def execBlockDoneAck (b cycles : Nat) (s : State) : Host.Outcome State Fault Refusal :=
  .next (s.doneAck b cycles)

end Sys2Proof.Machine
end

