-- ==== Sys2Proof/Machine/Power.lean ====
section
/-! DEFINITION. Power, cooling and the Crest governor (16 R466 to R477): the grant, the floor, ballast and the frequency steps of a
beat edge, and the events of the input stage, the sensors and the coolant loop. -/

namespace Sys2Proof.Machine

/-! ### Readings (R476, R485) -/

def sensors : Nat := 512

/-- The readings with one sensor's replaced. -/
def setTemp (l : List Int) (i : Nat) (v : Int) : List Int := (List.range sensors).map (fun k => if k = i then v else (l[k]?).getD 0)

def maxInt (l : List Int) : Int := l.foldl max (-32768)

/-- The hottest sensor of a compute die: sensors 60d to 60d + 59. -/
def Crest.hottest (c : Crest) (d : Nat) : Int := maxInt ((List.range 60).map (fun i => (c.temps[60 * d + i]?).getD 0))

/-- TJ_MAX, and the lowest sensor that reads it. -/
def Crest.tjMax (c : Crest) : Int := if c.temps.isEmpty then 0 else maxInt c.temps
def Crest.tjSensor (c : Crest) : Nat := (c.temps.findIdx? (fun t => t == c.tjMax)).getD 0

/-- 100 °C, 120 °C and 90 °C in units of 0.125 °C. -/
def hot100 : Int := 800
def hot120 : Int := 960
def hot90 : Int := 720

/-! ### The frequency step of a die (R404, R471) -/

/-- The fastest step that the derating table allows a die (R404). -/
def State.fcap (s : State) (d : Nat) : Nat :=
  (s.derate.table.fcap[32 * d + binOf (s.crest.hottest d) s.crest.pinW]?).getD 0

/-- The fastest step that FCAP and STEP_FLOOR allow. -/
def State.fastest (s : State) (d : Nat) : Nat := Nat.min 8 (Nat.max (s.fcap d) s.crest.stepFloor.toNat)

/-- The last beat left headroom in the grant for the die's blocks at the next faster weight, both in mW. -/
def State.headroom (s : State) (d grant : Nat) : Bool :=
  let k := (s.die d).step
  let n := (s.crest.charged.filter (fun b => dieOf b == d)).length
  decide (s.predicted [] + n * (blockWeight (k - 1) - blockWeight k) ≤ grant * 1000)

/-- A die is at step 8 for heat in the beat that begins (R476): a sensor of it has reached 105 °C and has not read below 100 °C
since, or has reached 105 °C in the beat that ends. -/
def Die.throttles (k : Die) : Bool := k.hot || k.hotInBeat

/-- The step of a die in the new beat (R471); the readings are those of the beat that ends. -/
def State.nextStep (s : State) (d grant : Nat) : Nat :=
  let k := s.die d
  let lim := s.fastest d
  if k.throttles then 8
  else if k.step < lim then (if k.heldInBeat then Nat.max lim (Nat.min 8 (k.step + 1)) else lim)
  else if k.heldInBeat then Nat.min 8 (k.step + 1)
  else if lim < k.step ∧ s.headroom d grant = true then k.step - 1
  else k.step

/-- Every die takes its step (R471, R476); dies at step 8 for heat are counted. -/
def State.stepDies (s : State) (grant : Nat) : State :=
  let n (d : Nat) : Die :=
    let k := s.die d
    { k with step := s.nextStep d grant, throttled := k.throttles, heldInBeat := false, hotInBeat := false }
  let hotDies := ((List.range 8).filter (fun d => (s.die d).throttles)).length
  { s with
    dies := (List.range 8).foldl (fun (t : Tab Die) d => Tab.set t d (n d)) s.dies,
    crest := { s.crest with thrmBeats := sat32 s.crest.thrmBeats hotDies } }

/-- The readings of the beat that ends. -/
def State.takeReadings (s : State) (o : EdgeObs) : State :=
  let c := s.crest
  let temps := if o.temps.isEmpty then c.temps else (List.range sensors).map (fun k => (o.temps[k]?).getD 0)
  let c := { c with temps := temps, pinW := o.power, iin := o.iin, vin := o.vin, coolIn := o.coolIn, coolOut := o.coolOut, flow := o.flow }
  let s := { s with crest := c }
  (List.range 8).foldl (fun (s : State) d =>
    let t := c.hottest d
    s.updDie d (fun k =>
      let h := decide (hot105 ≤ t) || (k.hot && decide (hot100 ≤ t))
      { k with hot := h, hotInBeat := k.hotInBeat || decide (hot105 ≤ t) })) s

/-! ### The edge (R469, R472, R474) -/

/-- Ballast drew the floor less demand in the beat that ends (R472). -/
def State.ballast (s : State) (demand : Nat) : Nat := if s.crest.ballastEn then (s.floorNow - (demand : Int)).toNat else 0

/-- CURRENT_CLAMP (R474). -/
def State.clampCheck (s : State) (o : EdgeObs) : State :=
  if 7500 < o.power ∨ o.clampLong = true then
    ({ s with crest := { s.crest with clamp := sat32 s.crest.clamp 1 } }).noteDev 0x906 (leBytes 2 o.peakIin ++ leBytes 2 o.power ++ zeros 4)
  else s

/-- What C_eff comes from (R477): 2 coolant, 1 THROTTLE_N, 0 the register (log 27). -/
def Crest.ceilSource (c : Crest) (w : Nat) : Nat :=
  if c.coolCap && w == 3000 then 2 else if c.throttleIn && w == c.thrCeilW.toNat then 1 else 0

/-- CEILING is written when C_eff has changed. -/
def State.ceilCheck (s : State) : State :=
  let w := s.ceff
  if w = s.crest.ceffLast then s
  else ({ s with crest := { s.crest with ceffLast := w } }).noteDev 0x905 (leBytes 2 w ++ leBytes 1 (s.crest.ceilSource w) ++ zeros 5)

/-- The governor at a beat edge: `o` holds what was measured over the beat that ends, and the shape in force is that of the beat
that begins. -/
def State.governor (s : State) (o : EdgeObs) : State :=
  let grant := s.grantNow
  let ballast := s.ballast o.demand
  let s := (s.takeReadings o).clampCheck o
  let s := s.stepDies grant
  let c := s.crest
  let c := { c with
    measured := true, ballastW := ballast, held := !c.heldCmds.isEmpty, heldCmds := [], throttleIn := s.throttlePin,
    ballastBeats := if 0 < ballast then sat32 c.ballastBeats 1 else c.ballastBeats,
    charged := (s.blocks.filter (fun b => b.2.run.isSome)).map (·.1) }
  let s := ({ s with crest := c }).ceilCheck
  let d := s.rampDelta
  { s with crest := { s.crest with
      grantW := Nat.min s.ceff (o.power + d) - 2 * (o.power - grant), floorW := (o.power : Int) - d } }

/-! ### The input stage (R466, R467) -/

/-- The bus has gone, or the hot-swap stage has opened: nothing but the flash is kept, and the next start is cold. -/
def State.unpower (s : State) : State :=
  { pending := s.pending, out := s.out, fresh := s.fresh + 1, nextId := s.nextId, hbm := lostHbm s.fresh,
    crest := { powered := false }, phase := .unpowered,
    lnk := { devEpoch := BitVec.ofNat 16 (Config.freeBits s.fresh 0) } }

/-- BUS_TRIP (R466). -/
def execBusTrip (s : State) : Host.Outcome State Fault Refusal := .next (if s.crest.powered then s.unpower else s)

/-- BUS_POWER_UP (R467): PWR_GOOD rises; MOD_RST_N is still asserted. -/
def execBusPowerUp (s : State) : Host.Outcome State Fault Refusal :=
  .next (if s.crest.powered then s else ({ s with crest := { s.crest with powered := true }, phase := .reset }).settle)

/-- The kind of excursion of a bus voltage in mV, if it is one in which the module runs: 0 low, 1 high. -/
def vinKind (mv : Nat) : Option Nat :=
  if 36000 ≤ mv ∧ mv < 38000 then some 0 else if 48000 < mv ∧ mv ≤ 52000 then some 1 else none

/-- INPUT_EXCURSION (R466): counted and recorded once an excursion; a high one asserts FAULT_N while it lasts. -/
def execInputExcursion (mv : Nat) (s : State) : Host.Outcome State Fault Refusal :=
  let c := s.crest
  .next (match vinKind mv with
    | none => s
    | some k =>
      if !c.powered || (if k = 0 then c.vinLow else c.vinHigh) then s
      else
        let c := { c with vinLow := k == 0, vinHigh := k == 1, vinExc := sat32 c.vinExc 1 }
        (({ s with crest := c }).noteDev 0x901 (leBytes 4 mv ++ leBytes 1 k ++ zeros 3)).settle)

/-- INPUT_EXCURSION_END: the bus is back in its operating range. -/
def execInputExcursionEnd (mv : Nat) (s : State) : Host.Outcome State Fault Refusal :=
  .next (if s.crest.powered && decide (38000 ≤ mv) && decide (mv ≤ 48000) then
      ({ s with crest := { s.crest with vinLow := false, vinHigh := false } }).settle
    else s)

/-! ### Temperature (R476) -/

/-- A temperature field of a payload: signed, 2 bytes. -/
def tempBytes (t : Int) : List Byte := leBytes 2 (t % 65536).toNat

/-- THERMAL_THROTTLE: a sensor of a die reaches 105 °C; the die runs at step 8 from the next edge. -/
def execThermalThrottle (die sensor : Nat) (temp : Int) (s : State) : Host.Outcome State Fault Refusal :=
  .next (if s.crest.powered && decide (die < 8) && sensor / 60 == die && decide (hot105 ≤ temp) then
      let was := (s.die die).hot
      let s := { s with crest := { s.crest with temps := setTemp s.crest.temps sensor temp } }
      let s := s.updDie die (fun k => { k with hot := true, hotInBeat := true })
      (if was then s else s.noteDev 0x902 (leBytes 1 die ++ leBytes 2 sensor ++ tempBytes temp ++ zeros 3)).settle
    else s)

/-- THERMAL_THROTTLE_END: the die's sensors read below 100 °C. -/
def execThermalThrottleEnd (die : Nat) (temp : Int) (s : State) : Host.Outcome State Fault Refusal :=
  .next (if s.crest.powered && decide (die < 8) && (s.die die).hot && decide (temp < hot100) then
      let ts := (List.range sensors).map (fun k =>
        let v := (s.crest.temps[k]?).getD 0
        if k / 60 = die ∧ hot100 ≤ v then temp else v)
      (({ s with crest := { s.crest with temps := ts } }).updDie die (fun k => { k with hot := false })).settle
    else s)

/-- Every domain but AON and MGMT stops: no work, no memory, no ports, no Ramalink. -/
def State.stopDomains (s : State) : State :=
  let ps := s.lnk.ports.map (fun (p : Nat × Port) => (p.1, p.2.down))
  { s with
    cmds := [], purges := [], spillJobs := [], hbm := lostHbm s.fresh, fresh := s.fresh + 1, rlLanes := 0, phase := .hold,
    blocks := s.blocks.map (fun (b : Nat × Block) => (b.1, b.2.idle)),
    bist := { s.bist with ready := false, memUp := false, sdActive := false }, cairn := s.cairn.mirrorOff,
    lnk := { s.lnk with up := 0, unacked := [], ports := ps } }

/-- THERMAL_TRIP: a sensor reaches 120 °C. -/
def execThermalTrip (sensor : Nat) (temp : Int) (s : State) : Host.Outcome State Fault Refusal :=
  .next (if s.crest.powered && !s.crest.tripped && decide (sensor < sensors) && decide (hot120 ≤ temp) then
      let c := { s.crest with temps := setTemp s.crest.temps sensor temp, tripped := true, tripLatch := true }
      ((({ s with crest := c }).stopDomains).noteDev 0x903 (leBytes 2 sensor ++ tempBytes temp ++ zeros 4)).settle
    else s)

/-! ### Coolant (R475, R476) -/

/-- The minimum flow, in 0.01 L/min, at an inlet temperature in 0.125 °C. -/
def minFlow (inlet : Int) : Nat := if inlet ≤ 240 then 1000 else if inlet ≤ 320 then 1200 else 1400

/-- The condition of a kind has held for 1 s: 0 the inlet is above 45 °C, 1 the flow is below the minimum. -/
def coolantBad (kind : Nat) (inlet : Int) (flow : Nat) : Bool :=
  if kind = 0 then decide (360 < inlet) else decide (flow < minFlow inlet)

/-- COOLANT: C_eff is capped at 3,000 W. -/
def execCoolant (kind : Nat) (inlet : Int) (flow : Nat) (s : State) : Host.Outcome State Fault Refusal :=
  .next (if s.crest.powered && decide (kind ≤ 1) && coolantBad kind inlet flow && !s.crest.coolCap then
      let c := { s.crest with coolCap := true, coolIn := inlet, flow := flow }
      (({ s with crest := c }).noteDev 0x904 (tempBytes inlet ++ leBytes 2 flow ++ leBytes 1 kind ++ zeros 3)).settle
    else s)

/-- COOLANT_RESTORED: inlet and flow have held again for 1 s. -/
def execCoolantRestored (s : State) : Host.Outcome State Fault Refusal :=
  .next { s with crest := { s.crest with coolCap := false } }

/-- THROTTLE_N_CHANGE (R469, R477): the pin's level; the governor samples it at edges. -/
def execThrottleNChange (asserted : Bool) (s : State) : Host.Outcome State Fault Refusal :=
  .next (if s.crest.powered then ({ s with crest := { s.crest with throttleN := asserted } }).settle else s)

end Sys2Proof.Machine
end

