-- ==== Sys2Proof/Machine/Edge.lean ====
section
/-! DEFINITION. The beat edge (02 R32 to R41, R49 steps 5 and 6, R56): what is latched, what is tested, what the new beat begins with;
self-test over the beats of a stand-down (14 R431 to R438); and the edges that BEAT_IN, holdover and markers make. -/

namespace Sys2Proof.Machine

/-! ### Freeing destroyed contexts (10 R282, 11 R324) -/

/-- The home region of a context is released as well. -/
def State.homeExtent (s : State) (c : Nat) : List Extent :=
  if ((s.ctx c).region 0).valid then [((s.ctx c).region 0).extent] else []

/-- Steps 2 to 4 of DESTROY: the loadset is unloaded, which extends the chain (R430); home region, streams and spill records are
released; the context is FREE. A CONTEXT_RESET that DESTROY has joined still owes its record. -/
def State.freeCtx (s : State) (c : Nat) : State :=
  let x := s.ctx c
  let pt := x.pt.toNat
  let s := s.owe c (s.released c ++ s.homeExtent c)
  let s := if x.load = 0 then s else (s.unload c).updPart pt (fun q => q.extend 4 c s.beat.count (zeros 64))
  let blk (b : Block) : Block := { b with owner := if b.owner = some c then none else b.owner, spilled := Tab.drop b.spilled c }
  let r := x.reset.bind (fun (r : ResetSt) => if r.cmd.isSome then some { r with destroy := false } else none)
  let s := { s with
    permIn := s.permIn.filter (fun q => q.1 / 64 != c), permSeen := s.permSeen.filter (fun q => q.1 != c),
    strms := s.strms.filter (fun g => g.2.ctx != c), cmds := s.cmds.filter (fun k => k.ctx != c || k.phase == Phase.awaiting && (x.reset.bind (·.cmd)) == some k.id),
    blocks := s.blocks.map (fun (b : Nat × Block) => (b.1, blk b.2)), spillJobs := s.spillJobs.filter (fun j => j.ctx != c || j.started) }
  s.updCtx c (fun x =>
    { home64M := x.home64M, devCtrl := x.devCtrl, ptCtrl := x.ptCtrl, func := x.func, pt := x.pt, gen := x.gen, lastErr := x.lastErr,
      endedBeat := some s.now, rsel := x.rsel, rword0 := x.rword0, rword1 := x.rword1, reset := r, lastReset := x.lastReset, acct := x.acct })

/-- Contexts whose destruction took effect in the window that closes. -/
def State.freeCtxs (s : State) : State :=
  s.ctxs.foldl (fun (s : State) c =>
    match (s.ctx c.1).reset with
    | some r => if r.done && r.destroy then s.freeCtx c.1 else s
    | none => s) s

/-! ### The counter and its source (R33, R38) -/

/-- The number of the beat that begins, and the alignment it comes from (R38): under LOCAL, and after a change from LOCAL, reported
numbers are ignored; a number below the count is refused and recorded. DESIGN CHOICE (log 71): the first edge under a new source (R33, R38) is the
one at which the change takes effect. -/
def State.countOn (s : State) : State :=
  let next := s.beat.count + 1
  let old := s.beat.srcAct
  let b : Beat := { s.beat with srcAct := s.beat.src, alignTo := none }
  if b.src = 2 then { s with beat := { b with count := next, aligned := true } }
  else if old = 2 then { s with beat := { b with count := next, aligned := false } }
  else
    match s.beat.alignTo with
    | none => { s with beat := { b with count := next } }
    | some n =>
      if n.toNat < s.now then
        ({ s with beat := { b with count := next, aligned := false } }).noteDev 0x102 (leBytes 8 n.toNat)
      else { s with beat := { b with count := n, aligned := true } }

/-! ### Latching staged changes (R49 step 5, R56) -/

/-- The shape (R43, R56). -/
def State.latchShape (s : State) (n : Nat) : State :=
  match s.beat.staged with
  | some g =>
    if g.target ≤ n then
      ({ s with beat := { s.beat with
          periodCur := BitVec.ofNat 10 g.period, saddleCur := BitVec.ofNat 4 g.saddle, staged := none, stageState := 2 } }).raise 8
    else s
  | none => s

/-- Units in reset or in quarantine at the edge of a mode change lag (R322): every unit while a start is in progress, a Pass unit that is
quarantined. -/
def State.markLag (s : State) : State :=
  let ds := (List.range 8).filter (fun d => s.quarantined.contains (engPass d))
  let lag : BitVec 27 := if s.bist.ready then ds.foldl (fun (l : BitVec 27) d => l ||| (1#27 <<< (8 + d))) s.pt.lag else BitVec.allOnes 27
  { s with pt := { s.pt with lag := lag } }

/-- Blocks of rebuilt granules that the repair map no longer lists come back (R416). -/
def State.mapAgain (s : State) (g : BitVec 16) : State :=
  let back (b : Nat × Block) : Nat × Block :=
    if b.2.retired && g.getLsbD (granuleOf b.1) && !mapRetires s.bist.repairMap b.1 then (b.1, { b.2 with retired := false }) else b
  { s with blocks := s.blocks.map back }

/-- Granules that a rebuilt partition of the armed layout takes. -/
def State.rebuiltGranules (s : State) : BitVec 16 :=
  (List.range 16).foldl (fun (g : BitVec 16) n => if s.pt.armedKept.contains n then g else g ||| (s.part n).next.granules) 0

/-- Commands that run on blocks which the layout takes away are killed and requeued (R53). -/
def State.killMoved (s : State) : State :=
  (s.cmds.filter (fun x => !x.blocks.isEmpty && !s.pt.armedKept.contains (s.ctxPart x.ctx))).foldl (fun (s : State) x => s.kill x.id) s

/-- The mode epoch and layout (R319, R320). -/
def State.latchMode (s : State) (n : Nat) : State :=
  match s.pt.armed with
  | some t =>
    if t ≤ n ∨ s.pt.idle = true then ((((s.killMoved).markLag).mapAgain s.rebuiltGranules).latchLayout).raise 8 else s
  | none => s

/-- Units that have reported ready latch the epoch in force (R322). -/
def State.latchUnits (s : State) : State :=
  let us := s.pt.unitReady
  let p := { s.pt with
    unitReady := [], lag := us.foldl (fun (l : BitVec 27) u => l &&& ~~~(1#27 <<< u)) s.pt.lag,
    unitEpoch := us.foldl (fun (t : Tab (BitVec 16)) u => Tab.set t u s.pt.epoch) s.pt.unitEpoch }
  { s with pt := p }

/-- DERATE_ACK (R394, R403): state, cause, six zero bytes, the beat. -/
def State.derateAck (s : State) (port st cause : Nat) : State :=
  s.tell port 0x21 (leBytes 1 st ++ leBytes 1 cause ++ zeros 6 ++ leBytes 8 s.now)

/-- Blocks take their places in the derating table (R405): one newly retired loses its resident data, and a command that is not done
on it will end. -/
def State.applyRetire (s : State) (l : List Nat) : State :=
  let new := l.filter (fun b => !(s.block b).derated)
  let hit (x : Cmd) : Option Nat := if x.phase == .issued then x.blocks.find? new.contains else none
  let s := { s with
    blocks := s.blocks.map (fun (b : Nat × Block) => (b.1, { b.2 with derated := l.contains b.1 })),
    cmds := s.cmds.map (fun (x : Cmd) => match hit x with | some b => { x with lostBlk := some b } | none => x) }
  new.foldl (fun (s : State) b =>
    { (s.updBlock b (fun k => if k.run.isSome then { k with derated := true, owner := none } else { k.blank s.fresh with derated := true, owner := none })) with
      fresh := s.fresh + 8 }) s

/-- The derating table (R403 to R405). -/
def State.latchDerate (s : State) (n : Nat) : State :=
  match s.derate.pending with
  | some p =>
    if p.1 ≤ n then
      let s := { s with derate := { s.derate with table := p.2, pending := none, state := 2 } }
      let s := (s.applyRetire p.2.retireList).noteDev 0x705 (leBytes 8 p.1)
      (s.derateAck s.derate.port 2 0).raise 8
    else s
  | none => s

/-- Schedule swaps become current at their origins (R329). -/
def Part.latchSched (q : Part) (n : Nat) : Part :=
  match q.sched.swap with
  | some w =>
    if w.origin ≤ n then
      { q with sched := { q.sched with
          lenCur := BitVec.ofNat 10 w.len, cur := w.table, originCur := BitVec.ofNat 64 w.origin, state := 2, swap := none } }
    else q
  | none => q

/-! ### Tests at the edge -/

/-- A finished WEIGHT_SWITCH reopens admission (R268). -/
def Part.reopen (q : Part) : Part := if q.sw.closed && !q.sw.isOpen then { q with sw := { staged := q.sw.staged, by_ := q.sw.by_ } } else q

/-- A partition is drained (R268): no request of its gated contexts is open, and of their commands only the SWITCH is left. -/
def State.drainedNow (s : State) (pt : Nat) : Bool :=
  let w := (s.part pt).sw
  let gated (c : Nat) : Bool := (s.ctx c).gated && (s.ctx c).state == 1 && s.ctxPart c == pt
  s.strms.all (fun g => !(g.2.request && gated g.2.ctx)) && s.cmds.all (fun x => x.id == w.cmd || !gated x.ctx || !(x.live || x.phase == .awaiting))

def State.drainTest (s : State) (pt : Nat) : State :=
  let w := (s.part pt).sw
  match s.cmd w.cmd with
  | some x =>
    if w.closed && w.staged && !w.drained && x.phase == .accepted && s.drainedNow pt then
      (s.updPart pt (fun q => { q with sw := { q.sw with drained := true } })).doneNow x
    else s
  | none => s

/-- The version that an OPTSTEP has marked closing is free of users (R200). -/
def State.closedFree (s : State) (w : Nat) : Bool :=
  let e := s.weight w
  if e.closing = 1 then e.countCur == 0 else if e.closing = 2 then e.countStash == 0 else true

/-- Held OPTSTEPs and PERMUTEs are tested (R200, R368); the wait of a command that an engine holds up begins when nothing else does. -/
def State.releaseHeld (s : State) (x : Cmd) : Cmd :=
  let x := match x.op with
    | .optstep p => if x.phase == .accepted && x.heldNow && s.closedFree (bindWreg p.step) then { x with heldNow := false } else x
    | .permute _ => if x.heldNow && x.coll.drain.all (fun i => !s.cmds.any (fun y => y.id == i && y.live)) then { x with heldNow := false } else x
    | _ => x
  if x.phase == .accepted && !s.waitsEngine x then { x with waitFrom := s.now } else x

/-- A WAIT or FENCE is satisfied (R297, R298). -/
def State.satisfied (s : State) (x : Cmd) : Bool :=
  match x.op with
  | .wait g _ v => decide (v.toNat ≤ (Tab.get 0 (s.ctx x.ctx).sig g).toNat)
  | .fence => !s.cmds.any (fun y => y.ctx == x.ctx && decide (y.id < x.id) && (y.live || y.phase == .awaiting))
  | _ => false

/-- WAITs and FENCEs at the heads of their streams are tested, in order of acceptance. -/
def State.waitTests (s : State) : State :=
  (s.cmds.map (·.id)).foldl (fun (s : State) id =>
    match s.cmd id with
    | some x =>
      if opHolds x.op && x.phase == .accepted && s.ctxIssues x.ctx && s.streamAllows x && s.satisfied x then s.doneNow x else s
    | none => s) s

/-- Ports whose discovery has succeeded rejoin the plane masks (R354). -/
def State.rejoin (s : State) : State :=
  (s.lnk.ports.filter (fun p => p.2.rejoin && p.2.state == 3)).foldl (fun (s : State) p =>
    (s.updPort p.1 (fun q => { q with rejoin := false })).setUp p.1 true) s

/-- HELD_BEATS (R336 index 7) of the beat that ends. -/
def State.heldBeats (s : State) : State :=
  { s with ctxs := s.ctxs.map (fun (c : Nat × Ctx) => if c.2.isHeld then (c.1, { c.2 with acct := bump c.2.acct 7 1 }) else c) }

/-- Gives a counter its cycles, as far as any are left. -/
def giveCycles (r : List Cnt × Nat) (q : Nat × Nat) : List Cnt × Nat := let n := Nat.min r.2 q.2; (bump r.1 q.1 n, r.2 - n)

/-- The nine counters of a block take the cycles of the beat that ends, each cycle in one of them, in the order of R337: what was PREEMPTED;
BUSY and the causes of R143 as the block's engines have measured them (`seen`); SADDLE and GOVERNOR without a RUN on the block; the rest NO_WORK
(log 63). -/
def Block.countBeat (b : Block) (mhz period saddle : Nat) (seen : Nat → Nat) : Block :=
  let since (f : Option Nat) (upto : Nat) : Nat := match f with | some t => upto - t | none => 0
  let pre := (b.preNs + since b.preFrom (period * 1000)) * mhz / 1000
  let gov := (b.govNs + since b.govFrom ((period - saddle) * 1000)) * mhz / 1000
  let win := if b.run.isSome || b.preFrom.isSome then 0 else saddle * mhz
  let r := [(6, pre), (0, seen 0), (2, seen 2), (3, seen 3), (4, seen 4), (5, seen 5), (7, win), (8, gov), (1, period * mhz)].foldl giveCycles
    (b.acct, period * mhz)
  { b with acct := r.1, preNs := 0, govNs := 0, preFrom := b.preFrom.map (fun _ => 0), govFrom := none }

/-- Applies a function to the blocks from number `b`, `n` of them. -/
def eachBlock (f : Nat → Block → Block) : Nat → Nat → Tab Block → Tab Block
  | 0, _, t => t
  | n + 1, b, [] => (b, f b {}) :: eachBlock f n (b + 1) []
  | n + 1, b, (k, x) :: t => if k = b then (b, f b x) :: eachBlock f n (b + 1) t else (b, f b {}) :: eachBlock f n (b + 1) ((k, x) :: t)

/-- The counters of every usable block take the beat that ends (R337); `seen` lists what the blocks' engines have measured: block, index,
cycles. -/
def State.countIdle (s : State) (seen : List (Nat × Nat × Nat)) : State :=
  let f (b : Nat) (x : Block) : Block :=
    if x.serving then
      let mine := seen.filter (fun q => q.1 == b)
      x.countBeat (s.dieMHz (dieOf b)) s.beat.periodCur.toNat s.beat.saddleCur.toNat (fun i =>
        (mine.filter (fun q => q.2.1 == i)).foldl (fun n q => n + q.2.2) 0)
    else x
  if s.bist.ready then { s with blocks := eachBlock f (Config.dieCount * Config.blocksPerDie) 0 s.blocks } else s

/-- Transfers of resident data issue their legs (R333); one that has not begun ends
with the RUN it was for. -/
def State.spillLegs (s : State) : State :=
  let wanted (j : SpillJob) : Bool :=
    s.cmds.any (fun x => x.ctx == j.ctx && x.phase == .accepted && (s.groupOf x).any j.blocks.contains)
  let js := s.spillJobs.filter (fun j => j.started || wanted j)
  { s with spillJobs := js.map (fun (j : SpillJob) => if s.spillGo j then j.launch else j) }

/-- Every UP port sends the number of the beat that begins (R40). -/
def State.sendMarkers (s : State) : State :=
  (s.lnk.ports.filter (fun p => p.2.state == 3)).foldl (fun (s : State) p =>
    s.portSend p.1 fBeatMarker (s.stamp { dst := 0xFFFFFF, key := s.beat.count })) s

/-- Peers not heard of for 16 beats leave the table, but for fenced ones (R371, R374). -/
def State.prunePeers (s : State) : State :=
  { s with lnk := { s.lnk with peers := s.lnk.peers.filter (fun p => decide (s.now ≤ p.last + 16) || p.fenced) } }

/-! ### Self-test (14 R431 to R438) -/

def chunkBytes : Nat := 134217728
/-- March C− over a chunk, in bytes read and written. -/
def marchBytes : Nat := 10 * chunkBytes
/-- What a stack's leg moves in a beat of the shape in force (R434). -/
def State.bistLeg (s : State) : Nat := (s.beat.periodCur.toNat - s.beat.saddleCur.toNat) * 1200000

/-- HBM_CHUNKS, values above 574 being treated as 574 (R440). -/
def Bist.chunkCount (b : Bist) : Nat := Nat.min 574 b.chunks.toNat

/-- Applies to the journal entry of every stack whose test goes on (R435). -/
def Bist.journal (b : Bist) (f : Jnl → Jnl) : Bist :=
  { b with jnl := (List.range Config.hbmStacks).foldl (fun (t : Tab Jnl) k => if b.saveBad.contains k then t else Tab.upd {} t k f) b.jnl }

/-- A chunk is begun, or the test is over. -/
def Bist.nextChunk (b : Bist) : Bist :=
  if b.sdStop || decide (b.chunkCount ≤ b.sdChunk) then { b with sdPhase := 6, sdLeft := 0 }
  else ({ b with sdPhase := 3, sdLeft := 2 * chunkBytes }).journal (fun j => { j with state := 1, chunk := j.next })

/-- A part of the test is complete, and the next one begins. -/
def Bist.nextPart (b : Bist) : Bist :=
  match b.sdPhase with
  | 1 => if b.sdStop then { b with sdPhase := 6 } else { b with sdPhase := 2, sdLeft := marchBytes, state := 2 }
  | 2 => b.nextChunk
  | 3 => ({ b with sdPhase := 4, sdLeft := marchBytes }).journal (fun j => { j with state := 2 })
  | 4 => ({ b with sdPhase := 5, sdLeft := 2 * chunkBytes }).journal (fun j => { j with state := 3 })
  | 5 => (({ b with sdChunk := b.sdChunk + 1 }).journal (fun j => { next := (j.chunk + 1) % 574, chunk := j.chunk, state := 0 })).nextChunk
  | _ => b

/-- Self-test is told to stop (R432): what is saved is restored first; anything else stops at once. -/
def Bist.stop (b : Bist) (code : Nat) : Bist :=
  if 6 ≤ b.sdPhase ∨ b.sdStop = true then b
  else
    let b := { b with sdStop := true, abortCode := BitVec.ofNat 8 code }
    match b.sdPhase with
    | 4 => ({ b with sdPhase := 5, sdLeft := 2 * chunkBytes }).journal (fun j => { j with state := 4 })
    | 5 => b
    | 3 => ({ b with sdPhase := 6, sdLeft := 0 }).journal (fun j => { j with state := 0 })
    | _ => { b with sdPhase := 6, sdLeft := 0 }

/-- A limit of R432 is broken: 1 voltage, 2 clock, 6 a junction at 105 °C. -/
def State.bistLimit (s : State) (o : EdgeObs) : Option Nat :=
  if !o.supplyOk then some 1
  else if (List.range 8).any (fun d => decide (2 < (s.die d).step)) then some 2
  else if s.crest.temps.any (fun t => decide (hot105 ≤ t)) then some 6
  else none

/-- Fault records enter the ring (R436, R438). -/
def Bist.fault (b : Bist) (r : W64 × W64) : Bist :=
  if b.ring.length < 1024 then { b with ring := b.ring ++ [r] } else { b with overflow := true, resDrop := sat32 b.resDrop 1 }

/-- One beat of a part. -/
def Bist.advance (b : Bist) (leg : Nat) : Bist :=
  let b := if b.sdPhase = 5 then b.journal (fun j => { j with state := 4 }) else b
  let left := if b.sdPhase = 1 then b.sdLeft - 1 else b.sdLeft - leg
  if left = 0 then { b with sdLeft := 0 }.nextPart else { b with sdLeft := left }

/-- Self-test at a beat edge: the first sets the operating point and checks it; the others count a beat of the part in progress. -/
def State.bistEdge (s : State) (o : EdgeObs) : State :=
  let b := s.bist
  if !b.sdActive || b.sdPhase == 6 then s
  else if b.sdPhase = 0 then
    let s := (List.range 8).foldl (fun (s : State) d => s.updDie d (fun k => { k with step := s.fastest d })) s
    let b := { b with sdPhase := 1, sdLeft := 200, state := 1 }
    { s with bist := match s.bistLimit o with | some c => b.stop c | none => b }
  else
    let bad := o.saveFaults.filter (fun k => b.sdPhase == 2 && !b.saveBad.contains k)
    let b := { (o.faults.foldl Bist.fault b) with
      beats := Nat.min 65535 (b.beats + 1), saveBad := b.saveBad ++ bad,
      abortCode := if bad.isEmpty ∨ b.sdStop = true then b.abortCode else 3 }
    let b := b.advance s.bistLeg
    { s with bist := match s.bistLimit o with | some c => b.stop c | none => b }

/-! ### The edge -/

/-- The part of an edge that the Dispatcher has in a ready device: packets that admission held, or that waited for a version, are checked
again (R199, R268), legs and tests of the beat follow, and each partition has an issue point. -/
def State.beatStart (s : State) : State :=
  let s := (((List.range 16).foldl (fun (s : State) p => s.retryAll p) s).rejoin).spillLegs
  let s := { s with cmds := s.cmds.map s.releaseHeld }
  let s := (List.range 16).foldl (fun (s : State) p => s.drainTest p) s.waitTests
  let s := s.collLegs
  ((List.range 16).filter (fun p => (s.part p).layout.present)).foldl (fun (s : State) p => s.issuePoint p) s

/-- A beat edge: the window closes, what it left is released, staged changes latch, the counter steps, and the new beat begins with
its grant, its tests and its issue point. `holdover` says that the timer made the edge itself (R35). -/
def State.liveEdge (s : State) (o : EdgeObs) (holdover : Bool) : State :=
  let leg := if o.leg = 0 then none else some o.leg
  let clock := s.beat.clock + s.beat.periodCur.toNat * 1000
  let s := (((s.countIdle o.idle).countFec o.fec).heldBeats).freeCtxs
  let s := { s with parts := s.parts.map (fun (q : Nat × Part) => (q.1, q.2.reopen)) }
  let s := s.bistEdge o
  let s := s.countOn
  let n := s.now
  let s := ((((s.latchShape n).latchMode n).latchUnits).latchDerate n)
  let s := { s with
    parts := s.parts.map (fun (q : Nat × Part) => (q.1, q.2.latchSched n)),
    beat := { s.beat with windowOpen := false, winDone := [], winLeft := 0, at_ := 0, legCap := leg, clock := clock, markSeen := [], holdover := holdover },
    cairn := s.cairn.countEdge }
  let s := ((s.liftFence).governor o).prunePeers
  let s := (if s.phase == .run then s.send (.beatOut n) else s).raise 12
  if s.bist.ready then (s.sendMarkers).beatStart else s

/-- A beat edge in hold (R30): only the AON and MGMT domains run, so the beat timer goes on and the recorder counts the edge; dies, hub and links
stand still, the governor among them. -/
def State.heldEdge (s : State) (holdover : Bool) : State :=
  let clock := s.beat.clock + s.beat.periodCur.toNat * 1000
  let s := s.countOn
  { s with
    beat := { s.beat with windowOpen := false, winDone := [], winLeft := 0, at_ := 0, legCap := none, clock := clock, markSeen := [], holdover := holdover },
    cairn := s.cairn.countEdge }

/-- A beat edge. -/
def State.edge (s : State) (o : EdgeObs) (holdover : Bool) : State :=
  if s.phase = .hold then s.heldEdge holdover else s.liveEdge o holdover

/-- BEAT_EDGE (R32, R49): the edge of the source in force, or of the always-on timer. -/
def execBeatEdge (o : EdgeObs) (s : State) : Host.Outcome State Fault Refusal :=
  .next (if s.crest.powered then
      let t := s.edge o false
      ({ t with beat := { t.beat with holdoverRun := 0 } }).settle
    else s)

/-- A change of source is due at the next edge, which is the timer's own (R33). -/
def Beat.sourceDue (b : Beat) : Bool := b.src != b.srcAct

/-- BEAT_IN_EDGE (R34, R35, R480): under EXT, in the run phase, an edge within the tolerance is the beat edge and re-phases the timer; an
earlier one is ignored and counted. The edge at which a change of source takes effect is the timer's (R33). -/
def execBeatInEdge (offNs : Int) (o : EdgeObs) (s : State) : Host.Outcome State Fault Refusal :=
  let tol : Int := s.beat.tolIn.toNat * 10
  .next (if s.crest.powered && s.phase == .run && s.beat.srcAct == 0 && !s.beat.sourceDue then
      if -tol ≤ offNs ∧ offNs ≤ tol then
        let t := s.edge o false
        ({ t with beat := { t.beat with holdoverRun := 0, phaseErr := offNs } }).settle
      else if offNs < -tol then { s with beat := { s.beat with early := sat32 s.beat.early 1 } }
      else s
    else s)

/-- HOLDOVER_MAX, 0 being treated as 1 (R36). -/
def Beat.lostAfter (b : Beat) : Nat := Nat.max 1 b.holdoverMax.toNat

/-- The source is lost (R36). DESIGN CHOICE (log 71): LOST that software has cleared is set again at the next holdover edge while holdover goes
on. -/
def State.loseBeat (s : State) : State :=
  if s.beat.lostAfter ≤ s.beat.holdoverRun ∧ s.beat.lost = false then
    ({ s with beat := { s.beat with lost := true } }).noteDev 0x101 (leBytes 1 s.beat.srcAct.toNat ++ zeros 7)
  else s

/-- HOLDOVER_EDGE (R33, R35, R36, R480): the timer makes the edge; it counts in the run phase under EXT and LINK, but where the timer makes it
because a change of source takes effect. -/
def execHoldoverEdge (o : EdgeObs) (s : State) : Host.Outcome State Fault Refusal :=
  .next (if s.crest.powered && s.beat.srcAct != 2 then
      if s.phase == .run && !s.beat.sourceDue then
        let b := { s.beat with miss := sat32 s.beat.miss 1, holdoverRun := s.beat.holdoverRun + 1 }
        ((({ s with beat := b } : State).loseBeat).edge o true).settle
      else
        let t := s.edge o false
        ({ t with beat := { t.beat with holdoverRun := 0 } }).settle
    else s)

/-- HELD_EXPIRY (R332): at the end of beat N + HOLD_BEATS the context is HELD no longer, and its partition has an issue point. -/
def execHeldExpiry (c : Nat) (s : State) : Host.Outcome State Fault Refusal :=
  .next (match (s.ctx c).held with
    | some n =>
      if n < s.now ∧ (s.ctx c).heldForever = false then
        ((s.updCtx c (fun x => { x with held := none })).issuePoint (s.ctxPart c)).settle
      else s
    | none => s)

/-! ### Beat markers received (R38, R41) -/

/-- A marker on a port paces the beat (R36, R351): the port is SRC_PORT under LINK, in the run phase, and no change of source is due. -/
def State.paces (s : State) (p : Nat) : Bool :=
  s.beat.srcAct == 1 && s.beat.srcPort.toNat == p && s.phase == .run && !s.beat.sourceDue

/-- Such a marker makes the coming edge: its offset is one that the timer accepts (R34, R36). -/
def State.makesEdge (s : State) (p : Nat) (off : Int) : Bool :=
  let tolIn : Int := s.beat.tolIn.toNat * 10
  s.paces p && decide (-tolIn ≤ off) && decide (off ≤ tolIn)

/-- Under LINK, a marker on SRC_PORT within the offset that the timer accepts makes the edge (R33, R36, R38); it brings its number. A marker's
number is compared with the count for its own edge (R41): the coming one where it comes before that edge, or makes it. -/
def State.marker (s : State) (p : Nat) (off : Int) (num : W64) (o : EdgeObs) : State :=
  let tolM : Int := s.beat.markTol.toNat * 10
  let makes := s.makesEdge p off
  let early := s.paces p && decide (off < -(s.beat.tolIn.toNat * 10 : Int))
  let s := if off < -tolM ∨ tolM < off then s.markError p 0 off else s
  let s := if num.toNat ≠ s.edgeNumber (makes || decide (off < 0)) then s.markError p 1 off else s
  if makes then
    let s := { s with beat := { s.beat with alignTo := some num, phaseErr := off } }
    let t := s.edge o false
    { t with beat := { t.beat with holdoverRun := 0 } }
  else if early then { s with beat := { s.beat with early := sat32 s.beat.early 1 } }
  else s

/-- BEAT_MARKER (R40, R41) on a port that is UP, which answers it (R346). -/
def execBeatMarker (p : Nat) (offNs : Int) (num : W64) (o : EdgeObs) (s : State) : Host.Outcome State Fault Refusal :=
  .next (if s.crest.powered && (s.port p).state == 3 then
      ((s.hopTake p fBeatMarker (s.port p).lseqRx 1).marker p offNs num o).settle
    else s)

end Sys2Proof.Machine
end

