-- ==== Sys2Proof/Machine/StobinRows.lean ====
section
/-! DEFINITION. The management ports: Stobin's checks (14 R425, R426), leases and verdicts (13 R394 to R397), derating (R402, R403),
resets (R389, R390), bins (R400), stand-down, hold and wake (14 R431), retry (R419), attestation (R429), and what is read over
Stobin (R428, R454). -/

namespace Sys2Proof.Machine

/-! ### Checks -/

/-- The header of a message (R425). -/
def stobinHeader (m : Stobin) (ty len : Nat) : List Byte :=
  [0x53, 0x54] ++ leBytes 1 1 ++ leBytes 1 ty ++ leBytes 4 len ++ leBytes 8 m.deviceId.toNat ++ leBytes 8 m.nonce.toNat ++
    leBytes 8 m.seq ++ leBytes 8 m.beat.toNat ++ zeros 8

/-- Which checks of R426 a message has to pass beside that of its body. -/
inductive Exempt where
  | none
  | wake
  | read
  | all
  deriving DecidableEq, Repr

/-- A message verifies under a key of the owner record with role STOBIN (R414, R426). -/
def State.signedBy (s : State) (m : Stobin) (ty : Nat) (body : List Byte) : Bool :=
  match s.ownerKey 2 (leBytes 8 m.keyId.toNat) with
  | some k => Config.mldsaVerify k.pub (stobinHeader m ty body.length ++ body) m.sig
  | none => false

/-- The check that a message fails, in the order of R426: 1 DEVICE_ID, 2 START_NONCE, 3 SEQ, 4 signature, 5 body. -/
def State.stobinFails (s : State) (m : Stobin) (ty : Nat) (body : List Byte) (ok : Bool) (x : Exempt) : Option Nat :=
  if x = .all then (if ok then none else some 5)
  else if m.deviceId ≠ Config.deviceId then some 1
  else if x = .none ∧ m.nonce ≠ s.bist.nonce then some 2
  else if x ≠ .read ∧ m.seq ≤ (s.fence.mgmt m.port).lastSeq then some 3
  else if x = .none ∧ s.signedBy m ty body = false then some 4
  else if ok then none else some 5

/-- A dropped message is recorded (R394, R426); the number of the failed check is not given (log 25). -/
def State.stobinDrop (s : State) (m : Stobin) (ty k : Nat) : State :=
  (s.noteDev 0xB01 (leBytes 1 ty ++ leBytes 1 m.port ++ leBytes 1 (Config.freeBits s.fresh k) ++ zeros 5)).burn

/-- Base camp takes only these types (R418). -/
def campTypes : List Nat := [0x70, 0x72, 0x74, 0x80, 0x64]

/-- The device listens for a message type on a port: all in service, WAKE in hold, five types in base camp. -/
def State.listens (s : State) (m : Stobin) (ty : Nat) : Bool :=
  s.crest.powered && decide (m.port < 2) && !s.tripHold &&
    (if s.bist.inHold then ty == 0x63 else if s.bist.mode == 2 then campTypes.contains ty else s.phase != .reset || ty == 0x30)

/-- A message is accepted: its SEQ counts, unless it is exempt from that check. -/
def State.stobinAccept (s : State) (m : Stobin) (x : Exempt) : State :=
  let q := s.fence.mgmt m.port
  let q := { q with heard := true, lastSeq := if x = .none ∨ x = .wake then m.seq else q.lastSeq }
  { s with fence := s.fence.setMgmt m.port q }

/-- A message that arrives: dropped with a record, or accepted and acted on. -/
def State.stobin (s : State) (m : Stobin) (ty : Nat) (body : List Byte) (ok : Bool) (x : Exempt) (f : State → State) : State :=
  if s.listens m ty then
    (match s.stobinFails m ty body ok x with
     | some k => s.stobinDrop m ty k
     | none => f (s.stobinAccept m x)).settle
  else s

/-! ### Leases (R394 to R396) -/

/-- LEASE_OK follows the two timers; a change is source 5 (R395, R456). -/
def State.leaseLine (s : State) : State :=
  let v := s.fence.portA.running || s.fence.portB.running
  if v = s.fence.leaseOk then s else ({ s with fence := { s.fence with leaseOk := v } }).raise 5

/-- A verdict acts on a device that is ready and not standing down (R396, R432). -/
def State.verdict (s : State) (v : Nat) : State :=
  if !s.bist.ready || s.bist.mode == 3 then s
  else if v = 0 then (if s.fenced then { s with fence := { s.fence with lift := true } } else s)
  else s.enterFence 3

/-- What is left of a lease timer: the length on the port just loaded, else a time that the model does not measure (log 4). -/
def State.remain (s : State) (m : Stobin) (port k : Nat) : Nat :=
  let q := s.fence.mgmt port
  if port = m.port then q.leaseMs else if q.running then Config.freeBits s.fresh k % (q.leaseMs + 1) else 0

def State.leaseAck (s : State) (m : Stobin) : State :=
  (s.tell m.port 0x11 (leBytes 1 (if s.fenced then 1 else 0) ++ leBytes 1 s.fence.cause ++ zeros 2 ++ leBytes 4 (s.remain m 0 0) ++
    leBytes 4 (s.remain m 1 1) ++ leBytes 8 s.now)).burn

/-- The port's timer is loaded. -/
def State.loadLease (s : State) (port ms : Nat) : State :=
  { s with fence := s.fence.setMgmt port { s.fence.mgmt port with running := true, leaseMs := ms } }

/-- LEASE (R394 to R396). -/
def execLease (m : Stobin) (lengthMs verdict : Nat) (s : State) : Host.Outcome State Fault Refusal :=
  let ok := decide (1000 ≤ lengthMs) && decide (lengthMs ≤ 60000) && decide (verdict ≤ 1)
  .next (s.stobin m 0x10 (leBytes 4 lengthMs ++ leBytes 1 verdict ++ zeros 3) ok .none (fun s =>
    (((s.loadLease m.port lengthMs).leaseLine).verdict verdict).leaseAck m))

/-- LEASE_LAPSE (R396): both timers have reached zero. -/
def execLeaseLapse (s : State) : Host.Outcome State Fault Refusal :=
  let f := s.fence
  .next (if f.portA.running || f.portB.running then
      let s := ({ s with fence := { f with portA := { f.portA with running := false }, portB := { f.portB with running := false } } }).leaseLine
      (if s.bist.ready && (!s.fenced || s.fence.lift) then s.enterFence 2 else s).settle
    else s)

/-! ### Derating (R402, R403) -/

/-- The image of a table. -/
def tableImage (t : DerateTable) : List Byte :=
  t.fcap.flatMap (leBytes 1) ++ t.band.flatMap (leBytes 1) ++ zeros 1 ++ t.echo.flatMap (leBytes 1) ++ leBytes 2 t.retireList.length ++
    zeros 2 ++ t.retireList.flatMap (leBytes 2) ++ zeros (2 * (256 - t.retireList.length))

/-- A table keeps its own rules (R402). -/
def tableOk (t : DerateTable) : Bool :=
  t.fcap.length == 256 && t.fcap.all (fun v => decide (v ≤ 8)) && t.band.length == 3 && t.band.all (fun v => decide (18 ≤ v) && decide (v ≤ 26)) &&
    t.echo.length == 8 && t.echo.all (fun v => v == 0 || (decide (8 ≤ v) && decide (v ≤ 20))) && decide (t.retireList.length ≤ 256) &&
    t.retireList.all (fun b => decide (b < 5120))

/-- The refusal of a DERATE ARM, in the order of R57. -/
def State.derateCause (s : State) (target : Nat) : Nat :=
  if !s.beat.aligned then causeUnaligned
  else if s.derate.pending.isSome then causeBusy
  else if target < s.now + 2 then causeNear
  else 0

/-- A refused DERATE (R57, R403). -/
def State.derateRefuse (s : State) (port c : Nat) : State :=
  let st := if s.derate.pending.isSome then 1 else 3
  (({ s with derate := { s.derate with state := st, cause := c } }).derateAck port 3 c).raise 8

/-- DERATE with OP ARM (R403); a table with a value out of range is a body to drop (R394). -/
def execDerateArm (m : Stobin) (target : Nat) (table : DerateTable) (s : State) : Host.Outcome State Fault Refusal :=
  .next (s.stobin m 0x20 (leBytes 1 0 ++ zeros 7 ++ leBytes 8 target ++ tableImage table) (tableOk table) .none (fun s =>
    match s.derateCause target with
    | 0 => ({ s with derate := { s.derate with pending := some (target, table), state := 1, port := m.port } }).derateAck m.port 1 0
    | c => s.derateRefuse m.port c))

/-- DERATE with OP CANCEL: a pending table is withdrawn while the counter reads at most B − 2 (R57). -/
def execDerateCancel (m : Stobin) (s : State) : Host.Outcome State Fault Refusal :=
  .next (s.stobin m 0x20 (leBytes 1 1 ++ zeros 799) true .none (fun s =>
    match s.derate.pending with
    | none => s.derateAck m.port s.derate.state 0
    | some p =>
      if p.1 < s.now + 2 then s.derateRefuse m.port causeLate
      else ({ s with derate := { s.derate with pending := none, state := 0 } }).derateAck m.port 0 0))

/-! ### Reset and bins -/

/-- RESET (R389, R390): KIND 0 warm, 1 cold. -/
def execReset (m : Stobin) (kind : Nat) (s : State) : Host.Outcome State Fault Refusal :=
  .next (if s.tripHold && kind == 1 && s.crest.powered && decide (m.port < 2) then
      -- after a trip a cold reset alone is accepted (R476)
      (match s.stobinFails m 0x30 (leBytes 1 kind ++ zeros 7) true .none with
       | some k => s.stobinDrop m 0x30 k
       | none => (s.stobinAccept m .none).coldReset .boot).settle
    else s.stobin m 0x30 (leBytes 1 kind ++ zeros 7) (decide (kind ≤ 1)) .none (fun s =>
      if kind = 0 then s.warmReset 1 else s.coldReset .boot))

/-- The two counts of every bin, in bin order (R400). -/
def binPairs (a b : Tab (BitVec 32)) : List Byte :=
  (List.range 32).flatMap (fun i => leBytes 4 (Tab.get 0 a i).toNat ++ leBytes 4 (Tab.get 0 b i).toNat)

/-- BINS (R394, R400). -/
def State.binsBody (s : State) (first count : Nat) : List Byte :=
  (List.range 8).flatMap (fun d => binPairs (s.die d).ckChecked (s.die d).echoChecked) ++
    (List.range count).flatMap (fun i => leBytes 2 (first + i) ++ binPairs (s.block (first + i)).ckFail (s.block (first + i)).echoFail)

/-- CLEAR of BINS_READ. -/
def State.clearBins (s : State) (first count : Nat) : State :=
  let s := (List.range 8).foldl (fun (s : State) d => s.updDie d (fun k => { k with ckChecked := [], echoChecked := [] })) s
  (List.range count).foldl (fun (s : State) i => s.updBlock (first + i) (fun b => { b with ckFail := [], echoFail := [] })) s

/-- BINS_READ (R394, R400). -/
def execBinsRead (m : Stobin) (first count : Nat) (clear : Bool) (s : State) : Host.Outcome State Fault Refusal :=
  let ok := decide (1 ≤ count) && decide (count ≤ 16) && decide (first + count ≤ 5120)
  .next (s.stobin m 0x40 (leBytes 2 first ++ leBytes 1 count ++ leBytes 1 (if clear then 1 else 0)) ok .none (fun s =>
    let s := s.tell m.port 0x41 (s.binsBody first count)
    if clear then s.clearBins first count else s))

/-! ### Stand-down, hold and wake (R431, R432) -/

/-- What stops a stand-down: 3 not running, 1 contexts exist, 2 a mode change is armed. -/
def State.sdFails (s : State) : Nat :=
  if !s.bist.ready || s.bist.mode == 3 then 3 else if s.anyCtx then 1 else if s.pt.armed.isSome then 2 else 0

/-- Hold (R30, R431): the domains but AON and MGMT stop; SRAM content is lost, HBM content is kept (R270). -/
def State.enterHold (s : State) : State :=
  let ps := s.lnk.ports.map (fun (p : Nat × Port) => (p.1, p.2.down))
  { s with
    blocks := s.blocks.map (fun (b : Nat × Block) => (b.1, { b.2.blank s.fresh with owner := none })), fresh := s.fresh + 8,
    rlLanes := 0, phase := .hold, cairn := s.cairn.mirrorOff,
    lnk := { s.lnk with up := 0, unacked := [], ports := ps },
    bist := { s.bist with ready := false, memUp := false, inHold := true, sdActive := false } }

/-- A stand-down begins. -/
def State.beginStandDown (s : State) (skip : Bool) : State :=
  let s := s.enterFence 4
  if skip then { s with bist := { s.bist with mode := 3 } }.enterHold
  else
    { s with bist := { s.bist with
        mode := 3, sdActive := true, sdPhase := 0, sdLeft := 0, sdChunk := 0, sdStop := false, saveBad := [], ring := [], beats := 0,
        abortCode := 0, wakePending := false } }

/-- STANDDOWN, from either carrier: what was decided shows in SD_REFUSE. -/
def State.standDown (s : State) (skip : Bool) : State :=
  let k := s.sdFails
  let s := { s with bist := { s.bist with sdRefuse := BitVec.ofNat 2 k } }
  if k = 0 then s.beginStandDown (skip || s.bist.noBist) else s

/-- STANDDOWN over Stobin is answered (R428). -/
def State.standDownMsg (s : State) (m : Stobin) (skip : Bool) : State :=
  s.stobin m 0x61 (leBytes 1 (if skip then 1 else 0) ++ zeros 7) true .none (fun s =>
    let s := s.standDown skip
    s.tell m.port 0x62 (leBytes 1 s.bist.sdRefuse.toNat ++ zeros 7))

/-- A return from hold (R406, R430): a warm start; the chains begin anew. -/
def State.wakeUp (s : State) : State :=
  let s := s.toStart true
  { s with parts := s.parts.map (fun (q : Nat × Part) => (q.1, { q.2 with chain := List.replicate 64 0, events := 0 })) }

/-- BIST_END (R431, R432): self-test is over; the device enters hold, or starts if a WAKE has come. -/
def State.bistOver (s : State) : State :=
  let st : BitVec 3 := if s.bist.abortCode = 0 then 3 else 4
  let s := { s with bist := { s.bist with state := st } }
  let s := (s.noteDev 0x802 (leBytes 8 s.bist.statWord.toNat)).raise 7
  let wake := s.bist.wakePending
  let s := s.enterHold
  if wake then s.wakeUp else s

def execBistEnd (s : State) : Host.Outcome State Fault Refusal :=
  .next (if s.bist.sdActive && s.bist.sdPhase == 6 then s.bistOver.settle else s)

/-- WAKE in hold begins a warm start; during self-test it stops it (R432). -/
def State.wake (s : State) : State :=
  if s.bist.inHold then s.wakeUp
  else if s.bist.sdActive then { s with bist := { (s.bist.stop 4) with wakePending := true } }
  else s

/-- WAKE (R428, R431). -/
def execWake (m : Stobin) (s : State) : Host.Outcome State Fault Refusal :=
  .next (s.stobin m 0x63 (zeros 8) true .wake State.wake)

/-! ### Attestation, certificates, results, Cairn (R428, R429, R452, R454) -/

/-- The body of ATTEST_REPORT (R429). -/
def State.attestBody (s : State) (nonce : List Byte) : List Byte :=
  sub8 nonce 0 32 ++ leBytes 8 Config.deviceId.toNat ++ leBytes 8 s.bist.nonce.toNat ++ leBytes 8 s.now ++
    leBytes 8 s.bist.imageVersion.toNat ++ s.bist.imageMeasure ++ s.bist.ownerDigest ++ s.bist.repairDigest ++
    leBytes 2 s.pt.epoch.toNat ++ leBytes 1 ((if s.fenced then 1 else 0) + (if s.bist.mode = 2 then 2 else 0)) ++ zeros 5 ++
    (List.range 16).flatMap (fun n =>
      let q := s.part n
      leBytes 2 q.layout.granules.toNat ++ zeros 2 ++ leBytes 4 q.events ++ q.chain)

/-- ATTEST (R429). -/
def execAttest (m : Stobin) (nonce : List Byte) (s : State) : Host.Outcome State Fault Refusal :=
  .next (s.stobin m 0x70 nonce (nonce.length == 32) .all (fun s => s.tell m.port 0x71 (s.attestBody nonce)))

/-- CERT_READ (R428). -/
def execCertRead (m : Stobin) (s : State) : Host.Outcome State Fault Refusal :=
  .next (s.stobin m 0x72 (zeros 8) true .all (fun s => s.tell m.port 0x73 certBytes))

/-- A fault record by its place in the ring; zero beyond RESULTS (R440). -/
def Bist.result (b : Bist) (i : Nat) : W64 × W64 := (b.ring[i]?).getD (0, 0)

/-- BIST_READ (R428). -/
def execBistRead (m : Stobin) (first count : Nat) (s : State) : Host.Outcome State Fault Refusal :=
  .next (s.stobin m 0x74 (leBytes 2 first ++ leBytes 2 count ++ zeros 4) (decide (1 ≤ count) && decide (count ≤ 64)) .none (fun s =>
    s.tell m.port 0x75 (leBytes 8 s.bist.statWord.toNat ++ (List.range count).flatMap (fun i =>
      leBytes 8 (s.bist.result (first + i)).1.toNat ++ leBytes 8 (s.bist.result (first + i)).2.toNat))))

/-- CAIRN_READ (R454). -/
def execCairnRead (m : Stobin) (first max : Nat) (s : State) : Host.Outcome State Fault Refusal :=
  .next (s.stobin m 0x80 (leBytes 8 first ++ leBytes 2 max ++ zeros 6) (decide (1 ≤ max) && decide (max ≤ 256)) .read (fun s =>
    let rs := s.cairn.readFrom first max
    s.tell m.port 0x81 (leBytes 8 first ++ leBytes 2 rs.length ++ zeros 6 ++ rs.flatten)))

/-- CAIRN_CLEAR (R452, R454). -/
def execCairnClear (m : Stobin) (rec : List Byte) (s : State) : Host.Outcome State Fault Refusal :=
  .next (s.stobin m 0x82 rec (rec.length == 3392) .none (fun s =>
    let r := s.submitClear (m.port + 1) rec
    r.1.tell m.port 0x83 (leBytes 1 r.2 ++ zeros 7 ++ leBytes 8 (clearUpto rec))))

/-- START_REPORT (R418, R427): once at ready, and every 10 s on a port until a message has been accepted there. -/
def execStartReport (port : Nat) (s : State) : Host.Outcome State Fault Refusal :=
  .next (if decide (port < 2) && s.crest.powered && !(s.fence.mgmt port).heard && (s.bist.ready || s.bist.mode == 2) then
      s.tell port 0x60 s.bist.rpt
    else s)

end Sys2Proof.Machine
end

