-- ==== Sys2Proof/Machine/Registers.lean ====
section
/-! DEFINITION. Device registers as the host writes them: who reaches them (10 R274, R277), and what a write does, block by block (02
R59, 03 R90, 08 R241, 10 R281, R284, 11 R323, R324, R329, R341, 12 R376, R377, 14 R440, 15 R455, R464, 16 R485). -/

namespace Sys2Proof.Machine

/-! ### Access (R9, R274, R277) -/

/-- Ramalink carries transactions: it has trained, and the module runs. -/
def State.hostUp (s : State) : Bool := s.rlLanes != 0 && s.crest.powered

/-- An access that may not reach its window is dropped and recorded (R274). -/
def State.funcDrop (s : State) (f : Nat) (write : Bool) (addr : Nat) : State :=
  s.noteDev 0x501 (leBytes 1 f ++ leBytes 1 (if write then 1 else 0) ++ zeros 6 ++ leBytes 8 addr)

/-- An access of function `f` to the MGMT window. -/
def State.mgmtAccess (s : State) (f : Nat) (write : Bool) (addr : Nat) (g : State → State) : State :=
  if !s.hostUp then s else if f ≠ 0 then (s.funcDrop f write addr).settle else (g s).settle

def State.mgmtWrite (s : State) (f addr : Nat) (g : State → State) : State := s.mgmtAccess f true addr g

/-- A function reaches a context's page and apertures: it owns the context, or is function 0. -/
def State.reaches (s : State) (f c : Nat) : Bool := f == 0 || ((s.ctx c).state != 0 && (s.ctx c).func.toNat == f)

/-- Bits [lo + n − 1 : lo] of a word. -/
def wb (v : W64) (lo n : Nat) : Nat := bits v.toNat lo n
def clampTo (v lo hi : Nat) : Nat := Nat.max lo (Nat.min hi v)

/-- An event counter takes the value written (R59, R339). -/
def set32 (v : W64) : BitVec 32 := BitVec.ofNat 32 (v.toNat % 2 ^ 32)

/-! ### BEAT_ (R42, R46, R56, R57, R59) -/

/-- The largest declared count of a loaded program. -/
def State.maxBudget (s : State) : Nat :=
  s.parts.foldl (fun (n : Nat) (q : Nat × Part) => match q.2.model with
    | some m => m.programs.foldl (fun (n : Nat) (p : Nat × Program) => Nat.max n p.2.budget) n
    | none => n) 0

/-- The shapes of R42. -/
def shapeOk (period saddle : Nat) : Bool :=
  decide (20 ≤ period) && decide (period ≤ 1000) && decide (1 ≤ saddle) && decide (saddle ≤ 10) && decide (saddle + 15 ≤ period)

/-- The refusal of arming a shape, in the order of R57; 0 for none. -/
def State.stageCause (s : State) : Nat :=
  let b := s.beat
  let p := b.periodNext.toNat
  let d := b.saddleNext.toNat
  if !b.aligned then causeUnaligned
  else if b.staged.isSome then causeBusy
  else if b.stageTarget.toNat < s.now + 2 then causeNear
  else if !shapeOk p d then causeShape
  else if budgetOf p d (stepMHz b.loadFloor.toNat) < s.maxBudget then causeBudget
  else 0

/-- A refusal leaves a pending change as it is, and only CAUSE records it (R57, R59). -/
def State.stageRefuse (s : State) (c : Nat) : State :=
  ({ s with beat := { s.beat with stageCause := BitVec.ofNat 4 c, stageState := if s.beat.staged.isSome then 1 else 3 } }).raise 8

/-- ARM of BEAT_STAGE_CTRL. -/
def State.armShape (s : State) : State :=
  match s.stageCause with
  | 0 =>
    let b := s.beat
    let g : Staged := { target := b.stageTarget.toNat, period := b.periodNext.toNat, saddle := b.saddleNext.toNat }
    { s with beat := { b with staged := some g, stageState := 1 } }
  | c => s.stageRefuse c

/-- CANCEL of BEAT_STAGE_CTRL. -/
def State.cancelShape (s : State) : State :=
  match s.beat.staged with
  | none => s
  | some g => if g.target < s.now + 2 then s.stageRefuse causeLate else { s with beat := { s.beat with staged := none, stageState := 0 } }

def Beat.writeCtrl (b : Beat) (v : W64) : Beat :=
  { b with holdoverMax := BitVec.ofNat 8 (wb v 16 8), srcPort := BitVec.ofNat 5 (wb v 8 5),
           src := if wb v 0 2 = 3 then b.src else BitVec.ofNat 2 (wb v 0 2) }

def Beat.writeTiming (b : Beat) (v : W64) : Beat :=
  { b with loadFloor := BitVec.ofNat 4 (wb v 48 4), timeoutDef := BitVec.ofNat 8 (wb v 32 8),
           markTol := BitVec.ofNat 8 (clampTo (wb v 16 8) 10 200), tolIn := BitVec.ofNat 8 (clampTo (wb v 0 8) 10 200) }

def State.writeBeat (s : State) (o : Nat) (v : W64) : State :=
  let b := s.beat
  match o with
  | 0x008 => { s with beat := b.writeCtrl v }
  | 0x010 => { s with beat := { b with saddleNext := BitVec.ofNat 4 (wb v 48 4), periodNext := BitVec.ofNat 10 (wb v 32 10) } }
  | 0x018 => { s with beat := { b with stageTarget := v } }
  | 0x020 =>
    let s := if v.getLsbD 1 then s.cancelShape else s
    if v.getLsbD 0 then s.armShape else s
  | 0x028 => { s with beat := b.writeTiming v }
  | 0x030 => if v.getLsbD 4 then { s with beat := { b with lost := false } } else s
  | 0x038 => { s with beat := { b with miss := set32 v } }
  | 0x03C => { s with beat := { b with early := set32 v } }
  | 0x040 => { s with beat := { b with overrun := set32 v } }
  | 0x044 => { s with beat := { b with hung := set32 v } }
  | 0x048 => { s with beat := { b with markErr := set32 v } }
  | 0x04C => { s with beat := { b with cntErr := set32 v } }
  | 0x050 => { s with beat := { b with commitCarry := set32 v } }
  | _ => s

/-! ### CENS_ (R87, R89, R90) -/

/-- CENS_SEL selects and captures. -/
def State.censSel (s : State) (v : W64) : State :=
  let c := wb v 0 8
  let cls := wb v 8 6
  let f := wb v 16 2
  let cap := (List.range 5).map (fun n => Tab.get Cnt.zero s.census (censusKey c cls f n))
  { s with cens := { s.cens with fmt := BitVec.ofNat 2 f, cls := BitVec.ofNat 6 cls, ctx := BitVec.ofNat 8 c, cap := cap } }

def State.censClrCtx (s : State) : State := { s with cens := { s.cens with clears := s.cens.clears ++ [(s.cens.ctx.toNat, none)] } }
def State.censClrSel (s : State) : State :=
  { s with cens := { s.cens with clears := s.cens.clears ++ [(s.cens.ctx.toNat, some (s.cens.cls.toNat, s.cens.fmt.toNat))] } }

def State.writeCens (s : State) (o : Nat) (v : W64) : State :=
  match o with
  | 0x000 => s.censSel v
  | 0x030 =>
    let s := if v.getLsbD 1 then s.censClrCtx else s
    if v.getLsbD 0 then s.censClrSel else s
  | _ => s

/-! ### PASS_ (R239 to R241) -/

/-- The counters that PASS_SEL names: those of a routing table, or of a slot. -/
def State.passCounters (s : State) : List Cnt :=
  let q := s.part s.passRegs.pt.toNat
  let n := s.passRegs.num.toNat
  if s.passRegs.kind = 0 then (Tab.get {} q.tabs n).counters else (Tab.get {} q.slots n).counters

/-- PASS_SEL selects and captures; a write of a reserved KIND is ignored. -/
def State.passSel (s : State) (v : W64) : State :=
  if 2 ≤ wb v 16 2 then s
  else
    let s := { s with passRegs :=
      { s.passRegs with kind := BitVec.ofNat 2 (wb v 16 2), pt := BitVec.ofNat 4 (wb v 8 4), num := BitVec.ofNat 6 (wb v 0 6) } }
    { s with passRegs := { s.passRegs with cap := s.passCounters } }

/-- CLR_SEL of PASS_CTRL. -/
def State.passClr (s : State) : State :=
  let n := s.passRegs.num.toNat
  let z := List.replicate 8 Cnt.zero
  s.updPart s.passRegs.pt.toNat (fun q =>
    if s.passRegs.kind = 0 then
      (match Tab.find q.tabs n with | some t => { q with tabs := Tab.set q.tabs n { t with counters := z } } | none => q)
    else match Tab.find q.slots n with | some t => { q with slots := Tab.set q.slots n { t with counters := z } } | none => q)

def State.writePass (s : State) (o : Nat) (v : W64) : State :=
  match o with
  | 0x000 => s.passSel v
  | 0x048 => if v.getLsbD 0 then s.passClr else s
  | 0x090 => { s with passRegs := { s.passRegs with late := set32 v } }
  | 0x094 => { s with passRegs := { s.passRegs with badDest := set32 v } }
  | _ => s

/-! ### CREST_ (R485) -/

def State.writeCrest (s : State) (o : Nat) (v : W64) : State :=
  let c := s.crest
  match o with
  | 0x000 => { s with crest := { c with
      rampW := BitVec.ofNat 16 (wb v 32 16), thrCeilW := BitVec.ofNat 16 (clampTo (wb v 16 16) 1000 7500),
      ceilW := BitVec.ofNat 16 (clampTo (wb v 0 16) 1000 7500) } }
  | 0x028 => { s with crest := { c with
      ballastEn := v.getLsbD 20, stepFloor := BitVec.ofNat 4 (wb v 16 4), baseW := BitVec.ofNat 16 (clampTo (wb v 0 16) 500 4000) } }
  | 0x040 => { s with crest := { c with holdCnt := set32 v } }
  | 0x044 => { s with crest := { c with thrmBeats := set32 v } }
  | 0x048 => { s with crest := { c with ballastBeats := set32 v } }
  | 0x04C => { s with crest := { c with vinExc := set32 v } }
  | 0x050 => { s with crest := { c with clamp := set32 v } }
  | _ => s

/-! ### PT_ (R317 to R319, R329, R341) -/

/-- PT_MODE_CTRL.ARM. -/
def State.ptArm (s : State) : State :=
  match s.armCause s.pt.target.toNat with
  | 0 => s.armMode s.pt.target.toNat false
  | c => s.modeRefuse c

/-- PT_MODE_CTRL.CANCEL. -/
def State.ptCancel (s : State) : State :=
  if s.pt.armed.isNone then s else if s.cancelLate then s.modeRefuse causeLate else s.disarmMode

/-- PT_MODE_CTRL.APPLY_IDLE: the change is armed for the next edge. -/
def State.applyIdle (s : State) : State :=
  match s.idleCause with
  | 0 => s.armMode (s.now + 1) true
  | c => s.modeRefuse c

/-- A layout word of PT_LAYOUT and PT_NEXT (R341). -/
def layoutOf (v : W64) : Layout :=
  { hi := BitVec.ofNat 16 (wb v 48 16), lo := BitVec.ofNat 16 (wb v 32 16), streams := BitVec.ofNat 14 (wb v 16 14),
    granules := BitVec.ofNat 16 (wb v 0 16) }

/-- A write of PT_NEXT (R317). -/
def State.writeNext (s : State) (n : Nat) (v : W64) : State :=
  if s.pt.armed.isSome ∨ 16 ≤ n then s
  else { (s.updPart n (fun q => { q with next := layoutOf v })) with pt := { s.pt with pending := true } }

/-- A swap can be accepted (R329). -/
def Sched.swapOk (q : Sched) (now : Nat) : Bool :=
  decide (now + 2 ≤ q.originNext.toNat) && decide (1 ≤ q.lenNext.toNat) && decide (q.lenNext.toNat ≤ 512)

/-- SWAP takes the table, LEN_NEXT and the origin as they stand. -/
def Sched.doSwap (q : Sched) (now : Nat) : Sched :=
  if q.swapOk now then { q with state := 1, swap := some { len := q.lenNext.toNat, origin := q.originNext.toNat, table := q.next } }
  else { q with state := 3 }

/-- CANCEL withdraws a swap that has not applied. -/
def Sched.cancel (q : Sched) : Sched := if q.swap.isSome then { q with swap := none, state := 0 } else q

/-- A write of PT_SCHED_CTRL: LEN_NEXT, then CANCEL, then SWAP. -/
def Sched.writeCtrl (q : Sched) (now : Nat) (v : W64) : Sched :=
  let q := { q with lenNext := BitVec.ofNat 10 (wb v 32 10) }
  let q := if v.getLsbD 1 then q.cancel else q
  if v.getLsbD 0 then q.doSwap now else q

/-- Register j of PT_SCHED_NEXT: four entries, their reserved bits zero. -/
def Sched.writeEntries (q : Sched) (j : Nat) (v : W64) : Sched :=
  let e (i : Nat) : BitVec 16 := BitVec.ofNat 16 (wb v (16 * i) 16) &&& 0x80FF
  { q with next := (List.range 4).foldl (fun (t : Tab (BitVec 16)) i => Tab.set t (4 * j + i) (e i)) q.next }

def State.updSched (s : State) (n : Nat) (f : Sched → Sched) : State :=
  if n < 16 then s.updPart n (fun q => { q with sched := f q.sched }) else s

/-- A register of partition n, at an offset from its base. -/
def State.writePtPart (s : State) (n r : Nat) (v : W64) : State :=
  if r = 0x008 then s.writeNext n v
  else if r = 0x018 then s.updPart n (fun q => { q with preemptMin := BitVec.ofNat 3 (wb v 0 3) })
  else if r = 0x020 then s.updSched n (fun q => q.writeCtrl s.now v)
  else if r = 0x028 then s.updSched n (fun q => { q with originNext := v })
  else if 0x400 ≤ r ∧ r < 0x800 then s.updSched n (fun q => q.writeEntries ((r - 0x400) / 8) v)
  else s

def State.writePt (s : State) (o : Nat) (v : W64) : State :=
  if o = 0x0008 then { s with pt := { s.pt with target := v } }
  else if o = 0x0010 then
    let s := if v.getLsbD 1 then s.ptCancel else s
    let s := if v.getLsbD 0 then s.ptArm else s
    if v.getLsbD 2 then s.applyIdle else s
  else if o = 0x0020 then { s with pt := { s.pt with mmRefuse := set32 v } }
  else if 0x1000 ≤ o ∧ o < 0x1000 + 16 * 0xC00 then s.writePtPart ((o - 0x1000) / 0xC00) ((o - 0x1000) % 0xC00) v
  else s

/-! ### CTX_ (R282, R323, R324, R341) -/

def State.homeBytes (s : State) (c : Nat) : Nat := (s.ctx c).home64M.toNat * 67108864

/-- Where a context's home region fits (R244, R245, R282). -/
def State.homeFit (s : State) (c : Nat) : Option Nat :=
  let l := (s.part (s.ctxPart c)).layout
  firstFit l (s.extents ++ s.retiredExtents) l.dies (footprint l.dies (s.homeBytes c) / 2097152)

/-- The pending layout rebuilds a partition, or a layout is being applied under R319. -/
def State.ptClosed (s : State) (n : Nat) : Bool :=
  !(s.part n).layout.present || s.pt.idle || (s.layoutWaits && s.rebuilds (s.part n).next n)

/-- LAST_ERR of a creation: 4 BUSY, 5 CONFIG, 1 PARTITION, 3 NO_STREAMS, 2 NO_HBM, 0 for none. -/
def State.createErr (s : State) (c : Nat) : Nat :=
  let x := s.ctx c
  if x.state ≠ 0 ∨ (match x.endedBeat with | some b => decide (s.now < b + 2) | none => false) = true then 4
  else if x.home64M.toNat = 0 ∨ 64 < x.home64M.toNat then 5
  else if s.ptClosed x.pt.toNat then 1
  else if !s.streamRoom x.pt.toNat then 3
  else if (s.homeFit c).isNone then 2 else 0

/-- Stream 0 and completion ring 0 (R282). -/
def State.openControl (s : State) (c : Nat) : State :=
  let g := s.freeStream
  let s := { s with strms := Tab.set s.strms g { isOpen := true, pt := s.ctxPart c, ctx := c, log2 := 8, off := 0 } }
  s.updCtx c (fun x => { x with streams := [(0, g)], cq := [(0, { defined := true, off := 0x4000, log2 := 9 })] })

/-- The pending bits of a context's three sources clear (R456). -/
def Irq.clearCtx (q : Irq) (c : Nat) : Irq := ((q.setPending (64 + c) false).setPending (320 + 2 * c) false).setPending (321 + 2 * c) false

/-- A creation that succeeds (R323): the context begins with its page at its reset values, GEN one on, and a zeroed home region. -/
def State.makeCtx (s : State) (c off : Nat) : State :=
  let x := s.ctx c
  let w := regWords 0 false 15 (s.part x.pt.toNat).layout.dies off false 0 (s.homeBytes c)
  let e : RegEntry := { w0 := BitVec.ofNat 64 w.1, w1 := BitVec.ofNat 64 w.2, desc := { kind := 0, size := s.homeBytes c, rights := 15 } }
  let y : Ctx :=
    { home64M := x.home64M, devCtrl := x.devCtrl, ptCtrl := x.ptCtrl, func := x.func, pt := x.pt, state := 1, gen := x.gen + 1,
      rsel := x.rsel, rword0 := x.rword0, rword1 := x.rword1, regions := [(0, e)] }
  let s := { s with ctxs := Tab.set s.ctxs c y, census := clearCensusCtx c s.census, irq := s.irq.clearCtx c }
  (s.regZero e 0 0 (s.homeBytes c)).openControl c

/-- CTX_CMD.CREATE, in a device that is ready. -/
def State.createCtx (s : State) (c : Nat) : State :=
  if !s.bist.ready || decide (256 ≤ c) then s
  else
    match s.createErr c, s.homeFit c with
    | 0, some u => s.makeCtx c (u * 2097152)
    | k, _ => s.updCtx c (fun x => { x with lastErr := BitVec.ofNat 8 k })

/-- The beat of the first window in which a new reset of the context would be accepted (R305, R324). -/
def State.destroyBeat (s : State) (c : Nat) : Nat :=
  match (s.ctx c).lastReset with
  | some b => Nat.max s.effectBeat (b + 3)
  | none => s.effectBeat

/-- CTX_CMD.DESTROY (R324): it joins a reset that is pending, else orders one; after a reset that has taken effect and has still to finish,
its own follows. -/
def State.destroyCtx (s : State) (c : Nat) : State :=
  let x := s.ctx c
  if x.state ≠ 1 then s
  else
    let s := match x.reset with
      | some r =>
        if r.done then
          let t := s.startReset c none true (s.destroyBeat c)
          t.updCtx c (fun k => { k with reset := some { r with next := k.reset.map (fun (q : ResetSt) => (q.effectBeat, q.purge)) } })
        else s.updCtx c (fun k => { k with reset := some { r with destroy := true } })
      | none => s.startReset c none true (s.destroyBeat c)
    s.updCtx c (fun k => { k with state := 2 })

/-- CTX_CFG, ignored unless the context is FREE. -/
def Ctx.writeCfg (x : Ctx) (v : W64) : Ctx :=
  if x.state ≠ 0 then x
  else { x with home64M := BitVec.ofNat 7 (wb v 32 7), devCtrl := v.getLsbD 17, ptCtrl := v.getLsbD 16, func := BitVec.ofNat 8 (wb v 8 8),
                pt := BitVec.ofNat 4 (wb v 0 4) }

/-- CTX_RSEL selects and captures a region-table entry. -/
def Ctx.writeRsel (x : Ctx) (v : W64) : Ctx :=
  let e := x.region (wb v 0 6)
  { x with rsel := BitVec.ofNat 6 (wb v 0 6), rword0 := e.w0, rword1 := e.w1 }

def State.writeCtx (s : State) (c r : Nat) (v : W64) : State :=
  match r with
  | 0x000 => s.updCtx c (fun x => x.writeCfg v)
  | 0x008 =>
    let s := if v.getLsbD 1 then s.destroyCtx c else s
    if v.getLsbD 0 then s.createCtx c else s
  | 0x018 => s.updCtx c (fun x => x.writeRsel v)
  | _ => s

/-! ### ACCT_ (R336 to R338, R341) -/

/-- The counters that ACCT_SEL names. -/
def State.acctCounters (s : State) : List Cnt :=
  let i := s.acctRegs.index.toNat
  match s.acctRegs.kind with
  | 0 => if i < 256 then (s.ctx i).acct else []
  | 1 => (s.strm i).acct
  | 2 => if i < 5120 then (s.block i).acct else []
  | _ => []

/-- ACCT_SEL selects and captures; a write of KIND 3 is ignored. -/
def State.acctSel (s : State) (v : W64) : State :=
  if wb v 16 2 = 3 then s
  else
    let s := { s with acctRegs := { s.acctRegs with kind := BitVec.ofNat 2 (wb v 16 2), index := BitVec.ofNat 13 (wb v 0 13) } }
    { s with acctRegs := { s.acctRegs with cap := s.acctCounters } }

/-- CLR_SEL of ACCT_CTRL. -/
def State.acctClr (s : State) : State :=
  let i := s.acctRegs.index.toNat
  let z (n : Nat) : List Cnt := List.replicate n Cnt.zero
  match s.acctRegs.kind with
  | 0 => if i < 256 then s.updCtx i (fun x => { x with acct := z 8 }) else s
  | 1 => if (Tab.find s.strms i).isSome then s.updStrm i (fun x => { x with acct := z 8 }) else s
  | 2 => if i < 5120 then s.updBlock i (fun b => { b with acct := z 9 }) else s
  | _ => s

def State.writeAcct (s : State) (o : Nat) (v : W64) : State :=
  match o with
  | 0x000 => s.acctSel v
  | 0x050 => if v.getLsbD 0 then s.acctClr else s
  | _ => s

/-! ### IRQ_ (R456 to R464) -/

/-- The bits of word `w` whose sources satisfy a condition. -/
def maskWord (w : Nat) (p : Nat → Bool) : W64 :=
  BitVec.ofNat 64 ((List.range 64).foldl (fun n b => if p (64 * w + b) then n + 2 ^ b else n) 0)

/-- Some bits of a word of a table take those of a value. -/
def mergeWord (t : Tab W64) (k : Nat) (m v : W64) : Tab W64 := Tab.set t k ((Tab.get 0 t k &&& ~~~m) ||| (v &&& m))

/-- Sources whose bits the shared words hold, and those of a bank. -/
def Irq.sharedMask (q : Irq) (w : Nat) : W64 := maskWord w (fun n => (q.bank n).isNone)
def Irq.bankWord (q : Irq) (k w : Nat) : W64 := maskWord w (fun n => q.bank n == some k)

/-- Sources of a word that can be pending: writes to the pending bits of the others are ignored (R456). -/
def realWord (w : Nat) : W64 := maskWord w irqReal

def Irq.writePend (q : Irq) (w : Nat) (v : W64) : Irq := { q with pend := mergeWord q.pend w (q.sharedMask w &&& realWord w) v }
def Irq.writeMask (q : Irq) (w : Nat) (v : W64) : Irq := { q with mask := mergeWord q.mask w (q.sharedMask w) (~~~v) }
def Irq.writeBankPend (q : Irq) (k w : Nat) (v : W64) : Irq := { q with bankPend := mergeWord q.bankPend (16 * k + w) (q.bankWord k w &&& realWord w) v }
def Irq.writeBankMask (q : Irq) (k w : Nat) (v : W64) : Irq := { q with bankMask := mergeWord q.bankMask (16 * k + w) (q.bankWord k w) (~~~v) }

/-- IRQ_BANKMAP: bit 6 of each slot is reserved. -/
def Irq.writeBankmap (q : Irq) (v : W64) : Irq := { q with bankmap := v &&& 0xBFBFBFBFBFBFBFBF }

/-- A claim (R461, R463): the source it returns, and what it leaves. -/
def Irq.claim (q : Irq) (t : Nat) : Nat × Irq :=
  match q.best t with
  | none => (if q.mode then 1023 else 0, q)
  | some n =>
    let q := q.setPending n false
    let q := if levelSources.contains n then { q with inService := q.inService ++ [(n, t)] } else q
    let x := q.target t
    (n, q.setTarget t { x with last := BitVec.ofNat 10 n, held := x.holdoff != 0, idle := false })

/-- A completion (R462): by the target that claimed it, of a source in service. -/
def Irq.complete (q : Irq) (t n : Nat) : Irq := { q with inService := q.inService.filter (fun p => !(p.1 == n && p.2 == t)) }

/-- IDLE ends any holdoff (R463). -/
def Irq.goIdle (q : Irq) (t : Nat) : Irq := q.setTarget t { q.target t with idle := true, held := false }

/-- HOLDOFF, larger values being treated as 1,000. -/
def Irq.writeMod (q : Irq) (t : Nat) (v : W64) : Irq := q.setTarget t { q.target t with holdoff := BitVec.ofNat 10 (wb v 0 10) }

/-- IRQ_CTRL.MODE: every source in service leaves service (R462). -/
def Irq.writeMode (q : Irq) (v : W64) : Irq := { q with mode := v.getLsbD 0, inService := [] }

def Irq.writeTarget (q : Irq) (t r : Nat) (v : W64) : Irq :=
  match r with
  | 0x08 => q.complete t (wb v 0 10)
  | 0x10 => if v.getLsbD 0 then q.goIdle t else q
  | 0x18 => q.writeMod t v
  | _ => q

def Irq.write (q : Irq) (o : Nat) (v : W64) : Irq :=
  if o = 0x0000 then q.writeMode v
  else if o = 0x0008 then q.writeBankmap v
  else if 0x0100 ≤ o ∧ o < 0x0180 then q.writePend ((o - 0x100) / 8) v
  else if 0x0200 ≤ o ∧ o < 0x0280 then q.writeMask ((o - 0x200) / 8) v
  else if 0x1000 ≤ o ∧ o < 0x3000 then { q with cfg := Tab.set q.cfg ((o - 0x1000) / 8) (v &&& 0x800000000000003F) }
  else if 0x3000 ≤ o ∧ o < 0x5000 then { q with tmask := Tab.set q.tmask ((o - 0x3000) / 8) v }
  else if 0x5000 ≤ o ∧ o < 0x5800 then
    let k := (o - 0x5000) / 0x100
    let r := (o - 0x5000) % 0x100
    if r < 0x80 then q.writeBankPend k (r / 8) v else q.writeBankMask k ((r - 0x80) / 8) v
  else if 0x6000 ≤ o ∧ o < 0x7000 then q.writeTarget ((o - 0x6000) / 0x40) ((o - 0x6000) % 0x40) v
  else q

def State.writeIrq (s : State) (o : Nat) (v : W64) : State := { s with irq := s.irq.write o v }

/-! ### CAIRN_ (R453, R455, R481) -/

/-- A write of CAIRN_FAULT: THERMAL_TRIP goes once every sensor reads below 90 °C, QUARANTINE at once. -/
def State.writeFault (s : State) (v : W64) : State :=
  let s := if v.getLsbD 4 then { s with faultQuarantine := false } else s
  if v.getLsbD 6 && s.crest.temps.all (fun t => decide (t < hot90)) then { s with crest := { s.crest with tripLatch := false } } else s

def State.writeCairn (s : State) (o : Nat) (v : W64) : State :=
  let c := s.cairn
  if o = 0x020 then { s with cairn := { c with tornBit := c.tornBit && !v.getLsbD 0 } }
  else if o = 0x028 then { s with cairn := c.capture v }
  else if o = 0x038 then
    let s := if v.getLsbD 0 then { s with cairn := { c with clrBuf := [] } } else s
    if v.getLsbD 1 then s.clearGo else s
  else if o = 0x040 then { s with cairn := c.clearData v }
  else if o = 0x048 then { s with cairn := { c with qdrop := set32 v } }
  else if o = 0x050 then s.writeFault v
  else if 0x8000 ≤ o ∧ o < 0x10000 then { s with cairn := c.codeWrite ((o - 0x8000) / 8) v }
  else s

/-! ### BIST_ (R432, R440) -/

/-- The read-write fields of BIST_CTRL. -/
def Bist.writeCtrl (b : Bist) (v : W64) : Bist := { b with chunks := BitVec.ofNat 16 (wb v 32 16), noBist := v.getLsbD 1 }

/-- ABORT: self-test stops, and the device goes on into hold. -/
def State.bistStop (s : State) : State := if s.bist.sdActive then { s with bist := s.bist.stop 4 } else s

/-- BIST_RES_SEL captures a fault record; zero beyond RESULTS. -/
def Bist.resSelect (b : Bist) (v : W64) : Bist :=
  let r := b.result (wb v 0 10)
  { b with resSel := BitVec.ofNat 10 (wb v 0 10), w0 := r.1, w1 := r.2 }

/-- A write of BIST_CTRL, but for RETRY. -/
def State.writeBistCtrl (s : State) (v : W64) : State :=
  let s := { s with bist := s.bist.writeCtrl v }
  let s := if v.getLsbD 2 then s.bistStop else s
  if v.getLsbD 0 then s.standDown false else s

/-- GO and RETRY are operations of their own (BIST_IMG_GO, RETRY): what the start finds comes with them. -/
def State.writeBist (s : State) (o : Nat) (v : W64) : State :=
  match o with
  | 0x008 => if v.getLsbD 0 then { s with bist := s.bist.imgClear } else s
  | 0x010 => { s with bist := s.bist.imgData v }
  | 0x018 => s.writeBistCtrl v
  | 0x020 => { s with bist := { s.bist with overflow := s.bist.overflow && !v.getLsbD 15 } }
  | 0x028 => { s with bist := s.bist.resSelect v }
  | 0x040 => { s with bist := { s.bist with resDrop := set32 v } }
  | _ => s

/-! ### LNK_ (R375 to R377) -/

/-- LNK_PCTRL: ENABLE 0 holds the port DOWN; RETRAIN trains it and restarts discovery. -/
def State.writePctrl (s : State) (p : Nat) (v : W64) : State :=
  let en := v.getLsbD 0
  let was := (s.port p).enable
  let s := s.updPort p (fun q => { q with enable := en })
  if !en then (if (s.port p).state = 0 then s else (s.setUp p false).portTo p 0 (fun q => { q.down with quarantined := q.quarantined }))
  else if (v.getLsbD 1 || !was) && s.linksLive && !(s.port p).quarantined then s.retrainPort p
  else s

def State.updLnk (s : State) (f : Lnk → Lnk) : State := { s with lnk := f s.lnk }

def State.writePort (s : State) (p r : Nat) (v : W64) : State :=
  match r with
  | 0x08 => s.writePctrl p v
  | 0x18 => s.updPort p (fun q => { q with fecCorr := set32 v })
  | 0x1C => s.updPort p (fun q => { q with fecUncorr := set32 v })
  | 0x20 => s.updPort p (fun q => { q with replay := set32 v })
  | 0x24 => s.updPort p (fun q => { q with crcErr := set32 v })
  | _ => s

/-- LNK_EXC keeps its reserved bits zero. -/
def excWord (v : W64) : W64 := v &&& 0x9FFFFFFFFFFFFFFF

def State.writeLnk (s : State) (o : Nat) (v : W64) : State :=
  if o = 0x08 then s.updLnk (fun l => { l with
    uncorrMax := BitVec.ofNat 8 (wb v 32 8), retryUs := BitVec.ofNat 8 (wb v 16 8), hopLimit := BitVec.ofNat 4 (wb v 0 4) })
  else if o = 0x10 then s.updLnk (fun l => { l with excl := BitVec.ofNat 32 (wb v 32 32) })
  else if o = 0x20 then s.updLnk (fun l => { l with late := set32 v })
  else if o = 0x24 then s.updLnk (fun l => { l with epochDrop := set32 v })
  else if o = 0x28 then s.updLnk (fun l => { l with stray := set32 v })
  else if o = 0x2C then s.updLnk (fun l => { l with failover := set32 v })
  else if o = 0x30 then s.updLnk (fun l => { l with retx := set32 v })
  else if o = 0x34 then s.updLnk (fun l => { l with dup := set32 v })
  else if o = 0x38 then s.updLnk (fun l => { l with unreach := set32 v })
  else if o = 0x3C then s.updLnk (fun l => { l with misroute := set32 v })
  else if o = 0x40 then s.updLnk (fun l => { l with badType := set32 v })
  else if 0x400 ≤ o ∧ o < 0x600 then s.updLnk (fun l => { l with exc := Tab.set l.exc ((o - 0x400) / 8) (excWord v) })
  else if 0x1000 ≤ o ∧ o < 0x3000 then s.writePort ((o - 0x1000) / 0x100) ((o - 0x1000) % 0x100) v
  else s

/-! ### The context page (R281, R284) -/

/-- DB_ERR or HOST_FAULT is set, which is the context's source (R456). -/
def State.setDbErr (s : State) (c : Nat) : State := (s.updCtx c (fun x => { x with dbErr := true })).raise (64 + c)
def State.setHostFault (s : State) (c : Nat) : State := (s.updCtx c (fun x => { x with hostFault := true })).raise (64 + c)

/-- A doorbell can be taken (R284): TAIL does not move back, nor more than the ring's size beyond HEAD. -/
def Strm.takes (x : Strm) (tail : BitVec 32) : Bool :=
  decide ((x.tail - x.head).toNat ≤ (tail - x.head).toNat) && decide ((tail - x.head).toNat ≤ 2 ^ x.log2)

/-- A write of STRM_DB: it sets TAIL and, with RESUME, clears HALTED; or it is ignored whole and DB_ERR is set. -/
def State.ring (s : State) (c n : Nat) (tail : BitVec 32) (resume : Bool) : State :=
  match s.openStream c n with
  | none => s.setDbErr c
  | some g =>
    if (s.strm g).takes tail then s.updStrm g (fun x => { x with tail := tail, halted := x.halted && !resume })
    else s.setDbErr c

def State.writePage (s : State) (c r : Nat) (v : W64) : State :=
  if r = 0 then s.updCtx c (fun x => { x with dbErr := x.dbErr && !v.getLsbD 2, hostFault := x.hostFault && !v.getLsbD 1 })
  else if 0x100 ≤ r ∧ r < 0x200 ∧ r % 16 = 8 then
    s.updCq c ((r - 0x100) / 16) (fun q => { q with cons := set32 v })
  else if 0x8000 ≤ r ∧ r < 0xA000 then s.ring c ((r - 0x8000) / 8) (set32 v) (v.getLsbD 63)
  else s

/-! ### The whole map (R277, R280, R281) -/

/-- The registers of 32 bits, by their offsets in the MGMT window. -/
def reg32 (a : Nat) : Bool :=
  (decide (0x38 ≤ a) && decide (a < 0x54)) || a == 0x2090 || a == 0x2094 || (decide (0x3040 ≤ a) && decide (a < 0x3054)) ||
    a == 0x10020 || a == 0x300048 || a == 0x310040 || (decide (0x400020 ≤ a) && decide (a < 0x400044)) ||
    (decide (0x401000 ≤ a) && decide (a < 0x403000) && decide (0x18 ≤ a % 0x100) && decide (a % 0x100 < 0x28))

/-- The width of an access fits the register and its alignment (R9). -/
def widthOk (a width : Nat) : Bool := if reg32 a then width == 4 && a % 4 == 0 else width == 8 && a % 8 == 0

/-- A write to the MGMT window, by block. -/
def State.writeMgmt (s : State) (a : Nat) (v : W64) : State :=
  if a < 0x1000 then s.writeBeat a v
  else if a < 0x2000 then s.writeCens (a - 0x1000) v
  else if a < 0x3000 then s.writePass (a - 0x2000) v
  else if a < 0x4000 then s.writeCrest (a - 0x3000) v
  else if 0x10000 ≤ a ∧ a < 0x20000 then s.writePt (a - 0x10000) v
  else if 0x40000 ≤ a ∧ a < 0x80000 then s.writeCtx ((a - 0x40000) / 0x400) ((a - 0x40000) % 0x400) v
  else if 0x100000 ≤ a ∧ a < 0x200000 then s.writeAcct (a - 0x100000) v
  else if 0x200000 ≤ a ∧ a < 0x210000 then s.writeIrq (a - 0x200000) v
  else if 0x300000 ≤ a ∧ a < 0x310000 then s.writeCairn (a - 0x300000) v
  else if 0x310000 ≤ a ∧ a < 0x311000 then s.writeBist (a - 0x310000) v
  else if 0x400000 ≤ a ∧ a < 0x420000 then s.writeLnk (a - 0x400000) v
  else s

/-- The MGMT window and the context pages (R277). -/
def mgmtTop : Nat := 0x1000000
def pageTop : Nat := 0x2000000

/-- A register write of a function (R9, R274, R277). -/
def State.writeReg (s : State) (f a width : Nat) (v : W64) : State :=
  if a < mgmtTop then (if f ≠ 0 then s.funcDrop f true a else if widthOk a width then s.writeMgmt a v else s)
  else if a < pageTop then
    let c := (a - mgmtTop) / 0x10000
    if !s.reaches f c then s.funcDrop f true a
    else if width = 8 ∧ a % 8 = 0 then s.writePage c ((a - mgmtTop) % 0x10000) v else s
  else s.funcDrop f true a

/-! ### Apertures (R248, R258, R278, R279) -/

/-- The parts of an aperture address: context, region, offset; none outside the apertures. -/
def aperture (a : Nat) : Option (Nat × Ref) :=
  if a / 2 ^ 56 = 128 then some (bits a 48 8, { region := bits a 42 6, off := bits a 0 42 }) else none

/-- A dropped aperture access (R279, R448). -/
def State.apertureDrop (s : State) (c : Nat) (r : Ref) (write : Bool) : State :=
  (s.setHostFault c).note
    { code := 0x503, ctx := c, payload := leBytes 1 r.region ++ leBytes 1 (if write then 1 else 0) ++ zeros 6 ++ leBytes 8 r.off }

/-- Host bytes enter a region at once, but for those of frozen slabs (R192); a verified segment that they touch is unverified again (R258). -/
def State.hostWrite (s : State) (c : Nat) (r : Ref) (l : List Byte) : State :=
  let e := (s.ctx c).region r.region
  let s := (trainedParts (Tab.find (s.masksOf c) r.region) e.size r.off l.length).foldl (fun (s : State) q =>
    s.regWrite e (s.writeBuf c r.region) q.1 ((l.drop (q.1 - r.off)).take q.2)) s
  s.touch c r.region r.off l.length

def State.apWrite (s : State) (f a : Nat) (l : List Byte) : State :=
  match aperture a with
  | none => s.funcDrop f true a
  | some (c, r) =>
    if !s.reaches f c then s.funcDrop f true a
    else if s.allows c r l.length .hostWr true then s.hostWrite c r l
    else s.apertureDrop c r true

/-- An aperture read returns bytes, or zero when it is dropped. -/
def State.apRead (s : State) (f a n : Nat) : State :=
  match aperture a with
  | none => (s.funcDrop f false a).send (.readData (zeros n))
  | some (c, r) =>
    if !s.reaches f c then (s.funcDrop f false a).send (.readData (zeros n))
    else if s.allows c r n .hostRd false then s.send (.readData (s.readRef c r n))
    else (s.apertureDrop c r false).send (.readData (zeros n))

end Sys2Proof.Machine
end

