-- ==== Sys2Proof/Machine/LinkRows.lean ====
section
/-! DEFINITION. The meanings of the link rows: port events, frames received by type (12 R345 to R354, R358 to R374; 08 R217 to R232), and
Ramalink's retraining (10 R276). Frames act while the device's links run: a start has brought them up, and the module has power
(log 3). -/

namespace Sys2Proof.Machine

/-- A frame or port event, while links run. -/
def State.onLinks (s : State) (f : State → State) : Host.Outcome State Fault Refusal :=
  .next (if s.linksLive then (f s).settle else s)

/-! ### Ports -/

/-- DISCOVER_SEND (R350, R374): a port in discovery or up sends DISCOVER. -/
def execDiscoverSend (p : Nat) (s : State) : Host.Outcome State Fault Refusal :=
  s.onLinks (fun s => if (s.port p).state = 2 ∨ (s.port p).state = 3 then s.sendDiscover p else s)

/-- DISCOVER_REPLY (R350, R351). -/
def execDiscoverReply (p : Nat) (arrival : Nat) (fr : Frame) (s : State) : Host.Outcome State Fault Refusal :=
  s.onLinks (fun s => s.discoverReply p arrival fr)

/-- DISCOVER (R374). -/
def execDiscover (p : Nat) (fenced : Bool) (fr : Frame) (s : State) : Host.Outcome State Fault Refusal :=
  s.onLinks (fun s => s.discoverSeen p fenced fr)

/-- EPOCH_ANNOUNCE (R373). -/
def execEpochAnnounce (p : Nat) (fenced : Bool) (fr : Frame) (s : State) : Host.Outcome State Fault Refusal :=
  s.onLinks (fun s => s.epochAnnounce p fenced fr)

/-- HOP_ACK (R346). -/
def execHopAck (p : Nat) (nack : Bool) (lseq : Nat) (s : State) : Host.Outcome State Fault Refusal := s.onLinks (fun s => s.hopAck p nack lseq)

/-- HOP_CREDIT (R346). -/
def execHopCredit (p : Nat) (c0 c1 c2 c3 : Nat) (s : State) : Host.Outcome State Fault Refusal :=
  s.onLinks (fun s => s.hopCredit p [c0, c1, c2, c3])

/-- FRAME_CRC_ERROR (R346). -/
def execFrameCrcError (p lseq : Nat) (s : State) : Host.Outcome State Fault Refusal := s.onLinks (fun s => s.crcError p lseq)

/-- RESERVED_FRAME (R345). -/
def execReservedFrame (p ty : Nat) (s : State) : Host.Outcome State Fault Refusal := s.onLinks (fun s => s.badType p ty)

/-- PORT_TRAINED (R350): a port's training ends, and discovery begins. -/
def execPortTrained (p lanes : Nat) (s : State) : Host.Outcome State Fault Refusal := s.onLinks (fun s => s.portTrained p lanes)

/-- PORT_FAILURE (R354). -/
def execPortFailure (p cause : Nat) (s : State) : Host.Outcome State Fault Refusal := s.onLinks (fun s => s.portFailure p cause)

/-! ### End to end -/

/-- E2E_ACK (R347). -/
def execE2eAck (fr : Frame) (s : State) : Host.Outcome State Fault Refusal := s.onLinks (fun s => s.e2eAck fr)

/-- E2E_NOTREADY (R359, R369). -/
def execE2eNotready (refused : Bool) (fr : Frame) (s : State) : Host.Outcome State Fault Refusal :=
  s.onLinks (fun s => s.e2eNotready refused fr)

/-- E2E_RESEND (R347): a kept frame's RETRY_US is over. -/
def execE2eResend (ix : Nat) (s : State) : Host.Outcome State Fault Refusal := s.onLinks (fun s => s.resendAt ix)

/-! ### Collectives and channels -/

/-- COLL_DATA (R362). -/
def execCollData (fr : Frame) (s : State) : Host.Outcome State Fault Refusal := s.onLinks (fun s => s.collData fr)

/-- COLL_ABORT (R374). -/
def execCollAbort (fr : Frame) (s : State) : Host.Outcome State Fault Refusal := s.onLinks (fun s => s.collAbort fr)

/-- PERM_DATA (R369). -/
def execPermData (fr : Frame) (s : State) : Host.Outcome State Fault Refusal := s.onLinks (fun s => s.permData fr)

/-- PERM_MARK (R369). -/
def execPermMark (fr : Frame) (s : State) : Host.Outcome State Fault Refusal := s.onLinks (fun s => s.permMark fr)

/-- CHAN_DATA (R365). -/
def execChanData (fr : Frame) (s : State) : Host.Outcome State Fault Refusal := s.onLinks (fun s => s.chanData fr)

/-- CHAN_COMMIT (R366). -/
def execChanCommit (fr : Frame) (s : State) : Host.Outcome State Fault Refusal := s.onLinks (fun s => s.chanCommit fr)

/-- CHAN_CREDIT (R365). -/
def execChanCredit (fr : Frame) (s : State) : Host.Outcome State Fault Refusal := s.onLinks (fun s => s.chanCredit fr)

/-! ### The Pass network -/

/-- PASS_TRY (R217, R218). -/
def execPassTry (fr : Frame) (a : PassArgs) (s : State) : Host.Outcome State Fault Refusal := s.onLinks (fun s => s.passTry fr a)

/-- PASS_REPLY (R218 to R220). -/
def execPassReply (fr : Frame) (a : PassArgs) (pos : Option Nat) (s : State) : Host.Outcome State Fault Refusal :=
  s.onLinks (fun s => s.passReply fr a pos)

/-- PASS_MARK (R222, R224). -/
def execPassMark (fr : Frame) (a : PassArgs) (kind count : Nat) (s : State) : Host.Outcome State Fault Refusal :=
  s.onLinks (fun s => s.passMark fr a kind count)

/-- PASS_ROW (R224, R228, R232). -/
def execPassRow (fr : Frame) (a : PassArgs) (pos : Nat) (s : State) : Host.Outcome State Fault Refusal :=
  s.onLinks (fun s => s.passRow fr a pos)

/-! ### Ramalink -/

/-- RAMALINK_RETRAIN (R276): the link has trained anew, to a width; each retraining is recorded, and raises its source. -/
def execRamalinkRetrain (lanes : Nat) (s : State) : Host.Outcome State Fault Refusal :=
  .next (if s.hostUp && [4, 8, 16].contains lanes then
      (({ s with rlLanes := lanes }.noteDev 0x502 (leBytes 1 lanes ++ zeros 7)).raise 11).settle
    else s)

end Sys2Proof.Machine
end

