-- ==== Sys2Proof/Machine/RegRows.lean ====
section
/-! DEFINITION. The meanings of the register and aperture rows (10 R274 to R279, R284; 02 R56, R57; 03 R87, R89; 08 R240, R241; 11
R317 to R319, R323, R324, R329, R341; 12 R377; 14 R410, R413, R419, R431, R440; 15 R450, R452, R453, R461 to R463). A row that names one
write of a register acts as REGISTER_WRITE of it does (log 28). -/

namespace Sys2Proof.Machine

/-! ### Any register, and the apertures -/

/-- REGISTER_WRITE (R277): a function writes a register. -/
def execRegisterWrite (f addr width : Nat) (v : W64) (s : State) : Host.Outcome State Fault Refusal :=
  .next (if s.hostUp then (s.writeReg f addr width v).settle else s)

/-- APERTURE_WRITE (R248, R278, R279): host bytes enter a region of HBM in service. -/
def execApertureWrite (f addr : Nat) (data : List Byte) (s : State) : Host.Outcome State Fault Refusal :=
  .next (if s.hostUp && s.bist.memUp then (s.apWrite f addr data).settle else s)

/-- APERTURE_READ (R278, R279): a region's bytes go to the host. -/
def execApertureRead (f addr len : Nat) (s : State) : Host.Outcome State Fault Refusal :=
  .next (if s.hostUp && s.bist.memUp then (s.apRead f addr len).settle else s)

/-! ### The context page -/

/-- The address of STRM_DBn in a context's page (R281). -/
def dbAddr (c n : Nat) : Nat := mgmtTop + c * 0x10000 + 0x8000 + 8 * n

/-- A write of STRM_DB by a function. -/
def State.dbWrite (s : State) (f c n : Nat) (tail : BitVec 32) (resume : Bool) : State :=
  if !s.hostUp then s
  else if s.reaches f c then (s.ring c n tail resume).settle else (s.funcDrop f true (dbAddr c n)).settle

/-- DOORBELL (R284): TAIL moves on. -/
def execDoorbell (f c n : Nat) (tail : BitVec 32) (s : State) : Host.Outcome State Fault Refusal := .next (s.dbWrite f c n tail false)

/-- RESUME (R284, R312): the doorbell that also clears HALTED. -/
def execResume (f c n : Nat) (tail : BitVec 32) (s : State) : Host.Outcome State Fault Refusal := .next (s.dbWrite f c n tail true)

/-! ### Beat, census, Pass, partitions -/

/-- BEAT_STAGE_ARM (R56, R57). -/
def execBeatStageArm (f : Nat) (s : State) : Host.Outcome State Fault Refusal := .next (s.mgmtWrite f 0x20 State.armShape)

/-- BEAT_STAGE_CANCEL (R57). -/
def execBeatStageCancel (f : Nat) (s : State) : Host.Outcome State Fault Refusal := .next (s.mgmtWrite f 0x20 State.cancelShape)

/-- CENS_SEL_WRITE (R89). -/
def execCensSelWrite (f : Nat) (v : W64) (s : State) : Host.Outcome State Fault Refusal :=
  .next (s.mgmtWrite f 0x1000 (fun s => s.censSel v))

/-- CENS_CLR_CTX (R87). -/
def execCensClrCtx (f : Nat) (s : State) : Host.Outcome State Fault Refusal := .next (s.mgmtWrite f 0x1030 State.censClrCtx)

/-- CENS_CLR_SEL (R87). -/
def execCensClrSel (f : Nat) (s : State) : Host.Outcome State Fault Refusal := .next (s.mgmtWrite f 0x1030 State.censClrSel)

/-- PASS_SEL_WRITE (R240). -/
def execPassSelWrite (f : Nat) (v : W64) (s : State) : Host.Outcome State Fault Refusal :=
  .next (s.mgmtWrite f 0x2000 (fun s => s.passSel v))

/-- PASS_CLR_SEL (R241). -/
def execPassClrSel (f : Nat) (s : State) : Host.Outcome State Fault Refusal := .next (s.mgmtWrite f 0x2048 State.passClr)

/-- The address of a register of partition n. -/
def ptAddr (n r : Nat) : Nat := 0x11000 + n * 0xC00 + r

/-- PT_NEXT_WRITE (R317). -/
def execPtNextWrite (f n : Nat) (v : W64) (s : State) : Host.Outcome State Fault Refusal :=
  .next (s.mgmtWrite f (ptAddr n 0x008) (fun s => s.writeNext n v))

/-- PT_MODE_ARM (R318). -/
def execPtModeArm (f : Nat) (s : State) : Host.Outcome State Fault Refusal := .next (s.mgmtWrite f 0x10010 State.ptArm)

/-- PT_MODE_CANCEL (R318). -/
def execPtModeCancel (f : Nat) (s : State) : Host.Outcome State Fault Refusal := .next (s.mgmtWrite f 0x10010 State.ptCancel)

/-- APPLY_IDLE (R319). -/
def execApplyIdle (f : Nat) (s : State) : Host.Outcome State Fault Refusal := .next (s.mgmtWrite f 0x10010 State.applyIdle)

/-- SCHED_SWAP (R329): the word written has SWAP set. -/
def execSchedSwap (f n : Nat) (v : W64) (s : State) : Host.Outcome State Fault Refusal :=
  .next (s.mgmtWrite f (ptAddr n 0x020) (fun s => s.updSched n (fun q => q.writeCtrl s.now (v ||| 1))))

/-- SCHED_CANCEL (R329): the word written has CANCEL set. -/
def execSchedCancel (f n : Nat) (v : W64) (s : State) : Host.Outcome State Fault Refusal :=
  .next (s.mgmtWrite f (ptAddr n 0x020) (fun s => s.updSched n (fun q => q.writeCtrl s.now (v ||| 2))))

/-! ### Contexts and accounting -/

/-- The address of a register of context c. -/
def ctxAddr (c r : Nat) : Nat := 0x40000 + c * 0x400 + r

/-- CTX_CREATE (R323). -/
def execCtxCreate (f c : Nat) (s : State) : Host.Outcome State Fault Refusal :=
  .next (s.mgmtWrite f (ctxAddr c 8) (fun s => s.createCtx c))

/-- CTX_DESTROY (R324). -/
def execCtxDestroy (f c : Nat) (s : State) : Host.Outcome State Fault Refusal :=
  .next (s.mgmtWrite f (ctxAddr c 8) (fun s => s.destroyCtx c))

/-- CTX_RSEL_WRITE (R341). -/
def execCtxRselWrite (f c : Nat) (v : W64) (s : State) : Host.Outcome State Fault Refusal :=
  .next (s.mgmtWrite f (ctxAddr c 0x18) (fun s => if c < 256 then s.updCtx c (fun x => x.writeRsel v) else s))

/-- ACCT_SEL_WRITE (R341). -/
def execAcctSelWrite (f : Nat) (v : W64) (s : State) : Host.Outcome State Fault Refusal :=
  .next (s.mgmtWrite f 0x100000 (fun s => s.acctSel v))

/-- ACCT_CLR_SEL (R341). -/
def execAcctClrSel (f : Nat) (s : State) : Host.Outcome State Fault Refusal := .next (s.mgmtWrite f 0x100050 State.acctClr)

/-! ### Links -/

/-- RETRAIN (R377): the word written to LNK_PCTRLn has RETRAIN set. -/
def execRetrain (f n : Nat) (v : W64) (s : State) : Host.Outcome State Fault Refusal :=
  .next (s.mgmtWrite f (0x401008 + n * 0x100) (fun s => if n < 32 then s.writePctrl n (v ||| 2) else s))

/-! ### Delivery of the bundle, self-test -/

/-- BIST_IMG_DATA (R410). -/
def execBistImgData (f : Nat) (v : W64) (s : State) : Host.Outcome State Fault Refusal :=
  .next (s.mgmtWrite f 0x310010 (fun s => { s with bist := s.bist.imgData v }))

/-- BIST_IMG_CLEAR (R410). -/
def execBistImgClear (f : Nat) (s : State) : Host.Outcome State Fault Refusal :=
  .next (s.mgmtWrite f 0x310008 (fun s => { s with bist := s.bist.imgClear }))

/-- BIST_IMG_GO (R410, R413). -/
def execBistImgGo (f : Nat) (o : StartObs) (s : State) : Host.Outcome State Fault Refusal :=
  .next (s.mgmtWrite f 0x310008 (fun s => s.imgGo o))

/-- BIST_ABORT (R440). -/
def execBistAbort (f : Nat) (s : State) : Host.Outcome State Fault Refusal := .next (s.mgmtWrite f 0x310018 State.bistStop)

/-- BIST_RES_SEL (R440). -/
def execBistResSel (f : Nat) (v : W64) (s : State) : Host.Outcome State Fault Refusal :=
  .next (s.mgmtWrite f 0x310028 (fun s => { s with bist := s.bist.resSelect v }))

/-- STANDDOWN (R431), over Stobin or by BIST_CTRL. -/
def execStanddown (r : Carrier) (s : State) : Host.Outcome State Fault Refusal :=
  .next (match r with
    | .host f v => s.mgmtWrite f 0x310018 (fun s => s.writeBistCtrl (v ||| 1))
    | .stobin m flag => s.standDownMsg m flag)

/-- RETRY (R419), over Stobin or by BIST_CTRL: the rest of the word written acts first. -/
def execRetry (r : Carrier) (o : StartObs) (s : State) : Host.Outcome State Fault Refusal :=
  .next (match r with
    | .host f v => s.mgmtWrite f 0x310018 (fun s => (s.writeBistCtrl v).retryStart o)
    | .stobin m _ => s.stobin m 0x64 (zeros 8) true .none (fun s => s.retryStart o))

/-! ### Cairn -/

/-- CAIRN_RD_SEQ (R453). -/
def execCairnRdSeq (f : Nat) (v : W64) (s : State) : Host.Outcome State Fault Refusal :=
  .next (s.mgmtWrite f 0x300028 (fun s => { s with cairn := s.cairn.capture v }))

/-- CAIRN_CLR_DATA (R455). -/
def execCairnClrData (f : Nat) (v : W64) (s : State) : Host.Outcome State Fault Refusal :=
  .next (s.mgmtWrite f 0x300040 (fun s => { s with cairn := s.cairn.clearData v }))

/-- CAIRN_CLR_RESTART (R455). -/
def execCairnClrRestart (f : Nat) (s : State) : Host.Outcome State Fault Refusal :=
  .next (s.mgmtWrite f 0x300038 (fun s => { s with cairn := { s.cairn with clrBuf := [] } }))

/-- CAIRN_CLR_GO (R452, R455). -/
def execCairnClrGo (f : Nat) (s : State) : Host.Outcome State Fault Refusal := .next (s.mgmtWrite f 0x300038 State.clearGo)

/-- CAIRN_CODE_WRITE (R450, R455). -/
def execCairnCodeWrite (f n : Nat) (v : W64) (s : State) : Host.Outcome State Fault Refusal :=
  .next (s.mgmtWrite f (0x308000 + 8 * n) (fun s => if n < 4096 then { s with cairn := s.cairn.codeWrite n v } else s))

/-! ### Interrupts -/

/-- The address of a register of a target. -/
def tgtAddr (t r : Nat) : Nat := 0x206000 + 0x40 * t + r

/-- A claim of a target by function 0 (R461). -/
def State.claim (s : State) (t : Nat) : State :=
  if 64 ≤ t then s.send (.readWord 0)
  else
    let r := s.irq.claim t
    { s with irq := r.2 }.send (.readWord (BitVec.ofNat 64 r.1))

/-- IRQ_TGT_CLAIM (R461): a read with an effect; one that is dropped returns zero (R274). -/
def execIrqTgtClaim (f t : Nat) (s : State) : Host.Outcome State Fault Refusal :=
  .next (if !s.hostUp then s
    else if f ≠ 0 then ((s.funcDrop f false (tgtAddr t 0)).send (.readWord 0)).settle
    else (s.claim t).settle)

/-- IRQ_TGT_COMPLETE (R462). -/
def execIrqTgtComplete (f t : Nat) (v : W64) (s : State) : Host.Outcome State Fault Refusal :=
  .next (s.mgmtWrite f (tgtAddr t 0x08) (fun s => if t < 64 then { s with irq := s.irq.complete t (wb v 0 10) } else s))

/-- IRQ_TGT_IDLE (R463). -/
def execIrqTgtIdle (f t : Nat) (s : State) : Host.Outcome State Fault Refusal :=
  .next (s.mgmtWrite f (tgtAddr t 0x10) (fun s => if t < 64 then { s with irq := s.irq.goIdle t } else s))

/-- IRQ_MODE_WRITE (R462). -/
def execIrqModeWrite (f : Nat) (v : W64) (s : State) : Host.Outcome State Fault Refusal :=
  .next (s.mgmtWrite f 0x200000 (fun s => { s with irq := s.irq.writeMode v }))

/-- HOLDOFF_END (R463): a target's holdoff period is over. -/
def execHoldoffEnd (t : Nat) (s : State) : Host.Outcome State Fault Refusal :=
  .next (if t < 64 ∧ (s.irq.target t).held = true then
      { s with irq := s.irq.setTarget t { s.irq.target t with held := false } }.settle
    else s)

end Sys2Proof.Machine
end

