-- ==== Sys2Proof/Machine/Dispatch.lean ====
section
/-! DEFINITION. The dispatch of a command to its meaning: one arm per row of the table of operations and events. -/

namespace Sys2Proof.Machine

/-- The effect of a command on everything but the queue. -/
def exec (i : Instr) (s : State) : Host.Outcome State Fault Refusal :=
  match i with
  | .registerWrite f addr width v => Sys2Proof.Machine.execRegisterWrite f addr width v s
  | .apertureWrite f addr data => Sys2Proof.Machine.execApertureWrite f addr data s
  | .apertureRead f addr len => Sys2Proof.Machine.execApertureRead f addr len s
  | .doorbell f c n tail => Sys2Proof.Machine.execDoorbell f c n tail s
  | .resume f c n tail => Sys2Proof.Machine.execResume f c n tail s
  | .packetFetch g => Sys2Proof.Machine.execPacketFetch g s
  | .commandIssue pt t leg => Sys2Proof.Machine.execCommandIssue pt t leg s
  | .blockDoneAck b cycles => Sys2Proof.Machine.execBlockDoneAck b cycles s
  | .saddleWindowOpen o => Sys2Proof.Machine.execSaddleWindowOpen o s
  | .beatEdge o => Sys2Proof.Machine.execBeatEdge o s
  | .heldExpiry c => Sys2Proof.Machine.execHeldExpiry c s
  | .beatInEdge offNs o => Sys2Proof.Machine.execBeatInEdge offNs o s
  | .holdoverEdge o => Sys2Proof.Machine.execHoldoverEdge o s
  | .commandHang id => Sys2Proof.Machine.execCommandHang id s
  | .waitTimeout id => Sys2Proof.Machine.execWaitTimeout id s
  | .versionBusy id => Sys2Proof.Machine.execVersionBusy id s
  | .drainTimeout pt => Sys2Proof.Machine.execDrainTimeout pt s
  | .streamOpen h p => Sys2Proof.Machine.execStreamOpen h p s
  | .streamClose h lstream => Sys2Proof.Machine.execStreamClose h lstream s
  | .loadsetLoadPlace h p => Sys2Proof.Machine.execLoadsetLoadPlace h p s
  | .loadsetLoadVerify h p => Sys2Proof.Machine.execLoadsetLoadVerify h p s
  | .loadsetUnload h => Sys2Proof.Machine.execLoadsetUnload h s
  | .adapterAttachPlace h p => Sys2Proof.Machine.execAdapterAttachPlace h p s
  | .adapterAttachVerify h p => Sys2Proof.Machine.execAdapterAttachVerify h p s
  | .adapterDetach h region => Sys2Proof.Machine.execAdapterDetach h region s
  | .run h p => Sys2Proof.Machine.execRun h p s
  | .copy h p => Sys2Proof.Machine.execCopy h p s
  | .fill h p => Sys2Proof.Machine.execFill h p s
  | .reduce h p => Sys2Proof.Machine.execReduce h p s
  | .gather h p => Sys2Proof.Machine.execGather h p s
  | .broadcast h p => Sys2Proof.Machine.execBroadcast h p s
  | .normreduce h p => Sys2Proof.Machine.execNormreduce h p s
  | .permute h p => Sys2Proof.Machine.execPermute h p s
  | .routeOpen h p => Sys2Proof.Machine.execRouteOpen h p s
  | .routeDispatch h p => Sys2Proof.Machine.execRouteDispatch h p s
  | .routeClose h p => Sys2Proof.Machine.execRouteClose h p s
  | .routeRetrace h p => Sys2Proof.Machine.execRouteRetrace h p s
  | .routeReturn h p => Sys2Proof.Machine.execRouteReturn h p s
  | .routeForceSeal h p => Sys2Proof.Machine.execRouteForceSeal h p s
  | .routeCounts h p => Sys2Proof.Machine.execRouteCounts h p s
  | .routeXset h p => Sys2Proof.Machine.execRouteXset h p s
  | .combineForward h p => Sys2Proof.Machine.execCombineForward h p s
  | .combineRetrace h p => Sys2Proof.Machine.execCombineRetrace h p s
  | .weightSwitchStage h p => Sys2Proof.Machine.execWeightSwitchStage h p s
  | .weightSwitchVerify h p => Sys2Proof.Machine.execWeightSwitchVerify h p s
  | .weightSwitchSwitch h holdNew limit => Sys2Proof.Machine.execWeightSwitchSwitch h holdNew limit s
  | .weightSwitchAbort h => Sys2Proof.Machine.execWeightSwitchAbort h s
  | .optstep h p => Sys2Proof.Machine.execOptstep h p s
  | .fence h => Sys2Proof.Machine.execFence h s
  | .signalAdd h sig v => Sys2Proof.Machine.execSignalAdd h sig v s
  | .signalSet h sig v => Sys2Proof.Machine.execSignalSet h sig v s
  | .wait h sig limit v => Sys2Proof.Machine.execWait h sig limit v s
  | .preempt h target holdBeats => Sys2Proof.Machine.execPreempt h target holdBeats s
  | .preemptResume h target => Sys2Proof.Machine.execPreemptResume h target s
  | .contextReset h target => Sys2Proof.Machine.execContextReset h target s
  | .partitionConfig h layout => Sys2Proof.Machine.execPartitionConfig h layout s
  | .modeStageArm h newEpoch target => Sys2Proof.Machine.execModeStageArm h newEpoch target s
  | .modeStageCancel h => Sys2Proof.Machine.execModeStageCancel h s
  | .censusRead h dst clear => Sys2Proof.Machine.execCensusRead h dst clear s
  | .accountRead h p => Sys2Proof.Machine.execAccountRead h p s
  | .mm b f => Sys2Proof.Machine.execMm b f s
  | .drainEnd b upset => Sys2Proof.Machine.execDrainEnd b upset s
  | .cvt b v echo => Sys2Proof.Machine.execCvt b v echo s
  | .add b v echo => Sys2Proof.Machine.execAdd b v echo s
  | .sub b v echo => Sys2Proof.Machine.execSub b v echo s
  | .mul b v echo => Sys2Proof.Machine.execMul b v echo s
  | .fma b v echo => Sys2Proof.Machine.execFma b v echo s
  | .min b v echo => Sys2Proof.Machine.execMin b v echo s
  | .max b v echo => Sys2Proof.Machine.execMax b v echo s
  | .cmp b v echo => Sys2Proof.Machine.execCmp b v echo s
  | .sel b v echo => Sys2Proof.Machine.execSel b v echo s
  | .abs b v echo => Sys2Proof.Machine.execAbs b v echo s
  | .neg b v echo => Sys2Proof.Machine.execNeg b v echo s
  | .exp2 b v echo => Sys2Proof.Machine.execExp2 b v echo s
  | .log2 b v echo => Sys2Proof.Machine.execLog2 b v echo s
  | .recip b v echo => Sys2Proof.Machine.execRecip b v echo s
  | .rsqrt b v echo => Sys2Proof.Machine.execRsqrt b v echo s
  | .sqrt b v echo => Sys2Proof.Machine.execSqrt b v echo s
  | .sigmoid b v echo => Sys2Proof.Machine.execSigmoid b v echo s
  | .tanh b v echo => Sys2Proof.Machine.execTanh b v echo s
  | .relu b v echo => Sys2Proof.Machine.execRelu b v echo s
  | .softplus b v echo => Sys2Proof.Machine.execSoftplus b v echo s
  | .dsig b v echo => Sys2Proof.Machine.execDsig b v echo s
  | .dtanh b v echo => Sys2Proof.Machine.execDtanh b v echo s
  | .drelu b v echo => Sys2Proof.Machine.execDrelu b v echo s
  | .dexp b v echo => Sys2Proof.Machine.execDexp b v echo s
  | .drecip b v echo => Sys2Proof.Machine.execDrecip b v echo s
  | .drsqrt b v echo => Sys2Proof.Machine.execDrsqrt b v echo s
  | .dsoftmax b v => Sys2Proof.Machine.execDsoftmax b v s
  | .rsum b v => Sys2Proof.Machine.execRsum b v s
  | .rmax b v => Sys2Proof.Machine.execRmax b v s
  | .rssq b v => Sys2Proof.Machine.execRssq b v s
  | .randu b v => Sys2Proof.Machine.execRandu b v s
  | .randn b v => Sys2Proof.Machine.execRandn b v s
  | .occ b v => Sys2Proof.Machine.execOcc b v s
  | .gate b g => Sys2Proof.Machine.execGate b g s
  | .ldb b m => Sys2Proof.Machine.execLdb b m s
  | .stb b m => Sys2Proof.Machine.execStb b m s
  | .ldt b m => Sys2Proof.Machine.execLdt b m s
  | .stt b m => Sys2Proof.Machine.execStt b m s
  | .dmaTransferEnd b => Sys2Proof.Machine.execDmaTransferEnd b s
  | .send b m => Sys2Proof.Machine.execSend b m s
  | .recv b m => Sys2Proof.Machine.execRecv b m s
  | .pdisp b m => Sys2Proof.Machine.execPdisp b m s
  | .ptake b m => Sys2Proof.Machine.execPtake b m s
  | .tqpop b a8 => Sys2Proof.Machine.execTqpop b a8 s
  | .tqwait b a8 => Sys2Proof.Machine.execTqwait b a8 s
  | .syncFence b mask => Sys2Proof.Machine.execSyncFence b mask s
  | .bar b => Sys2Proof.Machine.execBar b s
  | .syncSignal b sig v => Sys2Proof.Machine.execSyncSignal b sig v s
  | .land b ch => Sys2Proof.Machine.execLand b ch s
  | .ctlEnd b => Sys2Proof.Machine.execCtlEnd b s
  | .budget b imm => Sys2Proof.Machine.execBudget b imm s
  | .loop b dst sa imm body => Sys2Proof.Machine.execLoop b dst sa imm body s
  | .seti b dst imm => Sys2Proof.Machine.execSeti b dst imm s
  | .addi b dst sa imm => Sys2Proof.Machine.execAddi b dst sa imm s
  | .muli b dst sa imm => Sys2Proof.Machine.execMuli b dst sa imm s
  | .madd b dst sa sb imm => Sys2Proof.Machine.execMadd b dst sa sb imm s
  | .divi b dst sa imm => Sys2Proof.Machine.execDivi b dst sa imm s
  | .modi b dst sa imm => Sys2Proof.Machine.execModi b dst sa imm s
  | .beatStageArm f => Sys2Proof.Machine.execBeatStageArm f s
  | .beatStageCancel f => Sys2Proof.Machine.execBeatStageCancel f s
  | .censSelWrite f v => Sys2Proof.Machine.execCensSelWrite f v s
  | .censClrCtx f => Sys2Proof.Machine.execCensClrCtx f s
  | .censClrSel f => Sys2Proof.Machine.execCensClrSel f s
  | .passSelWrite f v => Sys2Proof.Machine.execPassSelWrite f v s
  | .passClrSel f => Sys2Proof.Machine.execPassClrSel f s
  | .ptNextWrite f n v => Sys2Proof.Machine.execPtNextWrite f n v s
  | .ptModeArm f => Sys2Proof.Machine.execPtModeArm f s
  | .ptModeCancel f => Sys2Proof.Machine.execPtModeCancel f s
  | .applyIdle f => Sys2Proof.Machine.execApplyIdle f s
  | .schedSwap f n v => Sys2Proof.Machine.execSchedSwap f n v s
  | .schedCancel f n v => Sys2Proof.Machine.execSchedCancel f n v s
  | .ctxCreate f c => Sys2Proof.Machine.execCtxCreate f c s
  | .ctxDestroy f c => Sys2Proof.Machine.execCtxDestroy f c s
  | .ctxRselWrite f c v => Sys2Proof.Machine.execCtxRselWrite f c v s
  | .acctSelWrite f v => Sys2Proof.Machine.execAcctSelWrite f v s
  | .acctClrSel f => Sys2Proof.Machine.execAcctClrSel f s
  | .retrain f n v => Sys2Proof.Machine.execRetrain f n v s
  | .bistImgData f v => Sys2Proof.Machine.execBistImgData f v s
  | .bistImgClear f => Sys2Proof.Machine.execBistImgClear f s
  | .bistImgGo f o => Sys2Proof.Machine.execBistImgGo f o s
  | .bistAbort f => Sys2Proof.Machine.execBistAbort f s
  | .bistResSel f v => Sys2Proof.Machine.execBistResSel f v s
  | .cairnRdSeq f v => Sys2Proof.Machine.execCairnRdSeq f v s
  | .cairnClrData f v => Sys2Proof.Machine.execCairnClrData f v s
  | .cairnClrRestart f => Sys2Proof.Machine.execCairnClrRestart f s
  | .cairnClrGo f => Sys2Proof.Machine.execCairnClrGo f s
  | .cairnCodeWrite f n v => Sys2Proof.Machine.execCairnCodeWrite f n v s
  | .irqTgtClaim f t => Sys2Proof.Machine.execIrqTgtClaim f t s
  | .irqTgtComplete f t v => Sys2Proof.Machine.execIrqTgtComplete f t v s
  | .irqTgtIdle f t => Sys2Proof.Machine.execIrqTgtIdle f t s
  | .irqModeWrite f v => Sys2Proof.Machine.execIrqModeWrite f v s
  | .holdoffEnd t => Sys2Proof.Machine.execHoldoffEnd t s
  | .lease m lengthMs verdict => Sys2Proof.Machine.execLease m lengthMs verdict s
  | .leaseLapse => Sys2Proof.Machine.execLeaseLapse s
  | .derateArm m target table => Sys2Proof.Machine.execDerateArm m target table s
  | .derateCancel m => Sys2Proof.Machine.execDerateCancel m s
  | .reset m kind => Sys2Proof.Machine.execReset m kind s
  | .binsRead m first count clear => Sys2Proof.Machine.execBinsRead m first count clear s
  | .standdown r => Sys2Proof.Machine.execStanddown r s
  | .bistEnd => Sys2Proof.Machine.execBistEnd s
  | .wake m => Sys2Proof.Machine.execWake m s
  | .retry r o => Sys2Proof.Machine.execRetry r o s
  | .attest m nonce => Sys2Proof.Machine.execAttest m nonce s
  | .certRead m => Sys2Proof.Machine.execCertRead m s
  | .bistRead m first count => Sys2Proof.Machine.execBistRead m first count s
  | .cairnRead m first max => Sys2Proof.Machine.execCairnRead m first max s
  | .cairnClear m rec => Sys2Proof.Machine.execCairnClear m rec s
  | .startReport port => Sys2Proof.Machine.execStartReport port s
  | .discoverSend p => Sys2Proof.Machine.execDiscoverSend p s
  | .discoverReply p arrival fr => Sys2Proof.Machine.execDiscoverReply p arrival fr s
  | .discover p fenced fr => Sys2Proof.Machine.execDiscover p fenced fr s
  | .beatMarker p offNs num o => Sys2Proof.Machine.execBeatMarker p offNs num o s
  | .epochAnnounce p fenced fr => Sys2Proof.Machine.execEpochAnnounce p fenced fr s
  | .hopAck p nack lseq => Sys2Proof.Machine.execHopAck p nack lseq s
  | .hopCredit p c0 c1 c2 c3 => Sys2Proof.Machine.execHopCredit p c0 c1 c2 c3 s
  | .frameCrcError p lseq => Sys2Proof.Machine.execFrameCrcError p lseq s
  | .reservedFrame p ty => Sys2Proof.Machine.execReservedFrame p ty s
  | .e2eAck fr => Sys2Proof.Machine.execE2eAck fr s
  | .e2eNotready refused fr => Sys2Proof.Machine.execE2eNotready refused fr s
  | .e2eResend ix => Sys2Proof.Machine.execE2eResend ix s
  | .collData fr => Sys2Proof.Machine.execCollData fr s
  | .collAbort fr => Sys2Proof.Machine.execCollAbort fr s
  | .permData fr => Sys2Proof.Machine.execPermData fr s
  | .permMark fr => Sys2Proof.Machine.execPermMark fr s
  | .chanData fr => Sys2Proof.Machine.execChanData fr s
  | .chanCommit fr => Sys2Proof.Machine.execChanCommit fr s
  | .chanCredit fr => Sys2Proof.Machine.execChanCredit fr s
  | .passTry fr a => Sys2Proof.Machine.execPassTry fr a s
  | .passReply fr a pos => Sys2Proof.Machine.execPassReply fr a pos s
  | .passMark fr a kind count => Sys2Proof.Machine.execPassMark fr a kind count s
  | .passRow fr a pos => Sys2Proof.Machine.execPassRow fr a pos s
  | .portTrained p lanes => Sys2Proof.Machine.execPortTrained p lanes s
  | .portFailure p cause => Sys2Proof.Machine.execPortFailure p cause s
  | .ramalinkRetrain lanes => Sys2Proof.Machine.execRamalinkRetrain lanes s
  | .purgeAck purge engine => Sys2Proof.Machine.execPurgeAck purge engine s
  | .quarantine purge engine => Sys2Proof.Machine.execQuarantine purge engine s
  | .edgeAckMiss => Sys2Proof.Machine.execEdgeAckMiss s
  | .unitReady u => Sys2Proof.Machine.execUnitReady u s
  | .cairnRecordWrite => Sys2Proof.Machine.execCairnRecordWrite s
  | .cairnRefill code => Sys2Proof.Machine.execCairnRefill code s
  | .mirrorCopy => Sys2Proof.Machine.execMirrorCopy s
  | .moduleReset => Sys2Proof.Machine.execModuleReset s
  | .start straps o => Sys2Proof.Machine.execStart straps o s
  | .startStepTimeout step cause => Sys2Proof.Machine.execStartStepTimeout step cause s
  | .warmTimeout => Sys2Proof.Machine.execWarmTimeout s
  | .recoverN o => Sys2Proof.Machine.execRecoverN o s
  | .busPowerUp => Sys2Proof.Machine.execBusPowerUp s
  | .busTrip => Sys2Proof.Machine.execBusTrip s
  | .inputExcursion mv => Sys2Proof.Machine.execInputExcursion mv s
  | .thermalThrottle die sensor temp => Sys2Proof.Machine.execThermalThrottle die sensor temp s
  | .thermalTrip sensor temp => Sys2Proof.Machine.execThermalTrip sensor temp s
  | .coolant kind inlet flow => Sys2Proof.Machine.execCoolant kind inlet flow s
  | .inputExcursionEnd mv => Sys2Proof.Machine.execInputExcursionEnd mv s
  | .thermalThrottleEnd die temp => Sys2Proof.Machine.execThermalThrottleEnd die temp s
  | .coolantRestored => Sys2Proof.Machine.execCoolantRestored s
  | .throttleNChange asserted => Sys2Proof.Machine.execThrottleNChange asserted s

end Sys2Proof.Machine
end

