-- ==== Sys2Proof/Safety.lean ====
section
/-! DEFINITION. What statements about the machine speak of: the groups of rows that one shared operation gives their meaning, and
the properties that a run of the block is to keep. -/

namespace Sys2Proof

/-- The header and the operation of a packet row; no other row has one. -/
def Instr.packet : Instr → Option (Hdr × Op)
  | .streamOpen h p => some (h, .streamOpen p)
  | .streamClose h n => some (h, .streamClose n)
  | .loadsetLoadPlace h p => some (h, .loadPlace p)
  | .loadsetLoadVerify h p => some (h, .loadVerify p)
  | .loadsetUnload h => some (h, .unload)
  | .adapterAttachPlace h p => some (h, .adapterPlace p)
  | .adapterAttachVerify h p => some (h, .adapterVerify p)
  | .adapterDetach h r => some (h, .adapterDetach r)
  | .run h p => some (h, .run p)
  | .copy h p => some (h, .copy p)
  | .fill h p => some (h, .fill p)
  | .reduce h p => some (h, .reduce p)
  | .gather h p => some (h, .gather p)
  | .broadcast h p => some (h, .broadcast p)
  | .normreduce h p => some (h, .normreduce p)
  | .permute h p => some (h, .permute p)
  | .routeOpen h p => some (h, .routeOpen p)
  | .routeDispatch h p => some (h, .routeDispatch p)
  | .routeClose h p => some (h, .routeClose p)
  | .routeRetrace h p => some (h, .routeRetrace p)
  | .routeReturn h p => some (h, .routeReturn p)
  | .routeForceSeal h p => some (h, .routeForceSeal p)
  | .routeCounts h p => some (h, .routeCounts p)
  | .routeXset h p => some (h, .routeXset p)
  | .combineForward h p => some (h, .combineForward p)
  | .combineRetrace h p => some (h, .combineRetrace p)
  | .weightSwitchStage h p => some (h, .wsStage p)
  | .weightSwitchVerify h p => some (h, .wsVerify p)
  | .weightSwitchSwitch h k l => some (h, .wsSwitch k l)
  | .weightSwitchAbort h => some (h, .wsAbort)
  | .optstep h p => some (h, .optstep p)
  | .fence h => some (h, .fence)
  | .signalAdd h n v => some (h, .signalAdd n v)
  | .signalSet h n v => some (h, .signalSet n v)
  | .wait h n l v => some (h, .wait n l v)
  | .preempt h t n => some (h, .preempt t n)
  | .preemptResume h t => some (h, .preemptResume t)
  | .contextReset h t => some (h, .contextReset t)
  | .partitionConfig h l => some (h, .partitionConfig l)
  | .modeStageArm h e t => some (h, .modeArm e t)
  | .modeStageCancel h => some (h, .modeCancel)
  | .censusRead h d c => some (h, .censusRead d c)
  | .accountRead h p => some (h, .accountRead p)
  | _ => none

/-- The block, the operation code, the other fields and the echo finding of a VEC row. -/
def Instr.vec : Instr → Option (Nat × Nat × VecF × Option Nat)
  | .cvt b v e => some (b, 0x01, v, e)
  | .add b v e => some (b, 0x02, v, e)
  | .sub b v e => some (b, 0x03, v, e)
  | .mul b v e => some (b, 0x04, v, e)
  | .fma b v e => some (b, 0x05, v, e)
  | .min b v e => some (b, 0x06, v, e)
  | .max b v e => some (b, 0x07, v, e)
  | .cmp b v e => some (b, 0x08, v, e)
  | .sel b v e => some (b, 0x09, v, e)
  | .abs b v e => some (b, 0x0A, v, e)
  | .neg b v e => some (b, 0x0B, v, e)
  | .exp2 b v e => some (b, 0x10, v, e)
  | .log2 b v e => some (b, 0x11, v, e)
  | .recip b v e => some (b, 0x12, v, e)
  | .rsqrt b v e => some (b, 0x13, v, e)
  | .sqrt b v e => some (b, 0x14, v, e)
  | .sigmoid b v e => some (b, 0x18, v, e)
  | .tanh b v e => some (b, 0x19, v, e)
  | .relu b v e => some (b, 0x1A, v, e)
  | .softplus b v e => some (b, 0x1B, v, e)
  | .dsig b v e => some (b, 0x20, v, e)
  | .dtanh b v e => some (b, 0x21, v, e)
  | .drelu b v e => some (b, 0x22, v, e)
  | .dexp b v e => some (b, 0x23, v, e)
  | .drecip b v e => some (b, 0x24, v, e)
  | .drsqrt b v e => some (b, 0x25, v, e)
  | .dsoftmax b v => some (b, 0x26, v, none)
  | .rsum b v => some (b, 0x28, v, none)
  | .rmax b v => some (b, 0x29, v, none)
  | .rssq b v => some (b, 0x2A, v, none)
  | .randu b v => some (b, 0x30, v, none)
  | .randn b v => some (b, 0x31, v, none)
  | .occ b v => some (b, 0x38, v, none)
  | _ => none

/-- The block, the kind and the fields of a MOV row. -/
def Instr.mov : Instr → Option (Nat × Nat × MovF)
  | .ldb b m => some (b, 0, m)
  | .stb b m => some (b, 1, m)
  | .ldt b m => some (b, 2, m)
  | .stt b m => some (b, 3, m)
  | .send b m => some (b, 4, m)
  | .recv b m => some (b, 5, m)
  | .pdisp b m => some (b, 6, m)
  | .ptake b m => some (b, 7, m)
  | _ => none

/-- The block, the instruction and the echo finding of a row that issues to an engine's queue (R184). -/
def Instr.engineRow : Instr → Option (Nat × Machine.TI × Option Nat)
  | .mm b f => some (b, .mm f, none)
  | .gate b g => some (b, .gate g, none)
  | .tqpop b a => some (b, .sync 0 a 0, none)
  | i =>
    match i.vec with
    | some v => some (v.1, .vec v.2.1 v.2.2.1, v.2.2.2)
    | none => i.mov.map (fun m => (m.1, .mov m.2.1 m.2.2, none))

/-- The function and the address of a row that is one write of a register in the MGMT window (R277). -/
def Instr.mgmtRow : Instr → Option (Nat × Nat)
  | .beatStageArm f | .beatStageCancel f => some (f, 0x20)
  | .censSelWrite f _ => some (f, 0x1000)
  | .censClrCtx f | .censClrSel f => some (f, 0x1030)
  | .passSelWrite f _ => some (f, 0x2000)
  | .passClrSel f => some (f, 0x2048)
  | .ptNextWrite f n _ => some (f, 0x11000 + n * 0xC00 + 0x008)
  | .ptModeArm f | .ptModeCancel f | .applyIdle f => some (f, 0x10010)
  | .schedSwap f n _ | .schedCancel f n _ => some (f, 0x11000 + n * 0xC00 + 0x020)
  | .ctxCreate f c | .ctxDestroy f c => some (f, 0x40000 + c * 0x400 + 8)
  | .ctxRselWrite f c _ => some (f, 0x40000 + c * 0x400 + 0x18)
  | .acctSelWrite f _ => some (f, 0x100000)
  | .acctClrSel f => some (f, 0x100050)
  | .retrain f n _ => some (f, 0x401008 + n * 0x100)
  | .bistImgData f _ => some (f, 0x310010)
  | .bistImgClear f | .bistImgGo f _ => some (f, 0x310008)
  | .bistAbort f | .standdown (.host f _) | .retry (.host f _) _ => some (f, 0x310018)
  | .bistResSel f _ => some (f, 0x310028)
  | .cairnRdSeq f _ => some (f, 0x300028)
  | .cairnClrData f _ => some (f, 0x300040)
  | .cairnClrRestart f | .cairnClrGo f => some (f, 0x300038)
  | .cairnCodeWrite f n _ => some (f, 0x308000 + 8 * n)
  | .irqTgtComplete f t _ => some (f, 0x206000 + 0x40 * t + 0x08)
  | .irqTgtIdle f t => some (f, 0x206000 + 0x40 * t + 0x10)
  | .irqModeWrite f _ => some (f, 0x200000)
  | _ => none

/-- The type and the frame of a row that is a device-addressed frame received (R345, R348). -/
def Instr.frame : Instr → Option (Nat × Frame)
  | .e2eAck fr => some (0x07, fr)
  | .e2eNotready _ fr => some (0x08, fr)
  | .collData fr => some (0x10, fr)
  | .collAbort fr => some (0x11, fr)
  | .permData fr => some (0x12, fr)
  | .permMark fr => some (0x13, fr)
  | .chanData fr => some (0x20, fr)
  | .chanCommit fr => some (0x21, fr)
  | .chanCredit fr => some (0x22, fr)
  | .passTry fr _ => some (0x30, fr)
  | .passReply fr _ _ => some (0x31, fr)
  | .passMark fr _ _ _ => some (0x32, fr)
  | .passRow fr _ _ => some (0x33, fr)
  | _ => none

namespace Machine

/-! ### What a run keeps -/

/-- A target has a source that is pending, unmasked and routed to it (R461). -/
def Irq.Demands (q : Irq) (t : Nat) : Prop := ∃ n, q.isPending n = true ∧ q.isMasked n = false ∧ q.routed n t = true

/-- Every request line is high exactly while a source asks for it and no holdoff holds it low (R461, R463). -/
def State.LinesFollow (s : State) : Prop :=
  ∀ t, t < 64 → ((s.irq.target t).line = true ↔ s.irq.Demands t ∧ (s.irq.target t).held = false)

/-! ### A beat edge -/

/-- What every beat edge does before the Dispatcher's part of the beat that begins, `n` being a number that a reply or a marker has
reported for the edge (R33, R38, R49, R56): the window is closed; the counter is one on under LOCAL, after LOCAL and where nothing is
reported, else it takes the number reported, unless that is below it; a staged shape whose target has come is in force, and no other
changes. -/
def State.Begins (s u : State) (n : Option W64) (holdover : Bool) : Prop :=
  u.beat.windowOpen = false ∧ u.beat.at_ = 0 ∧ u.beat.markSeen = [] ∧ u.beat.holdover = holdover ∧ u.beat.srcAct = s.beat.src ∧
  (s.beat.src = 2 → u.beat.count = s.beat.count + 1 ∧ u.beat.aligned = true) ∧
  (s.beat.src ≠ 2 → s.beat.srcAct = 2 → u.beat.count = s.beat.count + 1 ∧ u.beat.aligned = false) ∧
  (s.beat.src ≠ 2 → s.beat.srcAct ≠ 2 → n = none → u.beat.count = s.beat.count + 1 ∧ u.beat.aligned = s.beat.aligned) ∧
  (s.beat.src ≠ 2 → s.beat.srcAct ≠ 2 → ∀ k, n = some k →
    if k.toNat < s.beat.count.toNat then u.beat.count = s.beat.count + 1 ∧ u.beat.aligned = false
    else u.beat.count = k ∧ u.beat.aligned = true) ∧
  (∀ g, s.beat.staged = some g → g.target ≤ u.beat.count.toNat →
    u.beat.periodCur = BitVec.ofNat 10 g.period ∧ u.beat.saddleCur = BitVec.ofNat 4 g.saddle ∧ u.beat.staged = none ∧ u.beat.stageState = 2) ∧
  ((∀ g, s.beat.staged = some g → u.beat.count.toNat < g.target) →
    u.beat.periodCur = s.beat.periodCur ∧ u.beat.saddleCur = s.beat.saddleCur ∧ u.beat.staged = s.beat.staged) ∧
  (s.phase = .run → Out.beatOut u.beat.count.toNat ∈ u.out)

/-- The Dispatcher's part of an edge, in a device that is ready (R49). -/
def State.begun (u : State) : State := if u.bist.ready then (u.sendMarkers).beatStart else u

/-! ### Where a block stands -/

/-- Block `b`'s next instruction is word `w` of program `p` of the issued command `x`, and it decodes to `t`. -/
def State.Stands (s : State) (b : Nat) (t : TI) (x : Cmd) (p : Program) (w : Nat) : Prop :=
  s.fetchTI b = some (x, p, w) ∧ decodeTI w = some t

/-- The queue item that a word at a block's place makes. -/
def Block.item (k : Block) (w : Nat) (echo : Option Nat) : QI := { pos := k.pc, word := w, idx := k.idx, echo := echo }

/-- The frame of a row that works on one block's program: everything but the blocks and the model's own counter is as before,
but for what the interrupt lines follow. -/
def State.OnlyBlock (s t : State) (b : Nat) : Prop :=
  (∀ c, c ≠ b → t.block c = s.block c) ∧ t.cmds = s.cmds ∧ t.ctxs = s.ctxs ∧ t.strms = s.strms ∧ t.parts = s.parts ∧ t.hbm = s.hbm ∧
    t.dies = s.dies ∧ t.wver = s.wver ∧ t.census = s.census ∧ t.beat = s.beat ∧ t.lnk = s.lnk ∧ t.cairn = s.cairn ∧ t.bist = s.bist ∧
    t.fence = s.fence ∧ t.crest = s.crest ∧ t.pending = s.pending

/-! ### Frames -/

/-- A frame of a type reaches the device over an open port, or the fabric, and passes the checks of R348 that come before the one of
its own type, with the fence of R397 and R374; `u` is the state once the hop is answered and the sender noted. -/
def State.Hears (s : State) (ty : Nat) (fr : Frame) (u : State) : Prop :=
  s.linksLive = true ∧ s.portOpen fr = true ∧ s.receive ty fr = some u

/-! ### A window with one command in it -/

/-- The Dispatcher has nothing for the coming window but one done command: no reset, fence, loss, clear, transfer or Pass unit
traffic is open. -/
def State.Lone (s : State) (x : Cmd) : Prop :=
  s.crest.powered = true ∧ s.bist.ready = true ∧ s.beat.windowOpen = false ∧ s.cmds = [x] ∧ x.phase = .done ∧ x.fail = none ∧
    x.peerEpoch = none ∧ x.lostBlk = none ∧ x.carried = false ∧ (∀ c ∈ s.ctxs, (s.ctx c.1).reset = none) ∧ s.purges = [] ∧ s.hbmOwed = [] ∧
    s.fence.atWindow = false ∧ s.cens.clears = [] ∧ s.spillJobs = [] ∧ (∀ q ∈ s.parts, q.2.tabs = [] ∧ q.2.slots = [])

end Machine

end Sys2Proof
end

