-- ==== Sys2Proof/Certificates/Slice0/Obligations.lean ====
section
/-! DEFINITION. The statements for the provers. Each is about every state and every operand that meets its hypotheses. What a
statement rests on beyond the spec's rules is named in its docstring, with the number of the log entry. -/

open Sys2Proof Sys2Proof.Machine

/-! ### The step, and the interrupt lines (15) -/

/-- Model's choice (log 1): a step runs the command at the front of the queue on the queue's rest, and idles on an empty queue. -/
def Obligations.StepRunsFront : Prop :=
  (∀ (c : Instr) (rest : List Instr) (s : State), step { s with pending := c :: rest } = exec c { s with pending := rest }) ∧
  (∀ s : State, step { s with pending := [] } = .next { s with pending := [] })

/-- Part of R461, R463: whatever command runs, every request line is high afterwards exactly while a source that is pending, unmasked and
routed to its target asks for it and no holdoff holds it low. -/
def Obligations.LinesFollowStep : Prop :=
  ∀ s t : State, s.LinesFollow → step s = .next t → t.LinesFollow

/-- The invariant of `LinesFollowStep` holds at reset: no line is high, and every source is masked.
Model's choices: reset values that the spec does not give (log 13). -/
def Obligations.LinesFollowReset : Prop :=
  State.reset.LinesFollow ∧ ∀ n, State.reset.irq.isMasked n = true

/-- Part of R457, R458: after the lines have settled, every level source whose level is asserted is pending or in service, and a host
target's message has gone out exactly when its line moved, saying where to; nothing but the controller and what the device sends
has changed. -/
def Obligations.SettleLatchesAndTells : Prop :=
  ∀ s : State,
    (∀ n ∈ levelSources, s.level n = true → s.settle.irq.isPending n = true ∨ s.irq.inService.any (fun p => p.1 == n) = true) ∧
    (∃ l, s.settle.out = s.out ++ l ∧
      ∀ t r, Out.irq t r ∈ l ↔ (8 ≤ t ∧ t < 64 ∧ (s.irq.target t).line = !r ∧ (s.settle.irq.target t).line = r)) ∧
    s.settle = { s with irq := s.settle.irq, out := s.settle.out }

/-- Part of R461: a claim by function 0 returns the highest-numbered source that is pending, unmasked and routed to the target, takes its pending bit,
puts a level source in service, records it in LAST, begins the holdoff and clears IDLE. Part of R461: a claim that finds no source returns 0 in
banked mode and 1,023 in mask mode, and changes nothing. -/
def Obligations.ClaimReturns : Prop :=
  (∀ (s : State) (t n : Nat), s.hostUp = true → t < 64 →
    s.irq.isPending n = true → s.irq.isMasked n = false → s.irq.routed n t = true →
    (∀ m, s.irq.isPending m = true → s.irq.isMasked m = false → s.irq.routed m t = true → m ≤ n) →
    ∃ q : Irq, exec (.irqTgtClaim 0 t) s = .next ({ s with irq := q, out := s.out ++ [.readWord (BitVec.ofNat 64 n)] } : State).settle ∧
      q.isPending n = false ∧ (∀ m, m ≠ n → q.isPending m = s.irq.isPending m) ∧ (∀ m, q.isMasked m = s.irq.isMasked m) ∧
      q.inService = (if levelSources.contains n then s.irq.inService ++ [(n, t)] else s.irq.inService) ∧
      (q.target t).last = BitVec.ofNat 10 n ∧ (q.target t).idle = false ∧
      ((q.target t).held = true ↔ (s.irq.target t).holdoff ≠ 0) ∧ (∀ u, u ≠ t → q.target u = s.irq.target u)) ∧
  (∀ (s : State) (t : Nat), s.hostUp = true → t < 64 → ¬ s.irq.Demands t →
    exec (.irqTgtClaim 0 t) s =
      .next ({ s with out := s.out ++ [.readWord (if s.irq.mode then 1023 else 0)] } : State).settle)

/-- Part of R462, R463: a completion by the target that claimed a source ends its service and no other's; IDLE ends the holdoff of its target
alone; the end of a holdoff lets the line go; a write of MODE takes every source out of service. Nothing else changes before the
lines follow. -/
def Obligations.CompleteIdleModeHoldoff : Prop :=
  (∀ (s : State) (t : Nat) (v : W64), s.hostUp = true → t < 64 →
    exec (.irqTgtComplete 0 t v) s = .next ({ s with irq := { s.irq with
      inService := s.irq.inService.filter (fun p => !(p.1 == v.toNat % 1024 && p.2 == t)) } } : State).settle) ∧
  (∀ (s : State) (t : Nat), s.hostUp = true → t < 64 →
    exec (.irqTgtIdle 0 t) s = .next ({ s with irq := { s.irq with
      targets := (Tab.set s.irq.targets t { s.irq.target t with idle := true, held := false }) } } : State).settle) ∧
  (∀ (s : State) (v : W64), s.hostUp = true →
    exec (.irqModeWrite 0 v) s = .next ({ s with irq := { s.irq with mode := v.getLsbD 0, inService := [] } } : State).settle) ∧
  (∀ (s : State) (t : Nat), t < 64 → (s.irq.target t).held = true →
    exec (.holdoffEnd t) s = .next ({ s with irq := { s.irq with
      targets := (Tab.set s.irq.targets t { s.irq.target t with held := false }) } } : State).settle)

/-! ### Registers of the MGMT window (10, 02, 03, 08, 11, 12, 14, 15) -/

/-- Part of R274: a function other than 0 reaches no register of the MGMT window: each of the rows that write one is dropped, and the one
trace that it leaves is the event that the recorder gets, with the function, the kind of access and the address.
Model's choices: a row that names one write of a register acts as that write (log 28). -/
def Obligations.FunctionZeroOnly : Prop :=
  ∀ (i : Instr) (f a : Nat) (s : State), i.mgmtRow = some (f, a) → f ≠ 0 → s.hostUp = true →
    exec i s = .next ({ s with cairn := (s.cairn.push
      { code := 0x501, beat := s.beat.count, payload := leBytes 1 f ++ leBytes 1 1 ++ zeros 6 ++ leBytes 8 a }) } : State).settle

/-- Part of R9: an access to a 64-bit register of the window whose width is not 8, or that is not aligned, changes nothing; a write of a
32-bit event counter with width 4 sets the counter to the value written (BEAT_MISS stands for them), and nothing else. -/
def Obligations.RegisterWidths : Prop :=
  (∀ (s : State) (a w : Nat) (v : W64), s.hostUp = true → a < 0x1000000 → reg32 a = false → (w ≠ 8 ∨ a % 8 ≠ 0) →
    exec (.registerWrite 0 a w v) s = .next s.settle) ∧
  (∀ (s : State) (v : W64), s.hostUp = true →
    exec (.registerWrite 0 0x38 4 v) s = .next ({ s with beat := { s.beat with miss := BitVec.ofNat 32 (v.toNat % 2 ^ 32) } } : State).settle)

/-- Part of R57, R59: ARM of a shape that breaks no rule makes it the pending change, with STATE pending; CANCEL of one whose target is two or more
beats off withdraws it; nothing else changes. Part of R57: a second arming while a shape is pending is refused with BUSY: the pending change stands,
CAUSE reads 4, STATE stays pending, and source 8 becomes pending.
Model's choices: a row that names one write of a register acts as that write (log 28). -/
def Obligations.BeatShapeStaged : Prop :=
  (∀ s : State, s.hostUp = true → s.beat.aligned = true → s.beat.staged = none → s.beat.count.toNat + 2 ≤ s.beat.stageTarget.toNat →
    20 ≤ s.beat.periodNext.toNat → s.beat.periodNext.toNat ≤ 1000 → 1 ≤ s.beat.saddleNext.toNat → s.beat.saddleNext.toNat ≤ 10 →
    s.beat.saddleNext.toNat + 15 ≤ s.beat.periodNext.toNat →
    s.maxBudget ≤ (s.beat.periodNext.toNat - s.beat.saddleNext.toNat) * stepMHz s.beat.loadFloor.toNat →
    exec (.beatStageArm 0) s = .next ({ s with beat := { s.beat with
      stageState := 1, staged := (some { target := s.beat.stageTarget.toNat, period := s.beat.periodNext.toNat, saddle := s.beat.saddleNext.toNat }) } } : State).settle) ∧
  (∀ (s : State) (g : Staged), s.hostUp = true → s.beat.staged = some g → s.beat.count.toNat + 2 ≤ g.target →
    exec (.beatStageCancel 0) s = .next ({ s with beat := { s.beat with staged := none, stageState := 0 } } : State).settle) ∧
  (∀ (s : State) (g : Staged), s.hostUp = true → s.beat.aligned = true → s.beat.staged = some g →
    exec (.beatStageArm 0) s =
      .next (({ s with beat := { s.beat with stageCause := 4, stageState := 1 } } : State).raise 8).settle)

/-- Part of R89, R240, R341: a write of CENS_SEL, PASS_SEL or ACCT_SEL selects, and captures the counters selected at that instant; a write of CTX_RSEL
captures the region-table entry selected. PASS_SEL and ACCT_SEL ignore a write of a reserved KIND. Part of R87, R241, R341: CLR_CTX and CLR_SEL of
CENS_CTRL ask for a clear of the selected context, or of the one class and format, which the next window makes; CLR_SEL of PASS_CTRL and of
ACCT_CTRL zero the counters selected at once; nothing else changes.
Model's choices: a row that names one write of a register acts as that write (log 28). -/
def Obligations.SelectsCaptureAndClear : Prop :=
  (∀ (s : State) (v : W64), s.hostUp = true → ∃ q : Cens,
    exec (.censSelWrite 0 v) s = .next ({ s with cens := q } : State).settle ∧ q.clears = s.cens.clears ∧
      q.ctx.toNat = v.toNat % 256 ∧ q.cls.toNat = v.toNat / 2 ^ 8 % 64 ∧ q.fmt.toNat = v.toNat / 2 ^ 16 % 4 ∧
      ∀ n, n < 5 → q.cap[n]? = some (Tab.get Cnt.zero s.census (((q.ctx.toNat * 64 + q.cls.toNat) * 4 + q.fmt.toNat) * 5 + n))) ∧
  (∀ (s : State) (v : W64), s.hostUp = true → v.toNat / 2 ^ 16 % 4 < 2 → ∃ q : PassRegs,
    exec (.passSelWrite 0 v) s = .next ({ s with passRegs := q } : State).settle ∧ q.late = s.passRegs.late ∧
      q.badDest = s.passRegs.badDest ∧ q.kind.toNat = v.toNat / 2 ^ 16 % 4 ∧ q.pt.toNat = v.toNat / 2 ^ 8 % 16 ∧ q.num.toNat = v.toNat % 64 ∧
      q.cap = (if v.toNat / 2 ^ 16 % 4 = 0
        then (Tab.get {} (s.part (v.toNat / 2 ^ 8 % 16)).tabs (v.toNat % 64)).counters
        else (Tab.get {} (s.part (v.toNat / 2 ^ 8 % 16)).slots (v.toNat % 64)).counters)) ∧
  (∀ (s : State) (v : W64), s.hostUp = true → v.toNat / 2 ^ 16 % 4 < 3 → ∃ q : AcctRegs,
    exec (.acctSelWrite 0 v) s = .next ({ s with acctRegs := q } : State).settle ∧ q.kind.toNat = v.toNat / 2 ^ 16 % 4 ∧
      q.index.toNat = v.toNat % 2 ^ 13 ∧
      (v.toNat / 2 ^ 16 % 4 = 0 → v.toNat % 2 ^ 13 < 256 → q.cap = (s.ctx (v.toNat % 2 ^ 13)).acct) ∧
      (v.toNat / 2 ^ 16 % 4 = 1 → q.cap = (s.strm (v.toNat % 2 ^ 13)).acct) ∧
      (v.toNat / 2 ^ 16 % 4 = 2 → v.toNat % 2 ^ 13 < 5120 → q.cap = (s.block (v.toNat % 2 ^ 13)).acct)) ∧
  (∀ (s : State) (c : Nat) (v : W64), s.hostUp = true → c < 256 →
    exec (.ctxRselWrite 0 c v) s = .next ({ s with ctxs := (Tab.set s.ctxs c { s.ctx c with
      rsel := BitVec.ofNat 6 (v.toNat % 64), rword0 := ((s.ctx c).region (v.toNat % 64)).w0,
      rword1 := ((s.ctx c).region (v.toNat % 64)).w1 }) } : State).settle) ∧
  (∀ (s : State) (v : W64), s.hostUp = true → 2 ≤ v.toNat / 2 ^ 16 % 4 → exec (.passSelWrite 0 v) s = .next s.settle) ∧
  (∀ (s : State) (v : W64), s.hostUp = true → v.toNat / 2 ^ 16 % 4 = 3 → exec (.acctSelWrite 0 v) s = .next s.settle) ∧
  (∀ s : State, s.hostUp = true →
    exec (.censClrCtx 0) s = .next ({ s with cens := { s.cens with clears := s.cens.clears ++ [(s.cens.ctx.toNat, none)] } } : State).settle) ∧
  (∀ s : State, s.hostUp = true →
    exec (.censClrSel 0) s = .next ({ s with cens := { s.cens with
      clears := s.cens.clears ++ [(s.cens.ctx.toNat, some (s.cens.cls.toNat, s.cens.fmt.toNat))] } } : State).settle) ∧
  (∀ s : State, s.hostUp = true →
    ∃ t, exec (.passClrSel 0) s = .next t ∧
      (∀ n, Tab.find (t.part s.passRegs.pt.toNat).tabs n = (Tab.find (s.part s.passRegs.pt.toNat).tabs n).map (fun (x : RTable) =>
        if s.passRegs.kind = 0 ∧ n = s.passRegs.num.toNat then { x with counters := List.replicate 8 Cnt.zero } else x)) ∧
      (∀ n, Tab.find (t.part s.passRegs.pt.toNat).slots n = (Tab.find (s.part s.passRegs.pt.toNat).slots n).map (fun (x : SlotSt) =>
        if s.passRegs.kind ≠ 0 ∧ n = s.passRegs.num.toNat then { x with counters := List.replicate 8 Cnt.zero } else x)) ∧
      (∀ p, p ≠ s.passRegs.pt.toNat → t.part p = s.part p) ∧ t.passRegs = s.passRegs ∧ t.census = s.census ∧ t.hbm = s.hbm ∧
      t.ctxs = s.ctxs ∧ t.cmds = s.cmds) ∧
  (∀ s : State, s.hostUp = true →
    ∃ t, exec (.acctClrSel 0) s = .next t ∧
      (∀ c, t.ctx c = if s.acctRegs.kind = 0 ∧ c = s.acctRegs.index.toNat ∧ c < 256 then { s.ctx c with acct := List.replicate 8 Cnt.zero }
        else s.ctx c) ∧
      (∀ g, Tab.find t.strms g = (Tab.find s.strms g).map (fun (x : Strm) =>
        if s.acctRegs.kind = 1 ∧ g = s.acctRegs.index.toNat then { x with acct := List.replicate 8 Cnt.zero } else x)) ∧
      (∀ b, t.block b = if s.acctRegs.kind = 2 ∧ b = s.acctRegs.index.toNat ∧ b < 5120 then { s.block b with acct := List.replicate 9 Cnt.zero }
        else s.block b) ∧
      t.acctRegs = s.acctRegs ∧ t.census = s.census ∧ t.hbm = s.hbm ∧ t.parts = s.parts ∧ t.cmds = s.cmds)

/-- Part of R318: ARM for a target at least two beats off, on an aligned device with no change armed, of a layout that breaks no rule and rebuilds no
partition that holds a context, arms the change for that target with the next epoch; CANCEL two or more beats before the target disarms it, and with no change armed leaves everything as it is.
Part of R319: with no context on the device, no change armed and nothing pending that breaks a rule of R312 to R314, APPLY_IDLE arms the change for
the next edge; with a context it is refused with cause BUSY, and nothing but PT_MODE and source 8 shows it.
Model's choices: a row that names one write of a register acts as that write (log 28). -/
def Obligations.ModeChangeArmed : Prop :=
  (∀ s : State, s.hostUp = true → s.beat.aligned = true → s.pt.armed = none → s.beat.count.toNat + 2 ≤ s.pt.target.toNat →
    layoutsOk s.layoutToArm = true → s.rebuildsEmpty s.layoutToArm = true →
    ∃ t, exec (.ptModeArm 0) s = .next t ∧ t.pt.armed = some s.pt.target.toNat ∧ t.pt.state = 1 ∧ t.pt.idle = false ∧
      t.pt.epochNext = s.pt.epoch + 1 ∧ t.pt.epoch = s.pt.epoch ∧ t.pt.target = s.pt.target ∧
      (∀ n, n < 16 → (t.part n).next = if s.pt.pending then (s.part n).next else (s.part n).layout) ∧
      (∀ n, (t.part n).layout = (s.part n).layout) ∧ t.ctxs = s.ctxs ∧ t.beat = s.beat ∧ t.hbm = s.hbm) ∧
  (∀ (s : State) (b : Nat), s.hostUp = true → s.pt.armed = some b → s.beat.count.toNat + 2 ≤ b →
    ∃ t, exec (.ptModeCancel 0) s = .next t ∧ t.pt.armed = none ∧ t.pt.state = 0 ∧ t.pt.epoch = s.pt.epoch ∧
      t.pt.pending = s.pt.pending ∧ (∀ n, (t.part n).layout = (s.part n).layout) ∧ t.ctxs = s.ctxs ∧ t.beat = s.beat ∧ t.hbm = s.hbm) ∧
  (∀ s : State, s.hostUp = true → s.pt.armed = none → exec (.ptModeCancel 0) s = .next s.settle) ∧
  (∀ s : State, s.hostUp = true → (∀ c ∈ s.ctxs, c.2.state = 0) → s.pt.armed = none →
    (s.pt.pending = true → layoutsOk ((List.range 16).map (fun n => (s.part n).next)) = true) →
    ∃ t, exec (.applyIdle 0) s = .next t ∧ t.pt.armed = some (s.beat.count.toNat + 1) ∧ t.pt.idle = true ∧ t.pt.state = 1 ∧
      t.pt.epochNext = s.pt.epoch + 1 ∧ t.pt.target = s.pt.target ∧ (∀ n, (t.part n).layout = (s.part n).layout)) ∧
  (∀ (s : State) (c : Nat × Ctx), s.hostUp = true → s.pt.armed = none → c ∈ s.ctxs → c.2.state ≠ 0 →
    exec (.applyIdle 0) s = .next (({ s with pt := { s.pt with cause := 4, state := 3 } } : State).raise 8).settle)

/-- Part of R317: with no change armed, a write of PT_NEXT makes its entry part of the pending layout, and a layout is pending; other partitions'
entries and the layout in force stand. While a change is armed the write is ignored. Part of R329: SWAP takes the table, LEN_NEXT as the word writes
it, and the origin as they stand, when BEAT_COUNT is at most ORIGIN − 2 and LEN_NEXT is 1 to 512, and STATE reads pending; otherwise STATE
reads refused. CANCEL withdraws a swap that has not applied, and with none leaves STATE as it reads. The table in force does not change, nor does another partition.
Model's choices: a row that names one write of a register acts as that write (log 28). -/
def Obligations.LayoutsAndSchedules : Prop :=
  (∀ (s : State) (n : Nat) (v : W64), s.hostUp = true → n < 16 → s.pt.armed = none →
    ∃ t, exec (.ptNextWrite 0 n v) s = .next t ∧ t.pt = { s.pt with pending := true } ∧
      (t.part n).next = { granules := BitVec.ofNat 16 (v.toNat % 2 ^ 16), streams := BitVec.ofNat 14 (v.toNat / 2 ^ 16 % 2 ^ 14),
                          lo := BitVec.ofNat 16 (v.toNat / 2 ^ 32 % 2 ^ 16), hi := BitVec.ofNat 16 (v.toNat / 2 ^ 48 % 2 ^ 16) } ∧
      (∀ p, (t.part p).layout = (s.part p).layout) ∧ (∀ p, p ≠ n → t.part p = s.part p) ∧ t.ctxs = s.ctxs ∧ t.blocks = s.blocks ∧
      t.hbm = s.hbm) ∧
  (∀ (s : State) (n b : Nat) (v : W64), s.hostUp = true → s.pt.armed = some b → exec (.ptNextWrite 0 n v) s = .next s.settle) ∧
  (∀ (s : State) (n : Nat) (v : W64), s.hostUp = true → n < 16 → v.getLsbD 1 = false →
    1 ≤ v.toNat / 2 ^ 32 % 2 ^ 10 → v.toNat / 2 ^ 32 % 2 ^ 10 ≤ 512 → s.beat.count.toNat + 2 ≤ (s.part n).sched.originNext.toNat →
    ∃ t, exec (.schedSwap 0 n v) s = .next t ∧
      (t.part n).sched = { (s.part n).sched with
        lenNext := BitVec.ofNat 10 (v.toNat / 2 ^ 32 % 2 ^ 10), state := 1,
        swap := (some { len := v.toNat / 2 ^ 32 % 2 ^ 10, origin := (s.part n).sched.originNext.toNat, table := (s.part n).sched.next }) } ∧
      (∀ p, p ≠ n → t.part p = s.part p) ∧ t.pt = s.pt ∧ t.ctxs = s.ctxs) ∧
  (∀ (s : State) (n : Nat) (v : W64), s.hostUp = true → n < 16 → v.getLsbD 1 = false →
    (v.toNat / 2 ^ 32 % 2 ^ 10 = 0 ∨ 512 < v.toNat / 2 ^ 32 % 2 ^ 10 ∨ (s.part n).sched.originNext.toNat < s.beat.count.toNat + 2) →
    ∃ t, exec (.schedSwap 0 n v) s = .next t ∧ (t.part n).sched.state = 3 ∧ (t.part n).sched.swap = (s.part n).sched.swap ∧
      (t.part n).sched.cur = (s.part n).sched.cur ∧ (∀ p, p ≠ n → t.part p = s.part p)) ∧
  (∀ (s : State) (n : Nat) (v : W64) (w : Swap), s.hostUp = true → n < 16 → v.getLsbD 0 = false → (s.part n).sched.swap = some w →
    ∃ t, exec (.schedCancel 0 n v) s = .next t ∧
      (t.part n).sched = { (s.part n).sched with lenNext := BitVec.ofNat 10 (v.toNat / 2 ^ 32 % 2 ^ 10), state := 0, swap := none } ∧
      (∀ p, p ≠ n → t.part p = s.part p)) ∧
  (∀ (s : State) (n : Nat) (v : W64), s.hostUp = true → n < 16 → v.getLsbD 0 = false → (s.part n).sched.swap = none →
    ∃ t, exec (.schedCancel 0 n v) s = .next t ∧
      (t.part n).sched = { (s.part n).sched with lenNext := BitVec.ofNat 10 (v.toNat / 2 ^ 32 % 2 ^ 10) } ∧
      (∀ p, p ≠ n → t.part p = s.part p) ∧ t.pt = s.pt ∧ t.ctxs = s.ctxs)

/-- Part of R282, R323: a context whose configuration breaks no rule, in a ready device with a stream number and room for its home region, becomes
ACTIVE with its generation one on and LAST_ERR, signals and accounting at zero, its census cleared, region 0 the home region with all four
rights of R282, completion ring 0 and an open stream 0. Part of R323: a creation that fails changes LAST_ERR of its context alone: 4 BUSY of a
context that exists, 5 CONFIG of a home size of 0 or more than 64.
Model's choices: a row that names one write of a register acts as that write (log 28). -/
def Obligations.ContextCreation : Prop :=
  (∀ (s : State) (c u : Nat), s.hostUp = true → s.bist.ready = true → c < 256 → s.createErr c = 0 → s.homeFit c = some u →
    ∃ t, exec (.ctxCreate 0 c) s = .next t ∧ (t.ctx c).state = 1 ∧ (t.ctx c).gen = (s.ctx c).gen + 1 ∧ (t.ctx c).lastErr = 0 ∧
      (t.ctx c).sig = [] ∧ (t.ctx c).acct = List.replicate 8 Cnt.zero ∧ (t.ctx c).pt = (s.ctx c).pt ∧ (t.ctx c).func = (s.ctx c).func ∧
      ((t.ctx c).region 0).valid = true ∧ ((t.ctx c).region 0).kind = 0 ∧ ((t.ctx c).region 0).rights = 15 ∧
      (t.ctx c).cq = [(0, { defined := true, off := 0x4000, log2 := 9 })] ∧ (t.ctx c).streams = [(0, s.freeStream)] ∧
      (t.strm s.freeStream).isOpen = true ∧ (t.strm s.freeStream).ctx = c ∧ (∀ d, d ≠ c → t.ctx d = s.ctx d) ∧
      (∀ k ∈ t.census, k.1 / 1280 ≠ c) ∧ t.blocks = s.blocks ∧ t.beat = s.beat) ∧
  (∀ (s : State) (c : Nat), s.hostUp = true → s.bist.ready = true → c < 256 → (s.ctx c).state ≠ 0 →
    exec (.ctxCreate 0 c) s = .next ({ s with ctxs := (Tab.set s.ctxs c { s.ctx c with lastErr := 4 }) } : State).settle) ∧
  (∀ (s : State) (c : Nat), s.hostUp = true → s.bist.ready = true → c < 256 → (s.ctx c).state = 0 → (s.ctx c).endedBeat = none →
    ((s.ctx c).home64M = 0 ∨ 64 < (s.ctx c).home64M.toNat) →
    exec (.ctxCreate 0 c) s = .next ({ s with ctxs := (Tab.set s.ctxs c { s.ctx c with lastErr := 5 }) } : State).settle)

/-- Part of R324: DESTROY of an ACTIVE context acts as a CONTEXT_RESET: it is ENDING, with a reset pending that will take effect in the next
window that R305 allows and destroys the context, and a purge order for it has gone to every engine that holds its work.
Model's choices: a row that names one write of a register acts as that write (log 28). -/
def Obligations.ContextDestroyOrdered : Prop :=
  ∀ (s : State) (c : Nat), s.hostUp = true → c < 256 → (s.ctx c).state = 1 → (s.ctx c).reset = none → (s.ctx c).lastReset = none →
    s.beat.windowOpen = false →
    ∃ t r, exec (.ctxDestroy 0 c) s = .next t ∧ (t.ctx c).state = 2 ∧ (t.ctx c).reset = some r ∧ r.destroy = true ∧ r.cmd = none ∧
      r.effectBeat = s.beat.count.toNat ∧ r.done = false ∧ (t.ctx c).gen = (s.ctx c).gen ∧
      (∃ p ∈ t.purges, p.id = r.purge ∧ p.ctx = some c ∧ p.owed = s.ctxEngines c) ∧ t.hbm = s.hbm ∧ t.beat = s.beat

/-- Part of R413, R417, R420: GO in step 3 takes the bundle to step 4. A bundle whose layout breaks a rule ends the start there with cause
BAD_BUNDLE and the 64-byte unit of the first bad byte as its detail; every other
start from there either reaches ready, with the attempt counter at zero and the device fenced, or has ended: in base camp, or with a
warm reset ordered.
Model's choices: what the device measures and finds comes as operands (log 4). a row that names one write of a register acts as that write (log 28). -/
def Obligations.BundleGo : Prop :=
  (∀ (s : State) (o : StartObs) (k : Nat), s.hostUp = true → s.awaitsBundle = true → o.failStep = none →
    bundleBad s.bist.img = some k →
    exec (.bistImgGo 0 o) s =
      .next (({ s with bist := { s.bist with step := 4, imgState := 4 } } : State).failStart 4 0x06 (k / 64)).settle) ∧
  (∀ (s : State) (o : StartObs), s.hostUp = true → s.awaitsBundle = true → s.bist.ready = false → s.crest.tripped = false →
    ∃ t, exec (.bistImgGo 0 o) s = .next t ∧
      (t.bist.ready = true → t.bist.attempts = 0 ∧ t.bist.imgState = 3 ∧ t.phase = .run ∧ t.fence.cause = 1) ∧
      (t.bist.ready = false → t.bist.mode = 2 ∨ t.bist.started = false))

/-- Part of R410, R440, R455: a write of BIST_IMG_DATA appends 8 little-endian bytes to the delivery buffer, up to 16 MiB, and CLEAR empties it; a write
of CAIRN_CLR_DATA appends 8 bytes, up to 3,392, and RESTART empties that buffer; each changes nothing else. Part of R432, R436, R440: ABORT stops a
self-test that has saved nothing, with code 4; a write of BIST_RES_SEL captures the selected fault record, zero beyond the records there
are. Neither changes anything but the BIST_ registers.
Model's choices: a row that names one write of a register acts as that write (log 28). -/
def Obligations.DeliveryBuffersAndBistWindow : Prop :=
  (∀ (s : State) (v : W64), s.hostUp = true → (s.bist.imgState = 0 ∨ s.bist.imgState = 1) → s.bist.img.length + 8 ≤ 16777216 →
    exec (.bistImgData 0 v) s =
      .next ({ s with bist := { s.bist with imgState := 1, img := s.bist.img ++ leBytes 8 v.toNat } } : State).settle) ∧
  (∀ (s : State) (v : W64), s.hostUp = true → 16777216 < s.bist.img.length + 8 → exec (.bistImgData 0 v) s = .next s.settle) ∧
  (∀ s : State, s.hostUp = true →
    exec (.bistImgClear 0) s = .next ({ s with bist := { s.bist with imgState := 0, img := [] } } : State).settle) ∧
  (∀ (s : State) (v : W64), s.hostUp = true → s.cairn.clrBuf.length + 8 ≤ 3392 →
    exec (.cairnClrData 0 v) s = .next ({ s with cairn := { s.cairn with clrBuf := s.cairn.clrBuf ++ leBytes 8 v.toNat } } : State).settle) ∧
  (∀ (s : State) (v : W64), s.hostUp = true → 3392 < s.cairn.clrBuf.length + 8 → exec (.cairnClrData 0 v) s = .next s.settle) ∧
  (∀ s : State, s.hostUp = true →
    exec (.cairnClrRestart 0) s = .next ({ s with cairn := { s.cairn with clrBuf := [] } } : State).settle) ∧
  (∀ s : State, s.hostUp = true → s.bist.sdActive = true → s.bist.sdPhase < 3 → s.bist.sdStop = false →
    exec (.bistAbort 0) s =
      .next ({ s with bist := { s.bist with sdStop := true, abortCode := 4, sdPhase := 6, sdLeft := 0 } } : State).settle) ∧
  (∀ (s : State) (v : W64), s.hostUp = true →
    exec (.bistResSel 0 v) s = .next ({ s with bist := { s.bist with
      resSel := BitVec.ofNat 10 (v.toNat % 1024), w0 := ((s.bist.ring[v.toNat % 1024]?).getD (0, 0)).1,
      w1 := ((s.bist.ring[v.toNat % 1024]?).getD (0, 0)).2 } } : State).settle)

/-- Part of R453: a write of CAIRN_RD_SEQ captures the record with that SEQ, from the ring first, and reports the first outcome of R453 that applies:
NOT_YET beyond the last SEQ, CLEARED up to the cleared one, TORN, OK, OVERWRITTEN. Part of R450, R455: a write of CAIRN_CODEn sets EVENT, IRQ, BURST
and REFILL; the bucket is filled exactly when the BURST in force changes, and a recorder code, below 256, keeps its bucket.
Model's choices: a row that names one write of a register acts as that write (log 28). -/
def Obligations.CairnReadsAndCodes : Prop :=
  (∀ (s : State) (v : W64), s.hostUp = true →
    ∃ c : Cairn, exec (.cairnRdSeq 0 v) s = .next ({ s with cairn := c } : State).settle ∧ c.rdSeq = v ∧
      c.rdLen = BitVec.ofNat 11 c.rdBuf.length ∧ c.ring = s.cairn.ring ∧ c.mirror = s.cairn.mirror ∧ c.seq = s.cairn.seq ∧ c.queue = s.cairn.queue ∧
      (s.cairn.seq < v.toNat → c.rdStatus = 1 ∧ c.rdBuf = []) ∧
      (v.toNat ≤ s.cairn.seq → v.toNat ≤ s.cairn.cleared → c.rdStatus = 2 ∧ c.rdBuf = []) ∧
      (v.toNat ≤ s.cairn.seq → s.cairn.cleared < v.toNat → v.toNat ∈ s.cairn.torn → c.rdStatus = 4 ∧ c.rdBuf = []) ∧
      (v.toNat ≤ s.cairn.seq → s.cairn.cleared < v.toNat → v.toNat ∉ s.cairn.torn →
        ∀ r, s.cairn.ring.find? (fun k => k.seq == v.toNat) = some r → c.rdStatus = 0 ∧ c.rdBuf = r.bytes)) ∧
  (∀ (s : State) (n : Nat) (v : W64), s.hostUp = true → n < 4096 →
    ∃ k : CodeSt, exec (.cairnCodeWrite 0 n v) s = .next ({ s with cairn := { s.cairn with codes := Tab.set s.cairn.codes n k } } : State).settle ∧
      k.event = v.getLsbD 1 ∧ k.irq = v.getLsbD 0 ∧ k.supp = (s.cairn.code n).supp ∧
      (256 ≤ n → k.burst = v.toNat / 2 ^ 8 % 2 ^ 8 ∧ k.refill = v.toNat / 2 ^ 16 % 2 ^ 16) ∧
      (256 ≤ n → k.burstOf = (s.cairn.code n).burstOf → k.tokens = (s.cairn.code n).tokens ∧ k.edges = (s.cairn.code n).edges) ∧
      (256 ≤ n → k.burstOf ≠ (s.cairn.code n).burstOf → k.tokens = k.burstOf) ∧
      (n < 256 → k = { s.cairn.code n with event := v.getLsbD 1, irq := v.getLsbD 0 }))

/-- Part of R442 to R446, R450, R451: the recorder takes the oldest event waiting: with a token of its code it is written with the next SEQ and the
count of those suppressed before it, which begins anew, and goes out on both ports where EVENT says so; without a token it only counts as
suppressed. A token that is due is added, up to BURST. The mirror copies the next record in SEQ order. Part of R452: GO submits the 3,392-byte
record of the buffer; one whose magic is wrong is refused as MALFORMED: STATE reads 1, a CLEAR_REFUSED record has been written, and neither
the records nor the cleared SEQ change. -/
def Obligations.RecorderWrites : Prop :=
  (∀ (s : State) (e : Event) (rest : List Event), s.crest.powered = true → s.cairn.queue = e :: rest → recorderCode e.code = false →
    (s.cairn.code e.code).tokens ≠ 0 →
    ∃ t, exec .cairnRecordWrite s = .next t ∧ t.cairn.queue = rest ∧ t.cairn.seq = s.cairn.seq + 1 ∧
      (∃ r ∈ t.cairn.ring, r.seq = s.cairn.seq + 1 ∧ r.bytes = e.record (s.cairn.seq + 1) (s.cairn.code e.code).supp) ∧
      (t.cairn.code e.code).tokens = (s.cairn.code e.code).tokens - 1 ∧ (t.cairn.code e.code).supp = 0 ∧
      ((s.cairn.code e.code).event = true → ∃ n m, Out.stobin 0 0x50 n (e.record (s.cairn.seq + 1) (s.cairn.code e.code).supp) ∈ t.out ∧
        Out.stobin 1 0x50 m (e.record (s.cairn.seq + 1) (s.cairn.code e.code).supp) ∈ t.out) ∧ t.cmds = s.cmds ∧ t.hbm = s.hbm) ∧
  (∀ (s : State) (e : Event) (rest : List Event), s.crest.powered = true → s.cairn.queue = e :: rest → recorderCode e.code = false →
    (s.cairn.code e.code).tokens = 0 →
    ∃ t, exec .cairnRecordWrite s = .next t ∧ t.cairn.queue = rest ∧ t.cairn.seq = s.cairn.seq ∧ t.cairn.ring = s.cairn.ring ∧
      (t.cairn.code e.code).supp = Nat.min 65535 ((s.cairn.code e.code).supp + 1) ∧ t.cmds = s.cmds) ∧
  (∀ (s : State) (n : Nat), recorderCode n = false → (s.cairn.code n).tokens < (s.cairn.code n).burstOf →
    (s.cairn.code n).refillOf < (s.cairn.code n).edges →
    ∃ c, exec (.cairnRefill n) s = .next { s with cairn := c } ∧ (c.code n).tokens = (s.cairn.code n).tokens + 1 ∧
      (c.code n).tokens ≤ (c.code n).burstOf ∧ c.ring = s.cairn.ring ∧ c.seq = s.cairn.seq ∧ c.queue = s.cairn.queue ∧
      ∀ m, m ≠ n → c.code m = s.cairn.code m) ∧
  (∀ (s : State) (r : LogRec), s.cairn.mirrorSt ≠ 0 → s.cairn.ring.find? (fun k => decide (s.cairn.mirrored < k.seq)) = some r →
    ∃ c, exec .mirrorCopy s = .next { s with cairn := c } ∧ c.mirrored = r.seq ∧ c.ring = s.cairn.ring ∧ c.seq = s.cairn.seq ∧
      (∃ k ∈ c.mirror, k.seq = r.seq ∧ k.bytes = r.bytes) ∧
      (c.mirrorSt = 2 ↔ s.cairn.mirrorSt = 2 ∨ ∀ k ∈ s.cairn.ring, k.seq ≤ r.seq)) ∧
  (∀ s : State, s.hostUp = true → sub8 s.cairn.clrBuf 0 8 ≠ clearMagic →
    ∃ t, exec (.cairnClrGo 0) s = .next t ∧ t.cairn.clrState = 1 ∧ t.cairn.cleared = s.cairn.cleared ∧ t.cairn.mirror = s.cairn.mirror ∧
      t.cairn.seq = s.cairn.seq + 1 ∧ (∃ r ∈ t.cairn.ring, r.seq = s.cairn.seq + 1 ∧ r.bytes.take 2 = leBytes 2 0x002) ∧
      t.hbm = s.hbm ∧ t.ctxs = s.ctxs)

/-! ### The context page and the apertures (10, 09) -/

/-- Part of R284: a doorbell, or a resume, of an open stream whose TAIL neither moves back nor goes more than the ring's size beyond HEAD sets
TAIL, and a resume clears HALTED as well; every other is ignored whole, and only DB_ERR and the context's source show it. The
function that writes owns the context, or is function 0. -/
def Obligations.DoorbellTail : Prop :=
  (∀ (s : State) (f c n g : Nat) (tail : BitVec 32), s.hostUp = true → s.reaches f c = true → s.openStream c n = some g →
    ((s.strm g).tail - (s.strm g).head).toNat ≤ (tail - (s.strm g).head).toNat →
    (tail - (s.strm g).head).toNat ≤ 2 ^ (s.strm g).log2 →
    exec (.doorbell f c n tail) s = .next ({ s with strms := (Tab.set s.strms g { s.strm g with tail := tail }) } : State).settle ∧
    exec (.resume f c n tail) s =
      .next ({ s with strms := (Tab.set s.strms g { s.strm g with tail := tail, halted := false }) } : State).settle) ∧
  (∀ (s : State) (f c n : Nat) (tail : BitVec 32), s.hostUp = true → s.reaches f c = true →
    (∀ g, s.openStream c n = some g → (tail - (s.strm g).head).toNat < ((s.strm g).tail - (s.strm g).head).toNat ∨
      2 ^ (s.strm g).log2 < (tail - (s.strm g).head).toNat) →
    exec (.doorbell f c n tail) s = exec (.resume f c n tail) s ∧
    exec (.doorbell f c n tail) s =
      .next (({ s with ctxs := (Tab.set s.ctxs c { s.ctx c with dbErr := true }) } : State).raise (64 + c)).settle)

/-- Part of R248, R279: a host write that region, rights and size allow puts its bytes into the region's buffer: every byte of the region
reads as written, every key of HBM outside those bytes reads as before, and HBM keeps its canonical form. -/
def Obligations.ApertureWriteStores : Prop :=
  ∀ (s : State) (f c r off : Nat) (data : List Byte), s.hostUp = true → s.bist.memUp = true → c < 256 → r < 64 → off < 2 ^ 42 →
    s.reaches f c = true → s.allows c { region := r, off := off } data.length .hostWr true = true →
    ∃ t, exec (.apertureWrite f (2 ^ 63 + c * 2 ^ 48 + r * 2 ^ 42 + off) data) s = .next t ∧
      t.hbm = Mem.regWrite ((s.ctx c).region r) (s.writeBuf c r) off s.hbm data ∧
      (∀ a, (∀ k, k < data.length → a ≠ ((s.ctx c).region r).key (s.writeBuf c r) (off + k)) → t.hbm.read a = s.hbm.read a) ∧
      (s.hbm.wf → t.hbm.wf) ∧ t.blocks = s.blocks ∧ t.strms = s.strms ∧ t.cmds = s.cmds ∧ t.beat = s.beat

/-- Part of R279: a host access that the region, its rights or its size do not allow changes no byte: a write is ignored and a read returns zeros,
HOST_FAULT of the context is set, and the recorder gets the event. Part of R278, R279: a host read that the region allows returns its bytes, in
order, and changes nothing. -/
def Obligations.ApertureReads : Prop :=
  (∀ (s : State) (f c r off : Nat) (data : List Byte), s.hostUp = true → s.bist.memUp = true → c < 256 → r < 64 → off < 2 ^ 42 →
    s.reaches f c = true → s.allows c { region := r, off := off } data.length .hostWr true = false →
    s.allows c { region := r, off := off } data.length .hostRd false = false →
    ∃ t u, exec (.apertureWrite f (2 ^ 63 + c * 2 ^ 48 + r * 2 ^ 42 + off) data) s = .next t ∧
      exec (.apertureRead f (2 ^ 63 + c * 2 ^ 48 + r * 2 ^ 42 + off) data.length) s = .next u ∧
      t.hbm = s.hbm ∧ u.hbm = s.hbm ∧ (t.ctx c).hostFault = true ∧ (u.ctx c).hostFault = true ∧
      (∀ d, d ≠ c → t.ctx d = s.ctx d ∧ u.ctx d = s.ctx d) ∧ t.strms = s.strms ∧ t.blocks = s.blocks ∧
      Out.readData (List.replicate data.length 0) ∈ u.out) ∧
  (∀ (s : State) (f c r off n : Nat), s.hostUp = true → s.bist.memUp = true → c < 256 → r < 64 → off < 2 ^ 42 →
    s.reaches f c = true → s.allows c { region := r, off := off } n .hostRd false = true →
    exec (.apertureRead f (2 ^ 63 + c * 2 ^ 48 + r * 2 ^ 42 + off) n) s =
      .next ({ s with out := s.out ++ [.readData ((List.range n).map (fun k =>
        s.hbm.read (((s.ctx c).region r).key (s.bufOf ((s.ctx c).region r)) (off + k))))] } : State).settle)

/-! ### The management ports (13, 14) -/

/-- Part of R426, R431: a message for another device, one of an earlier nonce, or one whose SEQ does not rise is dropped, whatever it asks: a
LEASE, DERATE, RESET, BINS_READ, BIST_READ, CAIRN_CLEAR, STANDDOWN or RETRY, so sent, leaves everything but the recorder, the model's
counter and the interrupt lines as it was.
Model's choices: the numbers of the failed checks (log 25). -/
def Obligations.StobinDropsUnaddressed : Prop :=
  ∀ (s : State) (m : Stobin) (i : Instr),
    s.crest.powered = true → m.port < 2 → s.crest.tripped = false → s.bist.inHold = false → s.bist.mode ≠ 2 → s.phase ≠ .reset →
    (m.deviceId ≠ Config.deviceId ∨ m.nonce ≠ s.bist.nonce ∨ m.seq ≤ (s.fence.mgmt m.port).lastSeq) →
    ((∃ n v, i = .lease m n v) ∨ (∃ n d, i = .derateArm m n d) ∨ i = .derateCancel m ∨ (∃ k, i = .reset m k) ∨
      (∃ a n c, i = .binsRead m a n c) ∨ (∃ a n, i = .bistRead m a n) ∨ (∃ l, i = .cairnClear m l) ∨ (∃ b, i = .standdown (.stobin m b)) ∨
      (∃ b o, i = .retry (.stobin m b) o)) →
    ∃ c : Cairn, exec i s = .next ({ s with cairn := c, fresh := s.fresh + 1 } : State).settle ∧ c.ring = s.cairn.ring ∧ c.seq = s.cairn.seq

/-- Part of R394 to R396: a LEASE that passes R426 but for its signature either is dropped, the signature failing, or loads its port's timer with its
length, asserts LEASE_OK, counts its SEQ, leaves the other port's timer and sends LEASE_ACK; with verdict LIVE a fenced device in service is
to lift its fence at the next edge and stays fenced until then. Part of R396, R397: when both timers reach zero LEASE_OK goes, and a device in
service that is not fenced is fenced at once with cause LAPSE; the commands accepted so far are left for the window.
Model's choices: signatures and digests are uninterpreted (log 8). -/
def Obligations.LeaseLoadsAndLapses : Prop :=
  (∀ (s : State) (m : Stobin) (ms : Nat),
    s.crest.powered = true → m.port = 0 → s.crest.tripped = false → s.bist.inHold = false → s.bist.mode = 1 → s.bist.ready = true →
    s.phase = .run → m.deviceId = Config.deviceId → m.nonce = s.bist.nonce → s.fence.portA.lastSeq < m.seq → 1000 ≤ ms → ms ≤ 60000 →
    ∃ t, exec (.lease m ms 0) s = .next t ∧
      (if s.signedBy m 0x10 (leBytes 4 ms ++ leBytes 1 0 ++ zeros 3) then
        t.fence.portA.running = true ∧ t.fence.portA.leaseMs = ms ∧ t.fence.portA.lastSeq = m.seq ∧ t.fence.leaseOk = true ∧
          t.fence.portB = s.fence.portB ∧ t.fence.cause = s.fence.cause ∧ (s.fence.cause ≠ 0 → t.fence.lift = true) ∧
          (∃ n b, Out.stobin 0 0x11 n b ∈ t.out) ∧ t.cmds = s.cmds ∧ t.hbm = s.hbm ∧ t.ctxs = s.ctxs ∧ t.beat = s.beat
      else t.fence = s.fence ∧ t.cmds = s.cmds ∧ t.hbm = s.hbm)) ∧
  (∀ s : State, (s.fence.portA.running = true ∨ s.fence.portB.running = true) → s.bist.ready = true → s.fence.cause = 0 →
    ∃ t, exec .leaseLapse s = .next t ∧ t.fence.cause = 2 ∧ t.fence.lift = false ∧ t.fence.leaseOk = false ∧ t.fence.portA.running = false ∧
      t.fence.portB.running = false ∧ t.fence.atWindow = true ∧ t.cmds = s.cmds ∧ t.hbm = s.hbm ∧ t.strms = s.strms ∧ t.beat = s.beat)

/-- Part of R403: DERATE ARM of a table that keeps its rules, on an aligned device with none pending, two or more beats before its target,
either fails its signature and changes no derating, or makes the table pending with STATE pending and answers DERATE_ACK; CANCEL two
or more beats before the target withdraws it. The table in force stands in every case.
Model's choices: signatures and digests are uninterpreted (log 8). -/
def Obligations.DerateStaged : Prop :=
  (∀ (s : State) (m : Stobin) (n : Nat) (d : DerateTable),
    s.listens m 0x20 = true → m.deviceId = Config.deviceId → m.nonce = s.bist.nonce → (s.fence.mgmt m.port).lastSeq < m.seq →
    s.beat.aligned = true → s.derate.pending = none → s.beat.count.toNat + 2 ≤ n → tableOk d = true →
    ∃ t, exec (.derateArm m n d) s = .next t ∧ t.derate.table = s.derate.table ∧ t.blocks = s.blocks ∧ t.hbm = s.hbm ∧
      (if s.signedBy m 0x20 (leBytes 1 0 ++ zeros 7 ++ leBytes 8 n ++ tableImage d) then
        t.derate.pending = some (n, d) ∧ t.derate.state = 1 ∧
          ∃ k, Out.stobin m.port 0x21 k (leBytes 1 1 ++ leBytes 1 0 ++ zeros 6 ++ leBytes 8 s.beat.count.toNat) ∈ t.out
      else t.derate = s.derate)) ∧
  (∀ (s : State) (m : Stobin) (n : Nat) (d : DerateTable),
    s.listens m 0x20 = true → m.deviceId = Config.deviceId → m.nonce = s.bist.nonce → (s.fence.mgmt m.port).lastSeq < m.seq →
    s.derate.pending = some (n, d) → s.beat.count.toNat + 2 ≤ n →
    ∃ t, exec (.derateCancel m) s = .next t ∧ t.derate.table = s.derate.table ∧ t.blocks = s.blocks ∧ t.hbm = s.hbm ∧
      (if s.signedBy m 0x20 (leBytes 1 1 ++ zeros 799) then t.derate.pending = none ∧ t.derate.state = 0 else t.derate = s.derate))

/-- Part of R389, R390: a RESET that passes R426 but for its signature either fails it, or orders its reset: a warm one advances the device
epoch by one, fences with cause START, takes Ramalink down and begins a warm start; a cold one begins a cold start
with every context, partition and block at its reset value. The beat counter stands in both.
Model's choices: signatures and digests are uninterpreted (log 8). -/
def Obligations.ResetOrdersStart : Prop :=
  ∀ (s : State) (m : Stobin) (kind : Nat), kind ≤ 1 →
    s.listens m 0x30 = true → m.deviceId = Config.deviceId → m.nonce = s.bist.nonce → (s.fence.mgmt m.port).lastSeq < m.seq →
    ∃ t, exec (.reset m kind) s = .next t ∧
      (if s.signedBy m 0x30 (leBytes 1 kind ++ zeros 7) then
        t.rlLanes = 0 ∧ t.bist.ready = false ∧ t.bist.started = false ∧ t.fence.cause = 1 ∧ t.lnk.devEpoch = s.lnk.devEpoch + 1 ∧
          t.beat.count = s.beat.count ∧ t.purges = [] ∧ t.bist.kind = decide (kind = 0) ∧
          (kind = 1 → t.ctxs = [] ∧ t.parts = [] ∧ t.blocks = [] ∧ t.cmds = [] ∧ t.irq.mask = [])
      else t.hbm = s.hbm ∧ t.cmds = s.cmds ∧ t.bist = s.bist ∧ t.lnk = s.lnk)

/-- Part of R394, R400, R428, R452, R454: BINS_READ, BIST_READ and CAIRN_CLEAR that pass R426 but for their signature either fail it or are
answered on their port by BINS with the bins of the blocks named, by BIST_DATA with the fault records asked for, and by a clear
answer with its STATE; only BINS_READ with CLEAR and an accepted clear change what they read.
Model's choices: signatures and digests are uninterpreted (log 8). -/
def Obligations.SignedReadsAnswered : Prop :=
  (∀ (s : State) (m : Stobin) (a n : Nat) (clear : Bool), 1 ≤ n → n ≤ 16 → a + n ≤ 5120 →
    s.listens m 0x40 = true → m.deviceId = Config.deviceId → m.nonce = s.bist.nonce → (s.fence.mgmt m.port).lastSeq < m.seq →
    ∃ t, exec (.binsRead m a n clear) s = .next t ∧ t.hbm = s.hbm ∧ t.cmds = s.cmds ∧ t.beat = s.beat ∧
      (if s.signedBy m 0x40 (leBytes 2 a ++ leBytes 1 n ++ leBytes 1 (if clear then 1 else 0)) then
        (∃ k, Out.stobin m.port 0x41 k (s.binsBody a n) ∈ t.out) ∧
          (clear = false → t.blocks = s.blocks ∧ t.dies = s.dies) ∧
          (clear = true → (∀ d, d < 8 → (t.die d).ckChecked = [] ∧ (t.die d).echoChecked = []) ∧
            ∀ b, a ≤ b → b < a + n → (t.block b).ckFail = [] ∧ (t.block b).echoFail = [])
      else t.blocks = s.blocks ∧ t.dies = s.dies)) ∧
  (∀ (s : State) (m : Stobin) (a n : Nat), 1 ≤ n → n ≤ 64 →
    s.listens m 0x74 = true → m.deviceId = Config.deviceId → m.nonce = s.bist.nonce → (s.fence.mgmt m.port).lastSeq < m.seq →
    ∃ t, exec (.bistRead m a n) s = .next t ∧ t.bist = s.bist ∧ t.hbm = s.hbm ∧ t.cmds = s.cmds ∧
      (s.signedBy m 0x74 (leBytes 2 a ++ leBytes 2 n ++ zeros 4) = true →
        ∃ k, Out.stobin m.port 0x75 k (leBytes 8 s.bist.statWord.toNat ++ (List.range n).flatMap (fun i =>
          leBytes 8 (s.bist.result (a + i)).1.toNat ++ leBytes 8 (s.bist.result (a + i)).2.toNat)) ∈ t.out)) ∧
  (∀ (s : State) (m : Stobin) (l : List Byte), l.length = 3392 → sub8 l 0 8 ≠ clearMagic →
    s.listens m 0x82 = true → m.deviceId = Config.deviceId → m.nonce = s.bist.nonce → (s.fence.mgmt m.port).lastSeq < m.seq →
    ∃ t, exec (.cairnClear m l) s = .next t ∧ t.hbm = s.hbm ∧ t.cairn.cleared = s.cairn.cleared ∧
      (s.signedBy m 0x82 l = true → t.cairn.seq = s.cairn.seq + 1 ∧
        ∃ k, Out.stobin m.port 0x83 k (leBytes 1 1 ++ zeros 7 ++ leBytes 8 (fld l 24 8)) ∈ t.out))

/-- Part of R418, R427: while a start report is due on a port that has heard no message, the report goes out there, and nothing but the port's own
numbering changes. Part of R418, R426, R428, R429, R454: ATTEST and CERT_READ need no check but that of their body, and CAIRN_READ neither nonce,
SEQ nor signature: each is answered on its port, by the report of R429 over the nonce sent, by the certificates of the flash, by at most the
number of records asked for from the SEQ on; nothing else changes but that the port has been heard.
Model's choices: signatures and digests are uninterpreted (log 8). -/
def Obligations.OpenReadsAnswered : Prop :=
  (∀ (s : State) (p : Nat), p < 2 → s.crest.powered = true → (s.fence.mgmt p).heard = false → (s.bist.ready = true ∨ s.bist.mode = 2) →
    exec (.startReport p) s = .next { s with
      fence := s.fence.setMgmt p { s.fence.mgmt p with sendSeq := (s.fence.mgmt p).sendSeq + 1 },
      out := s.out ++ [.stobin p 0x60 (s.fence.mgmt p).sendSeq s.bist.rpt] }) ∧
  (∀ (s : State) (m : Stobin) (nonce : List Byte), s.listens m 0x70 = true → nonce.length = 32 →
    ∃ f k, exec (.attest m nonce) s = .next ({ s with fence := f, out := s.out ++ [.stobin m.port 0x71 k (s.attestBody nonce)] } : State).settle ∧
      f.cause = s.fence.cause ∧ f.leaseOk = s.fence.leaseOk ∧ (f.mgmt m.port).lastSeq = (s.fence.mgmt m.port).lastSeq) ∧
  (∀ (s : State) (m : Stobin), s.listens m 0x72 = true →
    ∃ f k, exec (.certRead m) s = .next ({ s with fence := f, out := s.out ++ [.stobin m.port 0x73 k certBytes] } : State).settle ∧
      f.cause = s.fence.cause ∧ f.leaseOk = s.fence.leaseOk) ∧
  (∀ (s : State) (m : Stobin) (a n : Nat), s.listens m 0x80 = true → m.deviceId = Config.deviceId → 1 ≤ n → n ≤ 256 →
    ∃ f k l, exec (.cairnRead m a n) s = .next ({ s with fence := f, out := s.out ++ [.stobin m.port 0x81 k l] } : State).settle ∧
      l = leBytes 8 a ++ leBytes 2 (s.cairn.readFrom a n).length ++ zeros 6 ++ (s.cairn.readFrom a n).flatten ∧
      (s.cairn.readFrom a n).length ≤ n ∧ ((s.cairn.readFrom a n).map List.length).sum ≤ 24576 ∧ f.cause = s.fence.cause)

/-- Part of R431: a stand-down that the host asks for is refused, SD_REFUSE saying so, while the device is not ready (3), while a context
exists (1), or while a mode change is armed (2), in that order; otherwise it begins: the device is fenced with cause STANDDOWN, MODE
reads stand-down, and self-test is to begin at the next edge. -/
def Obligations.StandDownBegins : Prop :=
  (∀ (s : State) (v : W64), s.hostUp = true → v.getLsbD 2 = false → v.getLsbD 1 = false → s.bist.ready = true → s.bist.mode = 1 →
    (∀ c ∈ s.ctxs, c.2.state = 0) → s.pt.armed = none →
    ∃ t, exec (.standdown (.host 0 v)) s = .next t ∧ t.bist.sdRefuse = 0 ∧ t.bist.mode = 3 ∧ t.bist.sdActive = true ∧ t.bist.sdPhase = 0 ∧
      t.bist.ring = [] ∧ t.fence.cause = 4 ∧ t.fence.lift = false ∧ t.hbm = s.hbm ∧ t.blocks = s.blocks ∧ t.beat = s.beat) ∧
  (∀ (s : State) (v : W64), s.hostUp = true → v.getLsbD 2 = false → (s.bist.ready = false ∨ s.bist.mode = 3) →
    ∃ b : Bist, exec (.standdown (.host 0 v)) s = .next ({ s with bist := b } : State).settle ∧ b.sdRefuse = 3 ∧ b.mode = s.bist.mode) ∧
  (∀ (s : State) (v : W64) (c : Nat × Ctx), s.hostUp = true → v.getLsbD 2 = false → s.bist.ready = true → s.bist.mode = 1 → c ∈ s.ctxs →
    c.2.state ≠ 0 →
    ∃ b : Bist, exec (.standdown (.host 0 v)) s = .next ({ s with bist := b } : State).settle ∧ b.sdRefuse = 1 ∧ b.mode = 1)

/-- Part of R431, R432: when self-test is over the device enters hold: STATE reads done, or aborted where there is an abort code, BIST_DONE goes
to the recorder, Ramalink and the ports are down, and HBM keeps its content. WAKE in hold needs neither nonce nor signature and begins
a warm start, which leaves HBM as it is, empties every partition's chain and fences the device with cause START. -/
def Obligations.HoldAndWake : Prop :=
  (∀ s : State, s.bist.sdActive = true → s.bist.sdPhase = 6 → s.bist.wakePending = false →
    ∃ t, exec .bistEnd s = .next t ∧ t.bist.inHold = true ∧ t.bist.ready = false ∧ t.bist.memUp = false ∧ t.bist.sdActive = false ∧
      t.bist.state = (if s.bist.abortCode = 0 then 3 else 4) ∧ t.phase = .hold ∧ t.rlLanes = 0 ∧ t.lnk.up = 0 ∧ t.hbm = s.hbm ∧
      t.parts = s.parts ∧ t.beat = s.beat) ∧
  (∀ (s : State) (m : Stobin), s.crest.powered = true → s.crest.tripped = false → m.port < 2 → s.bist.inHold = true →
    m.deviceId = Config.deviceId → (s.fence.mgmt m.port).lastSeq < m.seq →
    ∃ t, exec (.wake m) s = .next t ∧ t.bist.inHold = false ∧ t.bist.kind = true ∧ t.bist.started = false ∧ t.fence.cause = 1 ∧
      t.phase = .boot ∧ t.hbm = s.hbm ∧ (∀ q ∈ t.parts, q.2.chain = List.replicate 64 0 ∧ q.2.events = 0) ∧ t.beat = s.beat)

/-- Part of R419, R478: outside base camp RETRY, whoever carries it, and RECOVER_N start nothing; in base camp RECOVER_N sets the attempt
counter to 2 and begins the start anew: the start's own count makes it 3, so that it ends ready or back in base
camp, fenced with cause START.
Model's choices: what the device measures and finds comes as operands (log 4). an event that the state does not enable changes nothing (log 3). -/
def Obligations.RetryInCampOnly : Prop :=
  (∀ (s : State) (v : W64) (o : StartObs), s.hostUp = true → s.bist.mode ≠ 2 → v.getLsbD 0 = false → v.getLsbD 2 = false →
    exec (.retry (.host 0 v) o) s = .next ({ s with bist := { s.bist with
      chunks := BitVec.ofNat 16 (v.toNat / 2 ^ 32 % 2 ^ 16), noBist := v.getLsbD 1 } } : State).settle) ∧
  (∀ (s : State) (o : StartObs), s.bist.mode ≠ 2 → exec (.recoverN o) s = .next s.settle) ∧
  (∀ (s : State) (v : W64) (o : StartObs), s.bist.mode = 2 → s.crest.powered = true → s.crest.tripped = false → s.rlLanes ≠ 0 →
    v.getLsbD 0 = false → v.getLsbD 2 = false →
    ∃ t u, exec (.recoverN o) s = .next t ∧ exec (.retry (.host 0 v) o) s = .next u ∧
      (t.bist.ready = false → t.bist.mode = 2) ∧ (u.bist.ready = false → u.bist.mode = 2) ∧
      t.fence.cause = 1 ∧ u.fence.cause = 1)

/-! ### Starts and power (14, 16) -/

/-- Part of R407, R417, R479: START of a powered device that waits for none counts an attempt and clears delivery; a cold start whose straps
are not allowed fails at step 1 with cause STRAP and, below three attempts, orders a warm reset; every other start either waits for its
bundle at step 3 with Ramalink trained, or has failed in steps 1 or 2.
Model's choices: what the device measures and finds comes as operands (log 4). -/
def Obligations.StartRuns : Prop :=
  ∀ (s : State) (straps : Nat) (o : StartObs),
    s.crest.powered = true → s.bist.started = false → s.bist.inHold = false → s.crest.tripped = false → s.bist.mode = 0 →
    s.bist.attempts.toNat < 2 → s.bist.ready = false →
    ∃ t, exec (.start straps o) s = .next t ∧ t.bist.attempts.toNat = s.bist.attempts.toNat + 1 ∧ t.bist.ready = false ∧
      t.beat.count = s.beat.count ∧
      ((s.bist.kind = false ∧ strapsBad straps = true) → t.bist.cause = 1 ∧ t.bist.step = 1 ∧ t.bist.kind = true ∧ t.rlLanes = 0) ∧
      (t.bist.step = 3 → t.rlLanes = o.lanes ∧ 4 ≤ o.lanes ∧ t.bist.img = [] ∧ t.bist.imgState = 0) ∧
      (t.bist.step = 1 ∨ t.bist.step = 2 ∨ t.bist.step = 3)

/-- Part of R389, R407, R409, R417, R420: a start that misses the bound of its step fails there, step 3 with cause NO_BUNDLE, and with three
attempts counted enters base camp, where Ramalink runs at four lanes; a warm start whose stacks were in service and that misses its
10 s begins a cold start; MOD_RST_N begins a cold start that keeps the beat counter and advances the device epoch.
Model's choices: what the device measures and finds comes as operands (log 4). -/
def Obligations.StartsCutShort : Prop :=
  (∀ (s : State) (cause : Nat), s.bist.started = true → s.bist.mode = 0 → s.bist.step = 3 → 3 ≤ s.bist.attempts.toNat →
    ∃ t, exec (.startStepTimeout 3 cause) s = .next t ∧ t.bist.cause = 5 ∧ t.bist.step = 3 ∧ t.bist.mode = 2 ∧ t.bist.baseCamp = true ∧
      t.phase = .baseCamp ∧ t.rlLanes = 4 ∧ t.hbm = s.hbm ∧ t.beat = s.beat) ∧
  (∀ s : State, s.bist.kind = true → s.bist.warmBound = true → s.bist.ready = false → s.bist.mode = 0 → s.crest.powered = true →
    s.crest.tripped = false →
    ∃ t, exec .warmTimeout s = .next t ∧ t.bist.kind = false ∧ t.bist.cause = 0x0F ∧ t.ctxs = [] ∧ t.parts = [] ∧
      t.beat.count = s.beat.count ∧ t.lnk.devEpoch = s.lnk.devEpoch + 1) ∧
  (∀ s : State, s.crest.powered = true → s.crest.tripped = false →
    ∃ t, exec .moduleReset s = .next t ∧ t.bist.kind = false ∧ t.bist.ready = false ∧ t.phase = .reset ∧ t.rlLanes = 0 ∧ t.fence.cause = 1 ∧
      t.ctxs = [] ∧ t.strms = [] ∧ t.parts = [] ∧ t.blocks = [] ∧ t.cmds = [] ∧ t.census = [] ∧ t.beat.count = s.beat.count ∧
      t.lnk.devEpoch = s.lnk.devEpoch + 1 ∧ t.bist.attempts = s.bist.attempts)

/-- Part of R466, R467: when the bus goes everything is lost but the queue of commands, and the device is unpowered; PWR_GOOD powers it again in the
reset phase. Part of R466: a bus voltage of 36 V to below 38 V is a low excursion and one above 48 V to 52 V a high one: at its beginning it is
counted once and recorded; a return to 38 V to 48 V ends it.
Model's choices: what the device measures and finds comes as operands (log 4). -/
def Obligations.BusPowerAndExcursions : Prop :=
  (∀ s : State, s.crest.powered = true →
    ∃ t, exec .busTrip s = .next t ∧ t.crest.powered = false ∧ t.phase = .unpowered ∧ t.pending = s.pending ∧ t.ctxs = [] ∧ t.parts = [] ∧
      t.blocks = [] ∧ t.cmds = [] ∧ t.beat = {} ∧ t.cairn = {} ∧ t.bist.attempts = 0 ∧ t.fence.cause = 1 ∧ t.rlLanes = 0) ∧
  (∀ s : State, s.crest.powered = false →
    exec .busPowerUp s = .next ({ s with crest := { s.crest with powered := true }, phase := .reset } : State).settle) ∧
  (∀ (s : State) (mv : Nat), s.crest.powered = true → 36000 ≤ mv → mv < 38000 → s.crest.vinLow = false →
    ∃ c : Cairn, exec (.inputExcursion mv) s = .next ({ s with cairn := c, crest := { s.crest with
      vinLow := true, vinHigh := false, vinExc := sat32 s.crest.vinExc 1 } } : State).settle ∧ c.ring = s.cairn.ring) ∧
  (∀ (s : State) (mv : Nat), s.crest.powered = true → 48000 < mv → mv ≤ 52000 → s.crest.vinHigh = false →
    ∃ c : Cairn, exec (.inputExcursion mv) s = .next ({ s with cairn := c, crest := { s.crest with
      vinLow := false, vinHigh := true, vinExc := sat32 s.crest.vinExc 1 } } : State).settle ∧ c.ring = s.cairn.ring) ∧
  (∀ (s : State) (mv : Nat), s.crest.powered = true → 38000 ≤ mv → mv ≤ 48000 →
    exec (.inputExcursionEnd mv) s = .next ({ s with crest := { s.crest with vinLow := false, vinHigh := false } } : State).settle)

/-- Part of R476: a sensor of a die at 105 °C makes the die hot, to run at step 8 from the next edge, and it is recorded once until every sensor of it
reads below 100 °C; a sensor at 120 °C stops every domain but AON and MGMT. Part of R469, R475, R476: a coolant condition that has held for 1 s, the
inlet above 45 °C or the flow below the minimum at the inlet's temperature, caps C_eff at 3,000 W and is recorded; its end lifts the cap.
THROTTLE_N is taken as it is; the governor reads it at an edge.
Model's choices: what the device measures and finds comes as operands (log 4). -/
def Obligations.ThermalAndCoolantEvents : Prop :=
  (∀ (s : State) (d k : Nat) (x : Int), s.crest.powered = true → d < 8 → k / 60 = d → 840 ≤ x →
    ∃ t, exec (.thermalThrottle d k x) s = .next t ∧ (t.die d).hot = true ∧ (t.die d).hotInBeat = true ∧ (t.die d).step = (s.die d).step ∧
      t.crest.temps[k]? = some x ∧ (∀ e, e ≠ d → t.die e = s.die e) ∧
      ((s.die d).hot = true → t.cairn = s.cairn) ∧ t.hbm = s.hbm ∧ t.cmds = s.cmds ∧ t.blocks = s.blocks) ∧
  (∀ (s : State) (d : Nat) (x : Int), s.crest.powered = true → d < 8 → (s.die d).hot = true → x < 800 →
    ∃ t, exec (.thermalThrottleEnd d x) s = .next t ∧ (t.die d).hot = false ∧ (t.die d).step = (s.die d).step ∧
      (∀ k, k < 60 → (t.crest.temps[60 * d + k]?).getD 0 < 800) ∧ t.hbm = s.hbm ∧ t.blocks = s.blocks) ∧
  (∀ (s : State) (k : Nat) (x : Int), s.crest.powered = true → s.crest.tripped = false → k < 512 → 960 ≤ x →
    ∃ t, exec (.thermalTrip k x) s = .next t ∧ t.crest.tripped = true ∧ t.crest.tripLatch = true ∧ t.bist.ready = false ∧ t.bist.memUp = false ∧
      t.cmds = [] ∧ t.rlLanes = 0 ∧ t.phase = .hold ∧ t.lnk.up = 0 ∧ t.beat = s.beat) ∧
  (∀ (s : State) (inlet : Int) (flow : Nat), s.crest.powered = true → s.crest.coolCap = false → 360 < inlet →
    ∃ c : Cairn, exec (.coolant 0 inlet flow) s =
      .next ({ s with cairn := c, crest := { s.crest with coolCap := true, coolIn := inlet, flow := flow } } : State).settle) ∧
  (∀ (s : State) (inlet : Int) (flow : Nat), s.crest.powered = true → s.crest.coolCap = false →
    flow < (if inlet ≤ 240 then 1000 else if inlet ≤ 320 then 1200 else 1400) →
    ∃ t, exec (.coolant 1 inlet flow) s = .next t ∧ t.ceff ≤ 3000 ∧ t.crest.coolCap = true ∧ t.hbm = s.hbm) ∧
  (∀ s : State, exec .coolantRestored s = .next { s with crest := { s.crest with coolCap := false } }) ∧
  (∀ (s : State) (a : Bool), s.crest.powered = true →
    exec (.throttleNChange a) s = .next ({ s with crest := { s.crest with throttleN := a } } : State).settle)

/-! ### The links (12) -/

/-- Part of R348, R374, R397: a device-addressed frame received while a link runs, on a port that is not UP, changes nothing; one that comes
while the device is fenced (on VL1 to VL3), names another device, is of an earlier epoch or generation of its sender, or comes from a
device that has announced itself fenced, is dropped: no command, context, block, partition, peer or byte of memory changes, and the
first of these that applies counts once, as STRAY, MISROUTE or LATE.
Model's choices: an event that the state does not enable changes nothing (log 3). -/
def Obligations.FramesChecked : Prop :=
  (∀ (i : Instr) (ty : Nat) (fr : Frame) (s : State), i.frame = some (ty, fr) → s.linksLive = true → s.portOpen fr = false →
    exec i s = .next s.settle) ∧
  (∀ (i : Instr) (ty : Nat) (fr : Frame) (s : State), i.frame = some (ty, fr) → s.linksLive = true → s.portOpen fr = true →
    ((s.fenced = true ∧ laneOf ty ≠ 0) ∨ fr.dst ≠ s.lnk.addr.toNat ∨ s.stale fr = true ∨ s.fromFenced fr = true) →
    ∃ t, exec i s = .next t ∧ t.cmds = s.cmds ∧ t.ctxs = s.ctxs ∧ t.strms = s.strms ∧ t.blocks = s.blocks ∧ t.parts = s.parts ∧
      t.hbm = s.hbm ∧ t.beat = s.beat ∧ t.lnk.peers = s.lnk.peers ∧ t.lnk.unacked = s.lnk.unacked ∧
      t.lnk.stray = (if s.fenced = true ∧ laneOf ty ≠ 0 then sat32 s.lnk.stray 1 else s.lnk.stray) ∧
      t.lnk.misroute = (if ¬ (s.fenced = true ∧ laneOf ty ≠ 0) ∧ fr.dst ≠ s.lnk.addr.toNat then sat32 s.lnk.misroute 1 else s.lnk.misroute) ∧
      t.lnk.late = (if ¬ (s.fenced = true ∧ laneOf ty ≠ 0) ∧ fr.dst = s.lnk.addr.toNat ∧ s.stale fr = true then sat32 s.lnk.late 1
        else s.lnk.late))

/-- Part of R343, R346, R350, R354, R377: a port on which eight lanes have trained, on an enabled link, is in discovery and sends DISCOVER, with the
lane of VL0 alone open; one with fewer lanes does not come up; DISCOVER_SEND sends another DISCOVER, or holds it until the port has the
credit for it; a port that fails is FAILED with its cause, its UP bit clear and the failover counted; RETRAIN of an enabled port leaves
it in training with its UP bit clear, and with ENABLE 0 the port is down; a retraining of Ramalink sets its width, raises source 11 and is recorded. No other port's state changes.
Model's choices: an event that the state does not enable changes nothing (log 3). -/
def Obligations.PortsTrainAndFail : Prop :=
  (∀ (s : State) (p lanes : Nat), s.linksLive = true → p < 32 → (s.port p).enable = true → (s.port p).quarantined = false →
    ((s.port p).state = 0 ∨ (s.port p).state = 1 ∨ (s.port p).state = 5) → 8 ≤ lanes →
    ∃ t fr, exec (.portTrained p lanes) s = .next t ∧ (t.port p).state = 2 ∧ (t.port p).lanes = 8 ∧
      Out.frame (some p) 0x01 fr ∈ t.out ∧ fr.payload = s.discoverPayload p ∧ fr.hops = Nat.max 1 s.lnk.hopLimit.toNat ∧
      (t.port p).lseqTx = 2 ∧ (t.port p).lseqRx = 1 ∧ (t.port p).credits = [15, 0, 0, 0] ∧
      (∀ q, q ≠ p → t.port q = s.port q) ∧ t.lnk.up = s.lnk.up ∧ t.cmds = s.cmds ∧ t.hbm = s.hbm) ∧
  (∀ (s : State) (p lanes : Nat), s.linksLive = true → p < 32 → lanes < 8 →
    ∃ t, exec (.portTrained p lanes) s = .next t ∧ (t.port p).state = (s.port p).state ∧ t.lnk.up = s.lnk.up ∧
      (∀ q, q ≠ p → t.port q = s.port q) ∧ t.cmds = s.cmds ∧ t.hbm = s.hbm) ∧
  (∀ (s : State) (p : Nat), s.linksLive = true → ((s.port p).state = 2 ∨ (s.port p).state = 3) →
    ∃ t fr, exec (.discoverSend p) s = .next t ∧ fr.payload = s.discoverPayload p ∧
      (Out.frame (some p) 0x01 fr ∈ t.out ∨ (0x01, fr) ∈ (t.port p).waiting) ∧
      ((s.port p).waiting = [] → (s.port p).replayBuf.length < 256 → (∃ n l, (s.port p).credits = (n + 1) :: l) →
        Out.frame (some p) 0x01 fr ∈ t.out ∧ (t.port p).lseqTx = (s.port p).lseqTx + 1 ∧ (t.port p).waiting = []) ∧
      (t.port p).state = (s.port p).state ∧ (∀ q, q ≠ p → t.port q = s.port q) ∧ t.cmds = s.cmds ∧ t.hbm = s.hbm) ∧
  (∀ (s : State) (p cause : Nat), s.linksLive = true → p < 32 → ((s.port p).state = 1 ∨ (s.port p).state = 2 ∨ (s.port p).state = 3) →
    ∃ t, exec (.portFailure p cause) s = .next t ∧ (t.port p).state = 5 ∧ (t.port p).cause = BitVec.ofNat 4 cause ∧
      t.lnk.up.getLsbD p = false ∧ (∀ q, q ≠ p → t.lnk.up.getLsbD q = s.lnk.up.getLsbD q ∧ (t.port q).state = (s.port q).state) ∧
      t.lnk.failover = sat32 s.lnk.failover 1 ∧ t.cmds = s.cmds ∧ t.hbm = s.hbm ∧ t.beat = s.beat) ∧
  (∀ (s : State) (n : Nat) (v : W64), s.hostUp = true → s.linksLive = true → n < 32 → v.getLsbD 0 = true → (s.port n).quarantined = false →
    ∃ t, exec (.retrain 0 n v) s = .next t ∧ (t.port n).state = 1 ∧ (t.port n).enable = true ∧ (t.port n).lanes = 0 ∧
      t.lnk.up.getLsbD n = false ∧ (∀ q, q ≠ n → t.port q = s.port q ∧ t.lnk.up.getLsbD q = s.lnk.up.getLsbD q) ∧
      t.cmds = s.cmds ∧ t.hbm = s.hbm) ∧
  (∀ (s : State) (n : Nat) (v : W64), s.hostUp = true → n < 32 → v.getLsbD 0 = false →
    ∃ t, exec (.retrain 0 n v) s = .next t ∧ (t.port n).state = 0 ∧ (t.port n).enable = false ∧
      ((s.port n).state ≠ 0 → t.lnk.up.getLsbD n = false) ∧
      (∀ q, q ≠ n → t.port q = s.port q ∧ t.lnk.up.getLsbD q = s.lnk.up.getLsbD q) ∧ t.cmds = s.cmds ∧ t.hbm = s.hbm) ∧
  (∀ (s : State) (lanes : Nat), s.hostUp = true → (lanes = 4 ∨ lanes = 8 ∨ lanes = 16) →
    ∃ c : Cairn, exec (.ramalinkRetrain lanes) s = .next (({ s with rlLanes := lanes, cairn := c } : State).raise 11).settle ∧
      c.ring = s.cairn.ring ∧ c.seq = s.cairn.seq)

/-- Part of R345, R346, R354: a good HOP_ACK takes the frame with its LSEQ out of the replay buffer, and the answers sent before it, and leaves the
others; a NACK of a frame sends it and all after it again, and counts, but after the eighth failed replay of the frame the port fails
with cause 2; HOP_CREDIT adds its grants to the port's credit, is answered, and frees what waits for credit; a frame that fails its CRC
is counted and answered with a NACK for its LSEQ, or the NACK waits; a frame of a reserved type on a port that is UP is dropped, counted
and answered.
Model's choices: an event that the state does not enable changes nothing (log 3); what an answer of a hop frees and owes (log 44). -/
def Obligations.HopAnswers : Prop :=
  (∀ (s : State) (p lseq : Nat), s.linksLive = true → ((s.port p).state = 2 ∨ (s.port p).state = 3) →
    (∃ k ∈ (s.port p).replayBuf, k.fr.lseq = lseq) →
    ∃ t, exec (.hopAck p false lseq) s = .next t ∧
      (s.port p).replayBuf.filter (fun k => k.fr.lseq != lseq && !(k.ty == 0x05 && decide (k.fr.lseq < lseq))) <+: (t.port p).replayBuf ∧
      ((s.port p).waiting = [] → (s.port p).owing = false → s.lnk.unacked = [] →
        (t.port p).replayBuf = (s.port p).replayBuf.filter (fun k => k.fr.lseq != lseq && !(k.ty == 0x05 && decide (k.fr.lseq < lseq))) ∧
        (∀ q, q ≠ p → t.port q = s.port q) ∧ t.lnk.unacked = []) ∧
      (t.port p).lseqRx = (s.port p).lseqRx + 1 ∧ (t.port p).state = (s.port p).state ∧ t.lnk.up = s.lnk.up ∧ t.cmds = s.cmds ∧ t.hbm = s.hbm) ∧
  (∀ (s : State) (p lseq : Nat), s.linksLive = true → ((s.port p).state = 2 ∨ (s.port p).state = 3) →
    (∃ k ∈ (s.port p).replayBuf, k.fr.lseq = lseq) → (s.port p).spent lseq = false →
    ∃ t, exec (.hopAck p true lseq) s = .next t ∧ (t.port p).replay = sat32 (s.port p).replay 1 ∧ (t.port p).state = (s.port p).state ∧
      (∀ k ∈ (s.port p).replayBuf.dropWhile (fun k => k.fr.lseq != lseq), Out.frame (some p) k.ty k.fr ∈ t.out) ∧
      (t.port p).replayBuf.map (fun k => (k.ty, k.fr)) = (s.port p).replayBuf.map (fun k => (k.ty, k.fr)) ∧
      (∀ q, q ≠ p → t.port q = s.port q) ∧ t.lnk.up = s.lnk.up ∧ t.lnk.unacked = s.lnk.unacked ∧ t.cmds = s.cmds ∧ t.hbm = s.hbm) ∧
  (∀ (s : State) (p lseq : Nat), s.linksLive = true → p < 32 → ((s.port p).state = 2 ∨ (s.port p).state = 3) →
    (∃ k ∈ (s.port p).replayBuf, k.fr.lseq = lseq ∧ k.again = true ∧ 7 ≤ k.failed) →
    ∃ t, exec (.hopAck p true lseq) s = .next t ∧ (t.port p).state = 5 ∧ (t.port p).cause = 2 ∧ t.lnk.up.getLsbD p = false ∧
      t.lnk.failover = sat32 s.lnk.failover 1 ∧ t.cmds = s.cmds ∧ t.hbm = s.hbm) ∧
  (∀ (s : State) (p lseq : Nat) (nack : Bool), s.linksLive = true → (∀ k ∈ (s.port p).replayBuf, k.fr.lseq ≠ lseq) →
    exec (.hopAck p nack lseq) s = .next s.settle) ∧
  (∀ (s : State) (p a b c d w x y z : Nat), s.linksLive = true → ((s.port p).state = 2 ∨ (s.port p).state = 3) → s.lnk.unacked = [] →
    (s.port p).waiting = [] → (s.port p).owing = false → (s.port p).replayBuf.length < 256 →
    a < 65536 → b < 65536 → c < 65536 → d < 65536 → (s.port p).credits = [w, x, y, z] → 1 ≤ w + a →
    ∃ t fr, exec (.hopCredit p a b c d) s = .next t ∧ (t.port p).credits = [w + a - 1, x + b, y + c, z + d] ∧
      Out.frame (some p) 0x05 fr ∈ t.out ∧ fr.tag = 0 ∧ fr.key = BitVec.ofNat 64 (s.port p).lseqRx ∧
      (t.port p).state = (s.port p).state ∧ (∀ q, q ≠ p → t.port q = s.port q) ∧ t.lnk.up = s.lnk.up ∧ t.lnk.unacked = [] ∧
      t.cmds = s.cmds ∧ t.hbm = s.hbm) ∧
  (∀ (s : State) (p a b c d w x y z ty : Nat) (f : Frame), s.linksLive = true → ((s.port p).state = 2 ∨ (s.port p).state = 3) →
    s.lnk.unacked = [] → (s.port p).waiting = [(ty, f)] → (s.port p).owing = false → (s.port p).replayBuf.length < 256 →
    a < 65536 → (s.port p).credits = [w, x, y, z] → laneOf ty = 0 → oneHop ty = true → frameUnits f ≤ w + a →
    ∃ t g, exec (.hopCredit p a b c d) s = .next t ∧ Out.frame (some p) ty g ∈ t.out ∧ g.payload = f.payload ∧ g.key = f.key ∧
      g.lseq = (s.port p).lseqTx % 2 ^ 32 ∧ (∀ q, q ≠ p → t.port q = s.port q) ∧ t.cmds = s.cmds ∧ t.hbm = s.hbm) ∧
  (∀ (s : State) (p lseq : Nat), s.linksLive = true → ((s.port p).state = 2 ∨ (s.port p).state = 3) →
    ∃ t fr, exec (.frameCrcError p lseq) s = .next t ∧ (t.port p).crcErr = sat32 (s.port p).crcErr 1 ∧
      (Out.frame (some p) 0x05 fr ∈ t.out ∨ (0x05, fr) ∈ (t.port p).waiting) ∧ fr.tag = 1 ∧ fr.key = BitVec.ofNat 64 lseq ∧
      (t.port p).state = (s.port p).state ∧ (∀ q, q ≠ p → t.port q = s.port q) ∧ t.lnk.unacked = s.lnk.unacked ∧ t.cmds = s.cmds ∧
      t.hbm = s.hbm) ∧
  (∀ (s : State) (p ty : Nat), s.linksLive = true → (s.port p).state = 3 → ty ∉ frameTypes →
    ∃ t fr, exec (.reservedFrame p ty) s = .next t ∧ t.lnk.badType = sat32 s.lnk.badType 1 ∧
      (Out.frame (some p) 0x05 fr ∈ t.out ∨ (0x05, fr) ∈ (t.port p).waiting) ∧ fr.tag = 0 ∧
      fr.key = BitVec.ofNat 64 (s.port p).lseqRx ∧ (t.port p).state = 3 ∧ t.lnk.up = s.lnk.up ∧ t.lnk.unacked = s.lnk.unacked ∧
      (∀ q, q ≠ p → t.port q = s.port q) ∧ t.cmds = s.cmds ∧ t.ctxs = s.ctxs ∧ t.parts = s.parts ∧ t.hbm = s.hbm)

/-- Part of R347, R353, R359: an E2E_ACK takes the frames that its bitmap covers out of those that await one, and what waited for them
settles; an E2E_NOTREADY leaves a frame to be sent again; a REFUSED one ends the PERMUTE that sent the frame with REGION_FAULT; an answer
that names no kept frame is STRAY. A resend over the module fabric sends the kept frame again, and one between planes takes the next
plane that can reach its destination; each is counted. A frame that still waits goes on its primary plane, and is not; with no plane it
counts as unreachable, and with no credit, or behind the fence, it stays.
Model's choices: frames arrive by commands (log 15). -/
def Obligations.AcksAndResends : Prop :=
  (∀ (s u : State) (fr : Frame), s.Hears 0x07 fr u → (∃ k ∈ u.lnk.unacked, ackCovers fr k = true) →
    exec (.e2eAck fr) s = .next ((((u.lnk.unacked.filter (ackCovers fr)).map (·.cmd)).eraseDups.foldl
      (fun (v : State) id => ((v.settleColl id).settlePerm id).settleRetrace id)
      { u with lnk := { u.lnk with unacked := u.lnk.unacked.filter (fun k => !ackCovers fr k) } }).settle)) ∧
  (∀ (s u : State) (fr : Frame), s.Hears 0x07 fr u → (∀ k ∈ u.lnk.unacked, ackCovers fr k = false) →
    exec (.e2eAck fr) s = .next ({ u with lnk := { u.lnk with stray := sat32 u.lnk.stray 1 } } : State).settle) ∧
  (∀ (s u : State) (fr : Frame) (k : Unacked), s.Hears 0x08 fr u → k ∈ u.lnk.unacked → k.fr.dst = fr.src → k.fr.tag = fr.tag →
    k.fr.key = fr.key → exec (.e2eNotready false fr) s = .next u.settle) ∧
  (∀ (s u : State) (fr : Frame) (refused : Bool), s.Hears 0x08 fr u →
    (∀ k ∈ u.lnk.unacked, ¬ (k.fr.dst = fr.src ∧ k.fr.tag = fr.tag ∧ k.fr.key = fr.key)) →
    exec (.e2eNotready refused fr) s = .next ({ u with lnk := { u.lnk with stray := sat32 u.lnk.stray 1 } } : State).settle) ∧
  (∀ (s u : State) (fr : Frame) (k : Unacked) (x : Cmd), s.Hears 0x08 fr u → u.lnk.unacked = [k] → k.fr.dst = fr.src → k.fr.tag = fr.tag →
    k.fr.key = fr.key → k.fr.off = fr.off &&& ~~~(1#64 <<< 63) → u.cmds = [x] → x.id = k.cmd → x.live = true →
    ∃ t, exec (.e2eNotready true fr) s = .next t ∧ t.lnk.unacked = [] ∧ t.hbm = u.hbm ∧
      t.cmds = [{ x with phase := .done, fail := (some (0x05, 1, k.fr.key.toNat / 2 ^ 24 % 256)) }]) ∧
  (∀ (s : State) (ix : Nat) (k : Unacked), s.linksLive = true → s.lnk.unacked[ix]? = some k → k.plane = 33 → s.fenced = false →
    exec (.e2eResend ix) s = .next ({ s with lnk := { s.lnk with retx := sat32 s.lnk.retx 1 }, out := s.out ++ [.frame none k.ty k.fr] } : State).settle) ∧
  (∀ (s : State) (ix p : Nat) (k : Unacked), s.linksLive = true → s.lnk.unacked[ix]? = some k → k.plane < 32 → s.fenced = false →
    laneOf k.ty ≠ 0 → planeAfter (s.planes k.fr.dst) k.plane = some p → s.canPut p k.ty k.fr = true →
    ∃ t fr, exec (.e2eResend ix) s = .next t ∧ t.lnk.retx = sat32 s.lnk.retx 1 ∧
      t.lnk.unacked[ix]? = some { k with plane := p, primary := some (k.primary.getD p) } ∧
      (∀ j, j ≠ ix → t.lnk.unacked[j]? = s.lnk.unacked[j]?) ∧ Out.frame (some p) k.ty fr ∈ t.out ∧ fr.payload = k.fr.payload ∧
      fr.dst = k.fr.dst ∧ t.cmds = s.cmds ∧ t.hbm = s.hbm) ∧
  (∀ (s : State) (ix p : Nat) (k : Unacked), s.linksLive = true → s.lnk.unacked[ix]? = some k → k.plane = 32 → k.primary = some p →
    s.fenced = false → laneOf k.ty ≠ 0 → p ∈ s.planes k.fr.dst → s.canPut p k.ty k.fr = true →
    ∃ t fr, exec (.e2eResend ix) s = .next t ∧ t.lnk.retx = s.lnk.retx ∧ t.lnk.unacked[ix]? = some { k with plane := p } ∧
      (∀ j, j ≠ ix → t.lnk.unacked[j]? = s.lnk.unacked[j]?) ∧ Out.frame (some p) k.ty fr ∈ t.out ∧ fr.payload = k.fr.payload ∧
      fr.dst = k.fr.dst ∧ t.cmds = s.cmds ∧ t.hbm = s.hbm) ∧
  (∀ (s : State) (ix : Nat) (k : Unacked), s.linksLive = true → s.lnk.unacked[ix]? = some k → k.plane ≠ 33 → s.fenced = false →
    s.nextPlane k = none →
    exec (.e2eResend ix) s = .next ({ s with lnk := { s.lnk with unreach := sat32 s.lnk.unreach 1 } } : State).settle) ∧
  (∀ (s : State) (ix : Nat) (k : Unacked), s.linksLive = true → s.lnk.unacked[ix]? = some k →
    ((s.fenced = true ∧ 6 < k.ty) ∨ (k.plane ≠ 33 ∧ ∃ p, s.nextPlane k = some p ∧ s.canPut p k.ty k.fr = false)) →
    exec (.e2eResend ix) s = .next s.settle) ∧
  (∀ (s : State) (ix : Nat), s.linksLive = true → s.lnk.unacked.length ≤ ix → exec (.e2eResend ix) s = .next s.settle)

/-- Part of R359, R362, R369, R374: data of a COPY or a gather, of a member that has not sent it before, is written at its offset in the command's
buffer, and acknowledged; a repeat is counted and acknowledged; before the command has started, or where only a command still to come
expects it, it is answered not ready, and where none does it is STRAY. A REDUCE's contribution of one element is combined with the one
under construction; a partial sum of NORMREDUCE is kept for its member. COLL_ABORT marks the matching commands alone, which end in the
next window with PEER_EPOCH. PERM_DATA for an open target is kept aside and acknowledged; PERM_MARK raises the mark of its source,
once; of a PERMUTE still to come they are answered not ready, and of none they are STRAY.
Model's choices: frames arrive by commands (log 15). -/
def Obligations.CollectiveFrames : Prop :=
  (∀ (s u : State) (fr : Frame) (x : Cmd) (pos : Nat), s.Hears 0x10 fr u → u.collMatch fr = some x → x.coll.started = true →
    x.coll.grp.posOf fr = some pos → (geoOf x.op).kind ≠ 4 → ((geoOf x.op).kind ≠ 1 ∨ 2 ≤ fr.key.toNat / 2 ^ 14 % 4) →
    exec (.collData fr) s =
      (let pl := fr.key.toNat / 2 ^ 14 % 4 * 16384 + fr.key.toNat % 2 ^ 14
       if x.coll.got.any (fun q => q.1 == pl && q.2.1 == pos && q.2.2.1 == fr.off.toNat) then
         .next (({ u with lnk := { u.lnk with dup := sat32 u.lnk.dup 1 } } : State).ack fr).settle
       else .next ((((u.updCmd x.id (fun y => { y with coll := { y.coll with
         got := y.coll.got ++ [(pl, pos, fr.off.toNat, fr.payload.length)], buf := (y.coll.buf.writeN fr.off.toNat fr.payload) } })).ack fr).settleColl
           x.id).settle))) ∧
  (∀ (s u : State) (fr : Frame) (x : Cmd) (pos : Nat), s.Hears 0x10 fr u → u.collMatch fr = some x → x.coll.started = true →
    x.coll.grp.posOf fr = some pos → (geoOf x.op).kind = 4 →
    (∀ q ∈ x.coll.got, ¬ (q.1 = fr.key.toNat / 2 ^ 14 % 4 * 16384 + fr.key.toNat % 2 ^ 14 ∧ q.2.1 = pos ∧ q.2.2.1 = fr.off.toNat)) →
    exec (.collData fr) s = .next ((((u.updCmd x.id (fun y => { y with coll := { y.coll with
      got := y.coll.got ++ [(fr.key.toNat / 2 ^ 14 % 4 * 16384 + fr.key.toNat % 2 ^ 14, pos, fr.off.toNat, fr.payload.length)],
      values := (Tab.set y.coll.values pos (leNat fr.payload)) } })).ack fr).settleColl x.id).settle)) ∧
  (∀ (s u : State) (fr : Frame) (x : Cmd) (pos : Nat), s.Hears 0x10 fr u → u.collMatch fr = some x → x.coll.started = true →
    x.coll.grp.posOf fr = some pos → (geoOf x.op).kind = 1 → fr.key.toNat / 2 ^ 14 % 4 < 2 → u.cmds = [x] → x.coll.part = [] →
    fr.payload.length = (geoOf x.op).fmt.size → fr.off.toNat % (geoOf x.op).fmt.size = 0 →
    (∀ q ∈ x.coll.got, ¬ (q.1 = fr.key.toNat / 2 ^ 14 % 4 * 16384 + fr.key.toNat % 2 ^ 14 ∧ q.2.1 = pos ∧ q.2.2.1 = fr.off.toNat)) →
    exec (.collData fr) s =
      (let r := combineElem (geoOf x.op).fmt (geoOf x.op).isMax x.coll.buf fr.off.toNat fr.payload
       .next ((((u.updCmd x.id (fun y => ({ y with coll := { y.coll with
         got := y.coll.got ++ [(fr.key.toNat / 2 ^ 14 % 4 * 16384 + fr.key.toNat % 2 ^ 14, pos, fr.off.toNat, fr.payload.length)],
         buf := r.1, part := ([] : List (Nat × Nat × Nat × Byte)) } } : Cmd).tally x.h.cls (geoOf x.op).fmt (({} : Tally).add r.2))).ack
           fr).settleColl x.id).settle))) ∧
  (∀ (s u : State) (fr : Frame), s.Hears 0x10 fr u →
    (∀ x, u.collMatch fr = some x → x.coll.started = false) →
    exec (.collData fr) s = (if (u.collMatch fr).isSome || u.collExpected fr then .next (u.notReady fr false).settle
      else .next ({ u with lnk := { u.lnk with stray := sat32 u.lnk.stray 1 } } : State).settle)) ∧
  (∀ (s u : State) (fr : Frame), s.Hears 0x11 fr u → ∃ t, exec (.collAbort fr) s = .next t ∧ t.cmds.length = u.cmds.length ∧
    ∀ (n : Nat) (x : Cmd), u.cmds[n]? = some x →
      t.cmds[n]? = some (if x.ctx = fr.dstCtx ∧ x.live = true ∧ (opGroup x.op).isSome = true ∧ x.coll.grp.jobTag = fr.tag ∧
        (opEpoch x.op).toNat = fr.key.toNat / 2 ^ 32 % 2 ^ 32 ∧ x.coll.seq % 65536 = fr.key.toNat / 2 ^ 16 % 2 ^ 16 ∧
        (x.coll.grp.posOf fr).isSome = true then { x with peerEpoch := some fr.src } else x)) ∧
  (∀ (s u : State) (fr : Frame) (x : Cmd) (p : PermP) (pos : Nat), s.Hears 0x12 fr u → u.permMatch fr = some (x, p, pos) →
    exec (.permData fr) s =
      (let r := fr.key.toNat / 2 ^ 24 % 256
       if x.coll.started = false then .next (u.notReady fr false).settle
       else if u.permOpen x.ctx r fr.off.toNat fr.payload.length p.bind = true then
         if (x.ctx, pos, r, fr.off.toNat) ∈ u.permSeen then .next (({ u with lnk := { u.lnk with dup := sat32 u.lnk.dup 1 } } : State).ack fr).settle
         else .next ((u.permPut x.ctx pos r fr.off.toNat fr.payload).ack fr).settle
       else .next (u.notReady fr true).settle)) ∧
  (∀ (s u : State) (fr : Frame) (x : Cmd) (p : PermP) (pos : Nat), s.Hears 0x13 fr u → u.permMatch fr = some (x, p, pos) →
    exec (.permMark fr) s =
      (if (pos, fr.off.toNat) ∈ x.coll.marks then .next (({ u with lnk := { u.lnk with dup := sat32 u.lnk.dup 1 } } : State).ack fr).settle
       else .next ((u.updCmd x.id (fun y => { y with coll := { y.coll with
         marks := y.coll.marks ++ [(pos, fr.off.toNat)],
         marked := (Tab.set y.coll.marked pos (Nat.max fr.off.toNat (Tab.get 0 y.coll.marked pos))) } })).ack fr).settle)) ∧
  (∀ (s u : State) (fr : Frame), u.permMatch fr = none →
    (s.Hears 0x12 fr u → exec (.permData fr) s = (if u.permExpected fr then .next (u.notReady fr false).settle
      else .next ({ u with lnk := { u.lnk with stray := sat32 u.lnk.stray 1 } } : State).settle)) ∧
    (s.Hears 0x13 fr u → exec (.permMark fr) s = (if u.permExpected fr then .next (u.notReady fr false).settle
      else .next ({ u with lnk := { u.lnk with stray := sat32 u.lnk.stray 1 } } : State).settle)))

/-- Part of R347, R348, R365, R366: CHAN_DATA stages units that lie in armed areas, at their indexes, and is acknowledged; the first one that a
rerun sends first discards what was staged at and beyond its unit; CHAN_COMMIT raises the count of its channel, never lowers it, and
completes exactly the areas that the count covers and whose data is all there; one that has come before counts as a duplicate;
CHAN_CREDIT raises the grant, never lowers it; an older layout epoch is dropped and counted, and a frame for no channel that pairs with
its sender is STRAY.
Model's choices: frames arrive by commands (log 15). -/
def Obligations.ChannelFrames : Prop :=
  (∀ (s u : State) (fr : Frame) (b k : Nat), s.Hears 0x20 fr u → u.recvChan fr = some (b, k) →
    (u.chan b k).ent.epoch = fr.key.toNat / 2 ^ 32 % 2 ^ 32 → fr.payload.length = 64 → (u.chan b k).fits fr.off.toNat = true →
    (∀ a ∈ (u.chan b k).areas, (fr.again = true → a.complete = true) → Tab.find a.staged fr.off.toNat = none) →
    exec (.chanData fr) s =
      (let c := if fr.again then (u.chan b k).discard fr.off.toNat else u.chan b k
       .next ((u.updChan b k (fun _ => (c.put (fr.off.toNat, fr.payload)).settle)).ack fr).settle)) ∧
  (∀ (c : Chan) (n i : Nat) (a : Area), c.areas[i]? = some a → a.complete = false →
    ∃ d, (c.discard n).areas[i]? = some d ∧ (∀ u, n ≤ u → Tab.find d.staged u = none) ∧
      (∀ u, u < n → Tab.find d.staged u = Tab.find a.staged u)) ∧
  (∀ (c : Chan) (n : Nat) (l : List Byte) (a : Area), a ∈ (c.put (n, l)).areas → a.complete = false → a.base ≤ n → n < a.base + a.units →
    Tab.find a.staged n = some l) ∧
  (∀ (s u : State) (fr : Frame) (b k : Nat), s.Hears 0x21 fr u → u.recvChan fr = some (b, k) →
    (u.chan b k).ent.epoch = fr.key.toNat / 2 ^ 32 % 2 ^ 32 →
    exec (.chanCommit fr) s =
      (if fr.off.toNat ∈ (u.chan b k).tolds then .next (({ u with lnk := { u.lnk with dup := sat32 u.lnk.dup 1 } } : State).ack fr).settle
       else .next ((u.updChan b k (fun c => ({ c with
         told := Nat.max c.told fr.off.toNat, tolds := c.tolds ++ [fr.off.toNat] } : Chan).settle)).ack fr).settle)) ∧
  (∀ (c : Chan) (i : Nat) (a : Area), c.areas[i]? = some a →
    c.settle.areas[i]? = some { a with complete := a.complete || (decide (a.base + a.units ≤ c.told) && a.full) }) ∧
  (∀ (s u : State) (fr : Frame) (b k : Nat) (c : Chan), s.Hears 0x22 fr u → k = fr.dstCtx * 64 + fr.tag.toNat % 64 →
    (u.part (u.ctxPart fr.dstCtx)).blockAt (fr.key.toNat % 2 ^ 16) = some b → (u.ctx fr.dstCtx).state = 1 → Tab.find (u.block b).chans k = some c →
    c.ent.dir = 1 → c.ent.peerDev = fr.src → c.ent.peerCtx = fr.srcCtx →
    c.ent.pairOf (fr.key.toNat % 2 ^ 16) = some (fr.key.toNat / 2 ^ 16 % 2 ^ 16) → c.ent.epoch = fr.key.toNat / 2 ^ 32 % 2 ^ 32 →
    exec (.chanCredit fr) s = .next (u.updChan b k (fun c => { c with grant := Nat.max c.grant fr.off.toNat })).settle) ∧
  (∀ (s u : State) (fr : Frame), s.Hears 0x22 fr u → (u.part (u.ctxPart fr.dstCtx)).blockAt (fr.key.toNat % 2 ^ 16) = none →
    exec (.chanCredit fr) s = .next ({ u with lnk := { u.lnk with stray := sat32 u.lnk.stray 1 } } : State).settle) ∧
  (∀ (s u : State) (fr : Frame), u.recvChan fr = none →
    (s.Hears 0x20 fr u → exec (.chanData fr) s = .next ({ u with lnk := { u.lnk with stray := sat32 u.lnk.stray 1 } } : State).settle) ∧
    (s.Hears 0x21 fr u → exec (.chanCommit fr) s = .next ({ u with lnk := { u.lnk with stray := sat32 u.lnk.stray 1 } } : State).settle)) ∧
  (∀ (s u : State) (fr : Frame) (b k : Nat), u.recvChan fr = some (b, k) →
    (u.chan b k).ent.epoch ≠ fr.key.toNat / 2 ^ 32 % 2 ^ 32 →
    (s.Hears 0x20 fr u → exec (.chanData fr) s = .next ({ u with lnk := { u.lnk with epochDrop := sat32 u.lnk.epochDrop 1 } } : State).settle) ∧
    (s.Hears 0x21 fr u → exec (.chanCommit fr) s = .next ({ u with lnk := { u.lnk with epochDrop := sat32 u.lnk.epochDrop 1 } } : State).settle))

/-- Part of R217, R218, R221, R321: a try at an enabled slot whose batch is open takes the lowest free position, or the one its reservation already
has, and keeps the row there; the first try of a batch takes position 0 of an empty buffer; a full buffer refuses it and owes the
refusal to the slot's counters, as do a buffer that holds another batch and one that is sealed or released; a slot that is not
enabled, or is not there, answers disabled and counts in PASS_BADDEST. Every such try is answered. A try of the device under an
epoch that is not current is refused, counted, and its command requeued.
Model's choices: what a Pass message carries (log 21). -/
def Obligations.PassTryPlaces : Prop :=
  (∀ (s u : State) (fr : Frame) (a : PassArgs) (x : SlotSt) (k : SlotBuf) (p : Nat), s.Hears 0x30 fr u →
    Tab.find (u.part a.pt).slots a.slot = some x → x.d.enabled = true → u.passCurrent fr a (u.slotDie a.pt a.slot) = true →
    Tab.find x.bufs (a.batch.toNat % Nat.max 1 x.d.nbuf) = some k → k.batch = a.batch → (k.phase a.phase).isSealed = false →
    x.released a.batch = false → k.resv.find? (fun r => r.sameKey fr a) = none → p < x.d.cap →
    (∀ r ∈ k.resv, r.pos ≠ p) → (∀ q, q < p → ∃ r ∈ k.resv, r.pos = q) →
    ∃ t y m f g b, exec (.passTry fr a) s = .next t ∧ Tab.find (t.part a.pt).slots a.slot = some y ∧
      Tab.find y.bufs (a.batch.toNat % Nat.max 1 x.d.nbuf) = some m ∧ m.rows = Tab.set k.rows p fr.payload ∧ m.resv = k.resv ++ [g] ∧
      g.pos = p ∧ g.sameKey fr a = true ∧ g.committed = false ∧ m.batch = k.batch ∧ y.d = x.d ∧ y.counters = x.counters ∧ y.pend = x.pend ∧
      Out.pass 0x31 f b [1, p] ∈ t.out ∧ b.token = a.token ∧ b.entry = a.entry ∧ b.batch = a.batch ∧ b.disabled = false ∧
      b.buf = a.batch.toNat % Nat.max 1 x.d.nbuf ∧ t.hbm = s.hbm ∧ t.ctxs = s.ctxs ∧ t.cmds = u.cmds) ∧
  (∀ (s u : State) (fr : Frame) (a : PassArgs) (x : SlotSt) (k : SlotBuf) (r : Resv), s.Hears 0x30 fr u →
    Tab.find (u.part a.pt).slots a.slot = some x → x.d.enabled = true → u.passCurrent fr a (u.slotDie a.pt a.slot) = true →
    Tab.find x.bufs (a.batch.toNat % Nat.max 1 x.d.nbuf) = some k → k.batch = a.batch → (k.phase a.phase).isSealed = false →
    x.released a.batch = false → k.resv.find? (fun r => r.sameKey fr a) = some r →
    ∃ t y m f b, exec (.passTry fr a) s = .next t ∧ Tab.find (t.part a.pt).slots a.slot = some y ∧
      Tab.find y.bufs (a.batch.toNat % Nat.max 1 x.d.nbuf) = some m ∧ m.rows = Tab.set k.rows r.pos fr.payload ∧ m.resv = k.resv ∧
      m.grads = k.grads ∧ m.bwd = k.bwd ∧ m.fwd.closes = k.fwd.closes ∧ m.fwd.commits = k.fwd.commits ∧
      Out.pass 0x31 f b [1, r.pos] ∈ t.out ∧ b.token = a.token ∧ b.entry = a.entry ∧ b.disabled = false) ∧
  (∀ (s u : State) (fr : Frame) (a : PassArgs) (x : SlotSt), s.Hears 0x30 fr u →
    Tab.find (u.part a.pt).slots a.slot = some x → x.d.enabled = true → u.passCurrent fr a (u.slotDie a.pt a.slot) = true →
    Tab.find x.bufs (a.batch.toNat % Nat.max 1 x.d.nbuf) = none → x.released a.batch = false → 0 < x.d.cap →
    ∃ t y m f g b, exec (.passTry fr a) s = .next t ∧ Tab.find (t.part a.pt).slots a.slot = some y ∧
      Tab.find y.bufs (a.batch.toNat % Nat.max 1 x.d.nbuf) = some m ∧ m.batch = a.batch ∧ m.resv = [g] ∧ g.pos = 0 ∧ g.sameKey fr a = true ∧
      m.rows = [(0, fr.payload)] ∧ Out.pass 0x31 f b [1, 0] ∈ t.out ∧ b.token = a.token ∧ b.entry = a.entry ∧ t.cmds = u.cmds) ∧
  (∀ (s u : State) (fr : Frame) (a : PassArgs) (x : SlotSt) (k : SlotBuf), s.Hears 0x30 fr u →
    Tab.find (u.part a.pt).slots a.slot = some x → x.d.enabled = true → u.passCurrent fr a (u.slotDie a.pt a.slot) = true →
    Tab.find x.bufs (a.batch.toNat % Nat.max 1 x.d.nbuf) = some k → k.batch = a.batch → (k.phase a.phase).isSealed = false →
    x.released a.batch = false → k.resv.find? (fun r => r.sameKey fr a) = none → (∀ q, q < x.d.cap → ∃ r ∈ k.resv, r.pos = q) →
    ∃ t f b, exec (.passTry fr a) s = .next t ∧ Tab.find (t.part a.pt).slots a.slot = some (x.owe 1 1) ∧
      Out.pass 0x31 f b [0, 0] ∈ t.out ∧ b.token = a.token ∧ b.entry = a.entry ∧ b.disabled = false ∧ t.hbm = s.hbm) ∧
  (∀ (s u : State) (fr : Frame) (a : PassArgs) (x : SlotSt) (k : SlotBuf), s.Hears 0x30 fr u →
    Tab.find (u.part a.pt).slots a.slot = some x → x.d.enabled = true → u.passCurrent fr a (u.slotDie a.pt a.slot) = true →
    Tab.find x.bufs (a.batch.toNat % Nat.max 1 x.d.nbuf) = some k →
    (k.batch ≠ a.batch ∨ (k.phase a.phase).isSealed = true ∨ x.released a.batch = true) →
    ∃ t f b, exec (.passTry fr a) s = .next t ∧
      Tab.find (t.part a.pt).slots a.slot = some ((x.owe 1 1).owe (if k.batch ≠ a.batch then 2 else 3) 1) ∧
      Out.pass 0x31 f b [0, 0] ∈ t.out ∧ b.token = a.token ∧ b.entry = a.entry ∧ b.disabled = false ∧ t.hbm = s.hbm) ∧
  (∀ (s u : State) (fr : Frame) (a : PassArgs), s.Hears 0x30 fr u →
    (∀ x, Tab.find (u.part a.pt).slots a.slot = some x → x.d.enabled = false) →
    ∃ t f b, exec (.passTry fr a) s = .next t ∧ t.parts = s.parts ∧ t.passRegs.badDest = sat32 s.passRegs.badDest 1 ∧
      Out.pass 0x31 f b [0, 1] ∈ t.out ∧ b.token = a.token ∧ b.entry = a.entry ∧ b.disabled = true ∧ t.hbm = s.hbm) ∧
  (∀ (s u : State) (fr : Frame) (a : PassArgs) (x : SlotSt) (y : Cmd), s.Hears 0x30 fr u →
    Tab.find (u.part a.pt).slots a.slot = some x → x.d.enabled = true → u.passCurrent fr a (u.slotDie a.pt a.slot) = false →
    u.cmds = [y] → y.ctx = fr.srcCtx → y.phase = .issued → y.shielded = false → y.tried a = true →
    ∃ t z, exec (.passTry fr a) s = .next t ∧ t.pt.mmRefuse = sat32 s.pt.mmRefuse 1 ∧ t.cmds = [z] ∧ z.id = y.id ∧ z.phase = .accepted ∧
      z.kills = y.kills + 1 ∧ z.writes = [] ∧ z.toks = [] ∧ Tab.find (t.part a.pt).slots a.slot = some x)

/-- Part of R219, R221, R224, R227, R228, R231, R235, R236, R321: PASS_REPLY for an open try answers its entry: a position makes it SENT there, in
the buffer named, and a slot that is not enabled marks it so; an answer for an older generation counts in PASS_LATE, and one of a
context without a live command is STRAY. PASS_MARK commits the reservation of its key, and is kept once, or adds its close, once; a
return or lost marker changes its batch, once; a slot that is not there, or a batch that the table does not hold, makes it STRAY.
PASS_ROW of a backward row reaches its slot's GRAD buffer at its position, once; a request is answered with the row that the slot's
output holds there; a row that no COMBINE pulls is STRAY. What is taken is acknowledged.
Model's choices: what a Pass message carries (log 21). -/
def Obligations.PassAnswers : Prop :=
  (∀ (s u : State) (fr : Frame) (a : PassArgs) (pos : Option Nat), s.Hears 0x31 fr u → older16 a.gen (u.ctx fr.dstCtx).gen = true →
    ∃ t, exec (.passReply fr a pos) s = .next t ∧ t.passRegs.late = sat32 s.passRegs.late 1 ∧ t.cmds = u.cmds ∧ t.parts = s.parts) ∧
  (∀ (s u : State) (fr : Frame) (a : PassArgs) (pos : Option Nat) (x : Cmd) (k : Tok), s.Hears 0x31 fr u →
    older16 a.gen (u.ctx fr.dstCtx).gen = false → u.cmds = [x] → x.ctx = fr.dstCtx → x.phase = .issued → x.toks = [k] → x.id = a.cmd →
    k.table = a.table → k.batch = a.batch → k.token = a.token → k.nth = a.nth → k.waiting = [a.entry, a.entry + 1] →
    u.passCurrent fr a (u.sendDie x k.origin) = true →
    ∃ t y, exec (.passReply fr a pos) s = .next t ∧ t.cmds = [y] ∧ y.phase = .issued ∧
      y.toks = [answerTok (u.tabD x a.table) k a.entry pos a.buf a.disabled] ∧ t.parts = s.parts ∧ t.hbm = s.hbm) ∧
  (∀ (s u : State) (fr : Frame) (a : PassArgs) (pos : Option Nat), s.Hears 0x31 fr u → older16 a.gen (u.ctx fr.dstCtx).gen = false →
    (∀ x ∈ u.cmds, x.ctx = fr.dstCtx → x.live = false) →
    exec (.passReply fr a pos) s = .next ({ u with lnk := { u.lnk with stray := sat32 u.lnk.stray 1 } } : State).settle) ∧
  (∀ (d : RouteTab) (k : Tok) (i p b : Nat) (e : RouteEnt), k.ents[i]? = some e →
    (i < d.kUse → (answerTok d k i (some p) b false).ents[i]? = some { e with st := 1, buf := b, pos := p }) ∧
    (answerTok d k i none b true).ents[i]? = some { e with st := 6 } ∧
    (∀ j, j ≠ i → (answerTok d k i none b false).ents[j]? = k.ents[j]?) ∧ i ∉ (answerTok d k i none b false).waiting ∧
    (i < d.kUse → i ∈ (answerTok d k i none b false).refused ∧ (answerTok d k i none b false).full = k.full + 1)) ∧
  (∀ (s u : State) (fr : Frame) (a : PassArgs) (kind n : Nat) (x : SlotSt) (k : SlotBuf), s.Hears 0x32 fr u → kind ≤ 1 →
    Tab.find (u.part a.pt).slots a.slot = some x → x.d.enabled = true → Tab.find x.bufs (a.batch.toNat % Nat.max 1 x.d.nbuf) = some k →
    k.batch = a.batch → u.passCurrent fr a (u.homeDie a.pt x) = true →
    ∃ t, exec (.passMark fr a kind n) s = .next t ∧ t.hbm = s.hbm ∧ t.cmds = u.cmds ∧
      (k.marked fr a kind n = false → Tab.find (t.part a.pt).slots a.slot =
        some { x with bufs := (Tab.set x.bufs (a.batch.toNat % Nat.max 1 x.d.nbuf) (k.mark fr a kind n)) }) ∧
      (k.marked fr a kind n = true → t.parts = u.parts ∧ t.lnk.dup = sat32 u.lnk.dup 1)) ∧
  (∀ (s u : State) (fr : Frame) (a : PassArgs) (kind n : Nat), s.Hears 0x32 fr u →
    ((kind ≤ 1 ∧ Tab.find (u.part a.pt).slots a.slot = none) ∨
      (1 < kind ∧ (Tab.get {} (u.part a.opt).tabs a.table).batch a.batch = none)) →
    exec (.passMark fr a kind n) s = .next ({ u with lnk := { u.lnk with stray := sat32 u.lnk.stray 1 } } : State).settle) ∧
  (∀ (k : SlotBuf) (fr : Frame) (a : PassArgs) (kind n : Nat), (k.mark fr a kind n).marked fr a kind n = true) ∧
  (∀ (k : SlotBuf) (fr : Frame) (a : PassArgs) (n : Nat), a.phase = 0 →
    (∀ r ∈ (k.mark fr a 0 n).resv, r.sameKey fr a = true → r.committed = true) ∧ (k.mark fr a 0 n).rows = k.rows ∧
    (k.mark fr a 0 n).fwd.commits = k.fwd.commits ++ [(fr.src, fr.srcCtx, a.opt * 64 + a.table, n)]) ∧
  (∀ (s u : State) (fr : Frame) (a : PassArgs) (kind n : Nat) (b : BatchSt), s.Hears 0x32 fr u → 1 < kind →
    (Tab.get {} (u.part a.opt).tabs a.table).batch a.batch = some b →
    (if kind = 3 then b.lost else (if a.phase = 0 then b.retF else b.retB).contains (fr.src * 1024 + a.pt * 64 + a.slot)) = false →
    ∃ t, exec (.passMark fr a kind n) s = .next t ∧ t.hbm = s.hbm ∧
      t.parts = (u.updTab a.opt a.table (fun t =>
        t.updBatch a.batch (fun b => b.takeMark kind a.phase (fr.src * 1024 + a.pt * 64 + a.slot)))).parts) ∧
  (∀ (s u : State) (fr : Frame) (a : PassArgs) (pos : Nat) (x : SlotSt) (k : SlotBuf), s.Hears 0x33 fr u → a.pull = false →
    Tab.find (u.part a.pt).slots a.slot = some x → x.buf a.batch = some k → u.passCurrent fr a (u.homeDie a.pt x) = true →
    x.d.backward = true → k.bwd.isSealed = false → pos < x.d.cap →
    ∃ t, exec (.passRow fr a pos) s = .next t ∧ t.cmds = u.cmds ∧ t.ctxs = s.ctxs ∧
      (Tab.find k.bwd.runs pos = some (a.cmd * 2 ^ 32 + a.run) → t.parts = u.parts ∧ t.lnk.dup = sat32 u.lnk.dup 1) ∧
      (Tab.find k.bwd.runs pos ≠ some (a.cmd * 2 ^ 32 + a.run) → ∃ y m, Tab.find (t.part a.pt).slots a.slot = some y ∧ y.d = x.d ∧
        Tab.find y.bufs (a.batch.toNat % Nat.max 1 x.d.nbuf) = some m ∧ m.grads = Tab.set k.grads pos fr.payload ∧ m.resv = k.resv ∧
        m.rows = k.rows ∧ m.fwd = k.fwd ∧ m.bwd.closes = k.bwd.closes ∧ m.bwd.commits = k.bwd.commits)) ∧
  (∀ (s u : State) (fr : Frame) (a : PassArgs) (pos : Nat) (x : SlotSt), s.Hears 0x33 fr u → a.pull = true → fr.payload = [] →
    Tab.find (u.part a.pt).slots a.slot = some x →
    ∃ t f, exec (.passRow fr a pos) s = .next t ∧ Out.pass 0x33 f a [pos] ∈ t.out ∧
      f.payload = u.outRow a.pt a.slot a.buf pos (rowBytes x.d.rowUnits) ∧ f.dst = fr.src ∧ f.dstCtx = fr.srcCtx ∧ t.parts = u.parts ∧
      t.cmds = u.cmds ∧ t.hbm = s.hbm) ∧
  (∀ (s u : State) (fr : Frame) (a : PassArgs) (pos : Nat), s.Hears 0x33 fr u → a.pull = true → fr.payload ≠ [] →
    older16 a.gen (u.ctx fr.dstCtx).gen = false → (∀ x ∈ u.cmds, x.pulling fr.dstCtx a = none) →
    exec (.passRow fr a pos) s = .next ({ u with lnk := { u.lnk with stray := sat32 u.lnk.stray 1 } } : State).settle)

/-- Part of R38, R349 to R351, R372 to R374: a DISCOVER_REPLY that names the port's slot and plane and the device's address, on a port in
discovery, brings the port UP, measures its latency, and takes the address; one that differs in any of them leaves the port at
MISCABLED, and recorded. EPOCH_ANNOUNCE shows a new epoch of a device, known or not, and that it is fenced; every live command that exchanges
traffic with it is to end, and a mark of the fence stays until a DISCOVER without it. A device's DISCOVER does the same where it shows a
new epoch or the fence. Either with an older epoch than the recorded one is LATE.
Model's choices: frames arrive by commands (log 15). -/
def Obligations.PeersAndDiscovery : Prop :=
  (∀ (s : State) (p arr : Nat) (fr : Frame), s.linksLive = true → p < 32 → (s.port p).state = 2 → (s.port p).rejoin = false → s.replyFails p fr = none →
    s.lnk.unacked = [] → s.beat.srcAct = 2 →
    ∃ t, exec (.discoverReply p arr fr) s = .next t ∧ (t.port p).state = 3 ∧ t.lnk.up.getLsbD p = true ∧ t.lnk.addrValid = true ∧
      t.lnk.addr = BitVec.ofNat 24 (replyAddr fr) ∧ (t.port p).plane = BitVec.ofNat 16 (replyPlane fr) ∧
      (t.port p).lat = BitVec.ofNat 16 ((arr - fr.key.toNat - fr.tag.toNat) / 2) ∧ (∀ q, q ≠ p → t.port q = s.port q) ∧
      (∀ q, q ≠ p → t.lnk.up.getLsbD q = s.lnk.up.getLsbD q) ∧ t.beat = s.beat ∧ t.cmds = s.cmds ∧ t.hbm = s.hbm) ∧
  (∀ (s : State) (p arr k : Nat) (fr : Frame), s.linksLive = true → p < 32 → ((s.port p).state = 2 ∨ (s.port p).state = 3) → s.replyFails p fr = some k →
    ∃ t, exec (.discoverReply p arr fr) s = .next t ∧ (t.port p).state = 4 ∧ (t.port p).cause = 4 ∧ t.lnk.up.getLsbD p = false ∧
      t.lnk.addr = s.lnk.addr ∧ t.lnk.addrValid = s.lnk.addrValid ∧ (∀ q, q ≠ p → t.port q = s.port q) ∧ t.beat = s.beat ∧ t.cmds = s.cmds) ∧
  (∀ (s : State) (p : Nat) (fenced : Bool) (fr : Frame), s.linksLive = true → (s.port p).state = 3 → fr.dst = s.lnk.addr.toNat →
    s.oldEpoch fr = false →
    ∃ t r, exec (.epochAnnounce p fenced fr) s = .next t ∧ t.peer fr.src = some r ∧ r.epoch = some (BitVec.ofNat 16 fr.key.toNat) ∧
      r.fenced = (fenced || s.fromFenced fr) ∧
      (∀ (n : Nat) (x : Cmd), s.cmds[n]? = some x → x.live = true → (x.talksTo fr.src = true ∨ s.routeNeeds x fr.src = true) →
        ∃ y, t.cmds[n]? = some y ∧ y.peerEpoch = some fr.src) ∧ t.hbm = s.hbm ∧ t.ctxs = s.ctxs ∧ t.beat = s.beat) ∧
  (∀ (s : State) (p : Nat) (fenced : Bool) (fr : Frame), s.linksLive = true → ((s.port p).state = 2 ∨ (s.port p).state = 3) →
    s.oldEpoch fr = false →
    ∃ t r, exec (.discover p fenced fr) s = .next t ∧ t.peer fr.src = some r ∧ r.epoch = some fr.srcEpoch ∧ r.fenced = fenced ∧
      ((s.peer fr.src).bind (·.epoch) = some fr.srcEpoch → (fenced = false ∨ s.fromFenced fr = true) → t.cmds = s.cmds) ∧
      (((∃ e, (s.peer fr.src).bind (·.epoch) = some e ∧ e ≠ fr.srcEpoch) ∨ (fenced = true ∧ s.fromFenced fr = false)) →
        ∀ (n : Nat) (x : Cmd), s.cmds[n]? = some x → x.live = true → (x.talksTo fr.src = true ∨ s.routeNeeds x fr.src = true) →
          ∃ y, t.cmds[n]? = some y ∧ y.peerEpoch = some fr.src) ∧
      t.hbm = s.hbm ∧ t.ctxs = s.ctxs ∧ t.beat = s.beat) ∧
  (∀ (s : State) (p : Nat) (fenced : Bool) (fr : Frame), s.linksLive = true → s.oldEpoch fr = true →
    ((s.port p).state = 3 → fr.dst = s.lnk.addr.toNat → ∃ t, exec (.epochAnnounce p fenced fr) s = .next t ∧
      t.lnk.late = sat32 s.lnk.late 1 ∧ t.lnk.peers = s.lnk.peers ∧ t.cmds = s.cmds ∧ t.hbm = s.hbm) ∧
    (((s.port p).state = 2 ∨ (s.port p).state = 3) → ∃ t, exec (.discover p fenced fr) s = .next t ∧
      t.lnk.late = sat32 s.lnk.late 1 ∧ t.lnk.peers = s.lnk.peers ∧ t.cmds = s.cmds ∧ t.hbm = s.hbm))

/-! ### The Dispatcher (10, 11, 02) -/

/-- Part of R285, R287, R293, R295 (log 2): a packet of an open stream that may be fetched and that no check of R293 fails is accepted: the row
answers with the acceptance and the issue point of the stream's partition, HEAD is one on, one more record is reserved in the stream's
completion ring, and a command with the packet's header and operation stands in the Dispatcher; HBM, the beat and the links'
ports are as before. An operation that only queues at its acceptance does nothing else. This holds of each of the 43 packet
rows. -/
def Obligations.PacketsAccepted : Prop :=
  (∀ (i : Instr) (h : Hdr) (op : Op) (s : State) (g : Nat), i.packet = some (h, op) → s.openStream h.ctx h.stream = some g →
    s.fetchable g = true → s.packetWaits g h op = false → s.packetFail g h op = none →
    exec i s = .next (((s.accept g h op).recordNow).issuePoint (s.ctxPart h.ctx)).settle) ∧
  (∀ (s : State) (g : Nat) (h : Hdr) (op : Op), s.fetchable g = true → (∀ p, op ≠ .streamOpen p) →
    ((s.accept g h op).strm g).head = (s.strm g).head + 1 ∧ (s.accept g h op).hbm = s.hbm ∧ (s.accept g h op).beat = s.beat ∧
    (Tab.get {} ((s.accept g h op).ctx (s.strm g).ctx).cq (s.strm g).cq).reserved = (Tab.get {} (s.ctx (s.strm g).ctx).cq (s.strm g).cq).reserved + 1 ∧
    s.nextId < (s.accept g h op).nextId ∧
    ∃ x ∈ (s.accept g h op).cmds, x.id = s.nextId ∧ x.ctx = h.ctx ∧ x.strm = g ∧ x.op = op ∧ x.h = h ∧ x.index = (s.strm g).head ∧
      x.timeout = (if h.timeout = 0 then Nat.max 1 s.beat.timeoutDef.toNat else h.timeout)) ∧
  (∀ (s : State) (g : Nat) (h : Hdr) (op : Op),
    ((∃ p, op = .copy p) ∨ (∃ p, op = .fill p) ∨ op = .fence ∨ (∃ n v, op = .signalAdd n v) ∨ (∃ n v, op = .signalSet n v) ∨
      (∃ n l v, op = .wait n l v) ∨ (∃ d c, op = .censusRead d c) ∨ (∃ p, op = .accountRead p) ∨ (∃ n, op = .streamClose n) ∨ op = .unload ∨
      (∃ p, op = .routeOpen p) ∨ (∃ p, op = .routeDispatch p) ∨ (∃ p, op = .routeClose p) ∨ (∃ p, op = .combineForward p) ∨ op = .wsAbort) →
    s.accept g h op = ({ s.takePacket g with cmds := s.cmds ++ [s.newCmd g h op], nextId := s.nextId + 1 } : State).requestFlags g h ∧
      (s.newCmd g h op).phase = .accepted)

/-- Part of R285, R293, R300, R396: a packet that a check fails changes nothing but HEAD, the record that is to be written with the first failing
check's status, and, without CONT_ON_ERR, the stream, which halts with that status; PACKET_FETCH refuses bytes that spell no command of R301 as
MALFORMED and otherwise presents the command that they spell; a packet that admission or a version holds stays at HEAD as a copy with its record
reserved, and the copy is checked again; a packet for a stream that is not open is left. While the device is fenced no packet is
accepted, and none whose context lacks the right that it needs.
Model's choices: an event that the state does not enable changes nothing (log 3). -/
def Obligations.PacketsRefused : Prop :=
  (∀ (i : Instr) (h : Hdr) (op : Op) (s : State) (g : Nat) (f : Nat × Nat × Nat), i.packet = some (h, op) → s.openStream h.ctx h.stream = some g →
    s.fetchable g = true → s.packetWaits g h op = false → s.packetFail g h op = some f →
    exec i s = .next (((s.refuse g h op f).recordNow).issuePoint (s.ctxPart h.ctx)).settle) ∧
  (∀ (s : State) (g : Nat) (h : Hdr) (op : Op) (f : Nat × Nat × Nat), s.fetchable g = true → f.1 ≠ 0x3A →
    ((s.refuse g h op f).strm g).head = (s.strm g).head + 1 ∧
    (s.refuse g h op f).cmds = s.cmds ++ [{ s.newCmd g h op with phase := .refused, atFetch := true, status := f.1, dkind := f.2.1, dindex := f.2.2 }] ∧
    ((s.refuse g h op f).strm g).halted = (if h.flags.getLsbD 5 then (s.strm g).halted else true) ∧
    (h.flags.getLsbD 5 = false → ((s.refuse g h op f).strm g).lastStatus = BitVec.ofNat 8 f.1) ∧
    (∀ k, k ≠ g → (s.refuse g h op f).strm k = s.strm k) ∧ (s.refuse g h op f).hbm = s.hbm ∧ (s.refuse g h op f).parts = s.parts ∧
    (s.refuse g h op f).blocks = s.blocks ∧ (s.refuse g h op f).pt = s.pt ∧ (s.refuse g h op f).beat = s.beat ∧
    (∀ c, c ≠ (s.strm g).ctx → (s.refuse g h op f).ctx c = s.ctx c)) ∧
  (∀ (s : State) (g b : Nat) (h : Hdr), s.fetchable g = true →
    packetOf (s.strm g).ctx (s.strm g).lstream
      (s.home (s.strm g).ctx ((s.strm g).off + (s.strm g).head.toNat % 2 ^ (s.strm g).log2 * 64) 64) = (h, .error b) →
    exec (.packetFetch g) s = .next ((((s.refuse g h .fence (stMalformed, 9, b)).updCmd s.nextId (fun y => { y with
      opcode := some (fld (s.home (s.strm g).ctx ((s.strm g).off + (s.strm g).head.toNat % 2 ^ (s.strm g).log2 * 64) 64) 0 1) })).recordNow).issuePoint
        (s.ctxPart (s.strm g).ctx)).settle) ∧
  (∀ (s : State) (g : Nat) (h : Hdr) (op : Op), (s.strm g).held = none →
    packetOf (s.strm g).ctx (s.strm g).lstream
      (s.home (s.strm g).ctx ((s.strm g).off + (s.strm g).head.toNat % 2 ^ (s.strm g).log2 * 64) 64) = (h, .ok op) →
    exec (.packetFetch g) s = .next (((s.fetchOp g h op).recordNow).issuePoint (s.ctxPart (s.strm g).ctx)).settle) ∧
  (∀ (s : State) (g : Nat) (q : Hdr × Op), (s.strm g).held = some q →
    exec (.packetFetch g) s = .next (((s.retryHeld g).recordNow).issuePoint (s.ctxPart (s.strm g).ctx)).settle ∧
    (s.packetWaits g q.1 q.2 = true → s.retryHeld g = s) ∧
    (s.takes g = true → s.packetWaits g q.1 q.2 = false → s.retryHeld g = (s.dropHeld g).checkPacket g q.1 q.2)) ∧
  (∀ (s : State) (g : Nat) (h : Hdr) (op : Op), s.fetchable g = true → s.packetWaits g h op = true →
    ((s.fetchOp g h op).strm g).held = some (h, op) ∧ ((s.fetchOp g h op).strm g).head = (s.strm g).head ∧
    (Tab.get {} ((s.fetchOp g h op).ctx (s.strm g).ctx).cq (s.strm g).cq).reserved = (Tab.get {} (s.ctx (s.strm g).ctx).cq (s.strm g).cq).reserved + 1 ∧
    (s.fetchOp g h op).cmds = s.cmds ∧ (s.fetchOp g h op).hbm = s.hbm) ∧
  (∀ (i : Instr) (h : Hdr) (op : Op) (s : State), i.packet = some (h, op) → s.openStream h.ctx h.stream = none → exec i s = .next s) ∧
  (∀ (s : State) (g : Nat) (h : Hdr) (op : Op), s.fenced = true → s.packetFail g h op ≠ none ∧ s.packetWaits g h op = false) ∧
  (∀ (s : State) (g : Nat) (h : Hdr) (op : Op), (s.ctx h.ctx).mayIssue h.ctx op = false → s.packetFail g h op ≠ none ∧ s.packetWaits g h op = false)

/-- Part of R267, R291, R302, R305, R318, R332: what the acceptance of a command does at once. STREAM_OPEN takes the lowest free global number for its
local one, reserved until its commit; PREEMPT requeues the target's running command that it may kill, discarding its staging,
and holds the target; PREEMPT RESUME ends the hold; CONTEXT_RESET orders the reset, which waits in the Dispatcher; SWITCH closes
admission of its partition; MODE_STAGE ARM arms its layout for its target, CANCEL disarms. -/
def Obligations.AcceptanceActs : Prop :=
  (∀ (s : State) (id c : Nat) (p : StreamOpenP), Tab.find ((s.onAccept id c (.streamOpen p)).ctx c).streams p.lstream = some s.freeStream ∧
    ((s.onAccept id c (.streamOpen p)).strm s.freeStream).reserved = true ∧ ((s.onAccept id c (.streamOpen p)).strm s.freeStream).isOpen = false ∧
    ((s.onAccept id c (.streamOpen p)).strm s.freeStream).prio = p.prio ∧ ((s.onAccept id c (.streamOpen p)).strm s.freeStream).log2 = p.ringLog2 ∧
    ((s.onAccept id c (.streamOpen p)).strm s.freeStream).off = p.ring ∧ (s.onAccept id c (.streamOpen p)).hbm = s.hbm ∧
    (p.defineCq = true → Tab.find ((s.onAccept id c (.streamOpen p)).ctx c).cq p.cq = some { defined := true, off := p.cqOff, log2 := p.cqLog2 })) ∧
  (∀ (s : State) (id c t hold : Nat) (x y : Cmd), s.cmds = [x, y] → y.id = id → x.id ≠ id → x.ctx = t → x.phase = .issued → x.shielded = false →
    y.phase = .accepted → (s.ctx t).reset = none →
    ∃ k z, (s.onAccept id c (.preempt t hold)).cmds = [k, z] ∧ k.phase = .accepted ∧ k.writes = [] ∧ k.kills = x.kills + 1 ∧ k.blocks = [] ∧
      z = { y with phase := .done, issueBeat := s.now } ∧ (s.onAccept id c (.preempt t hold)).hbm = s.hbm ∧
      ((s.onAccept id c (.preempt t hold)).ctx t).held = some (s.now + hold) ∧
      ((s.onAccept id c (.preempt t hold)).ctx t).heldForever = decide (hold = 0)) ∧
  (∀ (s : State) (id c t : Nat), ((s.onAccept id c (.preemptResume t)).ctx t).held = none ∧
    ((s.onAccept id c (.preemptResume t)).ctx t).heldForever = false ∧ ∀ d, d ≠ t → (s.onAccept id c (.preemptResume t)).ctx d = s.ctx d) ∧
  (∀ (s : State) (id c t : Nat), ∃ r, ((s.onAccept id c (.contextReset t)).ctx t).reset = some r ∧ r.cmd = some id ∧ r.destroy = false ∧ r.done = false ∧
    r.effectBeat = (if s.beat.windowOpen then s.beat.count.toNat + 1 else s.beat.count.toNat) ∧
    (∃ p ∈ (s.onAccept id c (.contextReset t)).purges, p.id = r.purge ∧ p.ctx = some t) ∧ (s.onAccept id c (.contextReset t)).hbm = s.hbm ∧
    ((s.onAccept id c (.contextReset t)).ctx t).gen = (s.ctx t).gen) ∧
  (∀ (s : State) (id c limit : Nat) (hold : Bool), ((s.onAccept id c (.wsSwitch hold limit)).part (s.ctxPart c)).sw =
      { (s.part (s.ctxPart c)).sw with
        closed := true, holdNew := hold, limit := limit, beatA := s.beat.count.toNat, cmd := id, drained := false } ∧
    (∀ n, n ≠ s.ctxPart c → (s.onAccept id c (.wsSwitch hold limit)).part n = s.part n)) ∧
  (∀ (s : State) (id c t : Nat) (e : BitVec 16), (s.onAccept id c (.modeArm e t)).pt.armed = some t ∧ (s.onAccept id c (.modeArm e t)).pt.state = 1 ∧
    (s.onAccept id c (.modeArm e t)).pt.epochNext = s.pt.epoch + 1 ∧ (s.onAccept id c (.modeArm e t)).pt.epoch = s.pt.epoch) ∧
  (∀ (s : State) (id c : Nat), (s.onAccept id c .modeCancel).pt.armed = none) ∧
  (∀ (s : State) (g : Nat) (h : Hdr), ((s.requestFlags g h).strm g).request =
    (if h.flags.getLsbD 4 then false else if h.flags.getLsbD 3 then true else (s.strm g).request))

/-- Part of R25, R49, R86, R140, R287, R288, R295, R298, R299, R326: at an issue point an accepted command of the Dispatcher's own is done, having written
nothing; a RUN whose blocks are free, whose budget fits and whose power is granted stands on every block of its group, at its first
instruction. The window of a beat in which one done command waits commits it: its staged bytes and census counts become visible, a SIGNAL changes its
one signal, and it leaves with the 32 bytes of its record in its ring, unless it is QUIET and ended with OK.
Model's choices: legs and capacities come as operands (log 14, 16). -/
def Obligations.IssueAndWindow : Prop :=
  (∀ (s : State) (pt t leg : Nat) (x : Cmd), s.cmds = [x] → x.phase = .accepted → s.ctxPart x.ctx = pt → s.ctxIssues x.ctx = true →
    ((∃ n v, x.op = .signalAdd n v) ∨ (∃ n v, x.op = .signalSet n v) ∨ (∃ d c, x.op = .censusRead d c) ∨ (∃ p, x.op = .accountRead p)) →
    ∃ u y, exec (.commandIssue pt t leg) s = .next u ∧ u.cmds = [y] ∧ y.phase = .done ∧ y.final = true ∧ y.writes = x.writes ∧ y.op = x.op ∧
      y.id = x.id ∧ u.hbm = s.hbm ∧ u.blocks = s.blocks ∧ u.census = s.census ∧ (u.ctx x.ctx).sig = (s.ctx x.ctx).sig ∧ u.beat.count = s.beat.count) ∧
  (∀ (s v : State) (pt t leg : Nat) (x : Cmd) (r : RunP) (p : Program), v = { s with beat := { s.beat with at_ := t, legCap := some leg } } →
    v.cmds = [x] → x.phase = .accepted → v.ctxPart x.ctx = pt → v.ctxIssues x.ctx = true → x.op = .run r →
    v.programOf x = some p → v.lostBlock (v.groupOf x) = none → v.unitsLag x (v.groupOf x) = false → v.enginesReady x (v.groupOf x) = true →
    v.unitRefuses x (v.groupOf x) = false → x.heldNow = false →
    p.budget ≤ budgetOf v.beat.periodCur.toNat v.beat.saddleCur.toNat (v.slowest (v.groupOf x)) → p.budget ≤ v.cyclesLeft (v.slowest (v.groupOf x)) →
    (∀ b ∈ v.groupOf x, (v.block b).run = none ∧ (v.block b).owner = some x.ctx) → v.spillJobs = [] → (v.groupOf x).Nodup →
    v.predicted (v.groupOf x) ≤ v.grantNow * 1000 →
    ∃ u y, exec (.commandIssue pt t leg) s = .next u ∧ u.cmds = [y] ∧ y.phase = .issued ∧ y.blocks = v.groupOf x ∧
      (∀ (k b : Nat), (v.groupOf x)[k]? = some b → (u.block b).run = some x.id ∧ (u.block b).pc = 0 ∧ (u.block b).ended = false ∧
        (u.block b).queue = [] ∧ (u.block b).idx[0]? = some 0 ∧ (u.block b).idx[1]? = some (BitVec.ofNat 32 k)) ∧
      (∀ b, b ∉ v.groupOf x → u.block b = s.block b) ∧ u.hbm = s.hbm) ∧
  (∀ (s : State) (x : Cmd) (o : WindowObs), s.Lone x → x.final = true → 1 ≤ s.beat.saddleCur.toNat →
    ((∃ p, x.op = .copy p) ∨ (∃ p, x.op = .fill p) ∨ x.op = .fence ∨ (∃ n l v, x.op = .wait n l v) ∨ (∃ n v, x.op = .signalAdd n v) ∨
      (∃ n v, x.op = .signalSet n v)) → x.sigs = [] →
    ∃ t, exec (.saddleWindowOpen o) s = .next t ∧ t.cmds = [] ∧ t.beat.windowOpen = true ∧ t.census = landCensus x.ctx x.census s.census ∧
      t.blocks = s.blocks ∧ t.parts = s.parts ∧ (∀ c, c ≠ x.ctx → t.ctx c = s.ctx c) ∧
      (t.ctx x.ctx).regions = (s.ctx x.ctx).regions ∧
      (∀ n, Tab.get 0 (t.ctx x.ctx).sig n = (match x.op with
        | .signalAdd m v => if n = m then Tab.get 0 (s.ctx x.ctx).sig n + v else Tab.get 0 (s.ctx x.ctx).sig n
        | .signalSet m v => if n = m then v else Tab.get 0 (s.ctx x.ctx).sig n
        | _ => Tab.get 0 (s.ctx x.ctx).sig n)) ∧
      (x.h.flags.getLsbD 1 = true → x.status = 0 → t.hbm = s.hbm.land x.writes) ∧
      ((x.h.flags.getLsbD 1 = false ∨ x.status ≠ 0) →
        t.hbm = Mem.regWrite ((s.ctx x.ctx).region 0) 0
          ((Tab.get {} (s.ctx x.ctx).cq x.cq).off + (Tab.get {} (s.ctx x.ctx).cq x.cq).prod.toNat % 2 ^ (Tab.get {} (s.ctx x.ctx).cq x.cq).log2 * 32)
          (s.hbm.land x.writes)
          (recordBytes x (x.opcode.getD x.op.code) (s.ctx x.ctx).gen
            ((Tab.get {} (s.ctx x.ctx).cq x.cq).prod.toNat / 2 ^ (Tab.get {} (s.ctx x.ctx).cq x.cq).log2 % 2 == 0) s.beat.count) ∧
        (Tab.get {} (t.ctx x.ctx).cq x.cq).prod = (Tab.get {} (s.ctx x.ctx).cq x.cq).prod + 1))

/-! ### Tile instructions (04, 05, 06) -/

/-- Part of R163, R176, R184 to R188: an MM, VEC, GATE, MOV or TQPOP at which a block's program stands issues when its queue has room and the
scoreboard can track it: the block goes on, the instruction stands at the end of the queues, and the engines run what they can; a
MOV that its region does not allow ends the RUN with REGION_FAULT; without room nothing happens. An instruction that finds the queues
empty and needs nothing more runs at once, unless it is a transfer with HBM, which ends by DMA_TRANSFER_END, while a stack of its region has
both its DMA engines held not even so.
Model's choices: an event that the state does not enable changes nothing (log 3). -/
def Obligations.EngineRowsIssue : Prop :=
  (∀ (i : Instr) (b : Nat) (ti : TI) (echo : Option Nat) (s : State) (x : Cmd) (p : Program) (w : Nat),
    i.engineRow = some (b, ti, echo) → s.Stands b ti x p w →
    ((s.block b).room ((s.block b).item w echo) = true ∧ (s.block b).tracks p ((s.block b).item w echo) = true →
      s.movFaults x ((s.block b).item w echo) = none →
      exec i s = .next (((s.setBlock b { (s.block b).next with queue := (s.block b).queue ++ [(s.block b).item w echo] }).pumpAll b).settle)) ∧
    ((s.block b).room ((s.block b).item w echo) = true ∧ (s.block b).tracks p ((s.block b).item w echo) = true →
      ∀ r, s.movFaults x ((s.block b).item w echo) = some r → exec i s = .next (s.endNow x.id 0x05 1 r).settle) ∧
    (¬ ((s.block b).room ((s.block b).item w echo) = true ∧ (s.block b).tracks p ((s.block b).item w echo) = true) →
      exec i s = .next s.settle)) ∧
  (∀ (i : Instr) (b : Nat) (ti : TI) (echo : Option Nat) (s : State) (x : Cmd) (p : Program) (w : Nat),
    i.engineRow = some (b, ti, echo) → s.Stands b ti x p w → (s.block b).queue = [] → (s.block b).tracks p ((s.block b).item w echo) = true →
    ((s.block b).item w echo).engine ≠ 2 →
    (s.setBlock b { (s.block b).next with queue := [(s.block b).item w echo] }).tiReady x p b ((s.block b).item w echo) = true →
    exec i s = .next ((s.setBlock b (s.block b).next).runTI x p b ((s.block b).item w echo)).settle) ∧
  (∀ (b kind : Nat) (m : MovF) (s : State) (x : Cmd) (p : Program) (q : QI), s.runOf b = some (x, p) → (s.block b).queue = [q] →
    q.ti = some (.mov kind m) → kind ≤ 3 →
    (s.dmaFree x q = true →
      exec (.dmaTransferEnd b) s = .next ((s.setBlock b { s.block b with queue := [] }).moveEnd x p b q kind m).settle) ∧
    (s.dmaFree x q = false → exec (.dmaTransferEnd b) s = .next s)) ∧
  (∀ (i : Instr) (b : Nat) (ti : TI) (echo : Option Nat) (s : State), i.engineRow = some (b, ti, echo) → s.fetchTI b = none → exec i s = .next s)

/-- Part of R167, R175, R299: the transfer of an LDB puts the region's bytes, in order, into the block store, and changes no other byte of it nor
anything but its block; the transfer of an STB leaves the block as it is and stages its bytes for the RUN's commit, seen by nobody yet.
Model's choices: undefined bytes are free (log 6). -/
def Obligations.TransfersMoveBytes : Prop :=
  (∀ (b : Nat) (m : MovF) (s : State) (x : Cmd) (p : Program) (q : QI), s.runOf b = some (x, p) → (s.block b).queue = [q] →
    q.ti = some (.mov 0 m) → s.dmaFree x q = true → movAligned m 0 q = true → p.inStore (movAddr m q) (64 * (m.count + 1)) = true →
    ∃ t, exec (.dmaTransferEnd b) s = .next t ∧ s.OnlyBlock t b ∧ (t.block b).queue = [] ∧ (t.block b).pc = (s.block b).pc ∧
      (t.block b).idx = (s.block b).idx ∧
      (∀ k, k < 64 * (m.count + 1) → (t.block b).bs.read ((movAddr m q).toNat + k) =
        s.runByte x b (((s.ctx x.ctx).region m.aux).key (s.runBuf x ((s.ctx x.ctx).region m.aux)) ((movOffset m q).toNat + k))) ∧
      (∀ a, (a < (movAddr m q).toNat ∨ (movAddr m q).toNat + 64 * (m.count + 1) ≤ a) → (t.block b).bs.read a = (s.block b).bs.read a)) ∧
  (∀ (b : Nat) (m : MovF) (s : State) (x : Cmd) (p : Program) (q : QI), s.runOf b = some (x, p) → s.cmds = [x] → (s.block b).queue = [q] →
    q.ti = some (.mov 1 m) → s.dmaFree x q = true → movAligned m 1 q = true → p.inStore (movAddr m q) (64 * (m.count + 1)) = true → 0 ≤ movOffset m q →
    (∀ o, s.drops x m.aux o = false) →
    ∃ t y, exec (.dmaTransferEnd b) s = .next t ∧ t.block b = { s.block b with queue := [] } ∧ (∀ c, c ≠ b → t.block c = s.block c) ∧
      t.cmds = [y] ∧ y.id = x.id ∧ y.phase = x.phase ∧ t.ctxs = s.ctxs ∧ t.parts = s.parts ∧ (∀ z ∈ x.writes, z ∈ y.writes) ∧
      ∀ k, k < 64 * (m.count + 1) → ∃ z ∈ y.writes, z.val = (s.block b).bs.read ((movAddr m q).toNat + k) ∧ z.blk = b ∧ z.lvl = 0 ∧
        z.addr = ((s.ctx x.ctx).region m.aux).key (s.runBuf x ((s.ctx x.ctx).region m.aux)) ((movOffset m q).toNat + k))

/-- Part of R67, R74, R131, R144 to R151: the value of each vector operation at an element. The arithmetic operations are exact before the one
rounding of their destination; an invalid operand gives an invalid result; comparisons give 1 or 0; RELU keeps what is not negative;
the operations of R149 have the edges stated there. A reduction of an invalid element is invalid. OCC sets the bits of the elements
that are not zero. GATE keeps the K first candidates. A VEC of one element of the block store writes the rounded code of its value there, and
no other byte. -/
def Obligations.VectorElements : Prop :=
  (∀ (m sd i : Nat) (a b c : Exact) (u w z : Fp), a.v = some u → b.v = some w → c.v = some z →
    vecOp 0x01 m sd i a b c = a ∧ (vecOp 0x02 m sd i a b c).v = some (u.add w) ∧ (vecOp 0x03 m sd i a b c).v = some (u.add w.negate) ∧
    (vecOp 0x04 m sd i a b c).v = some (u.mul w) ∧ (vecOp 0x05 m sd i a b c).v = some ((u.mul w).add z) ∧
    (vecOp 0x08 m sd i a b c).v = some { neg := false, mag := (if cmpHolds m a.v b.v then 1 else 0), e := 0 } ∧
    (vecOp 0x09 m sd i a b c).v = (if z.isZero then b.v else a.v) ∧ (vecOp 0x0A m sd i a b c).v = some { u with neg := false } ∧
    (vecOp 0x0B m sd i a b c).v = some u.negate ∧ (vecOp 0x23 m sd i a b c).v = some (w.mul u) ∧
    (u.neg = true → (vecOp 0x1A m sd i a b c).v = some Fp.zero) ∧ (u.neg = false → (vecOp 0x1A m sd i a b c).v = some u) ∧
    (u.neg = false → u.isZero = false → (vecOp 0x22 m sd i a b c).v = b.v) ∧
    (u.neg = true ∨ u.isZero = true → (vecOp 0x22 m sd i a b c).v = some Fp.zero)) ∧
  (∀ (op m sd i : Nat) (a b c : Exact), op ∈ [1, 2, 3, 4, 5, 6, 7, 10, 11, 16, 17, 18, 19, 20, 24, 25, 26, 27, 32, 33, 34, 35, 36, 37] → a.v = none →
    (vecOp op m sd i a b c).v = none) ∧
  (∀ (m sd i : Nat) (a b c : Exact) (u : Fp), a.v = some u →
    (u.neg = true ∨ u.isZero = true → (vecOp 0x11 m sd i a b c).v = none) ∧
    (u.isZero = true → (vecOp 0x12 m sd i a b c).v = some (w40Max u.neg) ∧ (vecOp 0x13 m sd i a b c).v = some (w40Max false) ∧
      (vecOp 0x14 m sd i a b c).v = some u) ∧
    (u.isZero = false → u.neg = true → (vecOp 0x13 m sd i a b c).v = none ∧ (vecOp 0x14 m sd i a b c).v = none)) ∧
  (∀ (op sd i : Nat) (l : List Exact), op = 0x28 ∨ op = 0x29 → (∃ x ∈ l, x.v = none) → (reduceOp op sd i l none).v = none) ∧
  (∀ (sd i : Nat) (f : Fmt), ∃ n k, (randOp 0x30 sd i f).v = some { neg := false, mag := n, e := -k } ∧ (n : Int) < 2 ^ k.toNat) ∧
  (∀ (x : Nat → Exact) (n e : Nat), e < n → ∃ y, (occBytes x n)[e / 8]? = some y ∧
    (y.getLsbD (e % 8) = true ↔ ∃ v, (x e).v = some v ∧ v.isZero = false)) ∧
  (∀ (k : Nat) (l : List Cand), (topCands k l).length = Nat.min k l.length ∧ ∀ c ∈ topCands k l, c ∈ l) ∧
  (∀ (b : Block) (p : Program) (sd : Nat) (q : QI) (op : Nat) (v : VecF) (d : VOp) (src : List VOp), vecOperands p q op v = (d, src) → op ≠ 0x38 →
    d.d.space = .bs → d.d.tile = false → d.d.rows = 1 → d.d.cols = 1 → d.inside p = true → (∀ o ∈ src, o.inside p = true ∧ d.clashes o = false) →
    (b.vec p sd q op v).1.bs.readN d.base.toNat d.d.fmt.size =
      leBytes d.d.fmt.size (d.d.fmt.write (rndAt v.rnd (sd + 5) 0) (vecValue b op v sd d src 0 0)).code ∧
    (∀ a, (a < d.base.toNat ∨ d.base.toNat + d.d.fmt.size ≤ a) → (b.vec p sd q op v).1.bs.read a = b.bs.read a) ∧
    (b.vec p sd q op v).1.queue = b.queue ∧ (b.vec p sd q op v).1.pc = b.pc ∧ (b.vec p sd q op v).1.tq = b.tq)

/-- Part of R182, R183, R190: the CTL instructions that write an index register write the value of R182 there, wrapping, leave every other
register and go on; BUDGET only goes on; LOOP takes its count once, sets its register to 0, and enters the body when the count is at
least 1, else goes on after it; at the end of a pass the register counts up and the body begins anew while passes are left. Outside a
loop going on is one instruction further. -/
def Obligations.ControlInstructions : Prop :=
  (∀ (s : State) (i : Instr) (ti : TI) (b dst sa sb : Nat) (imm v : BitVec 32) (x : Cmd) (p : Program) (w : Nat),
    ((i = .seti b dst imm ∧ ti = .ctl 3 dst 0 0 imm 0 ∧ v = imm) ∨
      (i = .addi b dst sa imm ∧ ti = .ctl 4 dst sa 0 imm 0 ∧ v = ((s.block b).idx[sa]?).getD 0 + imm) ∨
      (i = .muli b dst sa imm ∧ ti = .ctl 5 dst sa 0 imm 0 ∧ v = ((s.block b).idx[sa]?).getD 0 * imm) ∨
      (i = .madd b dst sa sb imm ∧ ti = .ctl 6 dst sa sb imm 0 ∧ v = ((s.block b).idx[sa]?).getD 0 * imm + ((s.block b).idx[sb]?).getD 0) ∨
      (i = .divi b dst sa imm ∧ ti = .ctl 7 dst sa 0 imm 0 ∧ 1 ≤ imm.toInt ∧
        v = BitVec.ofInt 32 (Int.fdiv (((s.block b).idx[sa]?).getD 0).toInt imm.toInt)) ∨
      (i = .modi b dst sa imm ∧ ti = .ctl 8 dst sa 0 imm 0 ∧ 1 ≤ imm.toInt ∧
        v = BitVec.ofInt 32 ((((s.block b).idx[sa]?).getD 0).toInt - imm.toInt * Int.fdiv (((s.block b).idx[sa]?).getD 0).toInt imm.toInt))) →
    s.Stands b ti x p w → (∀ l ∈ (s.block b).loops, l.dst ≠ dst) → dst < (s.block b).idx.length →
    ∃ t, exec i s = .next t ∧ s.OnlyBlock t b ∧ (t.block b).idx[dst]? = some v ∧ (t.block b).bs = (s.block b).bs ∧ (t.block b).queue = (s.block b).queue ∧
      ((s.block b).loops = [] → (t.block b).pc = (s.block b).pc + 1 ∧ (t.block b).loops = [] ∧
        ∀ n, n ≠ dst → (t.block b).idx[n]? = (s.block b).idx[n]?)) ∧
  (∀ (s : State) (b : Nat) (imm : BitVec 32) (x : Cmd) (p : Program) (w : Nat), s.Stands b (.ctl 1 0 0 0 imm 0) x p w →
    exec (.budget b imm) s = .next (s.setBlock b (s.block b).next).settle) ∧
  (∀ (s : State) (b dst sa body n : Nat) (imm : BitVec 32) (x : Cmd) (p : Program) (w : Nat), s.Stands b (.ctl 2 dst sa 0 imm body) x p w →
    (imm + ((s.block b).idx[sa]?).getD 0).toInt = n → (s.block b).loops = [] → dst < (s.block b).idx.length →
    ∃ t, exec (.loop b dst sa imm body) s = .next t ∧ s.OnlyBlock t b ∧ (t.block b).idx[dst]? = some 0 ∧
      (n = 0 → (t.block b).pc = (s.block b).pc + 1 + body ∧ (t.block b).loops = []) ∧
      (1 ≤ n → (t.block b).pc = (s.block b).pc + 1 ∧
        (t.block b).loops = [{ first := (s.block b).pc + 1, stop := (s.block b).pc + 1 + body, left := n - 1, dst := dst }])) ∧
  (∀ (s : State) (b dst sa body : Nat) (imm : BitVec 32) (x : Cmd) (p : Program) (w : Nat), s.Stands b (.ctl 2 dst sa 0 imm body) x p w →
    (imm + ((s.block b).idx[sa]?).getD 0).toInt < 0 → (s.block b).loops = [] →
    ∃ t, exec (.loop b dst sa imm body) s = .next t ∧ s.OnlyBlock t b ∧ (t.block b).pc = (s.block b).pc + 1 + body) ∧
  (∀ (k : Block) (l : LoopSt), k.loops = [l] → k.pc + 1 = l.stop → l.dst < k.idx.length →
    k.next.idx[l.dst]? = some ((k.idx[l.dst]?).getD 0 + 1) ∧
    (0 < l.left → k.next.pc = l.first ∧ k.next.loops = [{ l with left := l.left - 1 }]) ∧ (l.left = 0 → k.next.pc = l.stop ∧ k.next.loops = [])) ∧
  (∀ k : Block, k.loops = [] → k.next = { k with pc := k.pc + 1 })

/-- Part of R167, R177 to R179, R189: TQWAIT, FENCE and LAND go on once what they wait for is there, and change nothing before; FENCE of
stores lets their own block see them; BAR holds each block until the last of the group arrives, which lets all go on and every block see
what was fenced; LAND
puts the landed bytes into the block store; END ends the block once it has nothing left.
Model's choices: undefined bytes are free (log 6). -/
def Obligations.SyncInstructions : Prop :=
  (∀ (s : State) (b a : Nat) (x : Cmd) (p : Program) (w : Nat), s.Stands b (.sync 1 a 0) x p w →
    ((∀ q ∈ (s.block b).queue, q.engine ≠ 1) ∧ a + 1 ≤ (s.block b).tq.length → exec (.tqwait b a) s = .next (s.setBlock b (s.block b).next).settle) ∧
    (¬ ((∀ q ∈ (s.block b).queue, q.engine ≠ 1) ∧ a + 1 ≤ (s.block b).tq.length) → exec (.tqwait b a) s = .next s.settle)) ∧
  (∀ (s : State) (b mask : Nat) (x : Cmd) (p : Program) (w : Nat), s.Stands b (.sync 2 mask 0) x p w →
    ((∀ n, n < 6 → bitOf mask n = true → s.quiet x b n = true) →
      exec (.syncFence b mask) s = .next (if bitOf mask 1 then (s.setBlock b (s.block b).next).updCmd x.id (fun y => { y with
        writes := y.writes.map (fun z => if z.blk = b ∧ z.lvl = 0 then { z with lvl := 1 } else z) }) else s.setBlock b (s.block b).next).settle) ∧
    ((∃ n, n < 6 ∧ bitOf mask n = true ∧ s.quiet x b n = false) → exec (.syncFence b mask) s = .next s.settle)) ∧
  (∀ (s : State) (b c : Nat) (x : Cmd) (p : Program) (w : Nat), s.Stands b (.sync 3 0 0) x p w → x.blocks = [b, c] → b ≠ c →
    (s.block b).barWait = false → (s.block b).loops = [] →
    ((s.block c).bars = (s.block b).bars + 1 → (s.block c).barWait = true → (s.block c).loops = [] →
      ∃ t, exec (.bar b) s = .next t ∧ t.block b = { s.block b with bars := (s.block b).bars + 1, pc := (s.block b).pc + 1 } ∧
        t.block c = { s.block c with barWait := false, pc := (s.block c).pc + 1 } ∧ (∀ d, d ≠ b → d ≠ c → t.block d = s.block d) ∧
        (∀ y ∈ t.cmds, y.id = x.id → ∀ z ∈ y.writes, z.lvl ≠ 1) ∧ t.hbm = s.hbm) ∧
    ((s.block c).bars = (s.block b).bars →
      exec (.bar b) s = .next (s.setBlock b { s.block b with bars := (s.block b).bars + 1, barWait := true }).settle)) ∧
  (∀ (s : State) (b ch : Nat) (x : Cmd) (p : Program) (w : Nat), s.Stands b (.sync 5 ch 0) x p w →
    ((∀ a, (s.chan b (x.ctx * 64 + ch)).oldest = some a → a.complete = false) → exec (.land b ch) s = .next s.settle) ∧
    (∀ a, (s.chan b (x.ctx * 64 + ch)).oldest = some a → a.complete = true → (∀ u, ((Tab.get (zeros 64) a.staged u)).length = 64) →
      ∃ t, exec (.land b ch) s = .next t ∧ s.OnlyBlock t b ∧ (t.block b).bs.readN a.addr (64 * a.units) = a.bytes ∧
        (∀ k, k < a.addr ∨ a.addr + 64 * a.units ≤ k → (t.block b).bs.read k = (s.block b).bs.read k) ∧
        ((s.block b).loops = [] → (t.block b).pc = (s.block b).pc + 1))) ∧
  (∀ (s : State) (b : Nat) (x : Cmd) (p : Program) (w : Nat), s.Stands b (.ctl 0 0 0 0 0 0) x p w →
    ((s.block b).queue = [] → (s.block b).drain = none → x.passIdle b = true →
      exec (.ctlEnd b) s = .next (s.setBlock b { s.block b with tq := [], ended := true }).settle) ∧
    ((s.block b).queue ≠ [] ∨ (s.block b).drain ≠ none ∨ x.passIdle b = false → ∃ t, exec (.ctlEnd b) s = .next t ∧ (t.block b).ended = false))

/-- Part of R79, R111, R114, R116, R189: a finished tile leaves the drain buffer for the tile queue while an entry is free, at its end, or adds into its fold
slot; with no free entry it stays. A block's done acknowledgement counts once its program has ended; with the last of the group the RUN is
done, with the most cycles that any block took, and its blocks are free for the next RUN. -/
def Obligations.DrainsAndAcks : Prop :=
  (∀ (s : State) (b : Nat) (x : Cmd) (p : Program) (d : Drain), s.runOf b = some (x, p) → (s.block b).drain = some d → d.cks = false →
    (s.block b).queue = [] →
    (d.toFold = false → (s.block b).tq.length + p.work < 8 →
      ∃ t, exec (.drainEnd b []) s = .next t ∧ t.block b = { s.block b with drain := none, tq := ((s.block b).tq ++ [tileMem ((List.range 4096).map (fun e =>
        BitVec.ofNat 40 (Fmt.w40.write .rne { v := (w40At d.tile e).v }).code))]) } ∧ (∀ c, c ≠ b → t.block c = s.block c) ∧ t.hbm = s.hbm) ∧
    (d.toFold = false → 8 ≤ (s.block b).tq.length + p.work → exec (.drainEnd b []) s = .next s) ∧
    (d.toFold = true → ∃ t l, exec (.drainEnd b []) s = .next t ∧
      l = foldValues d.rnd s.fresh d.init ((s.block b).slot d.slot).view d ((List.range 4096).map (fun e => (w40At d.tile e).v)) ∧
      (t.block b).drain = none ∧ ((t.block b).slot d.slot).working = tileMem (l.map (·.1)) ∧ ((t.block b).slot d.slot).written = true ∧
      ((t.block b).slot d.slot).committed = ((s.block b).slot d.slot).committed ∧ (t.block b).tq = (s.block b).tq ∧ t.hbm = s.hbm)) ∧
  (∀ (s : State) (b n : Nat) (x : Cmd) (p : Program), s.runOf b = some (x, p) → (s.block b).ended = true → (s.block b).acked = false → s.cmds = [x] →
    ((∀ c ∈ x.blocks, c ≠ b → (s.block c).acked = true) → x.blocks.Nodup → b ∈ x.blocks →
      ∃ t y, exec (.blockDoneAck b n) s = .next t ∧ t.cmds = [y] ∧ y.phase = .done ∧ y.final = true ∧ y.cycles = Nat.max x.cycles n ∧
        (∀ c ∈ x.blocks, (t.block c).run = none ∧ (t.block c).queue = []) ∧ t.hbm = s.hbm) ∧
    ((∃ c ∈ x.blocks, c ≠ b ∧ (s.block c).acked = false) →
      ∃ t y, exec (.blockDoneAck b n) s = .next t ∧ t.cmds = [y] ∧ y.phase = x.phase ∧ y.cycles = Nat.max x.cycles n ∧ (t.block b).acked = true ∧
        (t.block b).run = (s.block b).run)) ∧
  (∀ (s : State) (b n : Nat) (x : Cmd) (p : Program), s.runOf b = some (x, p) → (s.block b).ended = false ∨ (s.block b).acked = true →
    exec (.blockDoneAck b n) s = .next s)

/-! ### Beat edges (02), recovery (13) and the recorder (15) -/

/-- Part of R30, R32 to R41, R43, R49, R56: BEAT_EDGE ends the beat and begins the next one; in hold the counter goes on and no more. Under EXT in the
run phase an edge on BEAT_IN within the tolerance does so and re-phases the timer, an earlier one only counts in BEAT_EARLY, and a later
one is ignored; without an edge from outside the timer makes it, which counts in BEAT_MISS, and loses the source when HOLDOVER_MAX are
missed in a row. The edge at which a change of source takes effect is the timer's, and counts as none. Under LINK a marker on SRC_PORT
makes the edge and brings its number, and one before the tolerance counts in BEAT_EARLY; another marker with the right number and offset
is answered and changes nothing else; one with a wrong number or offset counts.
Model's choices: what the device measures and finds comes as operands (log 4). -/
def Obligations.EdgesBeginBeats : Prop :=
  (∀ (s : State) (o : EdgeObs), s.crest.powered = true → s.phase ≠ .hold → ∃ u, s.Begins u s.beat.alignTo false ∧
    exec (.beatEdge o) s = .next ({ u.begun with beat := { u.begun.beat with holdoverRun := 0 } } : State).settle) ∧
  (∀ (s : State) (o : EdgeObs), s.crest.powered = true → s.phase = .hold → ∃ t, exec (.beatEdge o) s = .next t ∧ t.beat.windowOpen = false ∧
    (s.beat.alignTo = none → t.beat.count = s.beat.count + 1) ∧ t.dies = s.dies ∧ t.blocks = s.blocks ∧ t.hbm = s.hbm ∧ t.cmds = s.cmds ∧
    t.ctxs = s.ctxs ∧ t.lnk = s.lnk) ∧
  (∀ (s : State) (off : Int) (o : EdgeObs), s.crest.powered = true → s.phase = .run → s.beat.srcAct = 0 → s.beat.src = 0 →
    -(s.beat.tolIn.toNat * 10 : Int) ≤ off → off ≤ (s.beat.tolIn.toNat * 10 : Int) → ∃ u, s.Begins u s.beat.alignTo false ∧
    exec (.beatInEdge off o) s = .next ({ u.begun with beat := { u.begun.beat with holdoverRun := 0, phaseErr := off } } : State).settle) ∧
  (∀ (s : State) (off : Int) (o : EdgeObs), s.crest.powered = true → s.phase = .run → s.beat.srcAct = 0 → s.beat.src = 0 →
    off < -(s.beat.tolIn.toNat * 10 : Int) →
    exec (.beatInEdge off o) s = .next { s with beat := { s.beat with early := sat32 s.beat.early 1 } }) ∧
  (∀ (s : State) (off : Int) (o : EdgeObs), (s.beat.src ≠ s.beat.srcAct ∨ s.beat.srcAct ≠ 0 ∨ (s.beat.tolIn.toNat * 10 : Int) < off) →
    exec (.beatInEdge off o) s = .next s) ∧
  (∀ (s : State) (o : EdgeObs), s.crest.powered = true → s.phase ≠ .hold → s.beat.srcAct ≠ 2 → (s.phase ≠ .run ∨ s.beat.src ≠ s.beat.srcAct) →
    ∃ u, s.Begins u s.beat.alignTo false ∧
      exec (.holdoverEdge o) s = .next ({ u.begun with beat := { u.begun.beat with holdoverRun := 0 } } : State).settle ∧
      u.beat.miss = s.beat.miss) ∧
  (∀ (s : State) (o : EdgeObs), s.crest.powered = true → s.phase = .run → s.beat.srcAct ≠ 2 → s.beat.src = s.beat.srcAct →
    ∃ u, s.Begins u s.beat.alignTo true ∧ exec (.holdoverEdge o) s = .next u.begun.settle ∧ u.beat.miss = sat32 s.beat.miss 1 ∧
      u.beat.holdoverRun = s.beat.holdoverRun + 1 ∧
      (u.beat.lost = true ↔ s.beat.lost = true ∨ Nat.max 1 s.beat.holdoverMax.toNat ≤ s.beat.holdoverRun + 1)) ∧
  (∀ (s : State) (p : Nat) (off : Int) (num : W64) (o : EdgeObs), s.crest.powered = true → (s.port p).state = 3 → s.beat.srcAct = 1 →
    s.beat.src = 1 → s.beat.srcPort.toNat = p → s.phase = .run → -(s.beat.tolIn.toNat * 10 : Int) ≤ off → off ≤ (s.beat.tolIn.toNat * 10 : Int) →
    ∃ u, s.Begins u (some num) false ∧
      exec (.beatMarker p off num o) s = .next ({ u.begun with beat := { u.begun.beat with holdoverRun := 0 } } : State).settle) ∧
  (∀ (s : State) (p : Nat) (off : Int) (num : W64) (o : EdgeObs), s.crest.powered = true → (s.port p).state = 3 → s.beat.srcAct = 1 →
    s.beat.src = 1 → s.beat.srcPort.toNat = p → s.phase = .run → off < -(s.beat.tolIn.toNat * 10 : Int) →
    ∃ t, exec (.beatMarker p off num o) s = .next t ∧ t.beat.early = sat32 s.beat.early 1 ∧ t.beat.count = s.beat.count ∧ t.cmds = s.cmds ∧
      t.hbm = s.hbm) ∧
  (∀ (s : State) (p : Nat) (off : Int) (num : W64) (o : EdgeObs), s.crest.powered = true → (s.port p).state = 3 →
    (s.beat.srcAct ≠ 1 ∨ s.beat.srcPort.toNat ≠ p) → -(s.beat.markTol.toNat * 10 : Int) ≤ off → off ≤ (s.beat.markTol.toNat * 10 : Int) →
    num.toNat = (if off < 0 then s.beat.count.toNat + 1 else s.beat.count.toNat) →
    exec (.beatMarker p off num o) s = .next (s.hopTake p 0x03 (s.port p).lseqRx 1).settle) ∧
  (∀ (s : State) (p : Nat) (off : Int) (num : W64) (o : EdgeObs), s.crest.powered = true → (s.port p).state = 3 →
    (s.beat.srcAct ≠ 1 ∨ s.beat.srcPort.toNat ≠ p) → -(s.beat.markTol.toNat * 10 : Int) ≤ off → off ≤ (s.beat.markTol.toNat * 10 : Int) →
    num.toNat ≠ (if off < 0 then s.beat.count.toNat + 1 else s.beat.count.toNat) →
    ∃ t, exec (.beatMarker p off num o) s = .next t ∧ t.beat.cntErr = sat32 s.beat.cntErr 1 ∧ t.beat.markErr = s.beat.markErr ∧
      t.beat.count = s.beat.count ∧ p ∈ t.beat.markSeen ∧ t.cmds = s.cmds ∧ t.hbm = s.hbm) ∧
  (∀ (s : State) (p : Nat) (off : Int) (num : W64) (o : EdgeObs), s.crest.powered = true → (s.port p).state = 3 →
    (s.beat.srcAct ≠ 1 ∨ s.beat.srcPort.toNat ≠ p) → (off < -(s.beat.markTol.toNat * 10 : Int) ∨ (s.beat.markTol.toNat * 10 : Int) < off) →
    ∃ t, exec (.beatMarker p off num o) s = .next t ∧ t.beat.markErr = sat32 s.beat.markErr 1 ∧ t.beat.count = s.beat.count ∧
      p ∈ t.beat.markSeen ∧ t.cmds = s.cmds ∧ t.hbm = s.hbm)

/-- Part of R55, R201, R268, R297, R332, R380: the limits that run out. A held context is held no longer once its beat is over; a hung command is counted,
its engines get a purge order, and it ends with TIMEOUT, holding no block and no staged byte; a WAIT, a held OPTSTEP and a SWITCH whose limits have passed end
with WAIT_TIMEOUT, VERSION_BUSY and DRAIN_TIMEOUT.
Model's choices: an event that the state does not enable changes nothing (log 3). -/
def Obligations.LimitsRunOut : Prop :=
  (∀ (s : State) (c n : Nat), (s.ctx c).held = some n → n < s.beat.count.toNat → (s.ctx c).heldForever = false →
    exec (.heldExpiry c) s = .next (({ s with ctxs := (Tab.set s.ctxs c { s.ctx c with held := none }) } : State).issuePoint (s.ctxPart c)).settle) ∧
  (∀ (s : State) (id : Nat) (x : Cmd), s.cmd id = some x → s.hung x = true → s.bist.ready = true →
    exec (.commandHang id) s = .next ((s.hang x).lateWindow).settle) ∧
  (∀ (s : State) (x : Cmd), s.cmds = [x] → x.drains = false → x.h.flags.getLsbD 5 = false →
    ∃ y, (s.hang x).cmds = [y] ∧ y.id = x.id ∧ y.phase = .refused ∧ y.status = 0x08 ∧ y.writes = [] ∧ y.blocks = [] ∧
      (s.hang x).beat.hung = sat32 s.beat.hung 1 ∧ ((s.hang x).strm x.strm).halted = true ∧ ((∀ p, x.op ≠ .optstep p) → (∀ p, x.op ≠ .reduce p ∧ x.op ≠ .gather p ∧ x.op ≠ .broadcast p) → (s.hang x).hbm = s.hbm) ∧
      (∃ p ∈ (s.hang x).purges, p.cmd = some x.id ∧ p.owed = s.enginesOf x ∧ p.beat = s.beat.count.toNat) ∧
      ∀ b ∈ x.blocks, ((s.hang x).block b).run ≠ some x.id) ∧
  (∀ (s : State) (x : Cmd) (g limit : Nat) (v : W64), s.cmds = [x] → x.op = .wait g limit v → x.phase = .accepted → limit ≠ 0 →
    x.acceptBeat + limit ≤ s.beat.count.toNat → (Tab.get 0 (s.ctx x.ctx).sig g).toNat < v.toNat →
    ∃ t y, exec (.waitTimeout x.id) s = .next t ∧ t.cmds = [y] ∧ y.id = x.id ∧ y.phase = .refused ∧ y.status = 0x38 ∧ t.hbm = s.hbm ∧
      (∀ c, (t.ctx c).sig = (s.ctx c).sig ∧ (t.ctx c).regions = (s.ctx c).regions ∧ (t.ctx c).state = (s.ctx c).state) ∧ t.beat = s.beat ∧
      (t.strm x.strm).halted = ((s.strm x.strm).halted || !x.h.flags.getLsbD 5)) ∧
  (∀ (s : State) (x : Cmd) (p : OptP), s.cmds = [x] → x.op = .optstep p → x.phase = .accepted → x.heldNow = true → p.waitLimit ≠ 0 →
    x.acceptBeat + p.waitLimit ≤ s.beat.count.toNat →
    ∃ t y, exec (.versionBusy x.id) s = .next t ∧ t.cmds = [y] ∧ y.id = x.id ∧ y.phase = .refused ∧ y.status = 0x23 ∧ (x.issuedOnce = false → t.hbm = s.hbm) ∧
      (t.weight (bindWreg p.step)).v = (s.weight (bindWreg p.step)).v) ∧
  (∀ (s : State) (pt : Nat) (x : Cmd), s.cmd (s.part pt).sw.cmd = some x → (s.part pt).sw.closed = true → (s.part pt).sw.drained = false →
    s.beat.windowOpen = true → (s.part pt).sw.beatA + (s.part pt).sw.limit ≤ s.beat.count.toNat + 1 →
    exec (.drainTimeout pt) s = .next ((s.endWith x.id 0x29 0 0).lateWindow).settle)

/-- Part of R322, R378, R381, R386 to R388: a purge acknowledgement takes its engine off those that owe one; an engine that is not essential and whose
acknowledgement is two beats late is quarantined, with what runs on it ended and the purge no longer waiting for it, and an essential one, or a
second beat edge in a row that is not acknowledged, orders a warm reset; a lagging unit that reports ready is to latch at the next edge.
Model's choices: what the device measures and finds comes as operands (log 4). -/
def Obligations.EnginesAnswer : Prop :=
  (∀ (s : State) (id e : Nat), s.beat.windowOpen = false →
    ∃ t, exec (.purgeAck id e) s = .next t ∧
      t.purges = s.purges.map (fun p => if p.id = id then { p with owed := p.owed.filter (· != e) } else p) ∧ t.cmds = s.cmds ∧ t.hbm = s.hbm ∧
      t.quarantined = s.quarantined ∧ t.ctxs = s.ctxs) ∧
  (∀ (s : State) (id e : Nat) (p : Purge), p ∈ s.purges → p.id = id → e ∈ p.owed → s.beat.windowOpen = true → p.beat + 2 ≤ s.beat.count.toNat →
    (s.essential e = false → exec (.quarantine id e) s = .next ((s.quarantine e).lateWindow).settle) ∧
    (s.essential e = true → exec (.quarantine id e) s = .next (s.warmReset 0).settle)) ∧
  (∀ (s : State) (e : Nat), e ∈ (s.quarantine e).quarantined ∧ (∀ p ∈ (s.quarantine e).purges, e ∉ p.owed) ∧
    (s.onEngine e = [] → e < 0x200 → (s.quarantine e).cmds = s.cmds ∧ (s.quarantine e).hbm = s.hbm)) ∧
  (∀ s : State, s.bist.ready = true →
    ((s.missedEdge = 0 ∨ s.missedEdge ≠ s.beat.count.toNat) → exec .edgeAckMiss s = .next { s with missedEdge := s.beat.count.toNat + 1 }) ∧
    (s.missedEdge ≠ 0 → s.missedEdge = s.beat.count.toNat → exec .edgeAckMiss s = .next (s.warmReset 0).settle)) ∧
  (∀ (s : State) (u : Nat), s.pt.lag.getLsbD u = true → u ∉ s.pt.unitReady →
    exec (.unitReady u) s = .next { s with pt := { s.pt with unitReady := s.pt.unitReady ++ [u] } })

/-- R463: after a claim that returns a source IDLE is clear, and the target's line is held low exactly where its HOLDOFF is not 0; setting
IDLE ends any holdoff at once; no step lets a holdoff apply while IDLE is set; the end of the holdoff's time lets the line go. -/
def Obligations.HoldoffRule : Prop :=
  (∀ (s : State) (t n : Nat), s.hostUp = true → t < 64 → s.irq.isPending n = true → s.irq.isMasked n = false → s.irq.routed n t = true →
    ∃ u, exec (.irqTgtClaim 0 t) s = .next u ∧ (u.irq.target t).idle = false ∧ ((u.irq.target t).held = true ↔ (s.irq.target t).holdoff ≠ 0) ∧
      ((u.irq.target t).held = true → (u.irq.target t).line = false)) ∧
  (∀ (s : State) (t : Nat), s.hostUp = true → t < 64 →
    ∃ u, exec (.irqTgtIdle 0 t) s = .next u ∧ (u.irq.target t).idle = true ∧ (u.irq.target t).held = false ∧
      ((u.irq.target t).line = true ↔ u.irq.Demands t)) ∧
  (∀ s u : State, (∀ t, (s.irq.target t).idle = true → (s.irq.target t).held = false) → step s = .next u →
    ∀ t, (u.irq.target t).idle = true → (u.irq.target t).held = false) ∧
  (∀ (s : State) (t : Nat), t < 64 → (s.irq.target t).held = true →
    ∃ u, exec (.holdoffEnd t) s = .next u ∧ (u.irq.target t).held = false ∧ (u.irq.target t).holdoff = (s.irq.target t).holdoff ∧
      ((u.irq.target t).line = true ↔ u.irq.Demands t))

/-- R180: SIGNAL acts on the block with group ordinal 0 alone, where it is kept for the commit; on every other block it only goes on. At
the RUN's commit every SIGNAL kept adds its value, wrapping, to the signal that it names, once, and no other signal of the context
changes. -/
def Obligations.SignalAtCommit : Prop :=
  (∀ (s : State) (b n : Nat) (v : BitVec 32) (x : Cmd) (p : Program) (w : Nat), s.Stands b (.sync 4 n v) x p w →
    ((s.block b).ordinal = 0 → exec (.syncSignal b n v) s = .next ((s.setBlock b (s.block b).next).updCmd x.id (fun y => { y with
      sigs := y.sigs ++ [(n, v.zeroExtend 64)] })).settle) ∧
    ((s.block b).ordinal ≠ 0 → exec (.syncSignal b n v) s = .next (s.setBlock b (s.block b).next).settle)) ∧
  (∀ (s : State) (x : Cmd) (o : WindowObs) (r : RunP), s.Lone x → x.op = .run r → x.final = true → 1 ≤ s.beat.saddleCur.toNat →
    ∃ t, exec (.saddleWindowOpen o) s = .next t ∧ t.cmds = [] ∧
      ∀ n, Tab.get 0 (t.ctx x.ctx).sig n = Tab.get 0 (s.ctx x.ctx).sig n + ((x.sigs.filter (fun q => q.1 == n)).map (·.2)).sum)

/-! ### Numbers (03) -/

/-- R64: every H16 code reads as its bfloat16 value; a NaN reads as W40 invalid, and an infinity as the largest finite W40 value of its sign,
which counts as saturated in whatever it is written to. -/
def Obligations.H16Reads : Prop :=
  ∀ w : Nat, w < 65536 →
    (w / 128 % 256 < 255 → ∃ v : Fp, Fmt.h16.readv w = { v := some v } ∧ v.neg = decide (32768 ≤ w) ∧
      (v.mag : ℚ) * 2 ^ v.e = if w / 128 % 256 = 0 then ((w % 128 : Nat) : ℚ) * 2 ^ (-133 : Int)
        else ((128 + w % 128 : Nat) : ℚ) * 2 ^ (((w / 128 % 256 : Nat) : Int) - 134)) ∧
    (w / 128 % 256 = 255 → w % 128 ≠ 0 → (Fmt.h16.readv w).v = none) ∧
    (w / 128 % 256 = 255 → w % 128 = 0 → Fmt.h16.readv w = { v := some (w40Max (decide (32768 ≤ w))), sat := true } ∧
      ∀ (f : Fmt) (md : Rnd), (f.write md (Fmt.h16.readv w)).tally.saturated = 1)

/-- Part of R61 to R63: the magnitude of each Q4 and Q8 code before its patch scale; 0b1000 and 0x80 read as zero, and are written by no
conversion. -/
def Obligations.Q4Q8Codes : Prop :=
  (∀ c : Nat, c < 16 → ∃ v : Fp, Fmt.q4.readv c = { v := some v } ∧ v.neg = (decide (8 ≤ c) && decide (c % 8 ≠ 0)) ∧
    (v.mag : ℚ) * 2 ^ v.e = if c % 8 = 0 then 0 else (1 + ((c % 2 : Nat) : ℚ) / 2) * 2 ^ (((c / 2 % 4 : Nat) : Int) - 1)) ∧
  (∀ c : Nat, c < 256 → ∃ v : Fp, Fmt.q8.readv c = { v := some v } ∧ v.neg = (decide (128 ≤ c) && decide (c % 128 ≠ 0)) ∧
    (v.mag : ℚ) * 2 ^ v.e = if c / 8 % 16 = 0 then ((c % 8 : Nat) : ℚ) * 2 ^ (-9 : Int)
      else (1 + ((c % 8 : Nat) : ℚ) / 8) * 2 ^ (((c / 8 % 16 : Nat) : Int) - 7)) ∧
  (∀ (md : Rnd) (x : Exact), (Fmt.q4.write md x).code < 16 ∧ (Fmt.q4.write md x).code ≠ 8 ∧ (Fmt.q8.write md x).code < 256 ∧
    (Fmt.q8.write md x).code ≠ 0x80)
end

