-- ==== Sys2Proof/Laws/Mem.lean ====
section
/-! SUPPORT. Laws of byte memories: reading after writing, and that every operation keeps the canonical form. -/

namespace Sys2Proof.Machine

set_option Elab.async false

/-! ### Cells -/

theorem Mem.cellAt_drop_same (l : List Host.Cell) (a : Nat) : Mem.cellAt (Mem.cellDrop l a) a = none := by
  induction l with
  | nil => rfl
  | cons p t ih =>
    obtain ⟨j, w⟩ := p
    simp only [Mem.cellDrop]
    split
    · exact ih
    · simp [Mem.cellAt, *]

theorem Mem.cellAt_drop_ne (l : List Host.Cell) {a b : Nat} (h : b ≠ a) : Mem.cellAt (Mem.cellDrop l a) b = Mem.cellAt l b := by
  induction l with
  | nil => rfl
  | cons p t ih =>
    obtain ⟨j, w⟩ := p
    simp only [Mem.cellDrop]
    split
    · rename_i e
      subst e
      simp [Mem.cellAt, h.symm, ih]
    · simp [Mem.cellAt, ih]

theorem Mem.cellAt_put_same (l : List Host.Cell) (a : Nat) (v : Byte) : Mem.cellAt (Mem.cellPut l a v) a = some v := by
  induction l with
  | nil => simp [Mem.cellPut, Mem.cellAt]
  | cons p t ih =>
    obtain ⟨j, w⟩ := p
    simp only [Mem.cellPut]
    split
    · simp [Mem.cellAt]
    · split
      · simp [Mem.cellAt]
      · simp [Mem.cellAt, *]

theorem Mem.cellAt_put_ne (l : List Host.Cell) {a b : Nat} (v : Byte) (h : b ≠ a) : Mem.cellAt (Mem.cellPut l a v) b = Mem.cellAt l b := by
  induction l with
  | nil => simp [Mem.cellPut, Mem.cellAt, h.symm]
  | cons p t ih =>
    obtain ⟨j, w⟩ := p
    simp only [Mem.cellPut]
    split
    · rename_i e
      subst e
      simp [Mem.cellAt, h.symm]
    · split
      · simp [Mem.cellAt, h.symm]
      · simp [Mem.cellAt, ih]

theorem Mem.mem_cellDrop {l : List Host.Cell} {a : Nat} {c : Host.Cell} : c ∈ Mem.cellDrop l a ↔ c ∈ l ∧ c.1 ≠ a := by
  induction l with
  | nil => simp [Mem.cellDrop]
  | cons p t ih =>
    obtain ⟨j, w⟩ := p
    simp only [Mem.cellDrop]
    split
    · rename_i e
      subst e
      rw [ih]
      constructor
      · exact fun h => ⟨List.mem_cons_of_mem _ h.1, h.2⟩
      · rintro ⟨h, hn⟩
        rcases List.mem_cons.1 h with rfl | h
        · exact absurd rfl hn
        · exact ⟨h, hn⟩
    · rename_i e
      rw [List.mem_cons, ih, List.mem_cons]
      constructor
      · rintro (rfl | h)
        · exact ⟨.inl rfl, e⟩
        · exact ⟨.inr h.1, h.2⟩
      · rintro ⟨h | h, hn⟩
        · exact .inl h
        · exact .inr ⟨h, hn⟩

theorem Mem.mem_cellPut {l : List Host.Cell} {a : Nat} {v : Byte} {c : Host.Cell} (h : c ∈ Mem.cellPut l a v) : c = (a, v) ∨ c ∈ l := by
  induction l with
  | nil => simpa [Mem.cellPut] using h
  | cons p t ih =>
    obtain ⟨j, w⟩ := p
    simp only [Mem.cellPut] at h
    split at h
    · rcases List.mem_cons.1 h with h | h
      · exact .inl h
      · exact .inr (List.mem_cons_of_mem _ h)
    · split at h
      · exact (List.mem_cons.1 h).imp id id
      · rcases List.mem_cons.1 h with h | h
        · exact .inr (h ▸ List.mem_cons_self)
        · exact (ih h).imp id (List.mem_cons_of_mem _)

theorem Mem.pairwise_cellDrop {l : List Host.Cell} (a : Nat) (h : l.Pairwise (fun x y => x.1 < y.1)) :
    (Mem.cellDrop l a).Pairwise (fun x y => x.1 < y.1) := by
  induction l with
  | nil => exact h
  | cons p t ih =>
    obtain ⟨j, w⟩ := p
    rw [List.pairwise_cons] at h
    simp only [Mem.cellDrop]
    split
    · exact ih h.2
    · exact List.pairwise_cons.2 ⟨fun c hc => h.1 c (Mem.mem_cellDrop.1 hc).1, ih h.2⟩

theorem Mem.pairwise_cellPut {l : List Host.Cell} (a : Nat) (v : Byte) (h : l.Pairwise (fun x y => x.1 < y.1)) :
    (Mem.cellPut l a v).Pairwise (fun x y => x.1 < y.1) := by
  induction l with
  | nil => simp [Mem.cellPut]
  | cons p t ih =>
    obtain ⟨j, w⟩ := p
    have hp := List.pairwise_cons.1 h
    simp only [Mem.cellPut]
    split
    · rename_i e
      subst e
      exact List.pairwise_cons.2 hp
    · split
      · rename_i e l
        refine List.pairwise_cons.2 ⟨fun c hc => ?_, h⟩
        rcases List.mem_cons.1 hc with rfl | hc
        · exact l
        · exact Nat.lt_trans l (hp.1 c hc)
      · refine List.pairwise_cons.2 ⟨fun c hc => ?_, ih hp.2⟩
        rcases Mem.mem_cellPut hc with rfl | hc
        · show j < a
          omega
        · exact hp.1 c hc

/-! ### Spans -/

/-- What cutting keeps of a span lies in it, is nonempty, and has nothing of the range cut out. -/
theorem Span.cut_spec {p q : Span} {lo hi : Nat} (hp : p.lo < p.hi) (h : q ∈ p.cut lo hi) :
    q.lo < q.hi ∧ q.seed = p.seed ∧ ∀ a, q.has a = true → p.has a = true ∧ ¬ (lo ≤ a ∧ a < hi) := by
  unfold Span.cut at h
  split at h
  · rename_i e
    simp only [Bool.or_eq_true, decide_eq_true_eq] at e
    obtain rfl := List.mem_singleton.1 h
    refine ⟨hp, rfl, fun a ha => ⟨ha, ?_⟩⟩
    simp only [Span.has, Bool.and_eq_true, decide_eq_true_eq] at ha
    omega
  · rename_i e
    simp only [Bool.or_eq_true, decide_eq_true_eq, not_or, not_le] at e
    rcases List.mem_append.1 h with h | h
    · split at h
      · obtain rfl := List.mem_singleton.1 h
        refine ⟨by assumption, rfl, fun a ha => ?_⟩
        simp only [Span.has, Bool.and_eq_true, decide_eq_true_eq] at ha ⊢
        omega
      · simp at h
    · split at h
      · obtain rfl := List.mem_singleton.1 h
        refine ⟨by assumption, rfl, fun a ha => ?_⟩
        simp only [Span.has, Bool.and_eq_true, decide_eq_true_eq] at ha ⊢
        omega
      · simp at h

theorem Mem.punch_spec {l : List Span} {lo hi : Nat} (hl : ∀ p ∈ l, p.lo < p.hi) {q : Span} (h : q ∈ Mem.punch l lo hi) :
    q.lo < q.hi ∧ ∃ p ∈ l, ∀ a, q.has a = true → p.has a = true ∧ ¬ (lo ≤ a ∧ a < hi) := by
  obtain ⟨p, hp, hq⟩ := List.mem_flatMap.1 h
  obtain ⟨h1, -, h3⟩ := Span.cut_spec (hl p hp) hq
  exact ⟨h1, p, hp, h3⟩

/-- Outside the range cut out a span's pieces have what it had. -/
theorem Span.has_cut (p : Span) {lo hi a : Nat} (h : ¬ (lo ≤ a ∧ a < hi)) : (p.cut lo hi).any (fun q => q.has a) = p.has a := by
  unfold Span.cut
  split
  · simp
  · rename_i e
    simp only [Bool.or_eq_true, decide_eq_true_eq, not_or, not_le] at e
    rw [Bool.eq_iff_iff]
    simp only [List.any_append, Bool.or_eq_true]
    constructor
    · rintro (h1 | h1)
      · split at h1
        · simp only [List.any_cons, List.any_nil, Bool.or_false, Span.has, Bool.and_eq_true, decide_eq_true_eq] at h1 ⊢
          omega
        · simp at h1
      · split at h1
        · simp only [List.any_cons, List.any_nil, Bool.or_false, Span.has, Bool.and_eq_true, decide_eq_true_eq] at h1 ⊢
          omega
        · simp at h1
    · intro h1
      simp only [Span.has, Bool.and_eq_true, decide_eq_true_eq] at h1
      by_cases h2 : a < lo
      · left
        rw [if_pos (by omega)]
        simp only [List.any_cons, List.any_nil, Bool.or_false, Span.has, Bool.and_eq_true, decide_eq_true_eq]
        omega
      · right
        rw [if_pos (by omega)]
        simp only [List.any_cons, List.any_nil, Bool.or_false, Span.has, Bool.and_eq_true, decide_eq_true_eq]
        omega

/-- A list of spans with one seed that goes before others decides an address exactly where it has it. -/
theorem Mem.blank_append (l m : List Span) (a : Nat) (d : Nat) (hs : ∀ q ∈ l, q.seed = d) :
    Mem.blank (l ++ m) a = if l.any (fun q => q.has a) then Config.freeByte d a else Mem.blank m a := by
  induction l with
  | nil => simp
  | cons q t ih =>
    simp only [List.cons_append, Mem.blank, List.any_cons]
    have ht := ih (fun r hr => hs r (List.mem_cons_of_mem _ hr))
    by_cases h : q.has a = true
    · simp [h, hs q List.mem_cons_self]
    · simp [h, ht]

theorem Span.seed_cut {p q : Span} {lo hi : Nat} (h : q ∈ p.cut lo hi) : q.seed = p.seed := by
  unfold Span.cut at h
  split at h
  · rw [List.mem_singleton.1 h]
  · rcases List.mem_append.1 h with h | h
    · split at h
      · rw [List.mem_singleton.1 h]
      · simp at h
    · split at h
      · rw [List.mem_singleton.1 h]
      · simp at h

theorem Mem.blank_punch (l : List Span) {lo hi a : Nat} (h : ¬ (lo ≤ a ∧ a < hi)) :
    Mem.blank (Mem.punch l lo hi) a = Mem.blank l a := by
  induction l with
  | nil => rfl
  | cons p t ih =>
    show Mem.blank (p.cut lo hi ++ Mem.punch t lo hi) a = _
    rw [Mem.blank_append _ _ _ p.seed (fun q hq => Span.seed_cut hq), Span.has_cut p h, ih]
    rfl

theorem Mem.blank_none (l : List Span) (a : Nat) (h : ∀ p ∈ l, p.has a = false) : Mem.blank l a = 0 := by
  induction l with
  | nil => rfl
  | cons p t ih =>
    simp only [Mem.blank, h p List.mem_cons_self, Bool.false_eq_true, if_false]
    exact ih (fun q hq => h q (List.mem_cons_of_mem _ hq))

/-- Inside the range cut out no span has anything: it reads zero. -/
theorem Mem.blank_punched {l : List Span} {lo hi a : Nat} (h : lo ≤ a ∧ a < hi) : Mem.blank (Mem.punch l lo hi) a = 0 := by
  refine Mem.blank_none _ _ (fun q hq => ?_)
  obtain ⟨p, -, hc⟩ := List.mem_flatMap.1 hq
  unfold Span.cut at hc
  rw [Bool.eq_false_iff]
  intro ha
  simp only [Span.has, Bool.and_eq_true, decide_eq_true_eq] at ha
  split at hc
  · rename_i e
    simp only [Bool.or_eq_true, decide_eq_true_eq] at e
    obtain rfl := List.mem_singleton.1 hc
    omega
  · rcases List.mem_append.1 hc with hc | hc
    · split at hc
      · obtain rfl := List.mem_singleton.1 hc
        simp only at ha
        omega
      · simp at hc
    · split at hc
      · obtain rfl := List.mem_singleton.1 hc
        simp only at ha
        omega
      · simp at hc

/-! ### One byte -/

@[simp] theorem Mem.read_write_same (m : Mem) (a : Nat) (v : Byte) : (m.write a v).read a = v := by
  simp only [Mem.write, Mem.read]
  split
  · rename_i h
    rw [Mem.cellAt_drop_same, Mem.blank_punched ⟨Nat.le_refl a, Nat.lt_succ_self a⟩, h]
    rfl
  · rw [Mem.cellAt_put_same]
    rfl

theorem Mem.read_write_ne (m : Mem) {a b : Nat} (v : Byte) (h : b ≠ a) : (m.write a v).read b = m.read b := by
  simp only [Mem.write, Mem.read]
  rw [Mem.blank_punch m.spans (by omega)]
  split
  · rw [Mem.cellAt_drop_ne _ h]
  · rw [Mem.cellAt_put_ne _ _ h]

theorem Mem.read_write (m : Mem) (a b : Nat) (v : Byte) : (m.write a v).read b = if b = a then v else m.read b := by
  split
  · rename_i h
    rw [h, Mem.read_write_same]
  · rename_i h
    exact Mem.read_write_ne m v h

/-! ### Runs of bytes -/

theorem Mem.read_writeN_before (l : List Byte) (m : Mem) {a b : Nat} (h : b < a) : (m.writeN a l).read b = m.read b := by
  induction l generalizing m a with
  | nil => rfl
  | cons v t ih => rw [Mem.writeN, ih _ (Nat.lt_succ_of_lt h), Mem.read_write_ne m v (Nat.ne_of_lt h)]

theorem Mem.read_writeN_after (l : List Byte) (m : Mem) {a b : Nat} (h : a + l.length ≤ b) : (m.writeN a l).read b = m.read b := by
  induction l generalizing m a with
  | nil => rfl
  | cons v t ih =>
    rw [List.length_cons] at h
    rw [Mem.writeN, ih _ (by omega), Mem.read_write_ne m v (by omega)]

theorem Mem.read_writeN_in (l : List Byte) (m : Mem) {a k : Nat} (h : k < l.length) : (m.writeN a l).read (a + k) = l[k] := by
  induction l generalizing m a k with
  | nil => simp at h
  | cons v t ih =>
    rw [Mem.writeN]
    cases k with
    | zero =>
      show ((m.write a v).writeN (a + 1) t).read a = v
      rw [Mem.read_writeN_before t _ (Nat.lt_succ_self a), Mem.read_write_same]
    | succ n =>
      have hn : n < t.length := by simpa using h
      have e : a + (n + 1) = a + 1 + n := by omega
      rw [e, ih _ hn]
      rfl

@[simp] theorem Mem.readN_length (m : Mem) (a n : Nat) : (m.readN a n).length = n := by simp [Mem.readN]

/-- A list written is read back. -/
@[simp] theorem Mem.readN_writeN (m : Mem) (a : Nat) (l : List Byte) : (m.writeN a l).readN a l.length = l := by
  apply List.ext_getElem
  · simp
  · intro i h1 h2
    simp only [Mem.readN, List.getElem_map, List.getElem_range]
    exact Mem.read_writeN_in l m h2

/-! ### Ranges -/

theorem Mem.cellAt_filter (l : List Host.Cell) (p : Host.Cell → Bool) (a : Nat) (h : ∀ v, p (a, v) = true) :
    Mem.cellAt (l.filter p) a = Mem.cellAt l a := by
  induction l with
  | nil => rfl
  | cons c t ih =>
    obtain ⟨j, w⟩ := c
    rw [List.filter_cons]
    split
    · simp [Mem.cellAt, ih]
    · rename_i e
      have hj : j ≠ a := fun e2 => e (e2 ▸ h w)
      simp [Mem.cellAt, hj, ih]

theorem Mem.cellAt_filter_out (l : List Host.Cell) (p : Host.Cell → Bool) (a : Nat) (h : ∀ v, p (a, v) = false) :
    Mem.cellAt (l.filter p) a = none := by
  induction l with
  | nil => rfl
  | cons c t ih =>
    obtain ⟨j, w⟩ := c
    rw [List.filter_cons]
    split
    · rename_i e
      have hj : j ≠ a := fun e2 => by
        rw [e2, h w] at e
        exact Bool.noConfusion e
      simp [Mem.cellAt, hj, ih]
    · exact ih

/-- A range made undefined: outside it every byte reads as before. -/
theorem Mem.read_undef_out (m : Mem) {lo hi a : Nat} (seed : Nat) (h : a < lo ∨ hi ≤ a) : (m.undef lo hi seed).read a = m.read a := by
  unfold Mem.undef
  split
  · have h1 : ¬ (lo ≤ a ∧ a < hi) := by omega
    have h2 : (decide (lo ≤ a) && decide (a < hi)) = false := by simpa using fun e => by omega
    have h3 : (decide (a < lo) || decide (hi ≤ a)) = true := by simpa using h
    simp only [Mem.read]
    rw [Mem.cellAt_filter _ _ _ (fun _ => h3)]
    simp only [Mem.blank, Span.has, h2, Bool.false_eq_true, if_false]
    rw [Mem.blank_punch _ h1]
  · rfl

/-- A range made zero reads zero, and outside it every byte reads as before. -/
theorem Mem.read_zero (m : Mem) (lo hi a : Nat) : (m.zero lo hi).read a = if lo ≤ a ∧ a < hi then 0 else m.read a := by
  simp only [Mem.zero, Mem.read]
  split
  · rename_i h
    have h3 : (decide (a < lo) || decide (hi ≤ a)) = false := by simp; omega
    rw [Mem.cellAt_filter_out _ _ _ (fun _ => h3), Mem.blank_punched h]
    rfl
  · rename_i h
    have h3 : (decide (a < lo) || decide (hi ≤ a)) = true := by simp; omega
    rw [Mem.cellAt_filter _ _ _ (fun _ => h3), Mem.blank_punch _ h]

/-! ### The canonical form is kept -/

theorem Mem.write_wf {m : Mem} (a : Nat) (v : Byte) (h : m.wf) : (m.write a v).wf := by
  obtain ⟨h1, h2, h3, h4⟩ := h
  refine ⟨?_, ?_, ?_, ?_⟩
  · simp only [Mem.write]
    split
    · exact Mem.pairwise_cellDrop a h1
    · exact Mem.pairwise_cellPut a v h1
  · intro c hc
    simp only [Mem.write] at hc
    split at hc
    · exact h2 c (Mem.mem_cellDrop.1 hc).1
    · rcases Mem.mem_cellPut hc with rfl | hc
      · assumption
      · exact h2 c hc
  · exact fun q hq => (Mem.punch_spec h3 hq).1
  · intro c hc q hq
    obtain ⟨-, p, hp, hh⟩ := Mem.punch_spec h3 hq
    rw [Bool.eq_false_iff]
    intro ha
    obtain ⟨h5, h6⟩ := hh _ ha
    simp only [Mem.write] at hc
    have hm : c.1 ≠ a → c ∈ m.cells → False := fun _ hc => by simp [h4 c hc p hp] at h5
    split at hc
    · exact hm (Mem.mem_cellDrop.1 hc).2 (Mem.mem_cellDrop.1 hc).1
    · by_cases e : c.1 = a
      · exact h6 ⟨by omega, by omega⟩
      · rcases Mem.mem_cellPut hc with rfl | hc
        · exact e rfl
        · exact hm e hc

theorem Mem.writeN_wf (l : List Byte) {m : Mem} (a : Nat) (h : m.wf) : (m.writeN a l).wf := by
  induction l generalizing m a with
  | nil => exact h
  | cons v t ih => exact ih (a + 1) (Mem.write_wf a v h)

theorem Mem.regWrite_wf (e : RegEntry) (buf : Nat) (l : List Byte) (o : Nat) {m : Mem} (h : m.wf) : (Mem.regWrite e buf o m l).wf := by
  induction l generalizing m o with
  | nil => exact h
  | cons v t ih => exact ih (o + 1) (Mem.write_wf _ v h)

theorem Mem.land_wf (ws : List Store) {m : Mem} (h : m.wf) : (m.land ws).wf := by
  unfold Mem.land
  induction ws generalizing m with
  | nil => exact h
  | cons w t ih => exact ih (Mem.write_wf w.addr w.val h)

theorem Mem.zero_wf {m : Mem} (lo hi : Nat) (h : m.wf) : (m.zero lo hi).wf := by
  obtain ⟨h1, h2, h3, h4⟩ := h
  refine ⟨h1.filter _, fun c hc => h2 c (List.mem_filter.1 hc).1, fun q hq => (Mem.punch_spec h3 hq).1, ?_⟩
  intro c hc q hq
  obtain ⟨-, p, hp, hh⟩ := Mem.punch_spec h3 hq
  rw [Bool.eq_false_iff]
  intro ha
  have := h4 c (List.mem_filter.1 hc).1 p hp
  simp [(hh _ ha).1] at this

theorem Mem.undef_wf {m : Mem} (lo hi seed : Nat) (h : m.wf) : (m.undef lo hi seed).wf := by
  unfold Mem.undef
  split
  · rename_i hl
    obtain ⟨h1, h2, h3, h4⟩ := Mem.zero_wf lo hi h
    refine ⟨h1, h2, ?_, ?_⟩
    · intro q hq
      rcases List.mem_cons.1 hq with rfl | hq
      · exact hl
      · exact h3 q hq
    · intro c hc q hq
      rcases List.mem_cons.1 hq with rfl | hq
      · have := (List.mem_filter.1 hc).2
        simp only [Bool.or_eq_true, decide_eq_true_eq] at this
        simp only [Span.has, Bool.and_eq_false_imp, decide_eq_true_eq, decide_eq_false_iff_not]
        omega
      · exact h4 c hc q hq
  · exact h

theorem Mem.part_wf {m : Mem} (lo hi : Nat) (h : m.wf) : (m.part lo hi).wf := by
  obtain ⟨h1, h2, h3, h4⟩ := h
  refine ⟨h1.filter _, fun c hc => h2 c (List.mem_filter.1 hc).1, ?_, ?_⟩
  · intro q hq
    obtain ⟨p, hp, rfl⟩ := List.mem_map.1 hq
    obtain ⟨hp, hf⟩ := List.mem_filter.1 hp
    have := h3 p hp
    simp only [Bool.and_eq_true, decide_eq_true_eq] at hf
    show Nat.max p.lo lo < Nat.min p.hi hi
    exact Nat.lt_min.2 ⟨Nat.max_lt.2 ⟨this, hf.1.1⟩, Nat.max_lt.2 ⟨hf.1.2, hf.2⟩⟩
  · intro c hc q hq
    obtain ⟨p, hp, rfl⟩ := List.mem_map.1 hq
    have := h4 c (List.mem_filter.1 hc).1 p (List.mem_filter.1 hp).1
    rw [Bool.eq_false_iff]
    intro ha
    simp only [Span.has, Bool.and_eq_true, decide_eq_true_eq] at ha
    simp only [Span.has, Bool.and_eq_false_imp, decide_eq_true_eq, decide_eq_false_iff_not] at this
    have h5 := Nat.le_max_left p.lo lo
    have h6 := Nat.min_le_left p.hi hi
    exact this (Nat.le_trans h5 ha.1) (Nat.lt_of_lt_of_le ha.2 h6)

theorem Mem.graft_wf {m o : Mem} {lo hi : Nat} (hx : lo ≤ hi) (hm : m.wf) (ho : o.wf) : (m.graft o lo hi).wf := by
  obtain ⟨p1, p2, p3, p4⟩ := Mem.part_wf lo hi ho
  obtain ⟨h1, h2, h3, h4⟩ := hm
  have lt : ∀ c ∈ m.cells.filter (fun c => c.1 < lo), c ∈ m.cells ∧ c.1 < lo := fun c hc => by
    simpa using List.mem_filter.1 hc
  have gt : ∀ c ∈ m.cells.filter (fun c => hi ≤ c.1), c ∈ m.cells ∧ hi ≤ c.1 := fun c hc => by
    simpa using List.mem_filter.1 hc
  have inn : ∀ c ∈ (o.part lo hi).cells, lo ≤ c.1 ∧ c.1 < hi := fun c hc => by
    simpa using (List.mem_filter.1 hc).2
  have spn : ∀ q ∈ (o.part lo hi).spans, ∀ a, q.has a = true → lo ≤ a ∧ a < hi := fun q hq a ha => by
    obtain ⟨p, -, rfl⟩ := List.mem_map.1 hq
    simp only [Span.has, Bool.and_eq_true, decide_eq_true_eq] at ha
    exact ⟨Nat.le_trans (Nat.le_max_right p.lo lo) ha.1, Nat.lt_of_lt_of_le ha.2 (Nat.min_le_right p.hi hi)⟩
  refine ⟨?_, ?_, ?_, ?_⟩
  · refine List.pairwise_append.2 ⟨List.pairwise_append.2 ⟨h1.filter _, p1, ?_⟩, h1.filter _, ?_⟩
    · exact fun x hx y hy => Nat.lt_of_lt_of_le (lt x hx).2 (inn y hy).1
    · intro x hx y hy
      rcases List.mem_append.1 hx with hx | hx
      · exact Nat.lt_of_lt_of_le (lt x hx).2 (Nat.le_trans (by assumption) (gt y hy).2)
      · exact Nat.lt_of_lt_of_le (inn x hx).2 (gt y hy).2
  · intro c hc
    rcases List.mem_append.1 hc with hc | hc
    · rcases List.mem_append.1 hc with hc | hc
      · exact h2 c (lt c hc).1
      · exact p2 c hc
    · exact h2 c (gt c hc).1
  · intro q hq
    rcases List.mem_append.1 hq with hq | hq
    · exact (Mem.punch_spec h3 hq).1
    · exact p3 q hq
  · intro c hc q hq
    rw [Bool.eq_false_iff]
    intro ha
    rcases List.mem_append.1 hq with hq | hq
    · obtain ⟨-, p, hp, hh⟩ := Mem.punch_spec h3 hq
      obtain ⟨h5, h6⟩ := hh _ ha
      rcases List.mem_append.1 hc with hc | hc
      · rcases List.mem_append.1 hc with hc | hc
        · simp [h4 c (lt c hc).1 p hp] at h5
        · exact h6 (inn c hc)
      · simp [h4 c (gt c hc).1 p hp] at h5
    · have h5 := spn q hq _ ha
      rcases List.mem_append.1 hc with hc | hc
      · rcases List.mem_append.1 hc with hc | hc
        · have := (lt c hc).2
          omega
        · simp [p4 c hc q hq] at ha
      · have := (gt c hc).2
        omega

/-- The device memory after reset is canonical: nothing is listed. -/
theorem reset_hbm_wf : State.reset.hbm.wf := by decide

/-- The named writes of the machine keep it canonical. -/
theorem State.regWrite_wf (s : State) (e : RegEntry) (buf o : Nat) (l : List Byte) (h : s.hbm.wf) : (s.regWrite e buf o l).hbm.wf :=
  Mem.regWrite_wf e buf l o h

theorem Mem.fold_undef_wf (l : List (Nat × Nat)) (seed : Nat) {m : Mem} (h : m.wf) :
    (l.foldl (fun m p => m.undef p.1 (p.1 + p.2) seed) m).wf := by
  induction l generalizing m with
  | nil => exact h
  | cons p t ih => exact ih (Mem.undef_wf _ _ _ h)

theorem Mem.fold_zero_wf (l : List (Nat × Nat)) {m : Mem} (h : m.wf) : (l.foldl (fun m p => m.zero p.1 (p.1 + p.2)) m).wf := by
  induction l generalizing m with
  | nil => exact h
  | cons p t ih => exact ih (Mem.zero_wf _ _ h)

theorem State.regUndef_wf (s : State) (e : RegEntry) (buf o n : Nat) (h : s.hbm.wf) : (s.regUndef e buf o n).hbm.wf :=
  Mem.fold_undef_wf _ _ h

theorem State.regZero_wf (s : State) (e : RegEntry) (buf o n : Nat) (h : s.hbm.wf) : (s.regZero e buf o n).hbm.wf :=
  Mem.fold_zero_wf _ h

end Sys2Proof.Machine
end

