-- ==== Sys2Proof/Laws/Tab.lean ====
section
/-! SUPPORT. Laws of the sparse tables: reading after setting, setting twice, removing. -/

namespace Sys2Proof.Machine

set_option Elab.async false

variable {α : Type}

@[simp] theorem Tab.get_set_same (d : α) (t : Tab α) (k : Nat) (v : α) : Tab.get d (Tab.set t k v) k = v := by
  induction t with
  | nil => simp [Tab.set, Tab.get]
  | cons p t ih =>
    obtain ⟨j, w⟩ := p
    simp only [Tab.set]
    split
    · simp [Tab.get]
    · split
      · simp [Tab.get]
      · simp [Tab.get, *]

theorem Tab.get_set_ne (d : α) (t : Tab α) {k n : Nat} (v : α) (h : n ≠ k) : Tab.get d (Tab.set t k v) n = Tab.get d t n := by
  induction t with
  | nil => simp [Tab.set, Tab.get, h.symm]
  | cons p t ih =>
    obtain ⟨j, w⟩ := p
    simp only [Tab.set]
    split
    · rename_i e
      subst e
      simp [Tab.get, h.symm]
    · split
      · simp [Tab.get, h.symm]
      · simp [Tab.get, ih]

@[simp] theorem Tab.find_set_same (t : Tab α) (k : Nat) (v : α) : Tab.find (Tab.set t k v) k = some v := by
  induction t with
  | nil => simp [Tab.set, Tab.find]
  | cons p t ih =>
    obtain ⟨j, w⟩ := p
    simp only [Tab.set]
    split
    · simp [Tab.find]
    · split
      · simp [Tab.find]
      · simp [Tab.find, *]

theorem Tab.find_set_ne (t : Tab α) {k n : Nat} (v : α) (h : n ≠ k) : Tab.find (Tab.set t k v) n = Tab.find t n := by
  induction t with
  | nil => simp [Tab.set, Tab.find, h.symm]
  | cons p t ih =>
    obtain ⟨j, w⟩ := p
    simp only [Tab.set]
    split
    · rename_i e
      subst e
      simp [Tab.find, h.symm]
    · split
      · simp [Tab.find, h.symm]
      · simp [Tab.find, ih]

/-- Reading with a default is finding. -/
theorem Tab.get_eq_find (d : α) (t : Tab α) (k : Nat) : Tab.get d t k = (Tab.find t k).getD d := by
  induction t with
  | nil => rfl
  | cons p t ih =>
    obtain ⟨j, w⟩ := p
    simp only [Tab.get, Tab.find]
    split <;> simp [ih]

@[simp] theorem Tab.set_set_same (t : Tab α) (k : Nat) (v w : α) : Tab.set (Tab.set t k v) k w = Tab.set t k w := by
  induction t with
  | nil => simp [Tab.set]
  | cons p t ih =>
    obtain ⟨j, u⟩ := p
    simp only [Tab.set]
    split
    · simp [Tab.set]
    · split
      · simp [Tab.set]
      · simp [Tab.set, *]

@[simp] theorem Tab.find_drop_same (t : Tab α) (k : Nat) : Tab.find (Tab.drop t k) k = none := by
  induction t with
  | nil => rfl
  | cons p t ih =>
    obtain ⟨j, w⟩ := p
    simp only [Tab.drop]
    split
    · exact ih
    · simp [Tab.find, *]

theorem Tab.find_drop_ne (t : Tab α) {k n : Nat} (h : n ≠ k) : Tab.find (Tab.drop t k) n = Tab.find t n := by
  induction t with
  | nil => rfl
  | cons p t ih =>
    obtain ⟨j, w⟩ := p
    simp only [Tab.drop]
    split
    · rename_i e
      subst e
      simp [Tab.find, h.symm, ih]
    · simp [Tab.find, ih]

@[simp] theorem Tab.get_upd_same (d : α) (t : Tab α) (k : Nat) (f : α → α) : Tab.get d (Tab.upd d t k f) k = f (Tab.get d t k) := by
  simp [Tab.upd]

theorem Tab.get_upd_ne (d : α) (t : Tab α) {k n : Nat} (f : α → α) (h : n ≠ k) : Tab.get d (Tab.upd d t k f) n = Tab.get d t n := by
  simp [Tab.upd, Tab.get_set_ne d t _ h]

@[simp] theorem setAt_length (l : List α) (i : Nat) (v : α) : (setAt l i v).length = l.length := by
  induction l generalizing i with
  | nil => rfl
  | cons a t ih => cases i <;> simp [setAt, ih]

@[simp] theorem setAt_same (l : List α) (i : Nat) (v : α) (h : i < l.length) : (setAt l i v)[i]? = some v := by
  induction l generalizing i with
  | nil => simp at h
  | cons a t ih =>
    cases i with
    | zero => simp [setAt]
    | succ n => simpa [setAt] using ih n (by simpa using h)

theorem setAt_ne (l : List α) {i j : Nat} (v : α) (h : j ≠ i) : (setAt l i v)[j]? = l[j]? := by
  induction l generalizing i j with
  | nil => rfl
  | cons a t ih =>
    cases i with
    | zero => cases j with
      | zero => exact absurd rfl h
      | succ m => simp [setAt]
    | succ n => cases j with
      | zero => simp [setAt]
      | succ m => simpa [setAt] using ih (fun e => h (congrArg _ e))

@[simp] theorem leBytes_length (n v : Nat) : (leBytes n v).length = n := by
  induction n generalizing v with
  | zero => rfl
  | succ n ih => simp [leBytes, ih]

end Sys2Proof.Machine
end

