-- ==== Sys2Proof/Laws/State.lean ====
section
/-! SUPPORT. The state's named updates, field by field: what each leaves and what it puts, so that no proof unfolds a record update.
All hold by definition. Then reading a part after replacing it. -/

namespace Sys2Proof.Machine

variable (s : State)

/-! ### setBlock -/

@[simp] theorem State.setBlock_pending (b : Nat) (x : Block) : (s.setBlock b x).pending = s.pending := rfl
@[simp] theorem State.setBlock_out (b : Nat) (x : Block) : (s.setBlock b x).out = s.out := rfl
@[simp] theorem State.setBlock_fresh (b : Nat) (x : Block) : (s.setBlock b x).fresh = s.fresh := rfl
@[simp] theorem State.setBlock_nextId (b : Nat) (x : Block) : (s.setBlock b x).nextId = s.nextId := rfl
@[simp] theorem State.setBlock_beat (b : Nat) (x : Block) : (s.setBlock b x).beat = s.beat := rfl
@[simp] theorem State.setBlock_cens (b : Nat) (x : Block) : (s.setBlock b x).cens = s.cens := rfl
@[simp] theorem State.setBlock_census (b : Nat) (x : Block) : (s.setBlock b x).census = s.census := rfl
@[simp] theorem State.setBlock_blocks (b : Nat) (x : Block) : (s.setBlock b x).blocks = Tab.set s.blocks b x := rfl
@[simp] theorem State.setBlock_dies (b : Nat) (x : Block) : (s.setBlock b x).dies = s.dies := rfl
@[simp] theorem State.setBlock_pt (b : Nat) (x : Block) : (s.setBlock b x).pt = s.pt := rfl
@[simp] theorem State.setBlock_parts (b : Nat) (x : Block) : (s.setBlock b x).parts = s.parts := rfl
@[simp] theorem State.setBlock_wver (b : Nat) (x : Block) : (s.setBlock b x).wver = s.wver := rfl
@[simp] theorem State.setBlock_holds (b : Nat) (x : Block) : (s.setBlock b x).holds = s.holds := rfl
@[simp] theorem State.setBlock_xtable (b : Nat) (x : Block) : (s.setBlock b x).xtable = s.xtable := rfl
@[simp] theorem State.setBlock_ctxs (b : Nat) (x : Block) : (s.setBlock b x).ctxs = s.ctxs := rfl
@[simp] theorem State.setBlock_strms (b : Nat) (x : Block) : (s.setBlock b x).strms = s.strms := rfl
@[simp] theorem State.setBlock_cmds (b : Nat) (x : Block) : (s.setBlock b x).cmds = s.cmds := rfl
@[simp] theorem State.setBlock_hbm (b : Nat) (x : Block) : (s.setBlock b x).hbm = s.hbm := rfl
@[simp] theorem State.setBlock_permIn (b : Nat) (x : Block) : (s.setBlock b x).permIn = s.permIn := rfl
@[simp] theorem State.setBlock_permSeen (b : Nat) (x : Block) : (s.setBlock b x).permSeen = s.permSeen := rfl
@[simp] theorem State.setBlock_hbmRetired (b : Nat) (x : Block) : (s.setBlock b x).hbmRetired = s.hbmRetired := rfl
@[simp] theorem State.setBlock_hbmOwed (b : Nat) (x : Block) : (s.setBlock b x).hbmOwed = s.hbmOwed := rfl
@[simp] theorem State.setBlock_lostRows (b : Nat) (x : Block) : (s.setBlock b x).lostRows = s.lostRows := rfl
@[simp] theorem State.setBlock_lnk (b : Nat) (x : Block) : (s.setBlock b x).lnk = s.lnk := rfl
@[simp] theorem State.setBlock_cairn (b : Nat) (x : Block) : (s.setBlock b x).cairn = s.cairn := rfl
@[simp] theorem State.setBlock_qdropped (b : Nat) (x : Block) : (s.setBlock b x).qdropped = s.qdropped := rfl
@[simp] theorem State.setBlock_irq (b : Nat) (x : Block) : (s.setBlock b x).irq = s.irq := rfl
@[simp] theorem State.setBlock_bist (b : Nat) (x : Block) : (s.setBlock b x).bist = s.bist := rfl
@[simp] theorem State.setBlock_phase (b : Nat) (x : Block) : (s.setBlock b x).phase = s.phase := rfl
@[simp] theorem State.setBlock_rlLanes (b : Nat) (x : Block) : (s.setBlock b x).rlLanes = s.rlLanes := rfl
@[simp] theorem State.setBlock_fence (b : Nat) (x : Block) : (s.setBlock b x).fence = s.fence := rfl
@[simp] theorem State.setBlock_derate (b : Nat) (x : Block) : (s.setBlock b x).derate = s.derate := rfl
@[simp] theorem State.setBlock_crest (b : Nat) (x : Block) : (s.setBlock b x).crest = s.crest := rfl
@[simp] theorem State.setBlock_faultQuarantine (b : Nat) (x : Block) : (s.setBlock b x).faultQuarantine = s.faultQuarantine := rfl
@[simp] theorem State.setBlock_purges (b : Nat) (x : Block) : (s.setBlock b x).purges = s.purges := rfl
@[simp] theorem State.setBlock_quarantined (b : Nat) (x : Block) : (s.setBlock b x).quarantined = s.quarantined := rfl
@[simp] theorem State.setBlock_missedEdge (b : Nat) (x : Block) : (s.setBlock b x).missedEdge = s.missedEdge := rfl
@[simp] theorem State.setBlock_passRegs (b : Nat) (x : Block) : (s.setBlock b x).passRegs = s.passRegs := rfl
@[simp] theorem State.setBlock_acctRegs (b : Nat) (x : Block) : (s.setBlock b x).acctRegs = s.acctRegs := rfl
@[simp] theorem State.setBlock_spillJobs (b : Nat) (x : Block) : (s.setBlock b x).spillJobs = s.spillJobs := rfl

/-! ### updBlock -/

@[simp] theorem State.updBlock_pending (b : Nat) (f : Block → Block) : (s.updBlock b f).pending = s.pending := rfl
@[simp] theorem State.updBlock_out (b : Nat) (f : Block → Block) : (s.updBlock b f).out = s.out := rfl
@[simp] theorem State.updBlock_fresh (b : Nat) (f : Block → Block) : (s.updBlock b f).fresh = s.fresh := rfl
@[simp] theorem State.updBlock_nextId (b : Nat) (f : Block → Block) : (s.updBlock b f).nextId = s.nextId := rfl
@[simp] theorem State.updBlock_beat (b : Nat) (f : Block → Block) : (s.updBlock b f).beat = s.beat := rfl
@[simp] theorem State.updBlock_cens (b : Nat) (f : Block → Block) : (s.updBlock b f).cens = s.cens := rfl
@[simp] theorem State.updBlock_census (b : Nat) (f : Block → Block) : (s.updBlock b f).census = s.census := rfl
@[simp] theorem State.updBlock_blocks (b : Nat) (f : Block → Block) : (s.updBlock b f).blocks = Tab.set s.blocks b (f (s.block b)) := rfl
@[simp] theorem State.updBlock_dies (b : Nat) (f : Block → Block) : (s.updBlock b f).dies = s.dies := rfl
@[simp] theorem State.updBlock_pt (b : Nat) (f : Block → Block) : (s.updBlock b f).pt = s.pt := rfl
@[simp] theorem State.updBlock_parts (b : Nat) (f : Block → Block) : (s.updBlock b f).parts = s.parts := rfl
@[simp] theorem State.updBlock_wver (b : Nat) (f : Block → Block) : (s.updBlock b f).wver = s.wver := rfl
@[simp] theorem State.updBlock_holds (b : Nat) (f : Block → Block) : (s.updBlock b f).holds = s.holds := rfl
@[simp] theorem State.updBlock_xtable (b : Nat) (f : Block → Block) : (s.updBlock b f).xtable = s.xtable := rfl
@[simp] theorem State.updBlock_ctxs (b : Nat) (f : Block → Block) : (s.updBlock b f).ctxs = s.ctxs := rfl
@[simp] theorem State.updBlock_strms (b : Nat) (f : Block → Block) : (s.updBlock b f).strms = s.strms := rfl
@[simp] theorem State.updBlock_cmds (b : Nat) (f : Block → Block) : (s.updBlock b f).cmds = s.cmds := rfl
@[simp] theorem State.updBlock_hbm (b : Nat) (f : Block → Block) : (s.updBlock b f).hbm = s.hbm := rfl
@[simp] theorem State.updBlock_permIn (b : Nat) (f : Block → Block) : (s.updBlock b f).permIn = s.permIn := rfl
@[simp] theorem State.updBlock_permSeen (b : Nat) (f : Block → Block) : (s.updBlock b f).permSeen = s.permSeen := rfl
@[simp] theorem State.updBlock_hbmRetired (b : Nat) (f : Block → Block) : (s.updBlock b f).hbmRetired = s.hbmRetired := rfl
@[simp] theorem State.updBlock_hbmOwed (b : Nat) (f : Block → Block) : (s.updBlock b f).hbmOwed = s.hbmOwed := rfl
@[simp] theorem State.updBlock_lostRows (b : Nat) (f : Block → Block) : (s.updBlock b f).lostRows = s.lostRows := rfl
@[simp] theorem State.updBlock_lnk (b : Nat) (f : Block → Block) : (s.updBlock b f).lnk = s.lnk := rfl
@[simp] theorem State.updBlock_cairn (b : Nat) (f : Block → Block) : (s.updBlock b f).cairn = s.cairn := rfl
@[simp] theorem State.updBlock_qdropped (b : Nat) (f : Block → Block) : (s.updBlock b f).qdropped = s.qdropped := rfl
@[simp] theorem State.updBlock_irq (b : Nat) (f : Block → Block) : (s.updBlock b f).irq = s.irq := rfl
@[simp] theorem State.updBlock_bist (b : Nat) (f : Block → Block) : (s.updBlock b f).bist = s.bist := rfl
@[simp] theorem State.updBlock_phase (b : Nat) (f : Block → Block) : (s.updBlock b f).phase = s.phase := rfl
@[simp] theorem State.updBlock_rlLanes (b : Nat) (f : Block → Block) : (s.updBlock b f).rlLanes = s.rlLanes := rfl
@[simp] theorem State.updBlock_fence (b : Nat) (f : Block → Block) : (s.updBlock b f).fence = s.fence := rfl
@[simp] theorem State.updBlock_derate (b : Nat) (f : Block → Block) : (s.updBlock b f).derate = s.derate := rfl
@[simp] theorem State.updBlock_crest (b : Nat) (f : Block → Block) : (s.updBlock b f).crest = s.crest := rfl
@[simp] theorem State.updBlock_faultQuarantine (b : Nat) (f : Block → Block) : (s.updBlock b f).faultQuarantine = s.faultQuarantine := rfl
@[simp] theorem State.updBlock_purges (b : Nat) (f : Block → Block) : (s.updBlock b f).purges = s.purges := rfl
@[simp] theorem State.updBlock_quarantined (b : Nat) (f : Block → Block) : (s.updBlock b f).quarantined = s.quarantined := rfl
@[simp] theorem State.updBlock_missedEdge (b : Nat) (f : Block → Block) : (s.updBlock b f).missedEdge = s.missedEdge := rfl
@[simp] theorem State.updBlock_passRegs (b : Nat) (f : Block → Block) : (s.updBlock b f).passRegs = s.passRegs := rfl
@[simp] theorem State.updBlock_acctRegs (b : Nat) (f : Block → Block) : (s.updBlock b f).acctRegs = s.acctRegs := rfl
@[simp] theorem State.updBlock_spillJobs (b : Nat) (f : Block → Block) : (s.updBlock b f).spillJobs = s.spillJobs := rfl

/-! ### updDie -/

@[simp] theorem State.updDie_pending (d : Nat) (f : Die → Die) : (s.updDie d f).pending = s.pending := rfl
@[simp] theorem State.updDie_out (d : Nat) (f : Die → Die) : (s.updDie d f).out = s.out := rfl
@[simp] theorem State.updDie_fresh (d : Nat) (f : Die → Die) : (s.updDie d f).fresh = s.fresh := rfl
@[simp] theorem State.updDie_nextId (d : Nat) (f : Die → Die) : (s.updDie d f).nextId = s.nextId := rfl
@[simp] theorem State.updDie_beat (d : Nat) (f : Die → Die) : (s.updDie d f).beat = s.beat := rfl
@[simp] theorem State.updDie_cens (d : Nat) (f : Die → Die) : (s.updDie d f).cens = s.cens := rfl
@[simp] theorem State.updDie_census (d : Nat) (f : Die → Die) : (s.updDie d f).census = s.census := rfl
@[simp] theorem State.updDie_blocks (d : Nat) (f : Die → Die) : (s.updDie d f).blocks = s.blocks := rfl
@[simp] theorem State.updDie_dies (d : Nat) (f : Die → Die) : (s.updDie d f).dies = Tab.set s.dies d (f (s.die d)) := rfl
@[simp] theorem State.updDie_pt (d : Nat) (f : Die → Die) : (s.updDie d f).pt = s.pt := rfl
@[simp] theorem State.updDie_parts (d : Nat) (f : Die → Die) : (s.updDie d f).parts = s.parts := rfl
@[simp] theorem State.updDie_wver (d : Nat) (f : Die → Die) : (s.updDie d f).wver = s.wver := rfl
@[simp] theorem State.updDie_holds (d : Nat) (f : Die → Die) : (s.updDie d f).holds = s.holds := rfl
@[simp] theorem State.updDie_xtable (d : Nat) (f : Die → Die) : (s.updDie d f).xtable = s.xtable := rfl
@[simp] theorem State.updDie_ctxs (d : Nat) (f : Die → Die) : (s.updDie d f).ctxs = s.ctxs := rfl
@[simp] theorem State.updDie_strms (d : Nat) (f : Die → Die) : (s.updDie d f).strms = s.strms := rfl
@[simp] theorem State.updDie_cmds (d : Nat) (f : Die → Die) : (s.updDie d f).cmds = s.cmds := rfl
@[simp] theorem State.updDie_hbm (d : Nat) (f : Die → Die) : (s.updDie d f).hbm = s.hbm := rfl
@[simp] theorem State.updDie_permIn (d : Nat) (f : Die → Die) : (s.updDie d f).permIn = s.permIn := rfl
@[simp] theorem State.updDie_permSeen (d : Nat) (f : Die → Die) : (s.updDie d f).permSeen = s.permSeen := rfl
@[simp] theorem State.updDie_hbmRetired (d : Nat) (f : Die → Die) : (s.updDie d f).hbmRetired = s.hbmRetired := rfl
@[simp] theorem State.updDie_hbmOwed (d : Nat) (f : Die → Die) : (s.updDie d f).hbmOwed = s.hbmOwed := rfl
@[simp] theorem State.updDie_lostRows (d : Nat) (f : Die → Die) : (s.updDie d f).lostRows = s.lostRows := rfl
@[simp] theorem State.updDie_lnk (d : Nat) (f : Die → Die) : (s.updDie d f).lnk = s.lnk := rfl
@[simp] theorem State.updDie_cairn (d : Nat) (f : Die → Die) : (s.updDie d f).cairn = s.cairn := rfl
@[simp] theorem State.updDie_qdropped (d : Nat) (f : Die → Die) : (s.updDie d f).qdropped = s.qdropped := rfl
@[simp] theorem State.updDie_irq (d : Nat) (f : Die → Die) : (s.updDie d f).irq = s.irq := rfl
@[simp] theorem State.updDie_bist (d : Nat) (f : Die → Die) : (s.updDie d f).bist = s.bist := rfl
@[simp] theorem State.updDie_phase (d : Nat) (f : Die → Die) : (s.updDie d f).phase = s.phase := rfl
@[simp] theorem State.updDie_rlLanes (d : Nat) (f : Die → Die) : (s.updDie d f).rlLanes = s.rlLanes := rfl
@[simp] theorem State.updDie_fence (d : Nat) (f : Die → Die) : (s.updDie d f).fence = s.fence := rfl
@[simp] theorem State.updDie_derate (d : Nat) (f : Die → Die) : (s.updDie d f).derate = s.derate := rfl
@[simp] theorem State.updDie_crest (d : Nat) (f : Die → Die) : (s.updDie d f).crest = s.crest := rfl
@[simp] theorem State.updDie_faultQuarantine (d : Nat) (f : Die → Die) : (s.updDie d f).faultQuarantine = s.faultQuarantine := rfl
@[simp] theorem State.updDie_purges (d : Nat) (f : Die → Die) : (s.updDie d f).purges = s.purges := rfl
@[simp] theorem State.updDie_quarantined (d : Nat) (f : Die → Die) : (s.updDie d f).quarantined = s.quarantined := rfl
@[simp] theorem State.updDie_missedEdge (d : Nat) (f : Die → Die) : (s.updDie d f).missedEdge = s.missedEdge := rfl
@[simp] theorem State.updDie_passRegs (d : Nat) (f : Die → Die) : (s.updDie d f).passRegs = s.passRegs := rfl
@[simp] theorem State.updDie_acctRegs (d : Nat) (f : Die → Die) : (s.updDie d f).acctRegs = s.acctRegs := rfl
@[simp] theorem State.updDie_spillJobs (d : Nat) (f : Die → Die) : (s.updDie d f).spillJobs = s.spillJobs := rfl

/-! ### updCtx -/

@[simp] theorem State.updCtx_pending (c : Nat) (f : Ctx → Ctx) : (s.updCtx c f).pending = s.pending := rfl
@[simp] theorem State.updCtx_out (c : Nat) (f : Ctx → Ctx) : (s.updCtx c f).out = s.out := rfl
@[simp] theorem State.updCtx_fresh (c : Nat) (f : Ctx → Ctx) : (s.updCtx c f).fresh = s.fresh := rfl
@[simp] theorem State.updCtx_nextId (c : Nat) (f : Ctx → Ctx) : (s.updCtx c f).nextId = s.nextId := rfl
@[simp] theorem State.updCtx_beat (c : Nat) (f : Ctx → Ctx) : (s.updCtx c f).beat = s.beat := rfl
@[simp] theorem State.updCtx_cens (c : Nat) (f : Ctx → Ctx) : (s.updCtx c f).cens = s.cens := rfl
@[simp] theorem State.updCtx_census (c : Nat) (f : Ctx → Ctx) : (s.updCtx c f).census = s.census := rfl
@[simp] theorem State.updCtx_blocks (c : Nat) (f : Ctx → Ctx) : (s.updCtx c f).blocks = s.blocks := rfl
@[simp] theorem State.updCtx_dies (c : Nat) (f : Ctx → Ctx) : (s.updCtx c f).dies = s.dies := rfl
@[simp] theorem State.updCtx_pt (c : Nat) (f : Ctx → Ctx) : (s.updCtx c f).pt = s.pt := rfl
@[simp] theorem State.updCtx_parts (c : Nat) (f : Ctx → Ctx) : (s.updCtx c f).parts = s.parts := rfl
@[simp] theorem State.updCtx_wver (c : Nat) (f : Ctx → Ctx) : (s.updCtx c f).wver = s.wver := rfl
@[simp] theorem State.updCtx_holds (c : Nat) (f : Ctx → Ctx) : (s.updCtx c f).holds = s.holds := rfl
@[simp] theorem State.updCtx_xtable (c : Nat) (f : Ctx → Ctx) : (s.updCtx c f).xtable = s.xtable := rfl
@[simp] theorem State.updCtx_ctxs (c : Nat) (f : Ctx → Ctx) : (s.updCtx c f).ctxs = Tab.set s.ctxs c (f (s.ctx c)) := rfl
@[simp] theorem State.updCtx_strms (c : Nat) (f : Ctx → Ctx) : (s.updCtx c f).strms = s.strms := rfl
@[simp] theorem State.updCtx_cmds (c : Nat) (f : Ctx → Ctx) : (s.updCtx c f).cmds = s.cmds := rfl
@[simp] theorem State.updCtx_hbm (c : Nat) (f : Ctx → Ctx) : (s.updCtx c f).hbm = s.hbm := rfl
@[simp] theorem State.updCtx_permIn (c : Nat) (f : Ctx → Ctx) : (s.updCtx c f).permIn = s.permIn := rfl
@[simp] theorem State.updCtx_permSeen (c : Nat) (f : Ctx → Ctx) : (s.updCtx c f).permSeen = s.permSeen := rfl
@[simp] theorem State.updCtx_hbmRetired (c : Nat) (f : Ctx → Ctx) : (s.updCtx c f).hbmRetired = s.hbmRetired := rfl
@[simp] theorem State.updCtx_hbmOwed (c : Nat) (f : Ctx → Ctx) : (s.updCtx c f).hbmOwed = s.hbmOwed := rfl
@[simp] theorem State.updCtx_lostRows (c : Nat) (f : Ctx → Ctx) : (s.updCtx c f).lostRows = s.lostRows := rfl
@[simp] theorem State.updCtx_lnk (c : Nat) (f : Ctx → Ctx) : (s.updCtx c f).lnk = s.lnk := rfl
@[simp] theorem State.updCtx_cairn (c : Nat) (f : Ctx → Ctx) : (s.updCtx c f).cairn = s.cairn := rfl
@[simp] theorem State.updCtx_qdropped (c : Nat) (f : Ctx → Ctx) : (s.updCtx c f).qdropped = s.qdropped := rfl
@[simp] theorem State.updCtx_irq (c : Nat) (f : Ctx → Ctx) : (s.updCtx c f).irq = s.irq := rfl
@[simp] theorem State.updCtx_bist (c : Nat) (f : Ctx → Ctx) : (s.updCtx c f).bist = s.bist := rfl
@[simp] theorem State.updCtx_phase (c : Nat) (f : Ctx → Ctx) : (s.updCtx c f).phase = s.phase := rfl
@[simp] theorem State.updCtx_rlLanes (c : Nat) (f : Ctx → Ctx) : (s.updCtx c f).rlLanes = s.rlLanes := rfl
@[simp] theorem State.updCtx_fence (c : Nat) (f : Ctx → Ctx) : (s.updCtx c f).fence = s.fence := rfl
@[simp] theorem State.updCtx_derate (c : Nat) (f : Ctx → Ctx) : (s.updCtx c f).derate = s.derate := rfl
@[simp] theorem State.updCtx_crest (c : Nat) (f : Ctx → Ctx) : (s.updCtx c f).crest = s.crest := rfl
@[simp] theorem State.updCtx_faultQuarantine (c : Nat) (f : Ctx → Ctx) : (s.updCtx c f).faultQuarantine = s.faultQuarantine := rfl
@[simp] theorem State.updCtx_purges (c : Nat) (f : Ctx → Ctx) : (s.updCtx c f).purges = s.purges := rfl
@[simp] theorem State.updCtx_quarantined (c : Nat) (f : Ctx → Ctx) : (s.updCtx c f).quarantined = s.quarantined := rfl
@[simp] theorem State.updCtx_missedEdge (c : Nat) (f : Ctx → Ctx) : (s.updCtx c f).missedEdge = s.missedEdge := rfl
@[simp] theorem State.updCtx_passRegs (c : Nat) (f : Ctx → Ctx) : (s.updCtx c f).passRegs = s.passRegs := rfl
@[simp] theorem State.updCtx_acctRegs (c : Nat) (f : Ctx → Ctx) : (s.updCtx c f).acctRegs = s.acctRegs := rfl
@[simp] theorem State.updCtx_spillJobs (c : Nat) (f : Ctx → Ctx) : (s.updCtx c f).spillJobs = s.spillJobs := rfl

/-! ### updStrm -/

@[simp] theorem State.updStrm_pending (g : Nat) (f : Strm → Strm) : (s.updStrm g f).pending = s.pending := rfl
@[simp] theorem State.updStrm_out (g : Nat) (f : Strm → Strm) : (s.updStrm g f).out = s.out := rfl
@[simp] theorem State.updStrm_fresh (g : Nat) (f : Strm → Strm) : (s.updStrm g f).fresh = s.fresh := rfl
@[simp] theorem State.updStrm_nextId (g : Nat) (f : Strm → Strm) : (s.updStrm g f).nextId = s.nextId := rfl
@[simp] theorem State.updStrm_beat (g : Nat) (f : Strm → Strm) : (s.updStrm g f).beat = s.beat := rfl
@[simp] theorem State.updStrm_cens (g : Nat) (f : Strm → Strm) : (s.updStrm g f).cens = s.cens := rfl
@[simp] theorem State.updStrm_census (g : Nat) (f : Strm → Strm) : (s.updStrm g f).census = s.census := rfl
@[simp] theorem State.updStrm_blocks (g : Nat) (f : Strm → Strm) : (s.updStrm g f).blocks = s.blocks := rfl
@[simp] theorem State.updStrm_dies (g : Nat) (f : Strm → Strm) : (s.updStrm g f).dies = s.dies := rfl
@[simp] theorem State.updStrm_pt (g : Nat) (f : Strm → Strm) : (s.updStrm g f).pt = s.pt := rfl
@[simp] theorem State.updStrm_parts (g : Nat) (f : Strm → Strm) : (s.updStrm g f).parts = s.parts := rfl
@[simp] theorem State.updStrm_wver (g : Nat) (f : Strm → Strm) : (s.updStrm g f).wver = s.wver := rfl
@[simp] theorem State.updStrm_holds (g : Nat) (f : Strm → Strm) : (s.updStrm g f).holds = s.holds := rfl
@[simp] theorem State.updStrm_xtable (g : Nat) (f : Strm → Strm) : (s.updStrm g f).xtable = s.xtable := rfl
@[simp] theorem State.updStrm_ctxs (g : Nat) (f : Strm → Strm) : (s.updStrm g f).ctxs = s.ctxs := rfl
@[simp] theorem State.updStrm_strms (g : Nat) (f : Strm → Strm) : (s.updStrm g f).strms = Tab.set s.strms g (f (s.strm g)) := rfl
@[simp] theorem State.updStrm_cmds (g : Nat) (f : Strm → Strm) : (s.updStrm g f).cmds = s.cmds := rfl
@[simp] theorem State.updStrm_hbm (g : Nat) (f : Strm → Strm) : (s.updStrm g f).hbm = s.hbm := rfl
@[simp] theorem State.updStrm_permIn (g : Nat) (f : Strm → Strm) : (s.updStrm g f).permIn = s.permIn := rfl
@[simp] theorem State.updStrm_permSeen (g : Nat) (f : Strm → Strm) : (s.updStrm g f).permSeen = s.permSeen := rfl
@[simp] theorem State.updStrm_hbmRetired (g : Nat) (f : Strm → Strm) : (s.updStrm g f).hbmRetired = s.hbmRetired := rfl
@[simp] theorem State.updStrm_hbmOwed (g : Nat) (f : Strm → Strm) : (s.updStrm g f).hbmOwed = s.hbmOwed := rfl
@[simp] theorem State.updStrm_lostRows (g : Nat) (f : Strm → Strm) : (s.updStrm g f).lostRows = s.lostRows := rfl
@[simp] theorem State.updStrm_lnk (g : Nat) (f : Strm → Strm) : (s.updStrm g f).lnk = s.lnk := rfl
@[simp] theorem State.updStrm_cairn (g : Nat) (f : Strm → Strm) : (s.updStrm g f).cairn = s.cairn := rfl
@[simp] theorem State.updStrm_qdropped (g : Nat) (f : Strm → Strm) : (s.updStrm g f).qdropped = s.qdropped := rfl
@[simp] theorem State.updStrm_irq (g : Nat) (f : Strm → Strm) : (s.updStrm g f).irq = s.irq := rfl
@[simp] theorem State.updStrm_bist (g : Nat) (f : Strm → Strm) : (s.updStrm g f).bist = s.bist := rfl
@[simp] theorem State.updStrm_phase (g : Nat) (f : Strm → Strm) : (s.updStrm g f).phase = s.phase := rfl
@[simp] theorem State.updStrm_rlLanes (g : Nat) (f : Strm → Strm) : (s.updStrm g f).rlLanes = s.rlLanes := rfl
@[simp] theorem State.updStrm_fence (g : Nat) (f : Strm → Strm) : (s.updStrm g f).fence = s.fence := rfl
@[simp] theorem State.updStrm_derate (g : Nat) (f : Strm → Strm) : (s.updStrm g f).derate = s.derate := rfl
@[simp] theorem State.updStrm_crest (g : Nat) (f : Strm → Strm) : (s.updStrm g f).crest = s.crest := rfl
@[simp] theorem State.updStrm_faultQuarantine (g : Nat) (f : Strm → Strm) : (s.updStrm g f).faultQuarantine = s.faultQuarantine := rfl
@[simp] theorem State.updStrm_purges (g : Nat) (f : Strm → Strm) : (s.updStrm g f).purges = s.purges := rfl
@[simp] theorem State.updStrm_quarantined (g : Nat) (f : Strm → Strm) : (s.updStrm g f).quarantined = s.quarantined := rfl
@[simp] theorem State.updStrm_missedEdge (g : Nat) (f : Strm → Strm) : (s.updStrm g f).missedEdge = s.missedEdge := rfl
@[simp] theorem State.updStrm_passRegs (g : Nat) (f : Strm → Strm) : (s.updStrm g f).passRegs = s.passRegs := rfl
@[simp] theorem State.updStrm_acctRegs (g : Nat) (f : Strm → Strm) : (s.updStrm g f).acctRegs = s.acctRegs := rfl
@[simp] theorem State.updStrm_spillJobs (g : Nat) (f : Strm → Strm) : (s.updStrm g f).spillJobs = s.spillJobs := rfl

/-! ### updPart -/

@[simp] theorem State.updPart_pending (p : Nat) (f : Part → Part) : (s.updPart p f).pending = s.pending := rfl
@[simp] theorem State.updPart_out (p : Nat) (f : Part → Part) : (s.updPart p f).out = s.out := rfl
@[simp] theorem State.updPart_fresh (p : Nat) (f : Part → Part) : (s.updPart p f).fresh = s.fresh := rfl
@[simp] theorem State.updPart_nextId (p : Nat) (f : Part → Part) : (s.updPart p f).nextId = s.nextId := rfl
@[simp] theorem State.updPart_beat (p : Nat) (f : Part → Part) : (s.updPart p f).beat = s.beat := rfl
@[simp] theorem State.updPart_cens (p : Nat) (f : Part → Part) : (s.updPart p f).cens = s.cens := rfl
@[simp] theorem State.updPart_census (p : Nat) (f : Part → Part) : (s.updPart p f).census = s.census := rfl
@[simp] theorem State.updPart_blocks (p : Nat) (f : Part → Part) : (s.updPart p f).blocks = s.blocks := rfl
@[simp] theorem State.updPart_dies (p : Nat) (f : Part → Part) : (s.updPart p f).dies = s.dies := rfl
@[simp] theorem State.updPart_pt (p : Nat) (f : Part → Part) : (s.updPart p f).pt = s.pt := rfl
@[simp] theorem State.updPart_parts (p : Nat) (f : Part → Part) : (s.updPart p f).parts = Tab.set s.parts p (f (s.part p)) := rfl
@[simp] theorem State.updPart_wver (p : Nat) (f : Part → Part) : (s.updPart p f).wver = s.wver := rfl
@[simp] theorem State.updPart_holds (p : Nat) (f : Part → Part) : (s.updPart p f).holds = s.holds := rfl
@[simp] theorem State.updPart_xtable (p : Nat) (f : Part → Part) : (s.updPart p f).xtable = s.xtable := rfl
@[simp] theorem State.updPart_ctxs (p : Nat) (f : Part → Part) : (s.updPart p f).ctxs = s.ctxs := rfl
@[simp] theorem State.updPart_strms (p : Nat) (f : Part → Part) : (s.updPart p f).strms = s.strms := rfl
@[simp] theorem State.updPart_cmds (p : Nat) (f : Part → Part) : (s.updPart p f).cmds = s.cmds := rfl
@[simp] theorem State.updPart_hbm (p : Nat) (f : Part → Part) : (s.updPart p f).hbm = s.hbm := rfl
@[simp] theorem State.updPart_permIn (p : Nat) (f : Part → Part) : (s.updPart p f).permIn = s.permIn := rfl
@[simp] theorem State.updPart_permSeen (p : Nat) (f : Part → Part) : (s.updPart p f).permSeen = s.permSeen := rfl
@[simp] theorem State.updPart_hbmRetired (p : Nat) (f : Part → Part) : (s.updPart p f).hbmRetired = s.hbmRetired := rfl
@[simp] theorem State.updPart_hbmOwed (p : Nat) (f : Part → Part) : (s.updPart p f).hbmOwed = s.hbmOwed := rfl
@[simp] theorem State.updPart_lostRows (p : Nat) (f : Part → Part) : (s.updPart p f).lostRows = s.lostRows := rfl
@[simp] theorem State.updPart_lnk (p : Nat) (f : Part → Part) : (s.updPart p f).lnk = s.lnk := rfl
@[simp] theorem State.updPart_cairn (p : Nat) (f : Part → Part) : (s.updPart p f).cairn = s.cairn := rfl
@[simp] theorem State.updPart_qdropped (p : Nat) (f : Part → Part) : (s.updPart p f).qdropped = s.qdropped := rfl
@[simp] theorem State.updPart_irq (p : Nat) (f : Part → Part) : (s.updPart p f).irq = s.irq := rfl
@[simp] theorem State.updPart_bist (p : Nat) (f : Part → Part) : (s.updPart p f).bist = s.bist := rfl
@[simp] theorem State.updPart_phase (p : Nat) (f : Part → Part) : (s.updPart p f).phase = s.phase := rfl
@[simp] theorem State.updPart_rlLanes (p : Nat) (f : Part → Part) : (s.updPart p f).rlLanes = s.rlLanes := rfl
@[simp] theorem State.updPart_fence (p : Nat) (f : Part → Part) : (s.updPart p f).fence = s.fence := rfl
@[simp] theorem State.updPart_derate (p : Nat) (f : Part → Part) : (s.updPart p f).derate = s.derate := rfl
@[simp] theorem State.updPart_crest (p : Nat) (f : Part → Part) : (s.updPart p f).crest = s.crest := rfl
@[simp] theorem State.updPart_faultQuarantine (p : Nat) (f : Part → Part) : (s.updPart p f).faultQuarantine = s.faultQuarantine := rfl
@[simp] theorem State.updPart_purges (p : Nat) (f : Part → Part) : (s.updPart p f).purges = s.purges := rfl
@[simp] theorem State.updPart_quarantined (p : Nat) (f : Part → Part) : (s.updPart p f).quarantined = s.quarantined := rfl
@[simp] theorem State.updPart_missedEdge (p : Nat) (f : Part → Part) : (s.updPart p f).missedEdge = s.missedEdge := rfl
@[simp] theorem State.updPart_passRegs (p : Nat) (f : Part → Part) : (s.updPart p f).passRegs = s.passRegs := rfl
@[simp] theorem State.updPart_acctRegs (p : Nat) (f : Part → Part) : (s.updPart p f).acctRegs = s.acctRegs := rfl
@[simp] theorem State.updPart_spillJobs (p : Nat) (f : Part → Part) : (s.updPart p f).spillJobs = s.spillJobs := rfl

/-! ### updPort -/

@[simp] theorem State.updPort_pending (p : Nat) (f : Port → Port) : (s.updPort p f).pending = s.pending := rfl
@[simp] theorem State.updPort_out (p : Nat) (f : Port → Port) : (s.updPort p f).out = s.out := rfl
@[simp] theorem State.updPort_fresh (p : Nat) (f : Port → Port) : (s.updPort p f).fresh = s.fresh := rfl
@[simp] theorem State.updPort_nextId (p : Nat) (f : Port → Port) : (s.updPort p f).nextId = s.nextId := rfl
@[simp] theorem State.updPort_beat (p : Nat) (f : Port → Port) : (s.updPort p f).beat = s.beat := rfl
@[simp] theorem State.updPort_cens (p : Nat) (f : Port → Port) : (s.updPort p f).cens = s.cens := rfl
@[simp] theorem State.updPort_census (p : Nat) (f : Port → Port) : (s.updPort p f).census = s.census := rfl
@[simp] theorem State.updPort_blocks (p : Nat) (f : Port → Port) : (s.updPort p f).blocks = s.blocks := rfl
@[simp] theorem State.updPort_dies (p : Nat) (f : Port → Port) : (s.updPort p f).dies = s.dies := rfl
@[simp] theorem State.updPort_pt (p : Nat) (f : Port → Port) : (s.updPort p f).pt = s.pt := rfl
@[simp] theorem State.updPort_parts (p : Nat) (f : Port → Port) : (s.updPort p f).parts = s.parts := rfl
@[simp] theorem State.updPort_wver (p : Nat) (f : Port → Port) : (s.updPort p f).wver = s.wver := rfl
@[simp] theorem State.updPort_holds (p : Nat) (f : Port → Port) : (s.updPort p f).holds = s.holds := rfl
@[simp] theorem State.updPort_xtable (p : Nat) (f : Port → Port) : (s.updPort p f).xtable = s.xtable := rfl
@[simp] theorem State.updPort_ctxs (p : Nat) (f : Port → Port) : (s.updPort p f).ctxs = s.ctxs := rfl
@[simp] theorem State.updPort_strms (p : Nat) (f : Port → Port) : (s.updPort p f).strms = s.strms := rfl
@[simp] theorem State.updPort_cmds (p : Nat) (f : Port → Port) : (s.updPort p f).cmds = s.cmds := rfl
@[simp] theorem State.updPort_hbm (p : Nat) (f : Port → Port) : (s.updPort p f).hbm = s.hbm := rfl
@[simp] theorem State.updPort_permIn (p : Nat) (f : Port → Port) : (s.updPort p f).permIn = s.permIn := rfl
@[simp] theorem State.updPort_permSeen (p : Nat) (f : Port → Port) : (s.updPort p f).permSeen = s.permSeen := rfl
@[simp] theorem State.updPort_hbmRetired (p : Nat) (f : Port → Port) : (s.updPort p f).hbmRetired = s.hbmRetired := rfl
@[simp] theorem State.updPort_hbmOwed (p : Nat) (f : Port → Port) : (s.updPort p f).hbmOwed = s.hbmOwed := rfl
@[simp] theorem State.updPort_lostRows (p : Nat) (f : Port → Port) : (s.updPort p f).lostRows = s.lostRows := rfl
@[simp] theorem State.updPort_cairn (p : Nat) (f : Port → Port) : (s.updPort p f).cairn = s.cairn := rfl
@[simp] theorem State.updPort_qdropped (p : Nat) (f : Port → Port) : (s.updPort p f).qdropped = s.qdropped := rfl
@[simp] theorem State.updPort_irq (p : Nat) (f : Port → Port) : (s.updPort p f).irq = s.irq := rfl
@[simp] theorem State.updPort_bist (p : Nat) (f : Port → Port) : (s.updPort p f).bist = s.bist := rfl
@[simp] theorem State.updPort_phase (p : Nat) (f : Port → Port) : (s.updPort p f).phase = s.phase := rfl
@[simp] theorem State.updPort_rlLanes (p : Nat) (f : Port → Port) : (s.updPort p f).rlLanes = s.rlLanes := rfl
@[simp] theorem State.updPort_fence (p : Nat) (f : Port → Port) : (s.updPort p f).fence = s.fence := rfl
@[simp] theorem State.updPort_derate (p : Nat) (f : Port → Port) : (s.updPort p f).derate = s.derate := rfl
@[simp] theorem State.updPort_crest (p : Nat) (f : Port → Port) : (s.updPort p f).crest = s.crest := rfl
@[simp] theorem State.updPort_faultQuarantine (p : Nat) (f : Port → Port) : (s.updPort p f).faultQuarantine = s.faultQuarantine := rfl
@[simp] theorem State.updPort_purges (p : Nat) (f : Port → Port) : (s.updPort p f).purges = s.purges := rfl
@[simp] theorem State.updPort_quarantined (p : Nat) (f : Port → Port) : (s.updPort p f).quarantined = s.quarantined := rfl
@[simp] theorem State.updPort_missedEdge (p : Nat) (f : Port → Port) : (s.updPort p f).missedEdge = s.missedEdge := rfl
@[simp] theorem State.updPort_passRegs (p : Nat) (f : Port → Port) : (s.updPort p f).passRegs = s.passRegs := rfl
@[simp] theorem State.updPort_acctRegs (p : Nat) (f : Port → Port) : (s.updPort p f).acctRegs = s.acctRegs := rfl
@[simp] theorem State.updPort_spillJobs (p : Nat) (f : Port → Port) : (s.updPort p f).spillJobs = s.spillJobs := rfl

/-! ### updWeight -/

@[simp] theorem State.updWeight_pending (w : Nat) (f : WVer → WVer) : (s.updWeight w f).pending = s.pending := rfl
@[simp] theorem State.updWeight_out (w : Nat) (f : WVer → WVer) : (s.updWeight w f).out = s.out := rfl
@[simp] theorem State.updWeight_fresh (w : Nat) (f : WVer → WVer) : (s.updWeight w f).fresh = s.fresh := rfl
@[simp] theorem State.updWeight_nextId (w : Nat) (f : WVer → WVer) : (s.updWeight w f).nextId = s.nextId := rfl
@[simp] theorem State.updWeight_beat (w : Nat) (f : WVer → WVer) : (s.updWeight w f).beat = s.beat := rfl
@[simp] theorem State.updWeight_cens (w : Nat) (f : WVer → WVer) : (s.updWeight w f).cens = s.cens := rfl
@[simp] theorem State.updWeight_census (w : Nat) (f : WVer → WVer) : (s.updWeight w f).census = s.census := rfl
@[simp] theorem State.updWeight_blocks (w : Nat) (f : WVer → WVer) : (s.updWeight w f).blocks = s.blocks := rfl
@[simp] theorem State.updWeight_dies (w : Nat) (f : WVer → WVer) : (s.updWeight w f).dies = s.dies := rfl
@[simp] theorem State.updWeight_pt (w : Nat) (f : WVer → WVer) : (s.updWeight w f).pt = s.pt := rfl
@[simp] theorem State.updWeight_parts (w : Nat) (f : WVer → WVer) : (s.updWeight w f).parts = s.parts := rfl
@[simp] theorem State.updWeight_wver (w : Nat) (f : WVer → WVer) : (s.updWeight w f).wver = Tab.set s.wver w (f (s.weight w)) := rfl
@[simp] theorem State.updWeight_holds (w : Nat) (f : WVer → WVer) : (s.updWeight w f).holds = s.holds := rfl
@[simp] theorem State.updWeight_xtable (w : Nat) (f : WVer → WVer) : (s.updWeight w f).xtable = s.xtable := rfl
@[simp] theorem State.updWeight_ctxs (w : Nat) (f : WVer → WVer) : (s.updWeight w f).ctxs = s.ctxs := rfl
@[simp] theorem State.updWeight_strms (w : Nat) (f : WVer → WVer) : (s.updWeight w f).strms = s.strms := rfl
@[simp] theorem State.updWeight_cmds (w : Nat) (f : WVer → WVer) : (s.updWeight w f).cmds = s.cmds := rfl
@[simp] theorem State.updWeight_hbm (w : Nat) (f : WVer → WVer) : (s.updWeight w f).hbm = s.hbm := rfl
@[simp] theorem State.updWeight_permIn (w : Nat) (f : WVer → WVer) : (s.updWeight w f).permIn = s.permIn := rfl
@[simp] theorem State.updWeight_permSeen (w : Nat) (f : WVer → WVer) : (s.updWeight w f).permSeen = s.permSeen := rfl
@[simp] theorem State.updWeight_hbmRetired (w : Nat) (f : WVer → WVer) : (s.updWeight w f).hbmRetired = s.hbmRetired := rfl
@[simp] theorem State.updWeight_hbmOwed (w : Nat) (f : WVer → WVer) : (s.updWeight w f).hbmOwed = s.hbmOwed := rfl
@[simp] theorem State.updWeight_lostRows (w : Nat) (f : WVer → WVer) : (s.updWeight w f).lostRows = s.lostRows := rfl
@[simp] theorem State.updWeight_lnk (w : Nat) (f : WVer → WVer) : (s.updWeight w f).lnk = s.lnk := rfl
@[simp] theorem State.updWeight_cairn (w : Nat) (f : WVer → WVer) : (s.updWeight w f).cairn = s.cairn := rfl
@[simp] theorem State.updWeight_qdropped (w : Nat) (f : WVer → WVer) : (s.updWeight w f).qdropped = s.qdropped := rfl
@[simp] theorem State.updWeight_irq (w : Nat) (f : WVer → WVer) : (s.updWeight w f).irq = s.irq := rfl
@[simp] theorem State.updWeight_bist (w : Nat) (f : WVer → WVer) : (s.updWeight w f).bist = s.bist := rfl
@[simp] theorem State.updWeight_phase (w : Nat) (f : WVer → WVer) : (s.updWeight w f).phase = s.phase := rfl
@[simp] theorem State.updWeight_rlLanes (w : Nat) (f : WVer → WVer) : (s.updWeight w f).rlLanes = s.rlLanes := rfl
@[simp] theorem State.updWeight_fence (w : Nat) (f : WVer → WVer) : (s.updWeight w f).fence = s.fence := rfl
@[simp] theorem State.updWeight_derate (w : Nat) (f : WVer → WVer) : (s.updWeight w f).derate = s.derate := rfl
@[simp] theorem State.updWeight_crest (w : Nat) (f : WVer → WVer) : (s.updWeight w f).crest = s.crest := rfl
@[simp] theorem State.updWeight_faultQuarantine (w : Nat) (f : WVer → WVer) : (s.updWeight w f).faultQuarantine = s.faultQuarantine := rfl
@[simp] theorem State.updWeight_purges (w : Nat) (f : WVer → WVer) : (s.updWeight w f).purges = s.purges := rfl
@[simp] theorem State.updWeight_quarantined (w : Nat) (f : WVer → WVer) : (s.updWeight w f).quarantined = s.quarantined := rfl
@[simp] theorem State.updWeight_missedEdge (w : Nat) (f : WVer → WVer) : (s.updWeight w f).missedEdge = s.missedEdge := rfl
@[simp] theorem State.updWeight_passRegs (w : Nat) (f : WVer → WVer) : (s.updWeight w f).passRegs = s.passRegs := rfl
@[simp] theorem State.updWeight_acctRegs (w : Nat) (f : WVer → WVer) : (s.updWeight w f).acctRegs = s.acctRegs := rfl
@[simp] theorem State.updWeight_spillJobs (w : Nat) (f : WVer → WVer) : (s.updWeight w f).spillJobs = s.spillJobs := rfl

/-! ### updCmd -/

@[simp] theorem State.updCmd_pending (id : Nat) (f : Cmd → Cmd) : (s.updCmd id f).pending = s.pending := rfl
@[simp] theorem State.updCmd_out (id : Nat) (f : Cmd → Cmd) : (s.updCmd id f).out = s.out := rfl
@[simp] theorem State.updCmd_fresh (id : Nat) (f : Cmd → Cmd) : (s.updCmd id f).fresh = s.fresh := rfl
@[simp] theorem State.updCmd_nextId (id : Nat) (f : Cmd → Cmd) : (s.updCmd id f).nextId = s.nextId := rfl
@[simp] theorem State.updCmd_beat (id : Nat) (f : Cmd → Cmd) : (s.updCmd id f).beat = s.beat := rfl
@[simp] theorem State.updCmd_cens (id : Nat) (f : Cmd → Cmd) : (s.updCmd id f).cens = s.cens := rfl
@[simp] theorem State.updCmd_census (id : Nat) (f : Cmd → Cmd) : (s.updCmd id f).census = s.census := rfl
@[simp] theorem State.updCmd_blocks (id : Nat) (f : Cmd → Cmd) : (s.updCmd id f).blocks = s.blocks := rfl
@[simp] theorem State.updCmd_dies (id : Nat) (f : Cmd → Cmd) : (s.updCmd id f).dies = s.dies := rfl
@[simp] theorem State.updCmd_pt (id : Nat) (f : Cmd → Cmd) : (s.updCmd id f).pt = s.pt := rfl
@[simp] theorem State.updCmd_parts (id : Nat) (f : Cmd → Cmd) : (s.updCmd id f).parts = s.parts := rfl
@[simp] theorem State.updCmd_wver (id : Nat) (f : Cmd → Cmd) : (s.updCmd id f).wver = s.wver := rfl
@[simp] theorem State.updCmd_holds (id : Nat) (f : Cmd → Cmd) : (s.updCmd id f).holds = s.holds := rfl
@[simp] theorem State.updCmd_xtable (id : Nat) (f : Cmd → Cmd) : (s.updCmd id f).xtable = s.xtable := rfl
@[simp] theorem State.updCmd_ctxs (id : Nat) (f : Cmd → Cmd) : (s.updCmd id f).ctxs = s.ctxs := rfl
@[simp] theorem State.updCmd_strms (id : Nat) (f : Cmd → Cmd) : (s.updCmd id f).strms = s.strms := rfl
@[simp] theorem State.updCmd_cmds (id : Nat) (f : Cmd → Cmd) : (s.updCmd id f).cmds = s.cmds.map (fun (c : Cmd) => if c.id = id then f c else c) := rfl
@[simp] theorem State.updCmd_hbm (id : Nat) (f : Cmd → Cmd) : (s.updCmd id f).hbm = s.hbm := rfl
@[simp] theorem State.updCmd_permIn (id : Nat) (f : Cmd → Cmd) : (s.updCmd id f).permIn = s.permIn := rfl
@[simp] theorem State.updCmd_permSeen (id : Nat) (f : Cmd → Cmd) : (s.updCmd id f).permSeen = s.permSeen := rfl
@[simp] theorem State.updCmd_hbmRetired (id : Nat) (f : Cmd → Cmd) : (s.updCmd id f).hbmRetired = s.hbmRetired := rfl
@[simp] theorem State.updCmd_hbmOwed (id : Nat) (f : Cmd → Cmd) : (s.updCmd id f).hbmOwed = s.hbmOwed := rfl
@[simp] theorem State.updCmd_lostRows (id : Nat) (f : Cmd → Cmd) : (s.updCmd id f).lostRows = s.lostRows := rfl
@[simp] theorem State.updCmd_lnk (id : Nat) (f : Cmd → Cmd) : (s.updCmd id f).lnk = s.lnk := rfl
@[simp] theorem State.updCmd_cairn (id : Nat) (f : Cmd → Cmd) : (s.updCmd id f).cairn = s.cairn := rfl
@[simp] theorem State.updCmd_qdropped (id : Nat) (f : Cmd → Cmd) : (s.updCmd id f).qdropped = s.qdropped := rfl
@[simp] theorem State.updCmd_irq (id : Nat) (f : Cmd → Cmd) : (s.updCmd id f).irq = s.irq := rfl
@[simp] theorem State.updCmd_bist (id : Nat) (f : Cmd → Cmd) : (s.updCmd id f).bist = s.bist := rfl
@[simp] theorem State.updCmd_phase (id : Nat) (f : Cmd → Cmd) : (s.updCmd id f).phase = s.phase := rfl
@[simp] theorem State.updCmd_rlLanes (id : Nat) (f : Cmd → Cmd) : (s.updCmd id f).rlLanes = s.rlLanes := rfl
@[simp] theorem State.updCmd_fence (id : Nat) (f : Cmd → Cmd) : (s.updCmd id f).fence = s.fence := rfl
@[simp] theorem State.updCmd_derate (id : Nat) (f : Cmd → Cmd) : (s.updCmd id f).derate = s.derate := rfl
@[simp] theorem State.updCmd_crest (id : Nat) (f : Cmd → Cmd) : (s.updCmd id f).crest = s.crest := rfl
@[simp] theorem State.updCmd_faultQuarantine (id : Nat) (f : Cmd → Cmd) : (s.updCmd id f).faultQuarantine = s.faultQuarantine := rfl
@[simp] theorem State.updCmd_purges (id : Nat) (f : Cmd → Cmd) : (s.updCmd id f).purges = s.purges := rfl
@[simp] theorem State.updCmd_quarantined (id : Nat) (f : Cmd → Cmd) : (s.updCmd id f).quarantined = s.quarantined := rfl
@[simp] theorem State.updCmd_missedEdge (id : Nat) (f : Cmd → Cmd) : (s.updCmd id f).missedEdge = s.missedEdge := rfl
@[simp] theorem State.updCmd_passRegs (id : Nat) (f : Cmd → Cmd) : (s.updCmd id f).passRegs = s.passRegs := rfl
@[simp] theorem State.updCmd_acctRegs (id : Nat) (f : Cmd → Cmd) : (s.updCmd id f).acctRegs = s.acctRegs := rfl
@[simp] theorem State.updCmd_spillJobs (id : Nat) (f : Cmd → Cmd) : (s.updCmd id f).spillJobs = s.spillJobs := rfl

/-! ### dropCmd -/

@[simp] theorem State.dropCmd_pending (id : Nat) : (s.dropCmd id).pending = s.pending := rfl
@[simp] theorem State.dropCmd_out (id : Nat) : (s.dropCmd id).out = s.out := rfl
@[simp] theorem State.dropCmd_fresh (id : Nat) : (s.dropCmd id).fresh = s.fresh := rfl
@[simp] theorem State.dropCmd_nextId (id : Nat) : (s.dropCmd id).nextId = s.nextId := rfl
@[simp] theorem State.dropCmd_beat (id : Nat) : (s.dropCmd id).beat = s.beat := rfl
@[simp] theorem State.dropCmd_cens (id : Nat) : (s.dropCmd id).cens = s.cens := rfl
@[simp] theorem State.dropCmd_census (id : Nat) : (s.dropCmd id).census = s.census := rfl
@[simp] theorem State.dropCmd_blocks (id : Nat) : (s.dropCmd id).blocks = s.blocks := rfl
@[simp] theorem State.dropCmd_dies (id : Nat) : (s.dropCmd id).dies = s.dies := rfl
@[simp] theorem State.dropCmd_pt (id : Nat) : (s.dropCmd id).pt = s.pt := rfl
@[simp] theorem State.dropCmd_parts (id : Nat) : (s.dropCmd id).parts = s.parts := rfl
@[simp] theorem State.dropCmd_wver (id : Nat) : (s.dropCmd id).wver = s.wver := rfl
@[simp] theorem State.dropCmd_holds (id : Nat) : (s.dropCmd id).holds = s.holds := rfl
@[simp] theorem State.dropCmd_xtable (id : Nat) : (s.dropCmd id).xtable = s.xtable := rfl
@[simp] theorem State.dropCmd_ctxs (id : Nat) : (s.dropCmd id).ctxs = s.ctxs := rfl
@[simp] theorem State.dropCmd_strms (id : Nat) : (s.dropCmd id).strms = s.strms := rfl
@[simp] theorem State.dropCmd_cmds (id : Nat) : (s.dropCmd id).cmds = s.cmds.filter (fun c => c.id != id) := rfl
@[simp] theorem State.dropCmd_hbm (id : Nat) : (s.dropCmd id).hbm = s.hbm := rfl
@[simp] theorem State.dropCmd_permIn (id : Nat) : (s.dropCmd id).permIn = s.permIn := rfl
@[simp] theorem State.dropCmd_permSeen (id : Nat) : (s.dropCmd id).permSeen = s.permSeen := rfl
@[simp] theorem State.dropCmd_hbmRetired (id : Nat) : (s.dropCmd id).hbmRetired = s.hbmRetired := rfl
@[simp] theorem State.dropCmd_hbmOwed (id : Nat) : (s.dropCmd id).hbmOwed = s.hbmOwed := rfl
@[simp] theorem State.dropCmd_lostRows (id : Nat) : (s.dropCmd id).lostRows = s.lostRows := rfl
@[simp] theorem State.dropCmd_lnk (id : Nat) : (s.dropCmd id).lnk = s.lnk := rfl
@[simp] theorem State.dropCmd_cairn (id : Nat) : (s.dropCmd id).cairn = s.cairn := rfl
@[simp] theorem State.dropCmd_qdropped (id : Nat) : (s.dropCmd id).qdropped = s.qdropped := rfl
@[simp] theorem State.dropCmd_irq (id : Nat) : (s.dropCmd id).irq = s.irq := rfl
@[simp] theorem State.dropCmd_bist (id : Nat) : (s.dropCmd id).bist = s.bist := rfl
@[simp] theorem State.dropCmd_phase (id : Nat) : (s.dropCmd id).phase = s.phase := rfl
@[simp] theorem State.dropCmd_rlLanes (id : Nat) : (s.dropCmd id).rlLanes = s.rlLanes := rfl
@[simp] theorem State.dropCmd_fence (id : Nat) : (s.dropCmd id).fence = s.fence := rfl
@[simp] theorem State.dropCmd_derate (id : Nat) : (s.dropCmd id).derate = s.derate := rfl
@[simp] theorem State.dropCmd_crest (id : Nat) : (s.dropCmd id).crest = s.crest := rfl
@[simp] theorem State.dropCmd_faultQuarantine (id : Nat) : (s.dropCmd id).faultQuarantine = s.faultQuarantine := rfl
@[simp] theorem State.dropCmd_purges (id : Nat) : (s.dropCmd id).purges = s.purges := rfl
@[simp] theorem State.dropCmd_quarantined (id : Nat) : (s.dropCmd id).quarantined = s.quarantined := rfl
@[simp] theorem State.dropCmd_missedEdge (id : Nat) : (s.dropCmd id).missedEdge = s.missedEdge := rfl
@[simp] theorem State.dropCmd_passRegs (id : Nat) : (s.dropCmd id).passRegs = s.passRegs := rfl
@[simp] theorem State.dropCmd_acctRegs (id : Nat) : (s.dropCmd id).acctRegs = s.acctRegs := rfl
@[simp] theorem State.dropCmd_spillJobs (id : Nat) : (s.dropCmd id).spillJobs = s.spillJobs := rfl

/-! ### send -/

@[simp] theorem State.send_pending (o : Out) : (s.send o).pending = s.pending := rfl
@[simp] theorem State.send_out (o : Out) : (s.send o).out = s.out ++ [o] := rfl
@[simp] theorem State.send_fresh (o : Out) : (s.send o).fresh = s.fresh := rfl
@[simp] theorem State.send_nextId (o : Out) : (s.send o).nextId = s.nextId := rfl
@[simp] theorem State.send_beat (o : Out) : (s.send o).beat = s.beat := rfl
@[simp] theorem State.send_cens (o : Out) : (s.send o).cens = s.cens := rfl
@[simp] theorem State.send_census (o : Out) : (s.send o).census = s.census := rfl
@[simp] theorem State.send_blocks (o : Out) : (s.send o).blocks = s.blocks := rfl
@[simp] theorem State.send_dies (o : Out) : (s.send o).dies = s.dies := rfl
@[simp] theorem State.send_pt (o : Out) : (s.send o).pt = s.pt := rfl
@[simp] theorem State.send_parts (o : Out) : (s.send o).parts = s.parts := rfl
@[simp] theorem State.send_wver (o : Out) : (s.send o).wver = s.wver := rfl
@[simp] theorem State.send_holds (o : Out) : (s.send o).holds = s.holds := rfl
@[simp] theorem State.send_xtable (o : Out) : (s.send o).xtable = s.xtable := rfl
@[simp] theorem State.send_ctxs (o : Out) : (s.send o).ctxs = s.ctxs := rfl
@[simp] theorem State.send_strms (o : Out) : (s.send o).strms = s.strms := rfl
@[simp] theorem State.send_cmds (o : Out) : (s.send o).cmds = s.cmds := rfl
@[simp] theorem State.send_hbm (o : Out) : (s.send o).hbm = s.hbm := rfl
@[simp] theorem State.send_permIn (o : Out) : (s.send o).permIn = s.permIn := rfl
@[simp] theorem State.send_permSeen (o : Out) : (s.send o).permSeen = s.permSeen := rfl
@[simp] theorem State.send_hbmRetired (o : Out) : (s.send o).hbmRetired = s.hbmRetired := rfl
@[simp] theorem State.send_hbmOwed (o : Out) : (s.send o).hbmOwed = s.hbmOwed := rfl
@[simp] theorem State.send_lostRows (o : Out) : (s.send o).lostRows = s.lostRows := rfl
@[simp] theorem State.send_lnk (o : Out) : (s.send o).lnk = s.lnk := rfl
@[simp] theorem State.send_cairn (o : Out) : (s.send o).cairn = s.cairn := rfl
@[simp] theorem State.send_qdropped (o : Out) : (s.send o).qdropped = s.qdropped := rfl
@[simp] theorem State.send_irq (o : Out) : (s.send o).irq = s.irq := rfl
@[simp] theorem State.send_bist (o : Out) : (s.send o).bist = s.bist := rfl
@[simp] theorem State.send_phase (o : Out) : (s.send o).phase = s.phase := rfl
@[simp] theorem State.send_rlLanes (o : Out) : (s.send o).rlLanes = s.rlLanes := rfl
@[simp] theorem State.send_fence (o : Out) : (s.send o).fence = s.fence := rfl
@[simp] theorem State.send_derate (o : Out) : (s.send o).derate = s.derate := rfl
@[simp] theorem State.send_crest (o : Out) : (s.send o).crest = s.crest := rfl
@[simp] theorem State.send_faultQuarantine (o : Out) : (s.send o).faultQuarantine = s.faultQuarantine := rfl
@[simp] theorem State.send_purges (o : Out) : (s.send o).purges = s.purges := rfl
@[simp] theorem State.send_quarantined (o : Out) : (s.send o).quarantined = s.quarantined := rfl
@[simp] theorem State.send_missedEdge (o : Out) : (s.send o).missedEdge = s.missedEdge := rfl
@[simp] theorem State.send_passRegs (o : Out) : (s.send o).passRegs = s.passRegs := rfl
@[simp] theorem State.send_acctRegs (o : Out) : (s.send o).acctRegs = s.acctRegs := rfl
@[simp] theorem State.send_spillJobs (o : Out) : (s.send o).spillJobs = s.spillJobs := rfl

/-! ### sendAll -/

@[simp] theorem State.sendAll_pending (l : List Out) : (s.sendAll l).pending = s.pending := rfl
@[simp] theorem State.sendAll_out (l : List Out) : (s.sendAll l).out = s.out ++ l := rfl
@[simp] theorem State.sendAll_fresh (l : List Out) : (s.sendAll l).fresh = s.fresh := rfl
@[simp] theorem State.sendAll_nextId (l : List Out) : (s.sendAll l).nextId = s.nextId := rfl
@[simp] theorem State.sendAll_beat (l : List Out) : (s.sendAll l).beat = s.beat := rfl
@[simp] theorem State.sendAll_cens (l : List Out) : (s.sendAll l).cens = s.cens := rfl
@[simp] theorem State.sendAll_census (l : List Out) : (s.sendAll l).census = s.census := rfl
@[simp] theorem State.sendAll_blocks (l : List Out) : (s.sendAll l).blocks = s.blocks := rfl
@[simp] theorem State.sendAll_dies (l : List Out) : (s.sendAll l).dies = s.dies := rfl
@[simp] theorem State.sendAll_pt (l : List Out) : (s.sendAll l).pt = s.pt := rfl
@[simp] theorem State.sendAll_parts (l : List Out) : (s.sendAll l).parts = s.parts := rfl
@[simp] theorem State.sendAll_wver (l : List Out) : (s.sendAll l).wver = s.wver := rfl
@[simp] theorem State.sendAll_holds (l : List Out) : (s.sendAll l).holds = s.holds := rfl
@[simp] theorem State.sendAll_xtable (l : List Out) : (s.sendAll l).xtable = s.xtable := rfl
@[simp] theorem State.sendAll_ctxs (l : List Out) : (s.sendAll l).ctxs = s.ctxs := rfl
@[simp] theorem State.sendAll_strms (l : List Out) : (s.sendAll l).strms = s.strms := rfl
@[simp] theorem State.sendAll_cmds (l : List Out) : (s.sendAll l).cmds = s.cmds := rfl
@[simp] theorem State.sendAll_hbm (l : List Out) : (s.sendAll l).hbm = s.hbm := rfl
@[simp] theorem State.sendAll_permIn (l : List Out) : (s.sendAll l).permIn = s.permIn := rfl
@[simp] theorem State.sendAll_permSeen (l : List Out) : (s.sendAll l).permSeen = s.permSeen := rfl
@[simp] theorem State.sendAll_hbmRetired (l : List Out) : (s.sendAll l).hbmRetired = s.hbmRetired := rfl
@[simp] theorem State.sendAll_hbmOwed (l : List Out) : (s.sendAll l).hbmOwed = s.hbmOwed := rfl
@[simp] theorem State.sendAll_lostRows (l : List Out) : (s.sendAll l).lostRows = s.lostRows := rfl
@[simp] theorem State.sendAll_lnk (l : List Out) : (s.sendAll l).lnk = s.lnk := rfl
@[simp] theorem State.sendAll_cairn (l : List Out) : (s.sendAll l).cairn = s.cairn := rfl
@[simp] theorem State.sendAll_qdropped (l : List Out) : (s.sendAll l).qdropped = s.qdropped := rfl
@[simp] theorem State.sendAll_irq (l : List Out) : (s.sendAll l).irq = s.irq := rfl
@[simp] theorem State.sendAll_bist (l : List Out) : (s.sendAll l).bist = s.bist := rfl
@[simp] theorem State.sendAll_phase (l : List Out) : (s.sendAll l).phase = s.phase := rfl
@[simp] theorem State.sendAll_rlLanes (l : List Out) : (s.sendAll l).rlLanes = s.rlLanes := rfl
@[simp] theorem State.sendAll_fence (l : List Out) : (s.sendAll l).fence = s.fence := rfl
@[simp] theorem State.sendAll_derate (l : List Out) : (s.sendAll l).derate = s.derate := rfl
@[simp] theorem State.sendAll_crest (l : List Out) : (s.sendAll l).crest = s.crest := rfl
@[simp] theorem State.sendAll_faultQuarantine (l : List Out) : (s.sendAll l).faultQuarantine = s.faultQuarantine := rfl
@[simp] theorem State.sendAll_purges (l : List Out) : (s.sendAll l).purges = s.purges := rfl
@[simp] theorem State.sendAll_quarantined (l : List Out) : (s.sendAll l).quarantined = s.quarantined := rfl
@[simp] theorem State.sendAll_missedEdge (l : List Out) : (s.sendAll l).missedEdge = s.missedEdge := rfl
@[simp] theorem State.sendAll_passRegs (l : List Out) : (s.sendAll l).passRegs = s.passRegs := rfl
@[simp] theorem State.sendAll_acctRegs (l : List Out) : (s.sendAll l).acctRegs = s.acctRegs := rfl
@[simp] theorem State.sendAll_spillJobs (l : List Out) : (s.sendAll l).spillJobs = s.spillJobs := rfl

/-! ### burn -/

@[simp] theorem State.burn_pending : (s.burn).pending = s.pending := rfl
@[simp] theorem State.burn_out : (s.burn).out = s.out := rfl
@[simp] theorem State.burn_fresh : (s.burn).fresh = s.fresh + 1 := rfl
@[simp] theorem State.burn_nextId : (s.burn).nextId = s.nextId := rfl
@[simp] theorem State.burn_beat : (s.burn).beat = s.beat := rfl
@[simp] theorem State.burn_cens : (s.burn).cens = s.cens := rfl
@[simp] theorem State.burn_census : (s.burn).census = s.census := rfl
@[simp] theorem State.burn_blocks : (s.burn).blocks = s.blocks := rfl
@[simp] theorem State.burn_dies : (s.burn).dies = s.dies := rfl
@[simp] theorem State.burn_pt : (s.burn).pt = s.pt := rfl
@[simp] theorem State.burn_parts : (s.burn).parts = s.parts := rfl
@[simp] theorem State.burn_wver : (s.burn).wver = s.wver := rfl
@[simp] theorem State.burn_holds : (s.burn).holds = s.holds := rfl
@[simp] theorem State.burn_xtable : (s.burn).xtable = s.xtable := rfl
@[simp] theorem State.burn_ctxs : (s.burn).ctxs = s.ctxs := rfl
@[simp] theorem State.burn_strms : (s.burn).strms = s.strms := rfl
@[simp] theorem State.burn_cmds : (s.burn).cmds = s.cmds := rfl
@[simp] theorem State.burn_hbm : (s.burn).hbm = s.hbm := rfl
@[simp] theorem State.burn_permIn : (s.burn).permIn = s.permIn := rfl
@[simp] theorem State.burn_permSeen : (s.burn).permSeen = s.permSeen := rfl
@[simp] theorem State.burn_hbmRetired : (s.burn).hbmRetired = s.hbmRetired := rfl
@[simp] theorem State.burn_hbmOwed : (s.burn).hbmOwed = s.hbmOwed := rfl
@[simp] theorem State.burn_lostRows : (s.burn).lostRows = s.lostRows := rfl
@[simp] theorem State.burn_lnk : (s.burn).lnk = s.lnk := rfl
@[simp] theorem State.burn_cairn : (s.burn).cairn = s.cairn := rfl
@[simp] theorem State.burn_qdropped : (s.burn).qdropped = s.qdropped := rfl
@[simp] theorem State.burn_irq : (s.burn).irq = s.irq := rfl
@[simp] theorem State.burn_bist : (s.burn).bist = s.bist := rfl
@[simp] theorem State.burn_phase : (s.burn).phase = s.phase := rfl
@[simp] theorem State.burn_rlLanes : (s.burn).rlLanes = s.rlLanes := rfl
@[simp] theorem State.burn_fence : (s.burn).fence = s.fence := rfl
@[simp] theorem State.burn_derate : (s.burn).derate = s.derate := rfl
@[simp] theorem State.burn_crest : (s.burn).crest = s.crest := rfl
@[simp] theorem State.burn_faultQuarantine : (s.burn).faultQuarantine = s.faultQuarantine := rfl
@[simp] theorem State.burn_purges : (s.burn).purges = s.purges := rfl
@[simp] theorem State.burn_quarantined : (s.burn).quarantined = s.quarantined := rfl
@[simp] theorem State.burn_missedEdge : (s.burn).missedEdge = s.missedEdge := rfl
@[simp] theorem State.burn_passRegs : (s.burn).passRegs = s.passRegs := rfl
@[simp] theorem State.burn_acctRegs : (s.burn).acctRegs = s.acctRegs := rfl
@[simp] theorem State.burn_spillJobs : (s.burn).spillJobs = s.spillJobs := rfl

/-! ### note -/

@[simp] theorem State.note_pending (e : Event) : (s.note e).pending = s.pending := rfl
@[simp] theorem State.note_out (e : Event) : (s.note e).out = s.out := rfl
@[simp] theorem State.note_fresh (e : Event) : (s.note e).fresh = s.fresh := rfl
@[simp] theorem State.note_nextId (e : Event) : (s.note e).nextId = s.nextId := rfl
@[simp] theorem State.note_beat (e : Event) : (s.note e).beat = s.beat := rfl
@[simp] theorem State.note_cens (e : Event) : (s.note e).cens = s.cens := rfl
@[simp] theorem State.note_census (e : Event) : (s.note e).census = s.census := rfl
@[simp] theorem State.note_blocks (e : Event) : (s.note e).blocks = s.blocks := rfl
@[simp] theorem State.note_dies (e : Event) : (s.note e).dies = s.dies := rfl
@[simp] theorem State.note_pt (e : Event) : (s.note e).pt = s.pt := rfl
@[simp] theorem State.note_parts (e : Event) : (s.note e).parts = s.parts := rfl
@[simp] theorem State.note_wver (e : Event) : (s.note e).wver = s.wver := rfl
@[simp] theorem State.note_holds (e : Event) : (s.note e).holds = s.holds := rfl
@[simp] theorem State.note_xtable (e : Event) : (s.note e).xtable = s.xtable := rfl
@[simp] theorem State.note_ctxs (e : Event) : (s.note e).ctxs = s.ctxs := rfl
@[simp] theorem State.note_strms (e : Event) : (s.note e).strms = s.strms := rfl
@[simp] theorem State.note_cmds (e : Event) : (s.note e).cmds = s.cmds := rfl
@[simp] theorem State.note_hbm (e : Event) : (s.note e).hbm = s.hbm := rfl
@[simp] theorem State.note_permIn (e : Event) : (s.note e).permIn = s.permIn := rfl
@[simp] theorem State.note_permSeen (e : Event) : (s.note e).permSeen = s.permSeen := rfl
@[simp] theorem State.note_hbmRetired (e : Event) : (s.note e).hbmRetired = s.hbmRetired := rfl
@[simp] theorem State.note_hbmOwed (e : Event) : (s.note e).hbmOwed = s.hbmOwed := rfl
@[simp] theorem State.note_lostRows (e : Event) : (s.note e).lostRows = s.lostRows := rfl
@[simp] theorem State.note_lnk (e : Event) : (s.note e).lnk = s.lnk := rfl
@[simp] theorem State.note_cairn (e : Event) : (s.note e).cairn = s.cairn.push { e with beat := s.beat.count } := rfl
@[simp] theorem State.note_qdropped (e : Event) : (s.note e).qdropped = s.qdropped := rfl
@[simp] theorem State.note_irq (e : Event) : (s.note e).irq = s.irq := rfl
@[simp] theorem State.note_bist (e : Event) : (s.note e).bist = s.bist := rfl
@[simp] theorem State.note_phase (e : Event) : (s.note e).phase = s.phase := rfl
@[simp] theorem State.note_rlLanes (e : Event) : (s.note e).rlLanes = s.rlLanes := rfl
@[simp] theorem State.note_fence (e : Event) : (s.note e).fence = s.fence := rfl
@[simp] theorem State.note_derate (e : Event) : (s.note e).derate = s.derate := rfl
@[simp] theorem State.note_crest (e : Event) : (s.note e).crest = s.crest := rfl
@[simp] theorem State.note_faultQuarantine (e : Event) : (s.note e).faultQuarantine = s.faultQuarantine := rfl
@[simp] theorem State.note_purges (e : Event) : (s.note e).purges = s.purges := rfl
@[simp] theorem State.note_quarantined (e : Event) : (s.note e).quarantined = s.quarantined := rfl
@[simp] theorem State.note_missedEdge (e : Event) : (s.note e).missedEdge = s.missedEdge := rfl
@[simp] theorem State.note_passRegs (e : Event) : (s.note e).passRegs = s.passRegs := rfl
@[simp] theorem State.note_acctRegs (e : Event) : (s.note e).acctRegs = s.acctRegs := rfl
@[simp] theorem State.note_spillJobs (e : Event) : (s.note e).spillJobs = s.spillJobs := rfl

/-! ### raise -/

@[simp] theorem State.raise_pending (n : Nat) : (s.raise n).pending = s.pending := rfl
@[simp] theorem State.raise_out (n : Nat) : (s.raise n).out = s.out := rfl
@[simp] theorem State.raise_fresh (n : Nat) : (s.raise n).fresh = s.fresh := rfl
@[simp] theorem State.raise_nextId (n : Nat) : (s.raise n).nextId = s.nextId := rfl
@[simp] theorem State.raise_beat (n : Nat) : (s.raise n).beat = s.beat := rfl
@[simp] theorem State.raise_cens (n : Nat) : (s.raise n).cens = s.cens := rfl
@[simp] theorem State.raise_census (n : Nat) : (s.raise n).census = s.census := rfl
@[simp] theorem State.raise_blocks (n : Nat) : (s.raise n).blocks = s.blocks := rfl
@[simp] theorem State.raise_dies (n : Nat) : (s.raise n).dies = s.dies := rfl
@[simp] theorem State.raise_pt (n : Nat) : (s.raise n).pt = s.pt := rfl
@[simp] theorem State.raise_parts (n : Nat) : (s.raise n).parts = s.parts := rfl
@[simp] theorem State.raise_wver (n : Nat) : (s.raise n).wver = s.wver := rfl
@[simp] theorem State.raise_holds (n : Nat) : (s.raise n).holds = s.holds := rfl
@[simp] theorem State.raise_xtable (n : Nat) : (s.raise n).xtable = s.xtable := rfl
@[simp] theorem State.raise_ctxs (n : Nat) : (s.raise n).ctxs = s.ctxs := rfl
@[simp] theorem State.raise_strms (n : Nat) : (s.raise n).strms = s.strms := rfl
@[simp] theorem State.raise_cmds (n : Nat) : (s.raise n).cmds = s.cmds := rfl
@[simp] theorem State.raise_hbm (n : Nat) : (s.raise n).hbm = s.hbm := rfl
@[simp] theorem State.raise_permIn (n : Nat) : (s.raise n).permIn = s.permIn := rfl
@[simp] theorem State.raise_permSeen (n : Nat) : (s.raise n).permSeen = s.permSeen := rfl
@[simp] theorem State.raise_hbmRetired (n : Nat) : (s.raise n).hbmRetired = s.hbmRetired := rfl
@[simp] theorem State.raise_hbmOwed (n : Nat) : (s.raise n).hbmOwed = s.hbmOwed := rfl
@[simp] theorem State.raise_lostRows (n : Nat) : (s.raise n).lostRows = s.lostRows := rfl
@[simp] theorem State.raise_lnk (n : Nat) : (s.raise n).lnk = s.lnk := rfl
@[simp] theorem State.raise_cairn (n : Nat) : (s.raise n).cairn = s.cairn := rfl
@[simp] theorem State.raise_qdropped (n : Nat) : (s.raise n).qdropped = s.qdropped := rfl
@[simp] theorem State.raise_irq (n : Nat) : (s.raise n).irq = s.irq.setPending n true := rfl
@[simp] theorem State.raise_bist (n : Nat) : (s.raise n).bist = s.bist := rfl
@[simp] theorem State.raise_phase (n : Nat) : (s.raise n).phase = s.phase := rfl
@[simp] theorem State.raise_rlLanes (n : Nat) : (s.raise n).rlLanes = s.rlLanes := rfl
@[simp] theorem State.raise_fence (n : Nat) : (s.raise n).fence = s.fence := rfl
@[simp] theorem State.raise_derate (n : Nat) : (s.raise n).derate = s.derate := rfl
@[simp] theorem State.raise_crest (n : Nat) : (s.raise n).crest = s.crest := rfl
@[simp] theorem State.raise_faultQuarantine (n : Nat) : (s.raise n).faultQuarantine = s.faultQuarantine := rfl
@[simp] theorem State.raise_purges (n : Nat) : (s.raise n).purges = s.purges := rfl
@[simp] theorem State.raise_quarantined (n : Nat) : (s.raise n).quarantined = s.quarantined := rfl
@[simp] theorem State.raise_missedEdge (n : Nat) : (s.raise n).missedEdge = s.missedEdge := rfl
@[simp] theorem State.raise_passRegs (n : Nat) : (s.raise n).passRegs = s.passRegs := rfl
@[simp] theorem State.raise_acctRegs (n : Nat) : (s.raise n).acctRegs = s.acctRegs := rfl
@[simp] theorem State.raise_spillJobs (n : Nat) : (s.raise n).spillJobs = s.spillJobs := rfl

/-! ### settle -/

@[simp] theorem State.settle_pending : (s.settle).pending = s.pending := rfl
@[simp] theorem State.settle_fresh : (s.settle).fresh = s.fresh := rfl
@[simp] theorem State.settle_nextId : (s.settle).nextId = s.nextId := rfl
@[simp] theorem State.settle_beat : (s.settle).beat = s.beat := rfl
@[simp] theorem State.settle_cens : (s.settle).cens = s.cens := rfl
@[simp] theorem State.settle_census : (s.settle).census = s.census := rfl
@[simp] theorem State.settle_blocks : (s.settle).blocks = s.blocks := rfl
@[simp] theorem State.settle_dies : (s.settle).dies = s.dies := rfl
@[simp] theorem State.settle_pt : (s.settle).pt = s.pt := rfl
@[simp] theorem State.settle_parts : (s.settle).parts = s.parts := rfl
@[simp] theorem State.settle_wver : (s.settle).wver = s.wver := rfl
@[simp] theorem State.settle_holds : (s.settle).holds = s.holds := rfl
@[simp] theorem State.settle_xtable : (s.settle).xtable = s.xtable := rfl
@[simp] theorem State.settle_ctxs : (s.settle).ctxs = s.ctxs := rfl
@[simp] theorem State.settle_strms : (s.settle).strms = s.strms := rfl
@[simp] theorem State.settle_cmds : (s.settle).cmds = s.cmds := rfl
@[simp] theorem State.settle_hbm : (s.settle).hbm = s.hbm := rfl
@[simp] theorem State.settle_permIn : (s.settle).permIn = s.permIn := rfl
@[simp] theorem State.settle_permSeen : (s.settle).permSeen = s.permSeen := rfl
@[simp] theorem State.settle_hbmRetired : (s.settle).hbmRetired = s.hbmRetired := rfl
@[simp] theorem State.settle_hbmOwed : (s.settle).hbmOwed = s.hbmOwed := rfl
@[simp] theorem State.settle_lostRows : (s.settle).lostRows = s.lostRows := rfl
@[simp] theorem State.settle_lnk : (s.settle).lnk = s.lnk := rfl
@[simp] theorem State.settle_cairn : (s.settle).cairn = s.cairn := rfl
@[simp] theorem State.settle_qdropped : (s.settle).qdropped = s.qdropped := rfl
@[simp] theorem State.settle_bist : (s.settle).bist = s.bist := rfl
@[simp] theorem State.settle_phase : (s.settle).phase = s.phase := rfl
@[simp] theorem State.settle_rlLanes : (s.settle).rlLanes = s.rlLanes := rfl
@[simp] theorem State.settle_fence : (s.settle).fence = s.fence := rfl
@[simp] theorem State.settle_derate : (s.settle).derate = s.derate := rfl
@[simp] theorem State.settle_crest : (s.settle).crest = s.crest := rfl
@[simp] theorem State.settle_faultQuarantine : (s.settle).faultQuarantine = s.faultQuarantine := rfl
@[simp] theorem State.settle_purges : (s.settle).purges = s.purges := rfl
@[simp] theorem State.settle_quarantined : (s.settle).quarantined = s.quarantined := rfl
@[simp] theorem State.settle_missedEdge : (s.settle).missedEdge = s.missedEdge := rfl
@[simp] theorem State.settle_passRegs : (s.settle).passRegs = s.passRegs := rfl
@[simp] theorem State.settle_acctRegs : (s.settle).acctRegs = s.acctRegs := rfl
@[simp] theorem State.settle_spillJobs : (s.settle).spillJobs = s.spillJobs := rfl

/-! ### regWrite -/

@[simp] theorem State.regWrite_pending (e : RegEntry) (buf o : Nat) (l : List Byte) : (s.regWrite e buf o l).pending = s.pending := rfl
@[simp] theorem State.regWrite_out (e : RegEntry) (buf o : Nat) (l : List Byte) : (s.regWrite e buf o l).out = s.out := rfl
@[simp] theorem State.regWrite_fresh (e : RegEntry) (buf o : Nat) (l : List Byte) : (s.regWrite e buf o l).fresh = s.fresh := rfl
@[simp] theorem State.regWrite_nextId (e : RegEntry) (buf o : Nat) (l : List Byte) : (s.regWrite e buf o l).nextId = s.nextId := rfl
@[simp] theorem State.regWrite_beat (e : RegEntry) (buf o : Nat) (l : List Byte) : (s.regWrite e buf o l).beat = s.beat := rfl
@[simp] theorem State.regWrite_cens (e : RegEntry) (buf o : Nat) (l : List Byte) : (s.regWrite e buf o l).cens = s.cens := rfl
@[simp] theorem State.regWrite_census (e : RegEntry) (buf o : Nat) (l : List Byte) : (s.regWrite e buf o l).census = s.census := rfl
@[simp] theorem State.regWrite_blocks (e : RegEntry) (buf o : Nat) (l : List Byte) : (s.regWrite e buf o l).blocks = s.blocks := rfl
@[simp] theorem State.regWrite_dies (e : RegEntry) (buf o : Nat) (l : List Byte) : (s.regWrite e buf o l).dies = s.dies := rfl
@[simp] theorem State.regWrite_pt (e : RegEntry) (buf o : Nat) (l : List Byte) : (s.regWrite e buf o l).pt = s.pt := rfl
@[simp] theorem State.regWrite_parts (e : RegEntry) (buf o : Nat) (l : List Byte) : (s.regWrite e buf o l).parts = s.parts := rfl
@[simp] theorem State.regWrite_wver (e : RegEntry) (buf o : Nat) (l : List Byte) : (s.regWrite e buf o l).wver = s.wver := rfl
@[simp] theorem State.regWrite_holds (e : RegEntry) (buf o : Nat) (l : List Byte) : (s.regWrite e buf o l).holds = s.holds := rfl
@[simp] theorem State.regWrite_xtable (e : RegEntry) (buf o : Nat) (l : List Byte) : (s.regWrite e buf o l).xtable = s.xtable := rfl
@[simp] theorem State.regWrite_ctxs (e : RegEntry) (buf o : Nat) (l : List Byte) : (s.regWrite e buf o l).ctxs = s.ctxs := rfl
@[simp] theorem State.regWrite_strms (e : RegEntry) (buf o : Nat) (l : List Byte) : (s.regWrite e buf o l).strms = s.strms := rfl
@[simp] theorem State.regWrite_cmds (e : RegEntry) (buf o : Nat) (l : List Byte) : (s.regWrite e buf o l).cmds = s.cmds := rfl
@[simp] theorem State.regWrite_hbm (e : RegEntry) (buf o : Nat) (l : List Byte) : (s.regWrite e buf o l).hbm = Mem.regWrite e buf o s.hbm l := rfl
@[simp] theorem State.regWrite_permIn (e : RegEntry) (buf o : Nat) (l : List Byte) : (s.regWrite e buf o l).permIn = s.permIn := rfl
@[simp] theorem State.regWrite_permSeen (e : RegEntry) (buf o : Nat) (l : List Byte) : (s.regWrite e buf o l).permSeen = s.permSeen := rfl
@[simp] theorem State.regWrite_hbmRetired (e : RegEntry) (buf o : Nat) (l : List Byte) : (s.regWrite e buf o l).hbmRetired = s.hbmRetired := rfl
@[simp] theorem State.regWrite_hbmOwed (e : RegEntry) (buf o : Nat) (l : List Byte) : (s.regWrite e buf o l).hbmOwed = s.hbmOwed := rfl
@[simp] theorem State.regWrite_lostRows (e : RegEntry) (buf o : Nat) (l : List Byte) : (s.regWrite e buf o l).lostRows = s.lostRows := rfl
@[simp] theorem State.regWrite_lnk (e : RegEntry) (buf o : Nat) (l : List Byte) : (s.regWrite e buf o l).lnk = s.lnk := rfl
@[simp] theorem State.regWrite_cairn (e : RegEntry) (buf o : Nat) (l : List Byte) : (s.regWrite e buf o l).cairn = s.cairn := rfl
@[simp] theorem State.regWrite_qdropped (e : RegEntry) (buf o : Nat) (l : List Byte) : (s.regWrite e buf o l).qdropped = s.qdropped := rfl
@[simp] theorem State.regWrite_irq (e : RegEntry) (buf o : Nat) (l : List Byte) : (s.regWrite e buf o l).irq = s.irq := rfl
@[simp] theorem State.regWrite_bist (e : RegEntry) (buf o : Nat) (l : List Byte) : (s.regWrite e buf o l).bist = s.bist := rfl
@[simp] theorem State.regWrite_phase (e : RegEntry) (buf o : Nat) (l : List Byte) : (s.regWrite e buf o l).phase = s.phase := rfl
@[simp] theorem State.regWrite_rlLanes (e : RegEntry) (buf o : Nat) (l : List Byte) : (s.regWrite e buf o l).rlLanes = s.rlLanes := rfl
@[simp] theorem State.regWrite_fence (e : RegEntry) (buf o : Nat) (l : List Byte) : (s.regWrite e buf o l).fence = s.fence := rfl
@[simp] theorem State.regWrite_derate (e : RegEntry) (buf o : Nat) (l : List Byte) : (s.regWrite e buf o l).derate = s.derate := rfl
@[simp] theorem State.regWrite_crest (e : RegEntry) (buf o : Nat) (l : List Byte) : (s.regWrite e buf o l).crest = s.crest := rfl
@[simp] theorem State.regWrite_faultQuarantine (e : RegEntry) (buf o : Nat) (l : List Byte) : (s.regWrite e buf o l).faultQuarantine = s.faultQuarantine := rfl
@[simp] theorem State.regWrite_purges (e : RegEntry) (buf o : Nat) (l : List Byte) : (s.regWrite e buf o l).purges = s.purges := rfl
@[simp] theorem State.regWrite_quarantined (e : RegEntry) (buf o : Nat) (l : List Byte) : (s.regWrite e buf o l).quarantined = s.quarantined := rfl
@[simp] theorem State.regWrite_missedEdge (e : RegEntry) (buf o : Nat) (l : List Byte) : (s.regWrite e buf o l).missedEdge = s.missedEdge := rfl
@[simp] theorem State.regWrite_passRegs (e : RegEntry) (buf o : Nat) (l : List Byte) : (s.regWrite e buf o l).passRegs = s.passRegs := rfl
@[simp] theorem State.regWrite_acctRegs (e : RegEntry) (buf o : Nat) (l : List Byte) : (s.regWrite e buf o l).acctRegs = s.acctRegs := rfl
@[simp] theorem State.regWrite_spillJobs (e : RegEntry) (buf o : Nat) (l : List Byte) : (s.regWrite e buf o l).spillJobs = s.spillJobs := rfl

/-! ### regUndef -/

@[simp] theorem State.regUndef_pending (e : RegEntry) (buf o n : Nat) : (s.regUndef e buf o n).pending = s.pending := rfl
@[simp] theorem State.regUndef_out (e : RegEntry) (buf o n : Nat) : (s.regUndef e buf o n).out = s.out := rfl
@[simp] theorem State.regUndef_fresh (e : RegEntry) (buf o n : Nat) : (s.regUndef e buf o n).fresh = s.fresh + 1 := rfl
@[simp] theorem State.regUndef_nextId (e : RegEntry) (buf o n : Nat) : (s.regUndef e buf o n).nextId = s.nextId := rfl
@[simp] theorem State.regUndef_beat (e : RegEntry) (buf o n : Nat) : (s.regUndef e buf o n).beat = s.beat := rfl
@[simp] theorem State.regUndef_cens (e : RegEntry) (buf o n : Nat) : (s.regUndef e buf o n).cens = s.cens := rfl
@[simp] theorem State.regUndef_census (e : RegEntry) (buf o n : Nat) : (s.regUndef e buf o n).census = s.census := rfl
@[simp] theorem State.regUndef_blocks (e : RegEntry) (buf o n : Nat) : (s.regUndef e buf o n).blocks = s.blocks := rfl
@[simp] theorem State.regUndef_dies (e : RegEntry) (buf o n : Nat) : (s.regUndef e buf o n).dies = s.dies := rfl
@[simp] theorem State.regUndef_pt (e : RegEntry) (buf o n : Nat) : (s.regUndef e buf o n).pt = s.pt := rfl
@[simp] theorem State.regUndef_parts (e : RegEntry) (buf o n : Nat) : (s.regUndef e buf o n).parts = s.parts := rfl
@[simp] theorem State.regUndef_wver (e : RegEntry) (buf o n : Nat) : (s.regUndef e buf o n).wver = s.wver := rfl
@[simp] theorem State.regUndef_holds (e : RegEntry) (buf o n : Nat) : (s.regUndef e buf o n).holds = s.holds := rfl
@[simp] theorem State.regUndef_xtable (e : RegEntry) (buf o n : Nat) : (s.regUndef e buf o n).xtable = s.xtable := rfl
@[simp] theorem State.regUndef_ctxs (e : RegEntry) (buf o n : Nat) : (s.regUndef e buf o n).ctxs = s.ctxs := rfl
@[simp] theorem State.regUndef_strms (e : RegEntry) (buf o n : Nat) : (s.regUndef e buf o n).strms = s.strms := rfl
@[simp] theorem State.regUndef_cmds (e : RegEntry) (buf o n : Nat) : (s.regUndef e buf o n).cmds = s.cmds := rfl
@[simp] theorem State.regUndef_permIn (e : RegEntry) (buf o n : Nat) : (s.regUndef e buf o n).permIn = s.permIn := rfl
@[simp] theorem State.regUndef_permSeen (e : RegEntry) (buf o n : Nat) : (s.regUndef e buf o n).permSeen = s.permSeen := rfl
@[simp] theorem State.regUndef_hbmRetired (e : RegEntry) (buf o n : Nat) : (s.regUndef e buf o n).hbmRetired = s.hbmRetired := rfl
@[simp] theorem State.regUndef_hbmOwed (e : RegEntry) (buf o n : Nat) : (s.regUndef e buf o n).hbmOwed = s.hbmOwed := rfl
@[simp] theorem State.regUndef_lostRows (e : RegEntry) (buf o n : Nat) : (s.regUndef e buf o n).lostRows = s.lostRows := rfl
@[simp] theorem State.regUndef_lnk (e : RegEntry) (buf o n : Nat) : (s.regUndef e buf o n).lnk = s.lnk := rfl
@[simp] theorem State.regUndef_cairn (e : RegEntry) (buf o n : Nat) : (s.regUndef e buf o n).cairn = s.cairn := rfl
@[simp] theorem State.regUndef_qdropped (e : RegEntry) (buf o n : Nat) : (s.regUndef e buf o n).qdropped = s.qdropped := rfl
@[simp] theorem State.regUndef_irq (e : RegEntry) (buf o n : Nat) : (s.regUndef e buf o n).irq = s.irq := rfl
@[simp] theorem State.regUndef_bist (e : RegEntry) (buf o n : Nat) : (s.regUndef e buf o n).bist = s.bist := rfl
@[simp] theorem State.regUndef_phase (e : RegEntry) (buf o n : Nat) : (s.regUndef e buf o n).phase = s.phase := rfl
@[simp] theorem State.regUndef_rlLanes (e : RegEntry) (buf o n : Nat) : (s.regUndef e buf o n).rlLanes = s.rlLanes := rfl
@[simp] theorem State.regUndef_fence (e : RegEntry) (buf o n : Nat) : (s.regUndef e buf o n).fence = s.fence := rfl
@[simp] theorem State.regUndef_derate (e : RegEntry) (buf o n : Nat) : (s.regUndef e buf o n).derate = s.derate := rfl
@[simp] theorem State.regUndef_crest (e : RegEntry) (buf o n : Nat) : (s.regUndef e buf o n).crest = s.crest := rfl
@[simp] theorem State.regUndef_faultQuarantine (e : RegEntry) (buf o n : Nat) : (s.regUndef e buf o n).faultQuarantine = s.faultQuarantine := rfl
@[simp] theorem State.regUndef_purges (e : RegEntry) (buf o n : Nat) : (s.regUndef e buf o n).purges = s.purges := rfl
@[simp] theorem State.regUndef_quarantined (e : RegEntry) (buf o n : Nat) : (s.regUndef e buf o n).quarantined = s.quarantined := rfl
@[simp] theorem State.regUndef_missedEdge (e : RegEntry) (buf o n : Nat) : (s.regUndef e buf o n).missedEdge = s.missedEdge := rfl
@[simp] theorem State.regUndef_passRegs (e : RegEntry) (buf o n : Nat) : (s.regUndef e buf o n).passRegs = s.passRegs := rfl
@[simp] theorem State.regUndef_acctRegs (e : RegEntry) (buf o n : Nat) : (s.regUndef e buf o n).acctRegs = s.acctRegs := rfl
@[simp] theorem State.regUndef_spillJobs (e : RegEntry) (buf o n : Nat) : (s.regUndef e buf o n).spillJobs = s.spillJobs := rfl

/-! ### regZero -/

@[simp] theorem State.regZero_pending (e : RegEntry) (buf o n : Nat) : (s.regZero e buf o n).pending = s.pending := rfl
@[simp] theorem State.regZero_out (e : RegEntry) (buf o n : Nat) : (s.regZero e buf o n).out = s.out := rfl
@[simp] theorem State.regZero_fresh (e : RegEntry) (buf o n : Nat) : (s.regZero e buf o n).fresh = s.fresh := rfl
@[simp] theorem State.regZero_nextId (e : RegEntry) (buf o n : Nat) : (s.regZero e buf o n).nextId = s.nextId := rfl
@[simp] theorem State.regZero_beat (e : RegEntry) (buf o n : Nat) : (s.regZero e buf o n).beat = s.beat := rfl
@[simp] theorem State.regZero_cens (e : RegEntry) (buf o n : Nat) : (s.regZero e buf o n).cens = s.cens := rfl
@[simp] theorem State.regZero_census (e : RegEntry) (buf o n : Nat) : (s.regZero e buf o n).census = s.census := rfl
@[simp] theorem State.regZero_blocks (e : RegEntry) (buf o n : Nat) : (s.regZero e buf o n).blocks = s.blocks := rfl
@[simp] theorem State.regZero_dies (e : RegEntry) (buf o n : Nat) : (s.regZero e buf o n).dies = s.dies := rfl
@[simp] theorem State.regZero_pt (e : RegEntry) (buf o n : Nat) : (s.regZero e buf o n).pt = s.pt := rfl
@[simp] theorem State.regZero_parts (e : RegEntry) (buf o n : Nat) : (s.regZero e buf o n).parts = s.parts := rfl
@[simp] theorem State.regZero_wver (e : RegEntry) (buf o n : Nat) : (s.regZero e buf o n).wver = s.wver := rfl
@[simp] theorem State.regZero_holds (e : RegEntry) (buf o n : Nat) : (s.regZero e buf o n).holds = s.holds := rfl
@[simp] theorem State.regZero_xtable (e : RegEntry) (buf o n : Nat) : (s.regZero e buf o n).xtable = s.xtable := rfl
@[simp] theorem State.regZero_ctxs (e : RegEntry) (buf o n : Nat) : (s.regZero e buf o n).ctxs = s.ctxs := rfl
@[simp] theorem State.regZero_strms (e : RegEntry) (buf o n : Nat) : (s.regZero e buf o n).strms = s.strms := rfl
@[simp] theorem State.regZero_cmds (e : RegEntry) (buf o n : Nat) : (s.regZero e buf o n).cmds = s.cmds := rfl
@[simp] theorem State.regZero_permIn (e : RegEntry) (buf o n : Nat) : (s.regZero e buf o n).permIn = s.permIn := rfl
@[simp] theorem State.regZero_permSeen (e : RegEntry) (buf o n : Nat) : (s.regZero e buf o n).permSeen = s.permSeen := rfl
@[simp] theorem State.regZero_hbmRetired (e : RegEntry) (buf o n : Nat) : (s.regZero e buf o n).hbmRetired = s.hbmRetired := rfl
@[simp] theorem State.regZero_hbmOwed (e : RegEntry) (buf o n : Nat) : (s.regZero e buf o n).hbmOwed = s.hbmOwed := rfl
@[simp] theorem State.regZero_lostRows (e : RegEntry) (buf o n : Nat) : (s.regZero e buf o n).lostRows = s.lostRows := rfl
@[simp] theorem State.regZero_lnk (e : RegEntry) (buf o n : Nat) : (s.regZero e buf o n).lnk = s.lnk := rfl
@[simp] theorem State.regZero_cairn (e : RegEntry) (buf o n : Nat) : (s.regZero e buf o n).cairn = s.cairn := rfl
@[simp] theorem State.regZero_qdropped (e : RegEntry) (buf o n : Nat) : (s.regZero e buf o n).qdropped = s.qdropped := rfl
@[simp] theorem State.regZero_irq (e : RegEntry) (buf o n : Nat) : (s.regZero e buf o n).irq = s.irq := rfl
@[simp] theorem State.regZero_bist (e : RegEntry) (buf o n : Nat) : (s.regZero e buf o n).bist = s.bist := rfl
@[simp] theorem State.regZero_phase (e : RegEntry) (buf o n : Nat) : (s.regZero e buf o n).phase = s.phase := rfl
@[simp] theorem State.regZero_rlLanes (e : RegEntry) (buf o n : Nat) : (s.regZero e buf o n).rlLanes = s.rlLanes := rfl
@[simp] theorem State.regZero_fence (e : RegEntry) (buf o n : Nat) : (s.regZero e buf o n).fence = s.fence := rfl
@[simp] theorem State.regZero_derate (e : RegEntry) (buf o n : Nat) : (s.regZero e buf o n).derate = s.derate := rfl
@[simp] theorem State.regZero_crest (e : RegEntry) (buf o n : Nat) : (s.regZero e buf o n).crest = s.crest := rfl
@[simp] theorem State.regZero_faultQuarantine (e : RegEntry) (buf o n : Nat) : (s.regZero e buf o n).faultQuarantine = s.faultQuarantine := rfl
@[simp] theorem State.regZero_purges (e : RegEntry) (buf o n : Nat) : (s.regZero e buf o n).purges = s.purges := rfl
@[simp] theorem State.regZero_quarantined (e : RegEntry) (buf o n : Nat) : (s.regZero e buf o n).quarantined = s.quarantined := rfl
@[simp] theorem State.regZero_missedEdge (e : RegEntry) (buf o n : Nat) : (s.regZero e buf o n).missedEdge = s.missedEdge := rfl
@[simp] theorem State.regZero_passRegs (e : RegEntry) (buf o n : Nat) : (s.regZero e buf o n).passRegs = s.passRegs := rfl
@[simp] theorem State.regZero_acctRegs (e : RegEntry) (buf o n : Nat) : (s.regZero e buf o n).acctRegs = s.acctRegs := rfl
@[simp] theorem State.regZero_spillJobs (e : RegEntry) (buf o n : Nat) : (s.regZero e buf o n).spillJobs = s.spillJobs := rfl

/-! ### stage -/

@[simp] theorem State.stage_pending (id : Nat) (e : RegEntry) (buf o blk lvl : Nat) (l : List Byte) : (s.stage id e buf o blk lvl l).pending = s.pending := rfl
@[simp] theorem State.stage_out (id : Nat) (e : RegEntry) (buf o blk lvl : Nat) (l : List Byte) : (s.stage id e buf o blk lvl l).out = s.out := rfl
@[simp] theorem State.stage_fresh (id : Nat) (e : RegEntry) (buf o blk lvl : Nat) (l : List Byte) : (s.stage id e buf o blk lvl l).fresh = s.fresh + 1 := rfl
@[simp] theorem State.stage_nextId (id : Nat) (e : RegEntry) (buf o blk lvl : Nat) (l : List Byte) : (s.stage id e buf o blk lvl l).nextId = s.nextId := rfl
@[simp] theorem State.stage_beat (id : Nat) (e : RegEntry) (buf o blk lvl : Nat) (l : List Byte) : (s.stage id e buf o blk lvl l).beat = s.beat := rfl
@[simp] theorem State.stage_cens (id : Nat) (e : RegEntry) (buf o blk lvl : Nat) (l : List Byte) : (s.stage id e buf o blk lvl l).cens = s.cens := rfl
@[simp] theorem State.stage_census (id : Nat) (e : RegEntry) (buf o blk lvl : Nat) (l : List Byte) : (s.stage id e buf o blk lvl l).census = s.census := rfl
@[simp] theorem State.stage_blocks (id : Nat) (e : RegEntry) (buf o blk lvl : Nat) (l : List Byte) : (s.stage id e buf o blk lvl l).blocks = s.blocks := rfl
@[simp] theorem State.stage_dies (id : Nat) (e : RegEntry) (buf o blk lvl : Nat) (l : List Byte) : (s.stage id e buf o blk lvl l).dies = s.dies := rfl
@[simp] theorem State.stage_pt (id : Nat) (e : RegEntry) (buf o blk lvl : Nat) (l : List Byte) : (s.stage id e buf o blk lvl l).pt = s.pt := rfl
@[simp] theorem State.stage_parts (id : Nat) (e : RegEntry) (buf o blk lvl : Nat) (l : List Byte) : (s.stage id e buf o blk lvl l).parts = s.parts := rfl
@[simp] theorem State.stage_wver (id : Nat) (e : RegEntry) (buf o blk lvl : Nat) (l : List Byte) : (s.stage id e buf o blk lvl l).wver = s.wver := rfl
@[simp] theorem State.stage_holds (id : Nat) (e : RegEntry) (buf o blk lvl : Nat) (l : List Byte) : (s.stage id e buf o blk lvl l).holds = s.holds := rfl
@[simp] theorem State.stage_xtable (id : Nat) (e : RegEntry) (buf o blk lvl : Nat) (l : List Byte) : (s.stage id e buf o blk lvl l).xtable = s.xtable := rfl
@[simp] theorem State.stage_ctxs (id : Nat) (e : RegEntry) (buf o blk lvl : Nat) (l : List Byte) : (s.stage id e buf o blk lvl l).ctxs = s.ctxs := rfl
@[simp] theorem State.stage_strms (id : Nat) (e : RegEntry) (buf o blk lvl : Nat) (l : List Byte) : (s.stage id e buf o blk lvl l).strms = s.strms := rfl
@[simp] theorem State.stage_permIn (id : Nat) (e : RegEntry) (buf o blk lvl : Nat) (l : List Byte) : (s.stage id e buf o blk lvl l).permIn = s.permIn := rfl
@[simp] theorem State.stage_permSeen (id : Nat) (e : RegEntry) (buf o blk lvl : Nat) (l : List Byte) : (s.stage id e buf o blk lvl l).permSeen = s.permSeen := rfl
@[simp] theorem State.stage_hbmRetired (id : Nat) (e : RegEntry) (buf o blk lvl : Nat) (l : List Byte) : (s.stage id e buf o blk lvl l).hbmRetired = s.hbmRetired := rfl
@[simp] theorem State.stage_hbmOwed (id : Nat) (e : RegEntry) (buf o blk lvl : Nat) (l : List Byte) : (s.stage id e buf o blk lvl l).hbmOwed = s.hbmOwed := rfl
@[simp] theorem State.stage_lostRows (id : Nat) (e : RegEntry) (buf o blk lvl : Nat) (l : List Byte) : (s.stage id e buf o blk lvl l).lostRows = s.lostRows := rfl
@[simp] theorem State.stage_lnk (id : Nat) (e : RegEntry) (buf o blk lvl : Nat) (l : List Byte) : (s.stage id e buf o blk lvl l).lnk = s.lnk := rfl
@[simp] theorem State.stage_cairn (id : Nat) (e : RegEntry) (buf o blk lvl : Nat) (l : List Byte) : (s.stage id e buf o blk lvl l).cairn = s.cairn := rfl
@[simp] theorem State.stage_qdropped (id : Nat) (e : RegEntry) (buf o blk lvl : Nat) (l : List Byte) : (s.stage id e buf o blk lvl l).qdropped = s.qdropped := rfl
@[simp] theorem State.stage_irq (id : Nat) (e : RegEntry) (buf o blk lvl : Nat) (l : List Byte) : (s.stage id e buf o blk lvl l).irq = s.irq := rfl
@[simp] theorem State.stage_bist (id : Nat) (e : RegEntry) (buf o blk lvl : Nat) (l : List Byte) : (s.stage id e buf o blk lvl l).bist = s.bist := rfl
@[simp] theorem State.stage_phase (id : Nat) (e : RegEntry) (buf o blk lvl : Nat) (l : List Byte) : (s.stage id e buf o blk lvl l).phase = s.phase := rfl
@[simp] theorem State.stage_rlLanes (id : Nat) (e : RegEntry) (buf o blk lvl : Nat) (l : List Byte) : (s.stage id e buf o blk lvl l).rlLanes = s.rlLanes := rfl
@[simp] theorem State.stage_fence (id : Nat) (e : RegEntry) (buf o blk lvl : Nat) (l : List Byte) : (s.stage id e buf o blk lvl l).fence = s.fence := rfl
@[simp] theorem State.stage_derate (id : Nat) (e : RegEntry) (buf o blk lvl : Nat) (l : List Byte) : (s.stage id e buf o blk lvl l).derate = s.derate := rfl
@[simp] theorem State.stage_crest (id : Nat) (e : RegEntry) (buf o blk lvl : Nat) (l : List Byte) : (s.stage id e buf o blk lvl l).crest = s.crest := rfl
@[simp] theorem State.stage_faultQuarantine (id : Nat) (e : RegEntry) (buf o blk lvl : Nat) (l : List Byte) : (s.stage id e buf o blk lvl l).faultQuarantine = s.faultQuarantine := rfl
@[simp] theorem State.stage_purges (id : Nat) (e : RegEntry) (buf o blk lvl : Nat) (l : List Byte) : (s.stage id e buf o blk lvl l).purges = s.purges := rfl
@[simp] theorem State.stage_quarantined (id : Nat) (e : RegEntry) (buf o blk lvl : Nat) (l : List Byte) : (s.stage id e buf o blk lvl l).quarantined = s.quarantined := rfl
@[simp] theorem State.stage_missedEdge (id : Nat) (e : RegEntry) (buf o blk lvl : Nat) (l : List Byte) : (s.stage id e buf o blk lvl l).missedEdge = s.missedEdge := rfl
@[simp] theorem State.stage_passRegs (id : Nat) (e : RegEntry) (buf o blk lvl : Nat) (l : List Byte) : (s.stage id e buf o blk lvl l).passRegs = s.passRegs := rfl
@[simp] theorem State.stage_acctRegs (id : Nat) (e : RegEntry) (buf o blk lvl : Nat) (l : List Byte) : (s.stage id e buf o blk lvl l).acctRegs = s.acctRegs := rfl
@[simp] theorem State.stage_spillJobs (id : Nat) (e : RegEntry) (buf o blk lvl : Nat) (l : List Byte) : (s.stage id e buf o blk lvl l).spillJobs = s.spillJobs := rfl

/-! ### updShared -/

@[simp] theorem State.updShared_pending (p i : Nat) (f : RegEntry → RegEntry) : (s.updShared p i f).pending = s.pending := rfl
@[simp] theorem State.updShared_out (p i : Nat) (f : RegEntry → RegEntry) : (s.updShared p i f).out = s.out := rfl
@[simp] theorem State.updShared_fresh (p i : Nat) (f : RegEntry → RegEntry) : (s.updShared p i f).fresh = s.fresh := rfl
@[simp] theorem State.updShared_nextId (p i : Nat) (f : RegEntry → RegEntry) : (s.updShared p i f).nextId = s.nextId := rfl
@[simp] theorem State.updShared_beat (p i : Nat) (f : RegEntry → RegEntry) : (s.updShared p i f).beat = s.beat := rfl
@[simp] theorem State.updShared_cens (p i : Nat) (f : RegEntry → RegEntry) : (s.updShared p i f).cens = s.cens := rfl
@[simp] theorem State.updShared_census (p i : Nat) (f : RegEntry → RegEntry) : (s.updShared p i f).census = s.census := rfl
@[simp] theorem State.updShared_blocks (p i : Nat) (f : RegEntry → RegEntry) : (s.updShared p i f).blocks = s.blocks := rfl
@[simp] theorem State.updShared_dies (p i : Nat) (f : RegEntry → RegEntry) : (s.updShared p i f).dies = s.dies := rfl
@[simp] theorem State.updShared_pt (p i : Nat) (f : RegEntry → RegEntry) : (s.updShared p i f).pt = s.pt := rfl
@[simp] theorem State.updShared_parts (p i : Nat) (f : RegEntry → RegEntry) : (s.updShared p i f).parts = s.parts := rfl
@[simp] theorem State.updShared_wver (p i : Nat) (f : RegEntry → RegEntry) : (s.updShared p i f).wver = s.wver := rfl
@[simp] theorem State.updShared_holds (p i : Nat) (f : RegEntry → RegEntry) : (s.updShared p i f).holds = s.holds := rfl
@[simp] theorem State.updShared_xtable (p i : Nat) (f : RegEntry → RegEntry) : (s.updShared p i f).xtable = s.xtable := rfl
@[simp] theorem State.updShared_strms (p i : Nat) (f : RegEntry → RegEntry) : (s.updShared p i f).strms = s.strms := rfl
@[simp] theorem State.updShared_cmds (p i : Nat) (f : RegEntry → RegEntry) : (s.updShared p i f).cmds = s.cmds := rfl
@[simp] theorem State.updShared_hbm (p i : Nat) (f : RegEntry → RegEntry) : (s.updShared p i f).hbm = s.hbm := rfl
@[simp] theorem State.updShared_permIn (p i : Nat) (f : RegEntry → RegEntry) : (s.updShared p i f).permIn = s.permIn := rfl
@[simp] theorem State.updShared_permSeen (p i : Nat) (f : RegEntry → RegEntry) : (s.updShared p i f).permSeen = s.permSeen := rfl
@[simp] theorem State.updShared_hbmRetired (p i : Nat) (f : RegEntry → RegEntry) : (s.updShared p i f).hbmRetired = s.hbmRetired := rfl
@[simp] theorem State.updShared_hbmOwed (p i : Nat) (f : RegEntry → RegEntry) : (s.updShared p i f).hbmOwed = s.hbmOwed := rfl
@[simp] theorem State.updShared_lostRows (p i : Nat) (f : RegEntry → RegEntry) : (s.updShared p i f).lostRows = s.lostRows := rfl
@[simp] theorem State.updShared_lnk (p i : Nat) (f : RegEntry → RegEntry) : (s.updShared p i f).lnk = s.lnk := rfl
@[simp] theorem State.updShared_cairn (p i : Nat) (f : RegEntry → RegEntry) : (s.updShared p i f).cairn = s.cairn := rfl
@[simp] theorem State.updShared_qdropped (p i : Nat) (f : RegEntry → RegEntry) : (s.updShared p i f).qdropped = s.qdropped := rfl
@[simp] theorem State.updShared_irq (p i : Nat) (f : RegEntry → RegEntry) : (s.updShared p i f).irq = s.irq := rfl
@[simp] theorem State.updShared_bist (p i : Nat) (f : RegEntry → RegEntry) : (s.updShared p i f).bist = s.bist := rfl
@[simp] theorem State.updShared_phase (p i : Nat) (f : RegEntry → RegEntry) : (s.updShared p i f).phase = s.phase := rfl
@[simp] theorem State.updShared_rlLanes (p i : Nat) (f : RegEntry → RegEntry) : (s.updShared p i f).rlLanes = s.rlLanes := rfl
@[simp] theorem State.updShared_fence (p i : Nat) (f : RegEntry → RegEntry) : (s.updShared p i f).fence = s.fence := rfl
@[simp] theorem State.updShared_derate (p i : Nat) (f : RegEntry → RegEntry) : (s.updShared p i f).derate = s.derate := rfl
@[simp] theorem State.updShared_crest (p i : Nat) (f : RegEntry → RegEntry) : (s.updShared p i f).crest = s.crest := rfl
@[simp] theorem State.updShared_faultQuarantine (p i : Nat) (f : RegEntry → RegEntry) : (s.updShared p i f).faultQuarantine = s.faultQuarantine := rfl
@[simp] theorem State.updShared_purges (p i : Nat) (f : RegEntry → RegEntry) : (s.updShared p i f).purges = s.purges := rfl
@[simp] theorem State.updShared_quarantined (p i : Nat) (f : RegEntry → RegEntry) : (s.updShared p i f).quarantined = s.quarantined := rfl
@[simp] theorem State.updShared_missedEdge (p i : Nat) (f : RegEntry → RegEntry) : (s.updShared p i f).missedEdge = s.missedEdge := rfl
@[simp] theorem State.updShared_passRegs (p i : Nat) (f : RegEntry → RegEntry) : (s.updShared p i f).passRegs = s.passRegs := rfl
@[simp] theorem State.updShared_acctRegs (p i : Nat) (f : RegEntry → RegEntry) : (s.updShared p i f).acctRegs = s.acctRegs := rfl
@[simp] theorem State.updShared_spillJobs (p i : Nat) (f : RegEntry → RegEntry) : (s.updShared p i f).spillJobs = s.spillJobs := rfl

/-! ### Reading a part after replacing one -/

@[simp] theorem State.block_updBlock_same (b : Nat) (f : Block → Block) : (s.updBlock b f).block b = f (s.block b) := Tab.get_set_same _ _ _ _

theorem State.block_updBlock_ne {b n : Nat} (f : Block → Block) (h : n ≠ b) : (s.updBlock b f).block n = s.block n := Tab.get_set_ne _ _ _ h

@[simp] theorem State.die_updDie_same (d : Nat) (f : Die → Die) : (s.updDie d f).die d = f (s.die d) := Tab.get_set_same _ _ _ _

theorem State.die_updDie_ne {d n : Nat} (f : Die → Die) (h : n ≠ d) : (s.updDie d f).die n = s.die n := Tab.get_set_ne _ _ _ h

@[simp] theorem State.ctx_updCtx_same (c : Nat) (f : Ctx → Ctx) : (s.updCtx c f).ctx c = f (s.ctx c) := Tab.get_set_same _ _ _ _

theorem State.ctx_updCtx_ne {c n : Nat} (f : Ctx → Ctx) (h : n ≠ c) : (s.updCtx c f).ctx n = s.ctx n := Tab.get_set_ne _ _ _ h

@[simp] theorem State.strm_updStrm_same (g : Nat) (f : Strm → Strm) : (s.updStrm g f).strm g = f (s.strm g) := Tab.get_set_same _ _ _ _

theorem State.strm_updStrm_ne {g n : Nat} (f : Strm → Strm) (h : n ≠ g) : (s.updStrm g f).strm n = s.strm n := Tab.get_set_ne _ _ _ h

@[simp] theorem State.part_updPart_same (p : Nat) (f : Part → Part) : (s.updPart p f).part p = f (s.part p) := Tab.get_set_same _ _ _ _

theorem State.part_updPart_ne {p n : Nat} (f : Part → Part) (h : n ≠ p) : (s.updPart p f).part n = s.part n := Tab.get_set_ne _ _ _ h

@[simp] theorem State.weight_updWeight_same (w : Nat) (f : WVer → WVer) : (s.updWeight w f).weight w = f (s.weight w) := Tab.get_set_same _ _ _ _

theorem State.weight_updWeight_ne {w n : Nat} (f : WVer → WVer) (h : n ≠ w) : (s.updWeight w f).weight n = s.weight n := Tab.get_set_ne _ _ _ h

@[simp] theorem State.port_updPort_same (p : Nat) (f : Port → Port) : (s.updPort p f).port p = f (s.port p) := Tab.get_set_same _ _ _ _

theorem State.port_updPort_ne {p n : Nat} (f : Port → Port) (h : n ≠ p) : (s.updPort p f).port n = s.port n := Tab.get_set_ne _ _ _ h

@[simp] theorem State.block_setBlock_same (b : Nat) (x : Block) : (s.setBlock b x).block b = x := Tab.get_set_same _ _ _ _

theorem State.block_setBlock_ne {b n : Nat} (x : Block) (h : n ≠ b) : (s.setBlock b x).block n = s.block n := Tab.get_set_ne _ _ _ h

@[simp] theorem State.die_setBlock (b : Nat) (x : Block) (n' : Nat) : (s.setBlock b x).die n' = s.die n' := rfl
@[simp] theorem State.ctx_setBlock (b : Nat) (x : Block) (n' : Nat) : (s.setBlock b x).ctx n' = s.ctx n' := rfl
@[simp] theorem State.strm_setBlock (b : Nat) (x : Block) (n' : Nat) : (s.setBlock b x).strm n' = s.strm n' := rfl
@[simp] theorem State.part_setBlock (b : Nat) (x : Block) (n' : Nat) : (s.setBlock b x).part n' = s.part n' := rfl
@[simp] theorem State.weight_setBlock (b : Nat) (x : Block) (n' : Nat) : (s.setBlock b x).weight n' = s.weight n' := rfl
@[simp] theorem State.port_setBlock (b : Nat) (x : Block) (n' : Nat) : (s.setBlock b x).port n' = s.port n' := rfl
@[simp] theorem State.die_updBlock (b : Nat) (f : Block → Block) (n' : Nat) : (s.updBlock b f).die n' = s.die n' := rfl
@[simp] theorem State.ctx_updBlock (b : Nat) (f : Block → Block) (n' : Nat) : (s.updBlock b f).ctx n' = s.ctx n' := rfl
@[simp] theorem State.strm_updBlock (b : Nat) (f : Block → Block) (n' : Nat) : (s.updBlock b f).strm n' = s.strm n' := rfl
@[simp] theorem State.part_updBlock (b : Nat) (f : Block → Block) (n' : Nat) : (s.updBlock b f).part n' = s.part n' := rfl
@[simp] theorem State.weight_updBlock (b : Nat) (f : Block → Block) (n' : Nat) : (s.updBlock b f).weight n' = s.weight n' := rfl
@[simp] theorem State.port_updBlock (b : Nat) (f : Block → Block) (n' : Nat) : (s.updBlock b f).port n' = s.port n' := rfl
@[simp] theorem State.block_updDie (d : Nat) (f : Die → Die) (n' : Nat) : (s.updDie d f).block n' = s.block n' := rfl
@[simp] theorem State.ctx_updDie (d : Nat) (f : Die → Die) (n' : Nat) : (s.updDie d f).ctx n' = s.ctx n' := rfl
@[simp] theorem State.strm_updDie (d : Nat) (f : Die → Die) (n' : Nat) : (s.updDie d f).strm n' = s.strm n' := rfl
@[simp] theorem State.part_updDie (d : Nat) (f : Die → Die) (n' : Nat) : (s.updDie d f).part n' = s.part n' := rfl
@[simp] theorem State.weight_updDie (d : Nat) (f : Die → Die) (n' : Nat) : (s.updDie d f).weight n' = s.weight n' := rfl
@[simp] theorem State.port_updDie (d : Nat) (f : Die → Die) (n' : Nat) : (s.updDie d f).port n' = s.port n' := rfl
@[simp] theorem State.block_updCtx (c : Nat) (f : Ctx → Ctx) (n' : Nat) : (s.updCtx c f).block n' = s.block n' := rfl
@[simp] theorem State.die_updCtx (c : Nat) (f : Ctx → Ctx) (n' : Nat) : (s.updCtx c f).die n' = s.die n' := rfl
@[simp] theorem State.strm_updCtx (c : Nat) (f : Ctx → Ctx) (n' : Nat) : (s.updCtx c f).strm n' = s.strm n' := rfl
@[simp] theorem State.part_updCtx (c : Nat) (f : Ctx → Ctx) (n' : Nat) : (s.updCtx c f).part n' = s.part n' := rfl
@[simp] theorem State.weight_updCtx (c : Nat) (f : Ctx → Ctx) (n' : Nat) : (s.updCtx c f).weight n' = s.weight n' := rfl
@[simp] theorem State.port_updCtx (c : Nat) (f : Ctx → Ctx) (n' : Nat) : (s.updCtx c f).port n' = s.port n' := rfl
@[simp] theorem State.block_updStrm (g : Nat) (f : Strm → Strm) (n' : Nat) : (s.updStrm g f).block n' = s.block n' := rfl
@[simp] theorem State.die_updStrm (g : Nat) (f : Strm → Strm) (n' : Nat) : (s.updStrm g f).die n' = s.die n' := rfl
@[simp] theorem State.ctx_updStrm (g : Nat) (f : Strm → Strm) (n' : Nat) : (s.updStrm g f).ctx n' = s.ctx n' := rfl
@[simp] theorem State.part_updStrm (g : Nat) (f : Strm → Strm) (n' : Nat) : (s.updStrm g f).part n' = s.part n' := rfl
@[simp] theorem State.weight_updStrm (g : Nat) (f : Strm → Strm) (n' : Nat) : (s.updStrm g f).weight n' = s.weight n' := rfl
@[simp] theorem State.port_updStrm (g : Nat) (f : Strm → Strm) (n' : Nat) : (s.updStrm g f).port n' = s.port n' := rfl
@[simp] theorem State.block_updPart (p : Nat) (f : Part → Part) (n' : Nat) : (s.updPart p f).block n' = s.block n' := rfl
@[simp] theorem State.die_updPart (p : Nat) (f : Part → Part) (n' : Nat) : (s.updPart p f).die n' = s.die n' := rfl
@[simp] theorem State.ctx_updPart (p : Nat) (f : Part → Part) (n' : Nat) : (s.updPart p f).ctx n' = s.ctx n' := rfl
@[simp] theorem State.strm_updPart (p : Nat) (f : Part → Part) (n' : Nat) : (s.updPart p f).strm n' = s.strm n' := rfl
@[simp] theorem State.weight_updPart (p : Nat) (f : Part → Part) (n' : Nat) : (s.updPart p f).weight n' = s.weight n' := rfl
@[simp] theorem State.port_updPart (p : Nat) (f : Part → Part) (n' : Nat) : (s.updPart p f).port n' = s.port n' := rfl
@[simp] theorem State.block_updPort (p : Nat) (f : Port → Port) (n' : Nat) : (s.updPort p f).block n' = s.block n' := rfl
@[simp] theorem State.die_updPort (p : Nat) (f : Port → Port) (n' : Nat) : (s.updPort p f).die n' = s.die n' := rfl
@[simp] theorem State.ctx_updPort (p : Nat) (f : Port → Port) (n' : Nat) : (s.updPort p f).ctx n' = s.ctx n' := rfl
@[simp] theorem State.strm_updPort (p : Nat) (f : Port → Port) (n' : Nat) : (s.updPort p f).strm n' = s.strm n' := rfl
@[simp] theorem State.part_updPort (p : Nat) (f : Port → Port) (n' : Nat) : (s.updPort p f).part n' = s.part n' := rfl
@[simp] theorem State.weight_updPort (p : Nat) (f : Port → Port) (n' : Nat) : (s.updPort p f).weight n' = s.weight n' := rfl
@[simp] theorem State.block_updWeight (w : Nat) (f : WVer → WVer) (n' : Nat) : (s.updWeight w f).block n' = s.block n' := rfl
@[simp] theorem State.die_updWeight (w : Nat) (f : WVer → WVer) (n' : Nat) : (s.updWeight w f).die n' = s.die n' := rfl
@[simp] theorem State.ctx_updWeight (w : Nat) (f : WVer → WVer) (n' : Nat) : (s.updWeight w f).ctx n' = s.ctx n' := rfl
@[simp] theorem State.strm_updWeight (w : Nat) (f : WVer → WVer) (n' : Nat) : (s.updWeight w f).strm n' = s.strm n' := rfl
@[simp] theorem State.part_updWeight (w : Nat) (f : WVer → WVer) (n' : Nat) : (s.updWeight w f).part n' = s.part n' := rfl
@[simp] theorem State.port_updWeight (w : Nat) (f : WVer → WVer) (n' : Nat) : (s.updWeight w f).port n' = s.port n' := rfl
@[simp] theorem State.block_updCmd (id : Nat) (f : Cmd → Cmd) (n' : Nat) : (s.updCmd id f).block n' = s.block n' := rfl
@[simp] theorem State.die_updCmd (id : Nat) (f : Cmd → Cmd) (n' : Nat) : (s.updCmd id f).die n' = s.die n' := rfl
@[simp] theorem State.ctx_updCmd (id : Nat) (f : Cmd → Cmd) (n' : Nat) : (s.updCmd id f).ctx n' = s.ctx n' := rfl
@[simp] theorem State.strm_updCmd (id : Nat) (f : Cmd → Cmd) (n' : Nat) : (s.updCmd id f).strm n' = s.strm n' := rfl
@[simp] theorem State.part_updCmd (id : Nat) (f : Cmd → Cmd) (n' : Nat) : (s.updCmd id f).part n' = s.part n' := rfl
@[simp] theorem State.weight_updCmd (id : Nat) (f : Cmd → Cmd) (n' : Nat) : (s.updCmd id f).weight n' = s.weight n' := rfl
@[simp] theorem State.port_updCmd (id : Nat) (f : Cmd → Cmd) (n' : Nat) : (s.updCmd id f).port n' = s.port n' := rfl
@[simp] theorem State.block_dropCmd (id : Nat) (n' : Nat) : (s.dropCmd id).block n' = s.block n' := rfl
@[simp] theorem State.die_dropCmd (id : Nat) (n' : Nat) : (s.dropCmd id).die n' = s.die n' := rfl
@[simp] theorem State.ctx_dropCmd (id : Nat) (n' : Nat) : (s.dropCmd id).ctx n' = s.ctx n' := rfl
@[simp] theorem State.strm_dropCmd (id : Nat) (n' : Nat) : (s.dropCmd id).strm n' = s.strm n' := rfl
@[simp] theorem State.part_dropCmd (id : Nat) (n' : Nat) : (s.dropCmd id).part n' = s.part n' := rfl
@[simp] theorem State.weight_dropCmd (id : Nat) (n' : Nat) : (s.dropCmd id).weight n' = s.weight n' := rfl
@[simp] theorem State.port_dropCmd (id : Nat) (n' : Nat) : (s.dropCmd id).port n' = s.port n' := rfl
@[simp] theorem State.block_send (o : Out) (n' : Nat) : (s.send o).block n' = s.block n' := rfl
@[simp] theorem State.die_send (o : Out) (n' : Nat) : (s.send o).die n' = s.die n' := rfl
@[simp] theorem State.ctx_send (o : Out) (n' : Nat) : (s.send o).ctx n' = s.ctx n' := rfl
@[simp] theorem State.strm_send (o : Out) (n' : Nat) : (s.send o).strm n' = s.strm n' := rfl
@[simp] theorem State.part_send (o : Out) (n' : Nat) : (s.send o).part n' = s.part n' := rfl
@[simp] theorem State.weight_send (o : Out) (n' : Nat) : (s.send o).weight n' = s.weight n' := rfl
@[simp] theorem State.port_send (o : Out) (n' : Nat) : (s.send o).port n' = s.port n' := rfl
@[simp] theorem State.block_sendAll (l : List Out) (n' : Nat) : (s.sendAll l).block n' = s.block n' := rfl
@[simp] theorem State.die_sendAll (l : List Out) (n' : Nat) : (s.sendAll l).die n' = s.die n' := rfl
@[simp] theorem State.ctx_sendAll (l : List Out) (n' : Nat) : (s.sendAll l).ctx n' = s.ctx n' := rfl
@[simp] theorem State.strm_sendAll (l : List Out) (n' : Nat) : (s.sendAll l).strm n' = s.strm n' := rfl
@[simp] theorem State.part_sendAll (l : List Out) (n' : Nat) : (s.sendAll l).part n' = s.part n' := rfl
@[simp] theorem State.weight_sendAll (l : List Out) (n' : Nat) : (s.sendAll l).weight n' = s.weight n' := rfl
@[simp] theorem State.port_sendAll (l : List Out) (n' : Nat) : (s.sendAll l).port n' = s.port n' := rfl
@[simp] theorem State.block_burn (n' : Nat) : (s.burn).block n' = s.block n' := rfl
@[simp] theorem State.die_burn (n' : Nat) : (s.burn).die n' = s.die n' := rfl
@[simp] theorem State.ctx_burn (n' : Nat) : (s.burn).ctx n' = s.ctx n' := rfl
@[simp] theorem State.strm_burn (n' : Nat) : (s.burn).strm n' = s.strm n' := rfl
@[simp] theorem State.part_burn (n' : Nat) : (s.burn).part n' = s.part n' := rfl
@[simp] theorem State.weight_burn (n' : Nat) : (s.burn).weight n' = s.weight n' := rfl
@[simp] theorem State.port_burn (n' : Nat) : (s.burn).port n' = s.port n' := rfl
@[simp] theorem State.block_note (e : Event) (n' : Nat) : (s.note e).block n' = s.block n' := rfl
@[simp] theorem State.die_note (e : Event) (n' : Nat) : (s.note e).die n' = s.die n' := rfl
@[simp] theorem State.ctx_note (e : Event) (n' : Nat) : (s.note e).ctx n' = s.ctx n' := rfl
@[simp] theorem State.strm_note (e : Event) (n' : Nat) : (s.note e).strm n' = s.strm n' := rfl
@[simp] theorem State.part_note (e : Event) (n' : Nat) : (s.note e).part n' = s.part n' := rfl
@[simp] theorem State.weight_note (e : Event) (n' : Nat) : (s.note e).weight n' = s.weight n' := rfl
@[simp] theorem State.port_note (e : Event) (n' : Nat) : (s.note e).port n' = s.port n' := rfl
@[simp] theorem State.block_raise (n : Nat) (n' : Nat) : (s.raise n).block n' = s.block n' := rfl
@[simp] theorem State.die_raise (n : Nat) (n' : Nat) : (s.raise n).die n' = s.die n' := rfl
@[simp] theorem State.ctx_raise (n : Nat) (n' : Nat) : (s.raise n).ctx n' = s.ctx n' := rfl
@[simp] theorem State.strm_raise (n : Nat) (n' : Nat) : (s.raise n).strm n' = s.strm n' := rfl
@[simp] theorem State.part_raise (n : Nat) (n' : Nat) : (s.raise n).part n' = s.part n' := rfl
@[simp] theorem State.weight_raise (n : Nat) (n' : Nat) : (s.raise n).weight n' = s.weight n' := rfl
@[simp] theorem State.port_raise (n : Nat) (n' : Nat) : (s.raise n).port n' = s.port n' := rfl
@[simp] theorem State.block_settle (n' : Nat) : (s.settle).block n' = s.block n' := rfl
@[simp] theorem State.die_settle (n' : Nat) : (s.settle).die n' = s.die n' := rfl
@[simp] theorem State.ctx_settle (n' : Nat) : (s.settle).ctx n' = s.ctx n' := rfl
@[simp] theorem State.strm_settle (n' : Nat) : (s.settle).strm n' = s.strm n' := rfl
@[simp] theorem State.part_settle (n' : Nat) : (s.settle).part n' = s.part n' := rfl
@[simp] theorem State.weight_settle (n' : Nat) : (s.settle).weight n' = s.weight n' := rfl
@[simp] theorem State.port_settle (n' : Nat) : (s.settle).port n' = s.port n' := rfl
@[simp] theorem State.block_regWrite (e : RegEntry) (buf o : Nat) (l : List Byte) (n' : Nat) : (s.regWrite e buf o l).block n' = s.block n' := rfl
@[simp] theorem State.die_regWrite (e : RegEntry) (buf o : Nat) (l : List Byte) (n' : Nat) : (s.regWrite e buf o l).die n' = s.die n' := rfl
@[simp] theorem State.ctx_regWrite (e : RegEntry) (buf o : Nat) (l : List Byte) (n' : Nat) : (s.regWrite e buf o l).ctx n' = s.ctx n' := rfl
@[simp] theorem State.strm_regWrite (e : RegEntry) (buf o : Nat) (l : List Byte) (n' : Nat) : (s.regWrite e buf o l).strm n' = s.strm n' := rfl
@[simp] theorem State.part_regWrite (e : RegEntry) (buf o : Nat) (l : List Byte) (n' : Nat) : (s.regWrite e buf o l).part n' = s.part n' := rfl
@[simp] theorem State.weight_regWrite (e : RegEntry) (buf o : Nat) (l : List Byte) (n' : Nat) : (s.regWrite e buf o l).weight n' = s.weight n' := rfl
@[simp] theorem State.port_regWrite (e : RegEntry) (buf o : Nat) (l : List Byte) (n' : Nat) : (s.regWrite e buf o l).port n' = s.port n' := rfl
@[simp] theorem State.block_regUndef (e : RegEntry) (buf o n : Nat) (n' : Nat) : (s.regUndef e buf o n).block n' = s.block n' := rfl
@[simp] theorem State.die_regUndef (e : RegEntry) (buf o n : Nat) (n' : Nat) : (s.regUndef e buf o n).die n' = s.die n' := rfl
@[simp] theorem State.ctx_regUndef (e : RegEntry) (buf o n : Nat) (n' : Nat) : (s.regUndef e buf o n).ctx n' = s.ctx n' := rfl
@[simp] theorem State.strm_regUndef (e : RegEntry) (buf o n : Nat) (n' : Nat) : (s.regUndef e buf o n).strm n' = s.strm n' := rfl
@[simp] theorem State.part_regUndef (e : RegEntry) (buf o n : Nat) (n' : Nat) : (s.regUndef e buf o n).part n' = s.part n' := rfl
@[simp] theorem State.weight_regUndef (e : RegEntry) (buf o n : Nat) (n' : Nat) : (s.regUndef e buf o n).weight n' = s.weight n' := rfl
@[simp] theorem State.port_regUndef (e : RegEntry) (buf o n : Nat) (n' : Nat) : (s.regUndef e buf o n).port n' = s.port n' := rfl
@[simp] theorem State.block_regZero (e : RegEntry) (buf o n : Nat) (n' : Nat) : (s.regZero e buf o n).block n' = s.block n' := rfl
@[simp] theorem State.die_regZero (e : RegEntry) (buf o n : Nat) (n' : Nat) : (s.regZero e buf o n).die n' = s.die n' := rfl
@[simp] theorem State.ctx_regZero (e : RegEntry) (buf o n : Nat) (n' : Nat) : (s.regZero e buf o n).ctx n' = s.ctx n' := rfl
@[simp] theorem State.strm_regZero (e : RegEntry) (buf o n : Nat) (n' : Nat) : (s.regZero e buf o n).strm n' = s.strm n' := rfl
@[simp] theorem State.part_regZero (e : RegEntry) (buf o n : Nat) (n' : Nat) : (s.regZero e buf o n).part n' = s.part n' := rfl
@[simp] theorem State.weight_regZero (e : RegEntry) (buf o n : Nat) (n' : Nat) : (s.regZero e buf o n).weight n' = s.weight n' := rfl
@[simp] theorem State.port_regZero (e : RegEntry) (buf o n : Nat) (n' : Nat) : (s.regZero e buf o n).port n' = s.port n' := rfl
@[simp] theorem State.block_stage (id : Nat) (e : RegEntry) (buf o blk lvl : Nat) (l : List Byte) (n' : Nat) : (s.stage id e buf o blk lvl l).block n' = s.block n' := rfl
@[simp] theorem State.die_stage (id : Nat) (e : RegEntry) (buf o blk lvl : Nat) (l : List Byte) (n' : Nat) : (s.stage id e buf o blk lvl l).die n' = s.die n' := rfl
@[simp] theorem State.ctx_stage (id : Nat) (e : RegEntry) (buf o blk lvl : Nat) (l : List Byte) (n' : Nat) : (s.stage id e buf o blk lvl l).ctx n' = s.ctx n' := rfl
@[simp] theorem State.strm_stage (id : Nat) (e : RegEntry) (buf o blk lvl : Nat) (l : List Byte) (n' : Nat) : (s.stage id e buf o blk lvl l).strm n' = s.strm n' := rfl
@[simp] theorem State.part_stage (id : Nat) (e : RegEntry) (buf o blk lvl : Nat) (l : List Byte) (n' : Nat) : (s.stage id e buf o blk lvl l).part n' = s.part n' := rfl
@[simp] theorem State.weight_stage (id : Nat) (e : RegEntry) (buf o blk lvl : Nat) (l : List Byte) (n' : Nat) : (s.stage id e buf o blk lvl l).weight n' = s.weight n' := rfl
@[simp] theorem State.port_stage (id : Nat) (e : RegEntry) (buf o blk lvl : Nat) (l : List Byte) (n' : Nat) : (s.stage id e buf o blk lvl l).port n' = s.port n' := rfl
@[simp] theorem State.block_updShared (p i : Nat) (f : RegEntry → RegEntry) (n' : Nat) : (s.updShared p i f).block n' = s.block n' := rfl
@[simp] theorem State.die_updShared (p i : Nat) (f : RegEntry → RegEntry) (n' : Nat) : (s.updShared p i f).die n' = s.die n' := rfl
@[simp] theorem State.strm_updShared (p i : Nat) (f : RegEntry → RegEntry) (n' : Nat) : (s.updShared p i f).strm n' = s.strm n' := rfl
@[simp] theorem State.part_updShared (p i : Nat) (f : RegEntry → RegEntry) (n' : Nat) : (s.updShared p i f).part n' = s.part n' := rfl
@[simp] theorem State.weight_updShared (p i : Nat) (f : RegEntry → RegEntry) (n' : Nat) : (s.updShared p i f).weight n' = s.weight n' := rfl
@[simp] theorem State.port_updShared (p i : Nat) (f : RegEntry → RegEntry) (n' : Nat) : (s.updShared p i f).port n' = s.port n' := rfl

end Sys2Proof.Machine
end

