-- ==== Sys2Proof/Laws/Ops.lean ====
section
/-! SUPPORT. What the shared operations of the rows can do, said once each: the gates through which a host access, a message, a
frame, a packet or a tile instruction reaches its own effect. -/

namespace Sys2Proof.Machine

set_option Elab.async false

/-! ### Gates -/

/-- A write of a register of the MGMT window: nothing while Ramalink is down, dropped with an event for a function other than 0,
else its effect, after which the lines follow. -/
theorem State.mgmtWrite_cases (s : State) (f addr : Nat) (g : State → State) :
    (s.hostUp = false ∧ s.mgmtWrite f addr g = s) ∨
    (s.hostUp = true ∧ f ≠ 0 ∧ s.mgmtWrite f addr g = (s.funcDrop f true addr).settle) ∨
    (s.hostUp = true ∧ f = 0 ∧ s.mgmtWrite f addr g = (g s).settle) := by
  unfold State.mgmtWrite State.mgmtAccess
  cases s.hostUp <;> by_cases f = 0 <;> simp [*]

/-- An event of the links acts while a link runs, and the lines follow. -/
theorem State.onLinks_cases (s : State) (f : State → State) :
    (s.linksLive = false ∧ s.onLinks f = .next s) ∨ (s.linksLive = true ∧ s.onLinks f = .next (f s).settle) := by
  unfold State.onLinks
  cases s.linksLive <;> simp

/-- A device-addressed frame: not taken on a port that is not UP, dropped by a check of R348, or heard. -/
theorem State.withFrame_cases (s : State) (ty : Nat) (fr : Frame) (f : State → State) :
    (s.portOpen fr = false ∧ s.withFrame ty fr f = s) ∨
    (s.portOpen fr = true ∧ s.receive ty fr = none ∧ s.withFrame ty fr f = s.dropFrame ty fr) ∨
    (s.portOpen fr = true ∧ ∃ u, s.receive ty fr = some u ∧ s.withFrame ty fr f = f u) := by
  unfold State.withFrame
  cases h : s.portOpen fr
  · exact .inl ⟨rfl, by simp⟩
  · cases h2 : s.receive ty fr
    · exact .inr (.inl ⟨rfl, rfl, by simp⟩)
    · exact .inr (.inr ⟨rfl, _, rfl, by simp⟩)

/-- What a frame that is heard has passed: its destination is this device, no fence keeps it out, and it is neither of an earlier
epoch nor from a fenced sender. -/
theorem State.receive_some {s u : State} {ty : Nat} {fr : Frame} (h : s.receive ty fr = some u) :
    ((s.hopAnswer ty fr).fenced && laneOf ty != 0) = false ∧ fr.dst = (s.hopAnswer ty fr).lnk.addr.toNat ∧
      (s.hopAnswer ty fr).stale fr = false ∧ (s.hopAnswer ty fr).fromFenced fr = false ∧ u = (s.hopAnswer ty fr).learn fr := by
  simp only [State.receive] at h
  split at h
  · nomatch h
  · split at h
    · nomatch h
    · split at h
      · nomatch h
      · rename_i h1 h2 h3
        simp only [bne_iff_ne, ne_eq, not_not] at h2
        simp only [Bool.or_eq_true, not_or, Bool.not_eq_true] at h3
        exact ⟨by simpa using h1, h2, h3.1, h3.2, (Option.some.inj h).symm⟩

/-- A management message: not heard, dropped with a record, or accepted and acted on. -/
theorem State.stobin_cases (s : State) (m : Stobin) (ty : Nat) (body : List Byte) (ok : Bool) (x : Exempt) (f : State → State) :
    (s.listens m ty = false ∧ s.stobin m ty body ok x f = s) ∨
    (s.listens m ty = true ∧ ∃ k, s.stobinFails m ty body ok x = some k ∧ s.stobin m ty body ok x f = (s.stobinDrop m ty k).settle) ∨
    (s.listens m ty = true ∧ s.stobinFails m ty body ok x = none ∧ s.stobin m ty body ok x f = (f (s.stobinAccept m x)).settle) := by
  unfold State.stobin
  cases h : s.listens m ty
  · exact .inl ⟨rfl, by simp⟩
  · cases h2 : s.stobinFails m ty body ok x
    · exact .inr (.inr ⟨rfl, rfl, by simp⟩)
    · exact .inr (.inl ⟨rfl, _, rfl, by simp⟩)

/-- A doorbell or a resume. -/
theorem State.dbWrite_cases (s : State) (f c n : Nat) (tail : BitVec 32) (resume : Bool) :
    (s.hostUp = false ∧ s.dbWrite f c n tail resume = s) ∨
    (s.hostUp = true ∧ s.reaches f c = false ∧ s.dbWrite f c n tail resume = (s.funcDrop f true (dbAddr c n)).settle) ∨
    (s.hostUp = true ∧ s.reaches f c = true ∧ s.dbWrite f c n tail resume = (s.ring c n tail resume).settle) := by
  unfold State.dbWrite
  cases s.hostUp <;> cases s.reaches f c <;> simp

/-- A packet row: left where the stream is not open, else presented to the Dispatcher, with the partition's issue point. -/
theorem State.present_cases (s : State) (h : Hdr) (op : Op) :
    (s.openStream h.ctx h.stream = none ∧ s.present h op = s) ∨
    (∃ g, s.openStream h.ctx h.stream = some g ∧
      s.present h op = (((s.fetchOp g h op).recordNow).issuePoint (s.ctxPart h.ctx)).settle) := by
  unfold State.present
  cases h2 : s.openStream h.ctx h.stream
  · exact .inl ⟨rfl, rfl⟩
  · exact .inr ⟨_, rfl, rfl⟩

/-- An open stream of a context is the global stream that its table names, and it is open. -/
theorem State.openStream_some {s : State} {c n g : Nat} (h : s.openStream c n = some g) :
    Tab.find (s.ctx c).streams n = some g ∧ (s.strm g).isOpen = true := by
  unfold State.openStream at h
  cases h2 : Tab.find (s.ctx c).streams n with
  | none => simp [h2] at h
  | some k =>
    simp only [h2] at h
    split at h
    · rename_i h3
      obtain rfl := Option.some.inj h
      exact ⟨rfl, h3⟩
    · nomatch h

/-! ### Tile instructions -/

/-- A block's command and program. -/
theorem State.runOf_some {s : State} {b : Nat} {x : Cmd} {p : Program} (h : s.runOf b = some (x, p)) :
    ∃ id, (s.block b).run = some id ∧ s.cmd id = some x ∧ s.programOf x = some p := by
  unfold State.runOf at h
  cases h1 : (s.block b).run with
  | none => simp [h1] at h
  | some id =>
    cases h2 : s.cmd id with
    | none => simp [h1, h2] at h
    | some y =>
      simp only [h1, h2, Option.map_eq_some_iff, Prod.mk.injEq] at h
      obtain ⟨q, hq, rfl, rfl⟩ := h
      exact ⟨id, rfl, h2, hq⟩

/-- A block's next instruction: of an issued command, on a block that has not ended. -/
theorem State.fetchTI_some {s : State} {b : Nat} {x : Cmd} {p : Program} {w : Nat} (h : s.fetchTI b = some (x, p, w)) :
    s.runOf b = some (x, p) ∧ x.phase = .issued ∧ (s.block b).ended = false ∧ p.instrs[(s.block b).pc]? = some w := by
  unfold State.fetchTI at h
  cases h1 : s.runOf b with
  | none => simp [h1] at h
  | some r =>
    simp only [h1] at h
    split at h
    · rename_i h2
      simp only [Option.map_eq_some_iff, Prod.mk.injEq] at h
      obtain ⟨w', hw, rfl, rfl, rfl⟩ := h
      simp only [Bool.and_eq_true, decide_eq_true_eq, Bool.not_eq_true'] at h2
      exact ⟨rfl, h2.1, h2.2, hw⟩
    · nomatch h

/-- A row of a tile instruction: nothing unless the block's next instruction is the one that the row names. -/
theorem State.withTI_cases (s : State) (b : Nat) (t : TI) (f : Cmd → Program → Nat → State) :
    (s.withTI b t f = s) ∨ (∃ x p w, s.fetchTI b = some (x, p, w) ∧ decodeTI w = some t ∧ s.withTI b t f = (f x p w).settle) := by
  unfold State.withTI
  cases h : s.fetchTI b with
  | none => exact .inl rfl
  | some r =>
    obtain ⟨x, p, w⟩ := r
    by_cases h2 : decodeTI w = some t
    · exact .inr ⟨x, p, w, rfl, h2, by simp [h2]⟩
    · exact .inl (by simp [h2])

theorem State.withTI_next {s : State} {b : Nat} {t : TI} {x : Cmd} {p : Program} {w : Nat} (f : Cmd → Program → Nat → State)
    (h : s.fetchTI b = some (x, p, w)) (hd : decodeTI w = some t) : s.withTI b t f = (f x p w).settle := by
  simp [State.withTI, h, hd]

theorem State.withTI_none {s : State} {b : Nat} (t : TI) (f : Cmd → Program → Nat → State) (h : s.fetchTI b = none) :
    s.withTI b t f = s := by
  simp [State.withTI, h]

/-! ### Lines -/

/-- A line that follows touches nothing but its own target. -/
theorem Irq.follow_target_ne (q : Irq) {t u : Nat} (h : u ≠ t) : (q.follow t).target u = q.target u := by
  unfold Irq.follow
  split
  · rfl
  · exact Tab.get_set_ne _ _ _ h

theorem Irq.follow_rest (q : Irq) (t : Nat) :
    (q.follow t).pend = q.pend ∧ (q.follow t).mask = q.mask ∧ (q.follow t).cfg = q.cfg ∧ (q.follow t).tmask = q.tmask ∧
      (q.follow t).mode = q.mode ∧ (q.follow t).bankmap = q.bankmap ∧ (q.follow t).bankPend = q.bankPend ∧
      (q.follow t).bankMask = q.bankMask ∧ (q.follow t).inService = q.inService := by
  unfold Irq.follow
  split <;> exact ⟨rfl, rfl, rfl, rfl, rfl, rfl, rfl, rfl, rfl⟩

/-- Once followed, a line is what its sources and its holdoff ask for. -/
theorem Irq.follow_line (q : Irq) (t : Nat) : ((q.follow t).target t).line = q.wantsLine t ∧ ((q.follow t).target t).held = (q.target t).held := by
  unfold Irq.follow
  split
  · rename_i h
    exact ⟨h, rfl⟩
  · constructor <;> simp [Irq.setTarget, Irq.target]

/-! ### Index registers and loops -/

/-- Outside a loop issue goes on at the next instruction. -/
theorem Block.goto_no_loop (b : Block) (n : Nat) (h : b.loops = []) : b.goto n = { b with pc := n } := by
  obtain ⟨⟩ := b
  simp only at h
  subst h
  rfl

end Sys2Proof.Machine
end

