-- ==== Sys2Proof/WellFormed.lean ====
section
/-! DEFINITION. Which commands are well formed: every operand fits the field of the register, packet, encoding or
message that carries it (R9, R274, R278, R281, R290 to R304, R344, R169 to R182). -/

namespace Sys2Proof

/-- A number fits `n` bits. -/
def fits (n v : Nat) : Bool := decide (v < 2 ^ n)

def Ref.wf (r : Ref) : Bool := fits 6 r.region && fits 48 r.off

/-- The header fields fit R290; context and stream are those whose ring holds the packet. -/
def Hdr.wf (h : Hdr) : Bool :=
  fits 8 h.ctx && fits 10 h.stream && fits 8 h.timeout && fits 16 h.pstream && fits 8 h.cls

def LoadP.wf (p : LoadP) : Bool := fits 32 p.segFirst && fits 32 p.segCount && fits 64 p.manifest

def RunP.wf (p : RunP) : Bool :=
  fits 16 p.program && fits 16 p.bgFirst && fits 16 p.bgSize && p.args.length == 4 && p.binds.length == 4

def CollP.wf (p : CollP) : Bool :=
  p.src.wf && p.dst.wf && fits 64 p.length && fits 16 p.group && fits 8 p.fmt && fits 8 p.op && fits 16 p.root

def RouteP.wf (p : RouteP) : Bool :=
  fits 8 p.table && fits 8 p.phase && fits 32 p.first && fits 32 p.count && p.rows.wf && p.grec.wf

def CombineP.wf (p : CombineP) : Bool := fits 8 p.table && fits 32 p.first && fits 32 p.count && p.outp.wf

/-- The parameters fit their places in the packet (R301 to R304). -/
def Op.wf : Op → Bool
  | .streamOpen p =>
    fits 16 p.lstream && fits 8 p.prio && fits 8 p.cq && fits 8 p.ringLog2 && fits 8 p.cqLog2 && fits 64 p.ring &&
      fits 64 p.cqOff
  | .streamClose l => fits 16 l
  | .loadPlace p | .loadVerify p | .adapterPlace p | .adapterVerify p | .wsStage p | .wsVerify p => p.wf
  | .unload | .wsAbort | .fence | .modeCancel => true
  | .adapterDetach r => fits 8 r
  | .run p => p.wf
  | .copy p =>
    p.src.wf && p.dst.wf && fits 32 p.rows && fits 32 p.cols && fits 32 p.srcPitch && fits 32 p.dstPitch &&
      fits 8 p.srcFmt && fits 8 p.dstFmt && fits 8 p.rnd && fits 64 p.length
  | .fill p => p.dst.wf && fits 64 p.length
  | .reduce p | .gather p | .broadcast p => p.wf
  | .normreduce p =>
    p.result.wf && fits 16 p.tag && fits 16 p.group && p.regions.length == 8 &&
      p.regions.all (fun r => fits 8 r.1 && fits 8 r.2)
  | .permute p => p.plan.wf && p.cursor.wf && fits 16 p.group
  | .routeOpen p | .routeDispatch p | .routeClose p | .routeRetrace p | .routeReturn p | .routeForceSeal p
  | .routeCounts p | .routeXset p => p.wf
  | .combineForward p | .combineRetrace p => p.wf
  | .wsSwitch _ l => fits 8 l
  | .optstep p =>
    fits 16 p.program && fits 16 p.bgFirst && fits 16 p.bgSize && fits 16 p.waitLimit && p.args.length == 4 &&
      fits 16 p.normTag && fits 8 p.stageRegion && fits 48 p.stageOff
  | .signalAdd g _ | .signalSet g _ => fits 8 g
  | .wait g l _ => fits 8 g && fits 16 l
  | .preempt t n => fits 8 t && fits 16 n
  | .preemptResume t | .contextReset t => fits 8 t
  | .partitionConfig l => l.wf
  | .modeArm _ t => fits 64 t
  | .censusRead d _ => d.wf
  | .accountRead p => p.dst.wf && fits 8 p.scope && fits 16 p.lstream && fits 16 p.bgFirst && fits 16 p.bgSize

/-- Field widths of an MM (R170). -/
def MmF.wf (f : MmF) : Bool :=
  fits 2 f.fmt && fits 2 f.sparse && fits 2 f.acc && fits 4 f.fslot && fits 2 f.rnd && fits 6 f.cls && fits 10 f.nm1 &&
    fits 2 f.asrc && fits 2 f.bsrc && fits 12 f.aline && fits 8 f.atstr && fits 4 f.aix && fits 9 f.acs &&
    fits 12 f.bline && fits 8 f.btstr && fits 4 f.bix && fits 9 f.bcs

/-- Field widths of a VEC (R172). -/
def VecF.wf (v : VecF) : Bool :=
  fits 3 v.mod && fits 2 v.rnd && fits 6 v.cls && fits 8 v.dd && fits 4 v.dix && fits 8 v.sa && fits 4 v.saix &&
    fits 8 v.sb && fits 4 v.sbix && fits 8 v.sc && fits 4 v.scix

/-- Field widths of a GATE (R181). -/
def GateF.wf (g : GateF) : Bool :=
  fits 3 g.km1 && fits 2 g.rnd && fits 6 g.cls && fits 16 g.expertBase && fits 8 g.sd && fits 4 g.six &&
    fits 20 g.outp && fits 4 g.oix

/-- Field widths of a MOV (R174). -/
def MovF.wf (m : MovF) : Bool :=
  fits 3 m.tkind && fits 20 m.bsaddr && fits 4 m.bix && fits 14 m.count && fits 6 m.aux && fits 5 m.xsh && fits 4 m.xix &&
    fits 42 m.off

/-- A frame's header fields fit (R344), and the port it arrives on is one of the 32. -/
def Frame.wf (f : Frame) : Bool :=
  fits 4 f.hops && fits 24 f.dst && fits 24 f.src && fits 8 f.dstCtx && fits 8 f.srcCtx && fits 32 f.lseq && decide (f.payload.length ≤ 4096) &&
    (match f.port with | some p => decide (p < 32) | none => true)

def Stobin.wf (m : Stobin) : Bool := fits 1 m.port && fits 32 m.seq

def Carrier.wf : Carrier → Bool
  | .host f _ => fits 8 f
  | .stobin m _ => m.wf

/-- A block number (01). -/
def blockNo (b : Nat) : Bool := decide (b < 5120)
/-- A link port number (R377). -/
def portNo (p : Nat) : Bool := decide (p < 32)

/-- Every operand of a command fits its carrier. -/
def Instr.wf : Instr → Bool
  | .registerWrite f a w _ => fits 8 f && fits 64 a && (w == 4 || w == 8)
  | .apertureWrite f a d => fits 8 f && fits 64 a && decide (d.length ≤ 4096)
  | .apertureRead f a n => fits 8 f && fits 64 a && decide (n ≤ 4096)
  | .doorbell f c n _ | .resume f c n _ => fits 8 f && fits 8 c && fits 10 n
  | .packetFetch g => fits 13 g
  | .commandIssue p _ _ => fits 4 p
  | .blockDoneAck b _ => blockNo b
  | .saddleWindowOpen _ | .beatEdge _ | .beatInEdge _ _ | .holdoverEdge _ | .commandHang _ | .waitTimeout _
  | .versionBusy _ | .leaseLapse | .bistEnd | .cairnRecordWrite | .mirrorCopy | .moduleReset | .warmTimeout
  | .recoverN _ | .busPowerUp | .busTrip | .inputExcursion _ | .thermalTrip _ _ | .coolantRestored
  | .inputExcursionEnd _ | .throttleNChange _ | .edgeAckMiss | .e2eResend _ => true
  | .heldExpiry c => fits 8 c
  | .drainTimeout p => fits 4 p
  | .streamOpen h p => h.wf && (Op.streamOpen p).wf
  | .streamClose h l => h.wf && (Op.streamClose l).wf
  | .loadsetLoadPlace h p | .loadsetLoadVerify h p | .adapterAttachPlace h p | .adapterAttachVerify h p
  | .weightSwitchStage h p | .weightSwitchVerify h p => h.wf && p.wf
  | .loadsetUnload h | .weightSwitchAbort h | .fence h | .modeStageCancel h => h.wf
  | .adapterDetach h r => h.wf && fits 8 r
  | .run h p => h.wf && p.wf
  | .copy h p => h.wf && (Op.copy p).wf
  | .fill h p => h.wf && (Op.fill p).wf
  | .reduce h p | .gather h p | .broadcast h p => h.wf && p.wf
  | .normreduce h p => h.wf && (Op.normreduce p).wf
  | .permute h p => h.wf && (Op.permute p).wf
  | .routeOpen h p | .routeDispatch h p | .routeClose h p | .routeRetrace h p | .routeReturn h p
  | .routeForceSeal h p | .routeCounts h p | .routeXset h p => h.wf && p.wf
  | .combineForward h p | .combineRetrace h p => h.wf && p.wf
  | .weightSwitchSwitch h _ l => h.wf && fits 8 l
  | .optstep h p => h.wf && (Op.optstep p).wf
  | .signalAdd h g v => h.wf && (Op.signalAdd g v).wf
  | .signalSet h g v => h.wf && (Op.signalSet g v).wf
  | .wait h g l v => h.wf && (Op.wait g l v).wf
  | .preempt h t n => h.wf && (Op.preempt t n).wf
  | .preemptResume h t | .contextReset h t => h.wf && fits 8 t
  | .partitionConfig h l => h.wf && l.wf
  | .modeStageArm h _ t => h.wf && fits 64 t
  | .censusRead h d _ => h.wf && d.wf
  | .accountRead h p => h.wf && (Op.accountRead p).wf
  | .mm b f => blockNo b && f.wf
  | .drainEnd b u => blockNo b && u.all (fun e => fits 12 e.1)
  | .cvt b v _ | .add b v _ | .sub b v _ | .mul b v _ | .fma b v _ | .min b v _ | .max b v _ | .cmp b v _ | .sel b v _
  | .abs b v _ | .neg b v _ | .exp2 b v _ | .log2 b v _ | .recip b v _ | .rsqrt b v _ | .sqrt b v _ | .sigmoid b v _
  | .tanh b v _ | .relu b v _ | .softplus b v _ | .dsig b v _ | .dtanh b v _ | .drelu b v _ | .dexp b v _
  | .drecip b v _ | .drsqrt b v _ => blockNo b && v.wf
  | .dsoftmax b v | .rsum b v | .rmax b v | .rssq b v | .randu b v | .randn b v | .occ b v => blockNo b && v.wf
  | .gate b g => blockNo b && g.wf
  | .ldb b m | .stb b m | .ldt b m | .stt b m | .send b m | .recv b m | .pdisp b m | .ptake b m => blockNo b && m.wf
  | .dmaTransferEnd b | .bar b | .ctlEnd b | .budget b _ => blockNo b
  | .tqpop b a | .tqwait b a | .syncFence b a | .syncSignal b a _ | .land b a => blockNo b && fits 8 a
  | .loop b d a _ n => blockNo b && fits 4 d && fits 4 a && fits 12 n
  | .seti b d _ => blockNo b && fits 4 d
  | .addi b d a _ | .muli b d a _ | .divi b d a _ | .modi b d a _ => blockNo b && fits 4 d && fits 4 a
  | .madd b d a c _ => blockNo b && fits 4 d && fits 4 a && fits 4 c
  | .beatStageArm f | .beatStageCancel f | .censClrCtx f | .censClrSel f | .passClrSel f | .ptModeArm f | .ptModeCancel f
  | .applyIdle f | .acctClrSel f | .bistImgClear f | .bistAbort f | .cairnClrRestart f | .cairnClrGo f => fits 8 f
  | .censSelWrite f _ | .passSelWrite f _ | .acctSelWrite f _ | .bistImgData f _ | .bistResSel f _ | .cairnRdSeq f _
  | .cairnClrData f _ | .irqModeWrite f _ => fits 8 f
  | .bistImgGo f _ => fits 8 f
  | .ptNextWrite f n _ | .schedSwap f n _ | .schedCancel f n _ => fits 8 f && fits 4 n
  | .ctxCreate f c | .ctxDestroy f c => fits 8 f && fits 8 c
  | .ctxRselWrite f c _ => fits 8 f && fits 8 c
  | .retrain f n _ => fits 8 f && portNo n
  | .cairnCodeWrite f n _ => fits 8 f && fits 12 n
  | .irqTgtClaim f t | .irqTgtIdle f t => fits 8 f && fits 6 t
  | .irqTgtComplete f t _ => fits 8 f && fits 6 t
  | .holdoffEnd t => fits 6 t
  | .lease m l v => m.wf && fits 16 l && fits 8 v
  | .derateArm m _ t =>
    m.wf && t.fcap.length == 256 && t.band.length == 3 && t.echo.length == 8 && decide (t.retireList.length ≤ 512)
  | .derateCancel m | .wake m | .certRead m => m.wf
  | .reset m k => m.wf && fits 8 k
  | .binsRead m a n _ | .bistRead m a n | .cairnRead m a n => m.wf && fits 64 a && fits 16 n
  | .standdown r => r.wf
  | .retry r _ => r.wf
  | .attest m n => m.wf && n.length == 32
  | .cairnClear m r => m.wf && decide (r.length ≤ 8192)
  | .startReport p => fits 1 p
  | .discoverSend p | .portTrained p _ | .portFailure p _ => portNo p
  | .discoverReply p _ fr | .discover p _ fr | .epochAnnounce p _ fr => portNo p && fr.wf
  | .beatMarker p _ _ _ => portNo p
  | .hopAck p _ l => portNo p && fits 16 l
  | .hopCredit p a b c d => portNo p && fits 16 a && fits 16 b && fits 16 c && fits 16 d
  | .frameCrcError p l => portNo p && fits 16 l
  | .reservedFrame p t => portNo p && fits 8 t
  | .e2eAck fr | .e2eNotready _ fr | .collData fr | .collAbort fr | .permData fr | .permMark fr | .chanData fr
  | .chanCommit fr | .chanCredit fr => fr.wf
  | .passTry fr _ => fr.wf
  | .passReply fr _ _ | .passRow fr _ _ => fr.wf
  | .passMark fr _ _ _ => fr.wf
  | .ramalinkRetrain l => l == 16 || l == 8 || l == 4 || l == 0
  | .purgeAck _ e | .quarantine _ e => fits 17 e
  | .unitReady u => decide (u < 27)
  | .cairnRefill c => fits 12 c
  | .start v _ => fits 12 v
  | .startStepTimeout k c => fits 8 k && fits 8 c
  | .thermalThrottle d _ _ | .thermalThrottleEnd d _ => fits 3 d
  | .coolant k _ _ => fits 2 k

end Sys2Proof
end

