-- ==== Sys2Proof/Laws/PerInstr.lean ====
section
/-! SUPPORT. One lemma per command: what being well formed gives of a row's carrier. -/

namespace Sys2Proof.Laws.WellFormedRow

set_option Elab.async false

/-- A well-formed command names a block that the module has, a packet whose header and operation fit their bytes, a register inside the
MGMT window and a function of 8 bits, a frame whose fields fit (R169, R274, R277, R290, R344). -/
def Statement (i : Instr) : Prop :=
  i.wf = true →
    (∀ b t e, i.engineRow = some (b, t, e) → b < 5120) ∧ (∀ h op, i.packet = some (h, op) → h.wf = true ∧ op.wf = true) ∧
    (∀ f a, i.mgmtRow = some (f, a) → f < 256 ∧ a < 0x1000000) ∧ (∀ ty fr, i.frame = some (ty, fr) → fr.wf = true)

theorem of_none {i : Instr} (h1 : i.engineRow = none) (h2 : i.packet = none) (h3 : i.mgmtRow = none) (h4 : i.frame = none) : Statement i := by
  intro _
  simp [h1, h2, h3, h4]

theorem of_engine {i : Instr} {b : Nat} {t : Machine.TI} {e : Option Nat} (h1 : i.engineRow = some (b, t, e)) (h2 : i.packet = none)
    (h3 : i.mgmtRow = none) (h4 : i.frame = none) (hw : i.wf = true → b < 5120) : Statement i := by
  intro h
  simp [h1, h2, h3, h4]
  exact hw h

theorem of_packet {i : Instr} {h : Hdr} {op : Op} (h1 : i.engineRow = none) (h2 : i.packet = some (h, op)) (h3 : i.mgmtRow = none)
    (h4 : i.frame = none) (hw : i.wf = true → h.wf = true ∧ op.wf = true) : Statement i := by
  intro e
  simp [h1, h2, h3, h4]
  exact hw e

theorem of_mgmt {i : Instr} {f a : Nat} (h1 : i.engineRow = none) (h2 : i.packet = none) (h3 : i.mgmtRow = some (f, a)) (h4 : i.frame = none)
    (hw : i.wf = true → f < 256 ∧ a < 0x1000000) : Statement i := by
  intro e
  simp [h1, h2, h3, h4]
  exact hw e

theorem of_frame {i : Instr} {ty : Nat} {fr : Frame} (h1 : i.engineRow = none) (h2 : i.packet = none) (h3 : i.mgmtRow = none)
    (h4 : i.frame = some (ty, fr)) (hw : i.wf = true → fr.wf = true) : Statement i := by
  intro e
  simp [h1, h2, h3, h4]
  exact hw e

theorem registerWrite (f addr width : Nat) (v : W64) : Statement (.registerWrite f addr width v) :=
  of_none rfl rfl rfl rfl

theorem apertureWrite (f addr : Nat) (data : List Byte) : Statement (.apertureWrite f addr data) :=
  of_none rfl rfl rfl rfl

theorem apertureRead (f addr len : Nat) : Statement (.apertureRead f addr len) :=
  of_none rfl rfl rfl rfl

theorem doorbell (f c n : Nat) (tail : BitVec 32) : Statement (.doorbell f c n tail) :=
  of_none rfl rfl rfl rfl

theorem resume (f c n : Nat) (tail : BitVec 32) : Statement (.resume f c n tail) :=
  of_none rfl rfl rfl rfl

theorem packetFetch (g : Nat) : Statement (.packetFetch g) :=
  of_none rfl rfl rfl rfl

theorem commandIssue (pt t leg : Nat) : Statement (.commandIssue pt t leg) :=
  of_none rfl rfl rfl rfl

theorem blockDoneAck (b cycles : Nat) : Statement (.blockDoneAck b cycles) :=
  of_none rfl rfl rfl rfl

theorem saddleWindowOpen (o : WindowObs) : Statement (.saddleWindowOpen o) :=
  of_none rfl rfl rfl rfl

theorem beatEdge (o : EdgeObs) : Statement (.beatEdge o) :=
  of_none rfl rfl rfl rfl

theorem heldExpiry (c : Nat) : Statement (.heldExpiry c) :=
  of_none rfl rfl rfl rfl

theorem beatInEdge (offNs : Int) (o : EdgeObs) : Statement (.beatInEdge offNs o) :=
  of_none rfl rfl rfl rfl

theorem holdoverEdge (o : EdgeObs) : Statement (.holdoverEdge o) :=
  of_none rfl rfl rfl rfl

theorem commandHang (id : Nat) : Statement (.commandHang id) :=
  of_none rfl rfl rfl rfl

theorem waitTimeout (id : Nat) : Statement (.waitTimeout id) :=
  of_none rfl rfl rfl rfl

theorem versionBusy (id : Nat) : Statement (.versionBusy id) :=
  of_none rfl rfl rfl rfl

theorem drainTimeout (pt : Nat) : Statement (.drainTimeout pt) :=
  of_none rfl rfl rfl rfl

theorem streamOpen (h : Hdr) (p : StreamOpenP) : Statement (.streamOpen h p) :=
  of_packet rfl rfl rfl rfl (fun e => Bool.and_eq_true_iff.1 e)

theorem streamClose (h : Hdr) (lstream : Nat) : Statement (.streamClose h lstream) :=
  of_packet rfl rfl rfl rfl (fun e => Bool.and_eq_true_iff.1 e)

theorem loadsetLoadPlace (h : Hdr) (p : LoadP) : Statement (.loadsetLoadPlace h p) :=
  of_packet rfl rfl rfl rfl (fun e => Bool.and_eq_true_iff.1 e)

theorem loadsetLoadVerify (h : Hdr) (p : LoadP) : Statement (.loadsetLoadVerify h p) :=
  of_packet rfl rfl rfl rfl (fun e => Bool.and_eq_true_iff.1 e)

theorem loadsetUnload (h : Hdr) : Statement (.loadsetUnload h) :=
  of_packet rfl rfl rfl rfl (fun e => ⟨e, rfl⟩)

theorem adapterAttachPlace (h : Hdr) (p : LoadP) : Statement (.adapterAttachPlace h p) :=
  of_packet rfl rfl rfl rfl (fun e => Bool.and_eq_true_iff.1 e)

theorem adapterAttachVerify (h : Hdr) (p : LoadP) : Statement (.adapterAttachVerify h p) :=
  of_packet rfl rfl rfl rfl (fun e => Bool.and_eq_true_iff.1 e)

theorem adapterDetach (h : Hdr) (region : Nat) : Statement (.adapterDetach h region) :=
  of_packet rfl rfl rfl rfl (fun e => Bool.and_eq_true_iff.1 e)

theorem run (h : Hdr) (p : RunP) : Statement (.run h p) :=
  of_packet rfl rfl rfl rfl (fun e => Bool.and_eq_true_iff.1 e)

theorem copy (h : Hdr) (p : CopyP) : Statement (.copy h p) :=
  of_packet rfl rfl rfl rfl (fun e => Bool.and_eq_true_iff.1 e)

theorem fill (h : Hdr) (p : FillP) : Statement (.fill h p) :=
  of_packet rfl rfl rfl rfl (fun e => Bool.and_eq_true_iff.1 e)

theorem reduce (h : Hdr) (p : CollP) : Statement (.reduce h p) :=
  of_packet rfl rfl rfl rfl (fun e => Bool.and_eq_true_iff.1 e)

theorem gather (h : Hdr) (p : CollP) : Statement (.gather h p) :=
  of_packet rfl rfl rfl rfl (fun e => Bool.and_eq_true_iff.1 e)

theorem broadcast (h : Hdr) (p : CollP) : Statement (.broadcast h p) :=
  of_packet rfl rfl rfl rfl (fun e => Bool.and_eq_true_iff.1 e)

theorem normreduce (h : Hdr) (p : NormP) : Statement (.normreduce h p) :=
  of_packet rfl rfl rfl rfl (fun e => Bool.and_eq_true_iff.1 e)

theorem permute (h : Hdr) (p : PermP) : Statement (.permute h p) :=
  of_packet rfl rfl rfl rfl (fun e => Bool.and_eq_true_iff.1 e)

theorem routeOpen (h : Hdr) (p : RouteP) : Statement (.routeOpen h p) :=
  of_packet rfl rfl rfl rfl (fun e => Bool.and_eq_true_iff.1 e)

theorem routeDispatch (h : Hdr) (p : RouteP) : Statement (.routeDispatch h p) :=
  of_packet rfl rfl rfl rfl (fun e => Bool.and_eq_true_iff.1 e)

theorem routeClose (h : Hdr) (p : RouteP) : Statement (.routeClose h p) :=
  of_packet rfl rfl rfl rfl (fun e => Bool.and_eq_true_iff.1 e)

theorem routeRetrace (h : Hdr) (p : RouteP) : Statement (.routeRetrace h p) :=
  of_packet rfl rfl rfl rfl (fun e => Bool.and_eq_true_iff.1 e)

theorem routeReturn (h : Hdr) (p : RouteP) : Statement (.routeReturn h p) :=
  of_packet rfl rfl rfl rfl (fun e => Bool.and_eq_true_iff.1 e)

theorem routeForceSeal (h : Hdr) (p : RouteP) : Statement (.routeForceSeal h p) :=
  of_packet rfl rfl rfl rfl (fun e => Bool.and_eq_true_iff.1 e)

theorem routeCounts (h : Hdr) (p : RouteP) : Statement (.routeCounts h p) :=
  of_packet rfl rfl rfl rfl (fun e => Bool.and_eq_true_iff.1 e)

theorem routeXset (h : Hdr) (p : RouteP) : Statement (.routeXset h p) :=
  of_packet rfl rfl rfl rfl (fun e => Bool.and_eq_true_iff.1 e)

theorem combineForward (h : Hdr) (p : CombineP) : Statement (.combineForward h p) :=
  of_packet rfl rfl rfl rfl (fun e => Bool.and_eq_true_iff.1 e)

theorem combineRetrace (h : Hdr) (p : CombineP) : Statement (.combineRetrace h p) :=
  of_packet rfl rfl rfl rfl (fun e => Bool.and_eq_true_iff.1 e)

theorem weightSwitchStage (h : Hdr) (p : LoadP) : Statement (.weightSwitchStage h p) :=
  of_packet rfl rfl rfl rfl (fun e => Bool.and_eq_true_iff.1 e)

theorem weightSwitchVerify (h : Hdr) (p : LoadP) : Statement (.weightSwitchVerify h p) :=
  of_packet rfl rfl rfl rfl (fun e => Bool.and_eq_true_iff.1 e)

theorem weightSwitchSwitch (h : Hdr) (holdNew : Bool) (limit : Nat) : Statement (.weightSwitchSwitch h holdNew limit) :=
  of_packet rfl rfl rfl rfl (fun e => Bool.and_eq_true_iff.1 e)

theorem weightSwitchAbort (h : Hdr) : Statement (.weightSwitchAbort h) :=
  of_packet rfl rfl rfl rfl (fun e => ⟨e, rfl⟩)

theorem optstep (h : Hdr) (p : OptP) : Statement (.optstep h p) :=
  of_packet rfl rfl rfl rfl (fun e => Bool.and_eq_true_iff.1 e)

theorem fence (h : Hdr) : Statement (.fence h) :=
  of_packet rfl rfl rfl rfl (fun e => ⟨e, rfl⟩)

theorem signalAdd (h : Hdr) (sig : Nat) (v : W64) : Statement (.signalAdd h sig v) :=
  of_packet rfl rfl rfl rfl (fun e => Bool.and_eq_true_iff.1 e)

theorem signalSet (h : Hdr) (sig : Nat) (v : W64) : Statement (.signalSet h sig v) :=
  of_packet rfl rfl rfl rfl (fun e => Bool.and_eq_true_iff.1 e)

theorem wait (h : Hdr) (sig limit : Nat) (v : W64) : Statement (.wait h sig limit v) :=
  of_packet rfl rfl rfl rfl (fun e => Bool.and_eq_true_iff.1 e)

theorem preempt (h : Hdr) (target holdBeats : Nat) : Statement (.preempt h target holdBeats) :=
  of_packet rfl rfl rfl rfl (fun e => Bool.and_eq_true_iff.1 e)

theorem preemptResume (h : Hdr) (target : Nat) : Statement (.preemptResume h target) :=
  of_packet rfl rfl rfl rfl (fun e => Bool.and_eq_true_iff.1 e)

theorem contextReset (h : Hdr) (target : Nat) : Statement (.contextReset h target) :=
  of_packet rfl rfl rfl rfl (fun e => Bool.and_eq_true_iff.1 e)

theorem partitionConfig (h : Hdr) (layout : Ref) : Statement (.partitionConfig h layout) :=
  of_packet rfl rfl rfl rfl (fun e => Bool.and_eq_true_iff.1 e)

theorem modeStageArm (h : Hdr) (newEpoch : BitVec 16) (target : Nat) : Statement (.modeStageArm h newEpoch target) :=
  of_packet rfl rfl rfl rfl (fun e => Bool.and_eq_true_iff.1 e)

theorem modeStageCancel (h : Hdr) : Statement (.modeStageCancel h) :=
  of_packet rfl rfl rfl rfl (fun e => ⟨e, rfl⟩)

theorem censusRead (h : Hdr) (dst : Ref) (clear : Bool) : Statement (.censusRead h dst clear) :=
  of_packet rfl rfl rfl rfl (fun e => Bool.and_eq_true_iff.1 e)

theorem accountRead (h : Hdr) (p : AccountP) : Statement (.accountRead h p) :=
  of_packet rfl rfl rfl rfl (fun e => Bool.and_eq_true_iff.1 e)

theorem mm (b : Nat) (f : MmF) : Statement (.mm b f) :=
  of_engine rfl rfl rfl rfl (fun e => of_decide_eq_true (Bool.and_eq_true_iff.1 e).1)

theorem drainEnd (b : Nat) (upset : List (Nat × W40)) : Statement (.drainEnd b upset) :=
  of_none rfl rfl rfl rfl

theorem cvt (b : Nat) (v : VecF) (echo : Option Nat) : Statement (.cvt b v echo) :=
  of_engine rfl rfl rfl rfl (fun e => of_decide_eq_true (Bool.and_eq_true_iff.1 e).1)

theorem add (b : Nat) (v : VecF) (echo : Option Nat) : Statement (.add b v echo) :=
  of_engine rfl rfl rfl rfl (fun e => of_decide_eq_true (Bool.and_eq_true_iff.1 e).1)

theorem sub (b : Nat) (v : VecF) (echo : Option Nat) : Statement (.sub b v echo) :=
  of_engine rfl rfl rfl rfl (fun e => of_decide_eq_true (Bool.and_eq_true_iff.1 e).1)

theorem mul (b : Nat) (v : VecF) (echo : Option Nat) : Statement (.mul b v echo) :=
  of_engine rfl rfl rfl rfl (fun e => of_decide_eq_true (Bool.and_eq_true_iff.1 e).1)

theorem fma (b : Nat) (v : VecF) (echo : Option Nat) : Statement (.fma b v echo) :=
  of_engine rfl rfl rfl rfl (fun e => of_decide_eq_true (Bool.and_eq_true_iff.1 e).1)

theorem min (b : Nat) (v : VecF) (echo : Option Nat) : Statement (.min b v echo) :=
  of_engine rfl rfl rfl rfl (fun e => of_decide_eq_true (Bool.and_eq_true_iff.1 e).1)

theorem max (b : Nat) (v : VecF) (echo : Option Nat) : Statement (.max b v echo) :=
  of_engine rfl rfl rfl rfl (fun e => of_decide_eq_true (Bool.and_eq_true_iff.1 e).1)

theorem cmp (b : Nat) (v : VecF) (echo : Option Nat) : Statement (.cmp b v echo) :=
  of_engine rfl rfl rfl rfl (fun e => of_decide_eq_true (Bool.and_eq_true_iff.1 e).1)

theorem sel (b : Nat) (v : VecF) (echo : Option Nat) : Statement (.sel b v echo) :=
  of_engine rfl rfl rfl rfl (fun e => of_decide_eq_true (Bool.and_eq_true_iff.1 e).1)

theorem abs (b : Nat) (v : VecF) (echo : Option Nat) : Statement (.abs b v echo) :=
  of_engine rfl rfl rfl rfl (fun e => of_decide_eq_true (Bool.and_eq_true_iff.1 e).1)

theorem neg (b : Nat) (v : VecF) (echo : Option Nat) : Statement (.neg b v echo) :=
  of_engine rfl rfl rfl rfl (fun e => of_decide_eq_true (Bool.and_eq_true_iff.1 e).1)

theorem exp2 (b : Nat) (v : VecF) (echo : Option Nat) : Statement (.exp2 b v echo) :=
  of_engine rfl rfl rfl rfl (fun e => of_decide_eq_true (Bool.and_eq_true_iff.1 e).1)

theorem log2 (b : Nat) (v : VecF) (echo : Option Nat) : Statement (.log2 b v echo) :=
  of_engine rfl rfl rfl rfl (fun e => of_decide_eq_true (Bool.and_eq_true_iff.1 e).1)

theorem recip (b : Nat) (v : VecF) (echo : Option Nat) : Statement (.recip b v echo) :=
  of_engine rfl rfl rfl rfl (fun e => of_decide_eq_true (Bool.and_eq_true_iff.1 e).1)

theorem rsqrt (b : Nat) (v : VecF) (echo : Option Nat) : Statement (.rsqrt b v echo) :=
  of_engine rfl rfl rfl rfl (fun e => of_decide_eq_true (Bool.and_eq_true_iff.1 e).1)

theorem sqrt (b : Nat) (v : VecF) (echo : Option Nat) : Statement (.sqrt b v echo) :=
  of_engine rfl rfl rfl rfl (fun e => of_decide_eq_true (Bool.and_eq_true_iff.1 e).1)

theorem sigmoid (b : Nat) (v : VecF) (echo : Option Nat) : Statement (.sigmoid b v echo) :=
  of_engine rfl rfl rfl rfl (fun e => of_decide_eq_true (Bool.and_eq_true_iff.1 e).1)

theorem tanh (b : Nat) (v : VecF) (echo : Option Nat) : Statement (.tanh b v echo) :=
  of_engine rfl rfl rfl rfl (fun e => of_decide_eq_true (Bool.and_eq_true_iff.1 e).1)

theorem relu (b : Nat) (v : VecF) (echo : Option Nat) : Statement (.relu b v echo) :=
  of_engine rfl rfl rfl rfl (fun e => of_decide_eq_true (Bool.and_eq_true_iff.1 e).1)

theorem softplus (b : Nat) (v : VecF) (echo : Option Nat) : Statement (.softplus b v echo) :=
  of_engine rfl rfl rfl rfl (fun e => of_decide_eq_true (Bool.and_eq_true_iff.1 e).1)

theorem dsig (b : Nat) (v : VecF) (echo : Option Nat) : Statement (.dsig b v echo) :=
  of_engine rfl rfl rfl rfl (fun e => of_decide_eq_true (Bool.and_eq_true_iff.1 e).1)

theorem dtanh (b : Nat) (v : VecF) (echo : Option Nat) : Statement (.dtanh b v echo) :=
  of_engine rfl rfl rfl rfl (fun e => of_decide_eq_true (Bool.and_eq_true_iff.1 e).1)

theorem drelu (b : Nat) (v : VecF) (echo : Option Nat) : Statement (.drelu b v echo) :=
  of_engine rfl rfl rfl rfl (fun e => of_decide_eq_true (Bool.and_eq_true_iff.1 e).1)

theorem dexp (b : Nat) (v : VecF) (echo : Option Nat) : Statement (.dexp b v echo) :=
  of_engine rfl rfl rfl rfl (fun e => of_decide_eq_true (Bool.and_eq_true_iff.1 e).1)

theorem drecip (b : Nat) (v : VecF) (echo : Option Nat) : Statement (.drecip b v echo) :=
  of_engine rfl rfl rfl rfl (fun e => of_decide_eq_true (Bool.and_eq_true_iff.1 e).1)

theorem drsqrt (b : Nat) (v : VecF) (echo : Option Nat) : Statement (.drsqrt b v echo) :=
  of_engine rfl rfl rfl rfl (fun e => of_decide_eq_true (Bool.and_eq_true_iff.1 e).1)

theorem dsoftmax (b : Nat) (v : VecF) : Statement (.dsoftmax b v) :=
  of_engine rfl rfl rfl rfl (fun e => of_decide_eq_true (Bool.and_eq_true_iff.1 e).1)

theorem rsum (b : Nat) (v : VecF) : Statement (.rsum b v) :=
  of_engine rfl rfl rfl rfl (fun e => of_decide_eq_true (Bool.and_eq_true_iff.1 e).1)

theorem rmax (b : Nat) (v : VecF) : Statement (.rmax b v) :=
  of_engine rfl rfl rfl rfl (fun e => of_decide_eq_true (Bool.and_eq_true_iff.1 e).1)

theorem rssq (b : Nat) (v : VecF) : Statement (.rssq b v) :=
  of_engine rfl rfl rfl rfl (fun e => of_decide_eq_true (Bool.and_eq_true_iff.1 e).1)

theorem randu (b : Nat) (v : VecF) : Statement (.randu b v) :=
  of_engine rfl rfl rfl rfl (fun e => of_decide_eq_true (Bool.and_eq_true_iff.1 e).1)

theorem randn (b : Nat) (v : VecF) : Statement (.randn b v) :=
  of_engine rfl rfl rfl rfl (fun e => of_decide_eq_true (Bool.and_eq_true_iff.1 e).1)

theorem occ (b : Nat) (v : VecF) : Statement (.occ b v) :=
  of_engine rfl rfl rfl rfl (fun e => of_decide_eq_true (Bool.and_eq_true_iff.1 e).1)

theorem gate (b : Nat) (g : GateF) : Statement (.gate b g) :=
  of_engine rfl rfl rfl rfl (fun e => of_decide_eq_true (Bool.and_eq_true_iff.1 e).1)

theorem ldb (b : Nat) (m : MovF) : Statement (.ldb b m) :=
  of_engine rfl rfl rfl rfl (fun e => of_decide_eq_true (Bool.and_eq_true_iff.1 e).1)

theorem stb (b : Nat) (m : MovF) : Statement (.stb b m) :=
  of_engine rfl rfl rfl rfl (fun e => of_decide_eq_true (Bool.and_eq_true_iff.1 e).1)

theorem ldt (b : Nat) (m : MovF) : Statement (.ldt b m) :=
  of_engine rfl rfl rfl rfl (fun e => of_decide_eq_true (Bool.and_eq_true_iff.1 e).1)

theorem stt (b : Nat) (m : MovF) : Statement (.stt b m) :=
  of_engine rfl rfl rfl rfl (fun e => of_decide_eq_true (Bool.and_eq_true_iff.1 e).1)

theorem dmaTransferEnd (b : Nat) : Statement (.dmaTransferEnd b) :=
  of_none rfl rfl rfl rfl

theorem send (b : Nat) (m : MovF) : Statement (.send b m) :=
  of_engine rfl rfl rfl rfl (fun e => of_decide_eq_true (Bool.and_eq_true_iff.1 e).1)

theorem recv (b : Nat) (m : MovF) : Statement (.recv b m) :=
  of_engine rfl rfl rfl rfl (fun e => of_decide_eq_true (Bool.and_eq_true_iff.1 e).1)

theorem pdisp (b : Nat) (m : MovF) : Statement (.pdisp b m) :=
  of_engine rfl rfl rfl rfl (fun e => of_decide_eq_true (Bool.and_eq_true_iff.1 e).1)

theorem ptake (b : Nat) (m : MovF) : Statement (.ptake b m) :=
  of_engine rfl rfl rfl rfl (fun e => of_decide_eq_true (Bool.and_eq_true_iff.1 e).1)

theorem tqpop (b a8 : Nat) : Statement (.tqpop b a8) :=
  of_engine rfl rfl rfl rfl (fun e => of_decide_eq_true (Bool.and_eq_true_iff.1 e).1)

theorem tqwait (b a8 : Nat) : Statement (.tqwait b a8) :=
  of_none rfl rfl rfl rfl

theorem syncFence (b mask : Nat) : Statement (.syncFence b mask) :=
  of_none rfl rfl rfl rfl

theorem bar (b : Nat) : Statement (.bar b) :=
  of_none rfl rfl rfl rfl

theorem syncSignal (b sig : Nat) (v : BitVec 32) : Statement (.syncSignal b sig v) :=
  of_none rfl rfl rfl rfl

theorem land (b ch : Nat) : Statement (.land b ch) :=
  of_none rfl rfl rfl rfl

theorem ctlEnd (b : Nat) : Statement (.ctlEnd b) :=
  of_none rfl rfl rfl rfl

theorem budget (b : Nat) (imm : BitVec 32) : Statement (.budget b imm) :=
  of_none rfl rfl rfl rfl

theorem loop (b dst sa : Nat) (imm : BitVec 32) (body : Nat) : Statement (.loop b dst sa imm body) :=
  of_none rfl rfl rfl rfl

theorem seti (b dst : Nat) (imm : BitVec 32) : Statement (.seti b dst imm) :=
  of_none rfl rfl rfl rfl

theorem addi (b dst sa : Nat) (imm : BitVec 32) : Statement (.addi b dst sa imm) :=
  of_none rfl rfl rfl rfl

theorem muli (b dst sa : Nat) (imm : BitVec 32) : Statement (.muli b dst sa imm) :=
  of_none rfl rfl rfl rfl

theorem madd (b dst sa sb : Nat) (imm : BitVec 32) : Statement (.madd b dst sa sb imm) :=
  of_none rfl rfl rfl rfl

theorem divi (b dst sa : Nat) (imm : BitVec 32) : Statement (.divi b dst sa imm) :=
  of_none rfl rfl rfl rfl

theorem modi (b dst sa : Nat) (imm : BitVec 32) : Statement (.modi b dst sa imm) :=
  of_none rfl rfl rfl rfl

theorem beatStageArm (f : Nat) : Statement (.beatStageArm f) :=
  of_mgmt rfl rfl rfl rfl (fun e => ⟨of_decide_eq_true e, by decide⟩)

theorem beatStageCancel (f : Nat) : Statement (.beatStageCancel f) :=
  of_mgmt rfl rfl rfl rfl (fun e => ⟨of_decide_eq_true e, by decide⟩)

theorem censSelWrite (f : Nat) (v : W64) : Statement (.censSelWrite f v) :=
  of_mgmt rfl rfl rfl rfl (fun e => ⟨of_decide_eq_true e, by decide⟩)

theorem censClrCtx (f : Nat) : Statement (.censClrCtx f) :=
  of_mgmt rfl rfl rfl rfl (fun e => ⟨of_decide_eq_true e, by decide⟩)

theorem censClrSel (f : Nat) : Statement (.censClrSel f) :=
  of_mgmt rfl rfl rfl rfl (fun e => ⟨of_decide_eq_true e, by decide⟩)

theorem passSelWrite (f : Nat) (v : W64) : Statement (.passSelWrite f v) :=
  of_mgmt rfl rfl rfl rfl (fun e => ⟨of_decide_eq_true e, by decide⟩)

theorem passClrSel (f : Nat) : Statement (.passClrSel f) :=
  of_mgmt rfl rfl rfl rfl (fun e => ⟨of_decide_eq_true e, by decide⟩)

theorem ptNextWrite (f n : Nat) (v : W64) : Statement (.ptNextWrite f n v) :=
  of_mgmt rfl rfl rfl rfl (fun e => by
    have h := Bool.and_eq_true_iff.1 e
    have hv : n < 2 ^ 4 := of_decide_eq_true h.2
    exact ⟨of_decide_eq_true h.1, by omega⟩)

theorem ptModeArm (f : Nat) : Statement (.ptModeArm f) :=
  of_mgmt rfl rfl rfl rfl (fun e => ⟨of_decide_eq_true e, by decide⟩)

theorem ptModeCancel (f : Nat) : Statement (.ptModeCancel f) :=
  of_mgmt rfl rfl rfl rfl (fun e => ⟨of_decide_eq_true e, by decide⟩)

theorem applyIdle (f : Nat) : Statement (.applyIdle f) :=
  of_mgmt rfl rfl rfl rfl (fun e => ⟨of_decide_eq_true e, by decide⟩)

theorem schedSwap (f n : Nat) (v : W64) : Statement (.schedSwap f n v) :=
  of_mgmt rfl rfl rfl rfl (fun e => by
    have h := Bool.and_eq_true_iff.1 e
    have hv : n < 2 ^ 4 := of_decide_eq_true h.2
    exact ⟨of_decide_eq_true h.1, by omega⟩)

theorem schedCancel (f n : Nat) (v : W64) : Statement (.schedCancel f n v) :=
  of_mgmt rfl rfl rfl rfl (fun e => by
    have h := Bool.and_eq_true_iff.1 e
    have hv : n < 2 ^ 4 := of_decide_eq_true h.2
    exact ⟨of_decide_eq_true h.1, by omega⟩)

theorem ctxCreate (f c : Nat) : Statement (.ctxCreate f c) :=
  of_mgmt rfl rfl rfl rfl (fun e => by
    have h := Bool.and_eq_true_iff.1 e
    have hv : c < 2 ^ 8 := of_decide_eq_true h.2
    exact ⟨of_decide_eq_true h.1, by omega⟩)

theorem ctxDestroy (f c : Nat) : Statement (.ctxDestroy f c) :=
  of_mgmt rfl rfl rfl rfl (fun e => by
    have h := Bool.and_eq_true_iff.1 e
    have hv : c < 2 ^ 8 := of_decide_eq_true h.2
    exact ⟨of_decide_eq_true h.1, by omega⟩)

theorem ctxRselWrite (f c : Nat) (v : W64) : Statement (.ctxRselWrite f c v) :=
  of_mgmt rfl rfl rfl rfl (fun e => by
    have h := Bool.and_eq_true_iff.1 e
    have hv : c < 2 ^ 8 := of_decide_eq_true h.2
    exact ⟨of_decide_eq_true h.1, by omega⟩)

theorem acctSelWrite (f : Nat) (v : W64) : Statement (.acctSelWrite f v) :=
  of_mgmt rfl rfl rfl rfl (fun e => ⟨of_decide_eq_true e, by decide⟩)

theorem acctClrSel (f : Nat) : Statement (.acctClrSel f) :=
  of_mgmt rfl rfl rfl rfl (fun e => ⟨of_decide_eq_true e, by decide⟩)

theorem retrain (f n : Nat) (v : W64) : Statement (.retrain f n v) :=
  of_mgmt rfl rfl rfl rfl (fun e => by
    have h := Bool.and_eq_true_iff.1 e
    have hv : n < 32 := of_decide_eq_true h.2
    exact ⟨of_decide_eq_true h.1, by omega⟩)

theorem bistImgData (f : Nat) (v : W64) : Statement (.bistImgData f v) :=
  of_mgmt rfl rfl rfl rfl (fun e => ⟨of_decide_eq_true e, by decide⟩)

theorem bistImgClear (f : Nat) : Statement (.bistImgClear f) :=
  of_mgmt rfl rfl rfl rfl (fun e => ⟨of_decide_eq_true e, by decide⟩)

theorem bistImgGo (f : Nat) (o : StartObs) : Statement (.bistImgGo f o) :=
  of_mgmt rfl rfl rfl rfl (fun e => ⟨of_decide_eq_true e, by decide⟩)

theorem bistAbort (f : Nat) : Statement (.bistAbort f) :=
  of_mgmt rfl rfl rfl rfl (fun e => ⟨of_decide_eq_true e, by decide⟩)

theorem bistResSel (f : Nat) (v : W64) : Statement (.bistResSel f v) :=
  of_mgmt rfl rfl rfl rfl (fun e => ⟨of_decide_eq_true e, by decide⟩)

theorem cairnRdSeq (f : Nat) (v : W64) : Statement (.cairnRdSeq f v) :=
  of_mgmt rfl rfl rfl rfl (fun e => ⟨of_decide_eq_true e, by decide⟩)

theorem cairnClrData (f : Nat) (v : W64) : Statement (.cairnClrData f v) :=
  of_mgmt rfl rfl rfl rfl (fun e => ⟨of_decide_eq_true e, by decide⟩)

theorem cairnClrRestart (f : Nat) : Statement (.cairnClrRestart f) :=
  of_mgmt rfl rfl rfl rfl (fun e => ⟨of_decide_eq_true e, by decide⟩)

theorem cairnClrGo (f : Nat) : Statement (.cairnClrGo f) :=
  of_mgmt rfl rfl rfl rfl (fun e => ⟨of_decide_eq_true e, by decide⟩)

theorem cairnCodeWrite (f n : Nat) (v : W64) : Statement (.cairnCodeWrite f n v) :=
  of_mgmt rfl rfl rfl rfl (fun e => by
    have h := Bool.and_eq_true_iff.1 e
    have hv : n < 2 ^ 12 := of_decide_eq_true h.2
    exact ⟨of_decide_eq_true h.1, by omega⟩)

theorem irqTgtClaim (f t : Nat) : Statement (.irqTgtClaim f t) :=
  of_none rfl rfl rfl rfl

theorem irqTgtComplete (f t : Nat) (v : W64) : Statement (.irqTgtComplete f t v) :=
  of_mgmt rfl rfl rfl rfl (fun e => by
    have h := Bool.and_eq_true_iff.1 e
    have hv : t < 2 ^ 6 := of_decide_eq_true h.2
    exact ⟨of_decide_eq_true h.1, by omega⟩)

theorem irqTgtIdle (f t : Nat) : Statement (.irqTgtIdle f t) :=
  of_mgmt rfl rfl rfl rfl (fun e => by
    have h := Bool.and_eq_true_iff.1 e
    have hv : t < 2 ^ 6 := of_decide_eq_true h.2
    exact ⟨of_decide_eq_true h.1, by omega⟩)

theorem irqModeWrite (f : Nat) (v : W64) : Statement (.irqModeWrite f v) :=
  of_mgmt rfl rfl rfl rfl (fun e => ⟨of_decide_eq_true e, by decide⟩)

theorem holdoffEnd (t : Nat) : Statement (.holdoffEnd t) :=
  of_none rfl rfl rfl rfl

theorem lease (m : Stobin) (lengthMs verdict : Nat) : Statement (.lease m lengthMs verdict) :=
  of_none rfl rfl rfl rfl

theorem leaseLapse : Statement (.leaseLapse) :=
  of_none rfl rfl rfl rfl

theorem derateArm (m : Stobin) (target : Nat) (table : DerateTable) : Statement (.derateArm m target table) :=
  of_none rfl rfl rfl rfl

theorem derateCancel (m : Stobin) : Statement (.derateCancel m) :=
  of_none rfl rfl rfl rfl

theorem reset (m : Stobin) (kind : Nat) : Statement (.reset m kind) :=
  of_none rfl rfl rfl rfl

theorem binsRead (m : Stobin) (first count : Nat) (clear : Bool) : Statement (.binsRead m first count clear) :=
  of_none rfl rfl rfl rfl

theorem standdown (r : Carrier) : Statement (.standdown r) := by
  cases r with
  | host f v => exact of_mgmt rfl rfl rfl rfl (fun e => ⟨of_decide_eq_true e, by decide⟩)
  | stobin m flag => exact of_none rfl rfl rfl rfl

theorem bistEnd : Statement (.bistEnd) :=
  of_none rfl rfl rfl rfl

theorem wake (m : Stobin) : Statement (.wake m) :=
  of_none rfl rfl rfl rfl

theorem retry (r : Carrier) (o : StartObs) : Statement (.retry r o) := by
  cases r with
  | host f v => exact of_mgmt rfl rfl rfl rfl (fun e => ⟨of_decide_eq_true e, by decide⟩)
  | stobin m flag => exact of_none rfl rfl rfl rfl

theorem attest (m : Stobin) (nonce : List Byte) : Statement (.attest m nonce) :=
  of_none rfl rfl rfl rfl

theorem certRead (m : Stobin) : Statement (.certRead m) :=
  of_none rfl rfl rfl rfl

theorem bistRead (m : Stobin) (first count : Nat) : Statement (.bistRead m first count) :=
  of_none rfl rfl rfl rfl

theorem cairnRead (m : Stobin) (first max : Nat) : Statement (.cairnRead m first max) :=
  of_none rfl rfl rfl rfl

theorem cairnClear (m : Stobin) (rec : List Byte) : Statement (.cairnClear m rec) :=
  of_none rfl rfl rfl rfl

theorem startReport (port : Nat) : Statement (.startReport port) :=
  of_none rfl rfl rfl rfl

theorem discoverSend (p : Nat) : Statement (.discoverSend p) :=
  of_none rfl rfl rfl rfl

theorem discoverReply (p : Nat) (arrival : Nat) (fr : Frame) : Statement (.discoverReply p arrival fr) :=
  of_none rfl rfl rfl rfl

theorem discover (p : Nat) (fenced : Bool) (fr : Frame) : Statement (.discover p fenced fr) :=
  of_none rfl rfl rfl rfl

theorem beatMarker (p : Nat) (offNs : Int) (num : W64) (o : EdgeObs) : Statement (.beatMarker p offNs num o) :=
  of_none rfl rfl rfl rfl

theorem epochAnnounce (p : Nat) (fenced : Bool) (fr : Frame) : Statement (.epochAnnounce p fenced fr) :=
  of_none rfl rfl rfl rfl

theorem hopAck (p : Nat) (nack : Bool) (lseq : Nat) : Statement (.hopAck p nack lseq) :=
  of_none rfl rfl rfl rfl

theorem hopCredit (p : Nat) (c0 c1 c2 c3 : Nat) : Statement (.hopCredit p c0 c1 c2 c3) :=
  of_none rfl rfl rfl rfl

theorem frameCrcError (p lseq : Nat) : Statement (.frameCrcError p lseq) :=
  of_none rfl rfl rfl rfl

theorem reservedFrame (p ty : Nat) : Statement (.reservedFrame p ty) :=
  of_none rfl rfl rfl rfl

theorem e2eAck (fr : Frame) : Statement (.e2eAck fr) :=
  of_frame rfl rfl rfl rfl (fun e => e)

theorem e2eNotready (refused : Bool) (fr : Frame) : Statement (.e2eNotready refused fr) :=
  of_frame rfl rfl rfl rfl (fun e => e)

theorem e2eResend (ix : Nat) : Statement (.e2eResend ix) :=
  of_none rfl rfl rfl rfl

theorem collData (fr : Frame) : Statement (.collData fr) :=
  of_frame rfl rfl rfl rfl (fun e => e)

theorem collAbort (fr : Frame) : Statement (.collAbort fr) :=
  of_frame rfl rfl rfl rfl (fun e => e)

theorem permData (fr : Frame) : Statement (.permData fr) :=
  of_frame rfl rfl rfl rfl (fun e => e)

theorem permMark (fr : Frame) : Statement (.permMark fr) :=
  of_frame rfl rfl rfl rfl (fun e => e)

theorem chanData (fr : Frame) : Statement (.chanData fr) :=
  of_frame rfl rfl rfl rfl (fun e => e)

theorem chanCommit (fr : Frame) : Statement (.chanCommit fr) :=
  of_frame rfl rfl rfl rfl (fun e => e)

theorem chanCredit (fr : Frame) : Statement (.chanCredit fr) :=
  of_frame rfl rfl rfl rfl (fun e => e)

theorem passTry (fr : Frame) (a : PassArgs) : Statement (.passTry fr a) :=
  of_frame rfl rfl rfl rfl (fun e => e)

theorem passReply (fr : Frame) (a : PassArgs) (pos : Option Nat) : Statement (.passReply fr a pos) :=
  of_frame rfl rfl rfl rfl (fun e => e)

theorem passMark (fr : Frame) (a : PassArgs) (kind count : Nat) : Statement (.passMark fr a kind count) :=
  of_frame rfl rfl rfl rfl (fun e => e)

theorem passRow (fr : Frame) (a : PassArgs) (pos : Nat) : Statement (.passRow fr a pos) :=
  of_frame rfl rfl rfl rfl (fun e => e)

theorem portTrained (p lanes : Nat) : Statement (.portTrained p lanes) :=
  of_none rfl rfl rfl rfl

theorem portFailure (p cause : Nat) : Statement (.portFailure p cause) :=
  of_none rfl rfl rfl rfl

theorem ramalinkRetrain (lanes : Nat) : Statement (.ramalinkRetrain lanes) :=
  of_none rfl rfl rfl rfl

theorem purgeAck (purge engine : Nat) : Statement (.purgeAck purge engine) :=
  of_none rfl rfl rfl rfl

theorem quarantine (purge engine : Nat) : Statement (.quarantine purge engine) :=
  of_none rfl rfl rfl rfl

theorem edgeAckMiss : Statement (.edgeAckMiss) :=
  of_none rfl rfl rfl rfl

theorem unitReady (u : Nat) : Statement (.unitReady u) :=
  of_none rfl rfl rfl rfl

theorem cairnRecordWrite : Statement (.cairnRecordWrite) :=
  of_none rfl rfl rfl rfl

theorem cairnRefill (code : Nat) : Statement (.cairnRefill code) :=
  of_none rfl rfl rfl rfl

theorem mirrorCopy : Statement (.mirrorCopy) :=
  of_none rfl rfl rfl rfl

theorem moduleReset : Statement (.moduleReset) :=
  of_none rfl rfl rfl rfl

theorem start (straps : Nat) (o : StartObs) : Statement (.start straps o) :=
  of_none rfl rfl rfl rfl

theorem startStepTimeout (step cause : Nat) : Statement (.startStepTimeout step cause) :=
  of_none rfl rfl rfl rfl

theorem warmTimeout : Statement (.warmTimeout) :=
  of_none rfl rfl rfl rfl

theorem recoverN (o : StartObs) : Statement (.recoverN o) :=
  of_none rfl rfl rfl rfl

theorem busPowerUp : Statement (.busPowerUp) :=
  of_none rfl rfl rfl rfl

theorem busTrip : Statement (.busTrip) :=
  of_none rfl rfl rfl rfl

theorem inputExcursion (mv : Nat) : Statement (.inputExcursion mv) :=
  of_none rfl rfl rfl rfl

theorem thermalThrottle (die sensor : Nat) (temp : Int) : Statement (.thermalThrottle die sensor temp) :=
  of_none rfl rfl rfl rfl

theorem thermalTrip (sensor : Nat) (temp : Int) : Statement (.thermalTrip sensor temp) :=
  of_none rfl rfl rfl rfl

theorem coolant (kind : Nat) (inlet : Int) (flow : Nat) : Statement (.coolant kind inlet flow) :=
  of_none rfl rfl rfl rfl

theorem inputExcursionEnd (mv : Nat) : Statement (.inputExcursionEnd mv) :=
  of_none rfl rfl rfl rfl

theorem thermalThrottleEnd (die : Nat) (temp : Int) : Statement (.thermalThrottleEnd die temp) :=
  of_none rfl rfl rfl rfl

theorem coolantRestored : Statement (.coolantRestored) :=
  of_none rfl rfl rfl rfl

theorem throttleNChange (asserted : Bool) : Statement (.throttleNChange asserted) :=
  of_none rfl rfl rfl rfl

end Sys2Proof.Laws.WellFormedRow
end

