-- ==== Sys2Proof/Machine/Flags.lean ====
section
/-! DEFINITION. Status words, and what a read of each register returns (R6, R9, R274, R277 to R281): a field that the manual calls
reserved or write-only reads zero (02 R59, 03 R90, 08 R241, 11 R341, 12 R376, R377, 14 R440, 15 R455, R464, 16 R481, R485). -/

namespace Sys2Proof.Machine

/-- A word from its fields: lowest bit, width, value. -/
def word (l : List (Nat × Nat × Nat)) : W64 :=
  BitVec.ofNat 64 (l.foldl (fun (n : Nat) (f : Nat × Nat × Nat) => n + f.2.2 % 2 ^ f.2.1 * 2 ^ f.1) 0)

def flag (lo : Nat) (b : Bool) : Nat × Nat × Nat := (lo, 1, if b then 1 else 0)
def fieldBV (lo : Nat) {n : Nat} (v : BitVec n) : Nat × Nat × Nat := (lo, n, v.toNat)
def wide {n : Nat} (v : BitVec n) : W64 := BitVec.ofNat 64 v.toNat

/-- A signed number in a field of 16 bits. -/
def signed16 (lo : Nat) (i : Int) : Nat × Nat × Nat := (lo, 16, (i % 65536).toNat)

/-! ### Beat, census, Pass -/

/-- BEAT_STAT (R59). -/
def Beat.stat (b : Beat) : W64 := word [fieldBV 8 b.markPort, flag 4 b.lost, flag 3 b.holdover, fieldBV 1 b.srcAct, flag 0 b.aligned]

def Beat.read (b : Beat) (o : Nat) : W64 :=
  match o with
  | 0x000 => b.count
  | 0x008 => word [fieldBV 16 b.holdoverMax, fieldBV 8 b.srcPort, fieldBV 0 b.src]
  | 0x010 => word [fieldBV 48 b.saddleNext, fieldBV 32 b.periodNext, fieldBV 16 b.saddleCur, fieldBV 0 b.periodCur]
  | 0x018 => b.stageTarget
  | 0x020 => word [fieldBV 4 b.stageCause, fieldBV 2 b.stageState]
  | 0x028 => word [fieldBV 48 b.loadFloor, fieldBV 32 b.timeoutDef, fieldBV 16 b.markTol, fieldBV 0 b.tolIn]
  | 0x030 => b.stat
  | 0x038 => wide b.miss
  | 0x03C => wide b.early
  | 0x040 => wide b.overrun
  | 0x044 => wide b.hung
  | 0x048 => wide b.markErr
  | 0x04C => wide b.cntErr
  | 0x050 => wide b.commitCarry
  | _ => 0

/-- Word i of a capture; zero where the capture has none. -/
def capWord (l : List Cnt) (i : Nat) : W64 := ((l[i]?).getD Cnt.zero).word

def Cens.read (q : Cens) (o : Nat) : W64 :=
  if o = 0 then word [fieldBV 16 q.fmt, fieldBV 8 q.cls, fieldBV 0 q.ctx]
  else if 0x008 ≤ o ∧ o < 0x030 then capWord q.cap ((o - 8) / 8) else 0

/-- PASS_DIE (R241). -/
def State.passDie (s : State) (d : Nat) : W64 := word [(16, 16, Nat.min 65535 (s.resOpen d)), (0, 16, s.inflight d)]

def State.readPass (s : State) (o : Nat) : W64 :=
  let r := s.passRegs
  if o = 0 then word [fieldBV 16 r.kind, fieldBV 8 r.pt, fieldBV 0 r.num]
  else if 0x008 ≤ o ∧ o < 0x048 then capWord r.cap ((o - 8) / 8)
  else if 0x050 ≤ o ∧ o < 0x090 then s.passDie ((o - 0x50) / 8)
  else if o = 0x090 then wide r.late
  else if o = 0x094 then wide r.badDest else 0

/-! ### Crest -/

/-- THERM of CREST_STAT: the dies held at step 8 (R476). -/
def State.thermBits (s : State) : Nat := (List.range 8).foldl (fun (n : Nat) d => if (s.die d).throttled then n + 2 ^ d else n) 0

/-- CREST_STAT (R485). -/
def State.crestStat (s : State) : W64 :=
  let c := s.crest
  word [(50, 8, s.thermBits), flag 49 c.held, flag 48 c.throttleIn, (32, 16, c.ballastW), (16, 16, c.pinW), (0, 16, c.grantW)]

/-- CREST_DIE (R485). -/
def State.crestDie (s : State) : W64 := word ((List.range 8).map (fun d => (4 * d, 4, (s.die d).step)))

def State.readCrest (s : State) (o : Nat) : W64 :=
  let c := s.crest
  match o with
  | 0x000 => word [fieldBV 32 c.rampW, fieldBV 16 c.thrCeilW, fieldBV 0 c.ceilW]
  | 0x008 => s.crestStat
  | 0x010 => s.crestDie
  | 0x018 => word [signed16 48 c.coolOut, signed16 32 c.coolIn, (16, 16, c.iin), (0, 16, c.vin)]
  | 0x020 => word [(32, 9, c.tjSensor), signed16 16 c.tjMax, (0, 16, c.flow)]
  | 0x028 => word [flag 20 c.ballastEn, fieldBV 16 c.stepFloor, fieldBV 0 c.baseW]
  | 0x040 => wide c.holdCnt
  | 0x044 => wide c.thrmBeats
  | 0x048 => wide c.ballastBeats
  | 0x04C => wide c.vinExc
  | 0x050 => wide c.clamp
  | _ => 0

/-! ### Partitions, contexts, streams, accounting -/

/-- PT_MODE (R341). -/
def PtMod.modeWord (p : PtMod) : W64 :=
  word [fieldBV 36 p.cause, flag 34 p.pending, fieldBV 32 p.state, fieldBV 16 p.epochNext, fieldBV 0 p.epoch]

/-- A layout's word (R341). -/
def Layout.word (l : Layout) : W64 :=
  Machine.word [fieldBV 48 l.hi, fieldBV 32 l.lo, fieldBV 16 l.streams, fieldBV 0 l.granules]

/-- The usable blocks of a partition: those that have an ordinal (R20). -/
def State.usableIn (s : State) (n : Nat) : Nat := (s.part n).ordinals.length

/-- PT_STAT (R341). -/
def State.ptStat (s : State) (n : Nat) : W64 :=
  word [flag 63 (s.layoutWaits && s.rebuilds (s.part n).next n), (32, 14, (s.strms.filter (fun g => g.2.isOpen && g.2.pt == n)).length), (16, 9, (s.ctxsOf n).length),
        (0, 13, s.usableIn n)]

/-- Four entries of a schedule table (R325, R341). -/
def schedWord (t : Tab (BitVec 16)) (j : Nat) : W64 := word ((List.range 4).map (fun i => fieldBV (16 * i) (Tab.get 0 t (4 * j + i))))

def Sched.read (q : Sched) (r : Nat) : W64 :=
  if r = 0x020 then word [fieldBV 32 q.lenNext, fieldBV 16 q.lenCur, fieldBV 4 q.state]
  else if r = 0x028 then q.originNext
  else if r = 0x030 then q.originCur
  else if 0x400 ≤ r ∧ r < 0x800 then schedWord q.next ((r - 0x400) / 8)
  else if 0x800 ≤ r ∧ r < 0xC00 then schedWord q.cur ((r - 0x800) / 8) else 0

def State.readPtPart (s : State) (n r : Nat) : W64 :=
  let p := s.part n
  match r with
  | 0x000 => p.layout.word
  | 0x008 => if s.layoutWaits then p.next.word else 0
  | 0x010 => s.ptStat n
  | 0x018 => word [fieldBV 0 p.preemptMin]
  | _ => p.sched.read r

def State.readPt (s : State) (o : Nat) : W64 :=
  if o = 0x0000 then s.pt.modeWord
  else if o = 0x0008 then (match s.pt.armed with | some t => if s.pt.idle then s.pt.target else BitVec.ofNat 64 t | none => s.pt.target)
  else if o = 0x0018 then wide s.pt.lag
  else if o = 0x0020 then wide s.pt.mmRefuse
  else if 0x1000 ≤ o ∧ o < 0x1000 + 16 * 0xC00 then s.readPtPart ((o - 0x1000) / 0xC00) ((o - 0x1000) % 0xC00) else 0

def Ctx.read (x : Ctx) (r : Nat) : W64 :=
  match r with
  | 0x000 => word [fieldBV 32 x.home64M, flag 17 x.devCtrl, flag 16 x.ptCtrl, fieldBV 8 x.func, fieldBV 0 x.pt]
  | 0x010 => word [fieldBV 48 x.gen, fieldBV 8 x.lastErr, fieldBV 0 x.state]
  | 0x018 => wide x.rsel
  | 0x020 => x.rword0
  | 0x028 => x.rword1
  | _ => 0

/-- STRM_MAP and STRM_POS (R341); a number that no stream has reads zero. -/
def State.readStrm (s : State) (g r : Nat) : W64 :=
  match Tab.find s.strms g with
  | none => 0
  | some x =>
    if r = 0 then word [flag 63 x.isOpen, (48, 4, x.cq), (40, 3, x.prio), (36, 4, x.pt), (24, 10, x.lstream), (0, 8, x.ctx)]
    else if r = 8 then word [fieldBV 32 x.tail, fieldBV 0 x.head] else 0

def AcctRegs.read (r : AcctRegs) (o : Nat) : W64 :=
  if o = 0 then word [fieldBV 16 r.kind, fieldBV 0 r.index]
  else if 0x008 ≤ o ∧ o < 0x050 then capWord r.cap ((o - 8) / 8) else 0

/-! ### Interrupts -/

/-- The level sources of a word (R456). -/
def senseWord (w : Nat) : W64 := maskWord w (fun n => levelSources.contains n)
def State.levelWord (s : State) (w : Nat) : W64 := maskWord w (fun n => s.level n)

/-- A word of IRQ_PEND, and of IRQ_MASK, of the shared sources. -/
def Irq.pendWord (q : Irq) (w : Nat) : W64 := Tab.get 0 q.pend w &&& q.sharedMask w
def Irq.maskShown (q : Irq) (w : Nat) : W64 := (~~~(Tab.get 0 q.mask w)) &&& q.sharedMask w

/-- A word of a bank; the banks read zero in mask mode (R460). -/
def Irq.bankPendWord (q : Irq) (k w : Nat) : W64 := Tab.get 0 q.bankPend (16 * k + w) &&& q.bankWord k w
def Irq.bankMaskShown (q : Irq) (k w : Nat) : W64 :=
  (~~~(Tab.get 0 q.bankMask (16 * k + w))) &&& q.bankWord k w

def Target.read (x : Target) (r : Nat) : W64 :=
  match r with
  | 0x10 => word [flag 0 x.idle]
  | 0x18 => wide x.holdoff
  | 0x20 => word [flag 63 x.line, flag 62 x.held, fieldBV 0 x.last]
  | _ => 0

/-- The IRQ_ registers but IRQ_TGT_CLAIM, whose read has an effect (R461). -/
def State.readIrq (s : State) (o : Nat) : W64 :=
  let q := s.irq
  if o = 0x0000 then word [flag 0 q.mode]
  else if o = 0x0008 then q.bankmap
  else if 0x0100 ≤ o ∧ o < 0x0180 then q.pendWord ((o - 0x100) / 8)
  else if 0x0200 ≤ o ∧ o < 0x0280 then q.maskShown ((o - 0x200) / 8)
  else if 0x0300 ≤ o ∧ o < 0x0380 then senseWord ((o - 0x300) / 8)
  else if 0x0400 ≤ o ∧ o < 0x0480 then s.levelWord ((o - 0x400) / 8)
  else if 0x1000 ≤ o ∧ o < 0x3000 then Tab.get 0 q.cfg ((o - 0x1000) / 8)
  else if 0x3000 ≤ o ∧ o < 0x5000 then Tab.get 0 q.tmask ((o - 0x3000) / 8)
  else if 0x5000 ≤ o ∧ o < 0x5800 then
    let k := (o - 0x5000) / 0x100
    let r := (o - 0x5000) % 0x100
    if r < 0x80 then q.bankPendWord k (r / 8) else q.bankMaskShown k ((r - 0x80) / 8)
  else if 0x6000 ≤ o ∧ o < 0x7000 then (q.target ((o - 0x6000) / 0x40)).read ((o - 0x6000) % 0x40)
  else 0

/-! ### Cairn, self-test -/

/-- CAIRN_FAULT (R481). -/
def State.faultWord (s : State) : W64 := word [flag 63 s.faultN, (0, 8, s.faultBits)]

def lowSeq (l : List LogRec) : W64 := BitVec.ofNat 64 ((l.map (fun (r : LogRec) => r.seq)).min?.getD 0)

/-- CAIRN_CODEn (R455). -/
def Cairn.codeWord (c : Cairn) (n : Nat) : W64 :=
  let k := c.code n
  let own := recorderCode n
  word [(48, 16, k.supp), (16, 16, if own then 0 else k.refill), (8, 8, if own then 0 else k.burst), flag 1 k.event, flag 0 k.irq]

def State.readCairn (s : State) (o : Nat) : W64 :=
  let c := s.cairn
  if o = 0x000 then BitVec.ofNat 64 c.seq
  else if o = 0x008 then lowSeq c.ring
  else if o = 0x010 then (if c.mirrorSt = 0 then 0 else lowSeq c.mirror)
  else if o = 0x018 then BitVec.ofNat 64 c.cleared
  else if o = 0x020 then word [fieldBV 1 c.mirrorSt, flag 0 c.tornBit]
  else if o = 0x028 then c.rdSeq
  else if o = 0x030 then word [fieldBV 16 c.rdStatus, fieldBV 0 c.rdLen]
  else if o = 0x038 then word [fieldBV 4 c.clrState]
  else if o = 0x048 then wide c.qdrop
  else if o = 0x050 then s.faultWord
  else if 0x400 ≤ o ∧ o < 0x800 then BitVec.ofNat 64 (leNat (sub8 c.rdBuf (o - 0x400) 8))
  else if 0x8000 ≤ o ∧ o < 0x10000 then c.codeWord ((o - 0x8000) / 8)
  else 0

/-- BIST_START (R440). -/
def Bist.startWord (b : Bist) : W64 :=
  word [fieldBV 56 b.cause, fieldBV 48 b.step, fieldBV 32 b.attempts, fieldBV 2 b.mode, flag 1 b.kind, flag 0 b.ready]

def Bist.journalWord (b : Bist) (k : Nat) : W64 :=
  let j := Tab.get {} b.jnl k
  word [(32, 10, j.next), (16, 10, j.chunk), (0, 3, j.state)]

/-- The BIST_ registers; BIST_RPT shows the start report (R439). -/
def Bist.read (b : Bist) (o : Nat) : W64 :=
  if o = 0x000 then b.startWord
  else if o = 0x008 then word [(32, 32, b.img.length), fieldBV 4 b.imgState]
  else if o = 0x018 then word [fieldBV 32 b.chunks, flag 1 b.noBist]
  else if o = 0x020 then b.statWord
  else if o = 0x028 then wide b.resSel
  else if o = 0x030 then b.w0
  else if o = 0x038 then b.w1
  else if o = 0x040 then wide b.resDrop
  else if 0x100 ≤ o ∧ o < 0x1C0 then b.journalWord ((o - 0x100) / 8)
  else if 0x800 ≤ o ∧ o < 0x1000 then BitVec.ofNat 64 (leNat (sub8 b.rpt (o - 0x800) 8))
  else 0

/-! ### Links -/

def Port.read (q : Port) (r : Nat) : W64 :=
  match r with
  | 0x00 => word [fieldBV 61 q.state, fieldBV 48 q.lanes, fieldBV 32 q.lat, fieldBV 28 q.cause]
  | 0x08 => word [flag 0 q.enable]
  | 0x10 => wide q.plane
  | 0x18 => wide q.fecCorr
  | 0x1C => wide q.fecUncorr
  | 0x20 => wide q.replay
  | 0x24 => wide q.crcErr
  | _ => 0

def Lnk.readModule (l : Lnk) (o : Nat) : W64 :=
  match o with
  | 0x00 => word [flag 63 l.addrValid, fieldBV 24 l.devEpoch, fieldBV 0 l.addr]
  | 0x08 => word [fieldBV 32 l.uncorrMax, fieldBV 16 l.retryUs, fieldBV 0 l.hopLimit]
  | 0x10 => word [fieldBV 32 l.excl, fieldBV 0 l.up]
  | 0x18 => word [fieldBV 40 l.strapSlot, fieldBV 32 l.planeOff, fieldBV 0 l.addr]
  | 0x20 => wide l.late
  | 0x24 => wide l.epochDrop
  | 0x28 => wide l.stray
  | 0x2C => wide l.failover
  | 0x30 => wide l.retx
  | 0x34 => wide l.dup
  | 0x38 => wide l.unreach
  | 0x3C => wide l.misroute
  | 0x40 => wide l.badType
  | _ => 0

def Lnk.read (l : Lnk) (o : Nat) : W64 :=
  if 0x400 ≤ o ∧ o < 0x600 then Tab.get 0 l.exc ((o - 0x400) / 8)
  else if 0x1000 ≤ o ∧ o < 0x3000 then (Tab.get {} l.ports ((o - 0x1000) / 0x100) : Port).read ((o - 0x1000) % 0x100)
  else l.readModule o

/-! ### The context page (R281) -/

/-- STATE of CTX_STATUS: the first of RESETTING, FENCED, HELD that holds (R281). -/
def State.ctxShown (s : State) (c : Nat) : Nat :=
  let x := s.ctx c
  if x.reset.isSome then 1 else if s.fenced then 3 else if x.held.isSome || x.heldForever then 2 else 0

/-- A stream of the context is halted. -/
def State.anyHalted (s : State) (c : Nat) : Bool :=
  (s.ctx c).streams.any (fun (p : Nat × Nat) => (s.strm p.2).isOpen && (s.strm p.2).halted)

/-- CTX_STATUS (R281). -/
def State.ctxStatus (s : State) (c : Nat) : W64 :=
  let x := s.ctx c
  word [fieldBV 48 x.gen, fieldBV 32 s.pt.epoch, (24, 8, c), fieldBV 20 x.load, (16, 2, s.ctxShown c), flag 2 x.dbErr,
        flag 1 x.hostFault, flag 0 (s.anyHalted c)]

/-- STRM_HEAD (R281). -/
def State.strmHead (s : State) (c n : Nat) : W64 :=
  match Tab.find (s.ctx c).streams n with
  | none => 0
  | some g =>
    let x := s.strm g
    word [flag 63 x.halted, flag 62 x.isOpen, fieldBV 40 x.lastStatus, fieldBV 0 x.head]

def State.readPage (s : State) (c r : Nat) : W64 :=
  let x := s.ctx c
  if r = 0x0000 then s.ctxStatus c
  else if r = 0x0008 then s.beat.count
  else if r = 0x0010 then s.beat.stat
  else if 0x100 ≤ r ∧ r < 0x200 ∧ r % 16 = 0 then wide (Tab.get {} x.cq ((r - 0x100) / 16) : Cq).prod
  else if 0x100 ≤ r ∧ r < 0x200 ∧ r % 16 = 8 then wide (Tab.get {} x.cq ((r - 0x100) / 16) : Cq).cons
  else if 0x1000 ≤ r ∧ r < 0x1800 then Tab.get 0 x.sig ((r - 0x1000) / 8)
  else if 0x2000 ≤ r ∧ r < 0x4000 then s.strmHead c ((r - 0x2000) / 8)
  else 0

/-! ### The whole map -/

/-- A read of the MGMT window, by block (R280). -/
def State.readMgmt (s : State) (a : Nat) : W64 :=
  if a < 0x1000 then s.beat.read a
  else if a < 0x2000 then s.cens.read (a - 0x1000)
  else if a < 0x3000 then s.readPass (a - 0x2000)
  else if a < 0x4000 then s.readCrest (a - 0x3000)
  else if 0x10000 ≤ a ∧ a < 0x20000 then s.readPt (a - 0x10000)
  else if 0x40000 ≤ a ∧ a < 0x80000 then (s.ctx ((a - 0x40000) / 0x400)).read ((a - 0x40000) % 0x400)
  else if 0x80000 ≤ a ∧ a < 0xC0000 then s.readStrm ((a - 0x80000) / 32) ((a - 0x80000) % 32)
  else if 0x100000 ≤ a ∧ a < 0x200000 then s.acctRegs.read (a - 0x100000)
  else if 0x200000 ≤ a ∧ a < 0x210000 then s.readIrq (a - 0x200000)
  else if 0x300000 ≤ a ∧ a < 0x310000 then s.readCairn (a - 0x300000)
  else if 0x310000 ≤ a ∧ a < 0x311000 then s.bist.read (a - 0x310000)
  else if 0x400000 ≤ a ∧ a < 0x420000 then s.lnk.read (a - 0x400000)
  else 0

/-- What a function reads at an address, without an effect of the read (R9, R274, R277): a dropped access reads zero. -/
def State.readReg (s : State) (f a width : Nat) : W64 :=
  if a < mgmtTop then (if f = 0 ∧ widthOk a width = true then s.readMgmt a else 0)
  else if a < pageTop then
    let c := (a - mgmtTop) / 0x10000
    if s.reaches f c = true ∧ width = 8 ∧ a % 8 = 0 then s.readPage c ((a - mgmtTop) % 0x10000) else 0
  else 0

end Sys2Proof.Machine
end

