-- ==== Sys2Proof/Tests/Slice0.lean ====
section
/-! SUPPORT. Our own tests: well-formedness accepts and refuses (R9, R274, R290, R344 and the tile encodings), words and packets written
out from the spec's encodings are read right, a few commands on small states, and for each clause of each obligation with hypotheses
a state and operands that meet them all. -/

namespace Sys2Proof.Tests

open Sys2Proof Sys2Proof.Machine

set_option Elab.async false

/-! ### Well-formedness: one term for each command that it accepts, and ill-formed terms that it refuses -/

/-- A number that no field holds. -/
def big : Nat := 9 * 10 ^ 30

/-- More bytes than any carrier holds. -/
def long : List Byte := List.replicate 8193 0

def z4 : List (BitVec 32) := [0, 0, 0, 0]
def streamOpenP0 : StreamOpenP := { lstream := 0, prio := 0, cq := 0, ringLog2 := 0, defineCq := false, cqLog2 := 0, ring := 0, cqOff := 0 }
def runP0 : RunP := { program := 0, bgFirst := 0, bgSize := 0, args := z4, binds := z4 }
def copyP0 : CopyP := { src := {}, dst := {}, rows := 0, cols := 0, srcPitch := 0, dstPitch := 0, srcFmt := 0, dstFmt := 0, rnd := 0, srcTiled := false, dstTiled := false, length := 0 }
def fillP0 : FillP := { dst := {}, length := 0, pattern := 0 }
def collP0 : CollP := { src := {}, dst := {}, length := 0, layoutEpoch := 0, group := 0, fmt := 0, op := 0, root := 0, scatter := false }
def normP0 : NormP := { result := {}, clip := 0, tag := 0, layoutEpoch := 0, group := 0, regions := List.replicate 8 (0, 0) }
def permP0 : PermP := { plan := {}, cursor := {}, fromEpoch := 0, toEpoch := 0, group := 0, bind := 0 }
def optP0 : OptP := { program := 0, bgFirst := 0, bgSize := 0, waitLimit := 0, args := z4, step := 0, normTag := 0, newMask := false, pack := false, stageRegion := 0, mask := 0, stageOff := 0 }
def accountP0 : AccountP := { dst := {}, scope := 0, clear := false, lstream := 0, bgFirst := 0, bgSize := 0 }
def derateTable0 : DerateTable := { fcap := List.replicate 256 0, band := List.replicate 3 0, echo := List.replicate 8 0, retireList := [] }

theorem test_accepts_from_registerWrite : ([
    .registerWrite 0 0 4 0, .apertureWrite 0 0 [], .apertureRead 0 0 0, .doorbell 0 0 0 0, .resume 0 0 0 0, .packetFetch 0, .commandIssue 0 0 0,
    .blockDoneAck 0 0, .saddleWindowOpen {}, .beatEdge {}, .heldExpiry 0, .beatInEdge 0 {}, .holdoverEdge {}, .commandHang 0, .waitTimeout 0,
    .versionBusy 0, .drainTimeout 0, .streamOpen {} streamOpenP0, .streamClose {} 0, .loadsetLoadPlace {} {}, .loadsetLoadVerify {} {},
    .loadsetUnload {}, .adapterAttachPlace {} {}, .adapterAttachVerify {} {}, .adapterDetach {} 0, .run {} runP0, .copy {} copyP0, .fill {} fillP0,
    .reduce {} collP0, .gather {} collP0, .broadcast {} collP0, .normreduce {} normP0, .permute {} permP0, .routeOpen {} {}, .routeDispatch {} {},
    .routeClose {} {}, .routeRetrace {} {}, .routeReturn {} {}, .routeForceSeal {} {}, .routeCounts {} {}, .routeXset {} {}, .combineForward {} {},
    .combineRetrace {} {}, .weightSwitchStage {} {}, .weightSwitchVerify {} {}, .weightSwitchSwitch {} false 0, .weightSwitchAbort {},
    .optstep {} optP0, .fence {}, .signalAdd {} 0 0, .signalSet {} 0 0, .wait {} 0 0 0, .preempt {} 0 0, .preemptResume {} 0, .contextReset {} 0] : List Instr).all Instr.wf = true := by decide +kernel

theorem test_accepts_from_partitionConfig : ([
    .partitionConfig {} {}, .modeStageArm {} 0 0, .modeStageCancel {}, .censusRead {} {} false, .accountRead {} accountP0, .mm 0 {},
    .drainEnd 0 [], .cvt 0 {} none, .add 0 {} none, .sub 0 {} none, .mul 0 {} none, .fma 0 {} none, .min 0 {} none, .max 0 {} none, .cmp 0 {} none,
    .sel 0 {} none, .abs 0 {} none, .neg 0 {} none, .exp2 0 {} none, .log2 0 {} none, .recip 0 {} none, .rsqrt 0 {} none, .sqrt 0 {} none,
    .sigmoid 0 {} none, .tanh 0 {} none, .relu 0 {} none, .softplus 0 {} none, .dsig 0 {} none, .dtanh 0 {} none, .drelu 0 {} none,
    .dexp 0 {} none, .drecip 0 {} none, .drsqrt 0 {} none, .dsoftmax 0 {}, .rsum 0 {}, .rmax 0 {}, .rssq 0 {}, .randu 0 {}, .randn 0 {}, .occ 0 {},
    .gate 0 {}, .ldb 0 {}, .stb 0 {}, .ldt 0 {}, .stt 0 {}, .dmaTransferEnd 0, .send 0 {}, .recv 0 {}, .pdisp 0 {}, .ptake 0 {}, .tqpop 0 0,
    .tqwait 0 0, .syncFence 0 0, .bar 0, .syncSignal 0 0 0] : List Instr).all Instr.wf = true := by decide +kernel

theorem test_accepts_from_land : ([
    .land 0 0, .ctlEnd 0, .budget 0 0, .loop 0 0 0 0 0, .seti 0 0 0, .addi 0 0 0 0, .muli 0 0 0 0, .madd 0 0 0 0 0, .divi 0 0 0 0, .modi 0 0 0 0,
    .beatStageArm 0, .beatStageCancel 0, .censSelWrite 0 0, .censClrCtx 0, .censClrSel 0, .passSelWrite 0 0, .passClrSel 0, .ptNextWrite 0 0 0,
    .ptModeArm 0, .ptModeCancel 0, .applyIdle 0, .schedSwap 0 0 0, .schedCancel 0 0 0, .ctxCreate 0 0, .ctxDestroy 0 0, .ctxRselWrite 0 0 0,
    .acctSelWrite 0 0, .acctClrSel 0, .retrain 0 0 0, .bistImgData 0 0, .bistImgClear 0, .bistImgGo 0 {}, .bistAbort 0, .bistResSel 0 0,
    .cairnRdSeq 0 0, .cairnClrData 0 0, .cairnClrRestart 0, .cairnClrGo 0, .cairnCodeWrite 0 0 0, .irqTgtClaim 0 0, .irqTgtComplete 0 0 0,
    .irqTgtIdle 0 0, .irqModeWrite 0 0, .holdoffEnd 0, .lease {} 0 0, .leaseLapse, .derateArm {} 0 derateTable0, .derateCancel {}, .reset {} 0,
    .binsRead {} 0 0 false, .standdown (.stobin {} false), .bistEnd, .wake {}, .retry (.stobin {} false) {}, .attest {} (List.replicate 32 0)] : List Instr).all Instr.wf = true := by decide +kernel

theorem test_accepts_from_certRead : ([
    .certRead {}, .bistRead {} 0 0, .cairnRead {} 0 0, .cairnClear {} [], .startReport 0, .discoverSend 0, .discoverReply 0 0 {},
    .discover 0 false {}, .beatMarker 0 0 0 {}, .epochAnnounce 0 false {}, .hopAck 0 false 0, .hopCredit 0 0 0 0 0, .frameCrcError 0 0,
    .reservedFrame 0 0, .e2eAck {}, .e2eNotready false {}, .e2eResend 0, .collData {}, .collAbort {}, .permData {}, .permMark {}, .chanData {},
    .chanCommit {}, .chanCredit {}, .passTry {} {}, .passReply {} {} none, .passMark {} {} 0 0, .passRow {} {} 0, .portTrained 0 0,
    .portFailure 0 0, .ramalinkRetrain 0, .purgeAck 0 0, .quarantine 0 0, .edgeAckMiss, .unitReady 0, .cairnRecordWrite, .cairnRefill 0,
    .mirrorCopy, .moduleReset, .start 0 {}, .startStepTimeout 0 0, .warmTimeout, .recoverN {}, .busPowerUp, .busTrip, .inputExcursion 0,
    .thermalThrottle 0 0 0, .thermalTrip 0 0, .coolant 0 0 0, .inputExcursionEnd 0, .thermalThrottleEnd 0 0, .coolantRestored,
    .throttleNChange false] : List Instr).all Instr.wf = true := by decide +kernel

theorem test_refuses_from_registerWrite : ([
    .registerWrite big 0 4 0, .registerWrite 0 big 4 0, .registerWrite 0 0 big 0, .apertureWrite big 0 [], .apertureWrite 0 big [],
    .apertureWrite 0 0 long, .apertureRead big 0 0, .apertureRead 0 big 0, .apertureRead 0 0 big, .doorbell big 0 0 0, .doorbell 0 big 0 0,
    .doorbell 0 0 big 0, .resume big 0 0 0, .resume 0 big 0 0, .resume 0 0 big 0, .packetFetch big, .commandIssue big 0 0, .blockDoneAck big 0,
    .heldExpiry big, .drainTimeout big, .streamOpen { ctx := big } streamOpenP0, .streamOpen { stream := big } streamOpenP0,
    .streamOpen { timeout := big } streamOpenP0, .streamOpen { pstream := big } streamOpenP0, .streamOpen { cls := big } streamOpenP0,
    .streamOpen {} { streamOpenP0 with lstream := big }, .streamOpen {} { streamOpenP0 with prio := big },
    .streamOpen {} { streamOpenP0 with cq := big }, .streamOpen {} { streamOpenP0 with ringLog2 := big },
    .streamOpen {} { streamOpenP0 with cqLog2 := big }, .streamOpen {} { streamOpenP0 with ring := big },
    .streamOpen {} { streamOpenP0 with cqOff := big }, .streamClose { ctx := big } 0, .streamClose {} big, .loadsetLoadPlace { ctx := big } {},
    .loadsetLoadPlace {} { segFirst := big }, .loadsetLoadPlace {} { segCount := big }, .loadsetLoadPlace {} { manifest := big },
    .loadsetLoadVerify { ctx := big } {}, .loadsetLoadVerify {} { segFirst := big }] : List Instr).any Instr.wf = false := by decide +kernel

theorem test_refuses_from_loadsetUnload : ([
    .loadsetUnload { ctx := big }, .adapterAttachPlace { ctx := big } {}, .adapterAttachPlace {} { segFirst := big },
    .adapterAttachVerify { ctx := big } {}, .adapterAttachVerify {} { segFirst := big }, .adapterDetach { ctx := big } 0, .adapterDetach {} big,
    .run { ctx := big } runP0, .run {} { runP0 with program := big }, .run {} { runP0 with bgFirst := big }, .run {} { runP0 with bgSize := big },
    .run {} { runP0 with args := [] }, .run {} { runP0 with binds := [] }, .copy { ctx := big } copyP0,
    .copy {} { copyP0 with src := { region := big } }, .copy {} { copyP0 with src := { off := big } },
    .copy {} { copyP0 with dst := { region := big } }, .copy {} { copyP0 with dst := { off := big } }, .copy {} { copyP0 with rows := big },
    .copy {} { copyP0 with cols := big }, .copy {} { copyP0 with srcPitch := big }, .copy {} { copyP0 with dstPitch := big },
    .copy {} { copyP0 with srcFmt := big }, .copy {} { copyP0 with dstFmt := big }, .copy {} { copyP0 with rnd := big },
    .copy {} { copyP0 with length := big }, .fill { ctx := big } fillP0, .fill {} { fillP0 with dst := { region := big } },
    .fill {} { fillP0 with dst := { off := big } }, .fill {} { fillP0 with length := big }, .reduce { ctx := big } collP0,
    .reduce {} { collP0 with src := { region := big } }, .reduce {} { collP0 with src := { off := big } },
    .reduce {} { collP0 with dst := { region := big } }, .reduce {} { collP0 with dst := { off := big } },
    .reduce {} { collP0 with length := big }, .reduce {} { collP0 with group := big }, .reduce {} { collP0 with fmt := big },
    .reduce {} { collP0 with op := big }, .reduce {} { collP0 with root := big }] : List Instr).any Instr.wf = false := by decide +kernel

theorem test_refuses_from_gather : ([
    .gather { ctx := big } collP0, .gather {} { collP0 with src := { region := big } }, .broadcast { ctx := big } collP0,
    .broadcast {} { collP0 with src := { region := big } }, .normreduce { ctx := big } normP0,
    .normreduce {} { normP0 with result := { region := big } }, .normreduce {} { normP0 with result := { off := big } },
    .normreduce {} { normP0 with tag := big }, .normreduce {} { normP0 with group := big }, .normreduce {} { normP0 with regions := [] },
    .permute { ctx := big } permP0, .permute {} { permP0 with plan := { region := big } }, .permute {} { permP0 with plan := { off := big } },
    .permute {} { permP0 with cursor := { region := big } }, .permute {} { permP0 with cursor := { off := big } },
    .permute {} { permP0 with group := big }, .routeOpen { ctx := big } {}, .routeOpen {} { table := big }, .routeOpen {} { phase := big },
    .routeOpen {} { first := big }, .routeOpen {} { count := big }, .routeOpen {} { rows := { region := big } },
    .routeOpen {} { rows := { off := big } }, .routeOpen {} { grec := { region := big } }, .routeOpen {} { grec := { off := big } },
    .routeDispatch { ctx := big } {}, .routeDispatch {} { table := big }, .routeClose { ctx := big } {}, .routeClose {} { table := big },
    .routeRetrace { ctx := big } {}, .routeRetrace {} { table := big }, .routeReturn { ctx := big } {}, .routeReturn {} { table := big },
    .routeForceSeal { ctx := big } {}, .routeForceSeal {} { table := big }, .routeCounts { ctx := big } {}, .routeCounts {} { table := big },
    .routeXset { ctx := big } {}, .routeXset {} { table := big }, .combineForward { ctx := big } {}] : List Instr).any Instr.wf = false := by decide +kernel

theorem test_refuses_from_combineForward : ([
    .combineForward {} { table := big }, .combineForward {} { first := big }, .combineForward {} { count := big },
    .combineForward {} { outp := { region := big } }, .combineForward {} { outp := { off := big } }, .combineRetrace { ctx := big } {},
    .combineRetrace {} { table := big }, .weightSwitchStage { ctx := big } {}, .weightSwitchStage {} { segFirst := big },
    .weightSwitchVerify { ctx := big } {}, .weightSwitchVerify {} { segFirst := big }, .weightSwitchSwitch { ctx := big } false 0,
    .weightSwitchSwitch {} false big, .weightSwitchAbort { ctx := big }, .optstep { ctx := big } optP0, .optstep {} { optP0 with program := big },
    .optstep {} { optP0 with bgFirst := big }, .optstep {} { optP0 with bgSize := big }, .optstep {} { optP0 with waitLimit := big },
    .optstep {} { optP0 with args := [] }, .optstep {} { optP0 with normTag := big }, .optstep {} { optP0 with stageRegion := big },
    .optstep {} { optP0 with stageOff := big }, .fence { ctx := big }, .signalAdd { ctx := big } 0 0, .signalAdd {} big 0,
    .signalSet { ctx := big } 0 0, .signalSet {} big 0, .wait { ctx := big } 0 0 0, .wait {} big 0 0, .wait {} 0 big 0,
    .preempt { ctx := big } 0 0, .preempt {} big 0, .preempt {} 0 big, .preemptResume { ctx := big } 0, .preemptResume {} big,
    .contextReset { ctx := big } 0, .contextReset {} big, .partitionConfig { ctx := big } {}, .partitionConfig {} { region := big }] : List Instr).any Instr.wf = false := by decide +kernel

theorem test_refuses_from_partitionConfig : ([
    .partitionConfig {} { off := big }, .modeStageArm { ctx := big } 0 0, .modeStageArm {} 0 big, .modeStageCancel { ctx := big },
    .censusRead { ctx := big } {} false, .censusRead {} { region := big } false, .accountRead { ctx := big } accountP0,
    .accountRead {} { accountP0 with dst := { region := big } }, .accountRead {} { accountP0 with dst := { off := big } },
    .accountRead {} { accountP0 with scope := big }, .accountRead {} { accountP0 with lstream := big },
    .accountRead {} { accountP0 with bgFirst := big }, .accountRead {} { accountP0 with bgSize := big }, .mm big {}, .mm 0 { fmt := big },
    .mm 0 { sparse := big }, .mm 0 { acc := big }, .mm 0 { fslot := big }, .mm 0 { rnd := big }, .mm 0 { cls := big }, .mm 0 { nm1 := big },
    .mm 0 { asrc := big }, .mm 0 { bsrc := big }, .mm 0 { aline := big }, .mm 0 { atstr := big }, .mm 0 { aix := big }, .mm 0 { acs := big },
    .mm 0 { bline := big }, .mm 0 { btstr := big }, .mm 0 { bix := big }, .mm 0 { bcs := big }, .drainEnd big [], .drainEnd 0 [(4096, 0)],
    .cvt big {} none, .cvt 0 { mod := big } none, .cvt 0 { rnd := big } none, .cvt 0 { cls := big } none, .cvt 0 { dd := big } none,
    .cvt 0 { dix := big } none, .cvt 0 { sa := big } none] : List Instr).any Instr.wf = false := by decide +kernel

theorem test_refuses_from_cvt : ([
    .cvt 0 { saix := big } none, .cvt 0 { sb := big } none, .cvt 0 { sbix := big } none, .cvt 0 { sc := big } none, .cvt 0 { scix := big } none,
    .add big {} none, .add 0 { mod := big } none, .sub big {} none, .sub 0 { mod := big } none, .mul big {} none, .mul 0 { mod := big } none,
    .fma big {} none, .fma 0 { mod := big } none, .min big {} none, .min 0 { mod := big } none, .max big {} none, .max 0 { mod := big } none,
    .cmp big {} none, .cmp 0 { mod := big } none, .sel big {} none, .sel 0 { mod := big } none, .abs big {} none, .abs 0 { mod := big } none,
    .neg big {} none, .neg 0 { mod := big } none, .exp2 big {} none, .exp2 0 { mod := big } none, .log2 big {} none, .log2 0 { mod := big } none,
    .recip big {} none, .recip 0 { mod := big } none, .rsqrt big {} none, .rsqrt 0 { mod := big } none, .sqrt big {} none,
    .sqrt 0 { mod := big } none, .sigmoid big {} none, .sigmoid 0 { mod := big } none, .tanh big {} none, .tanh 0 { mod := big } none,
    .relu big {} none] : List Instr).any Instr.wf = false := by decide +kernel

theorem test_refuses_from_relu : ([
    .relu 0 { mod := big } none, .softplus big {} none, .softplus 0 { mod := big } none, .dsig big {} none, .dsig 0 { mod := big } none,
    .dtanh big {} none, .dtanh 0 { mod := big } none, .drelu big {} none, .drelu 0 { mod := big } none, .dexp big {} none,
    .dexp 0 { mod := big } none, .drecip big {} none, .drecip 0 { mod := big } none, .drsqrt big {} none, .drsqrt 0 { mod := big } none,
    .dsoftmax big {}, .dsoftmax 0 { mod := big }, .rsum big {}, .rsum 0 { mod := big }, .rmax big {}, .rmax 0 { mod := big }, .rssq big {},
    .rssq 0 { mod := big }, .randu big {}, .randu 0 { mod := big }, .randn big {}, .randn 0 { mod := big }, .occ big {}, .occ 0 { mod := big },
    .gate big {}, .gate 0 { km1 := big }, .gate 0 { rnd := big }, .gate 0 { cls := big }, .gate 0 { expertBase := big }, .gate 0 { sd := big },
    .gate 0 { six := big }, .gate 0 { outp := big }, .gate 0 { oix := big }, .ldb big {}, .ldb 0 { tkind := big }] : List Instr).any Instr.wf = false := by decide +kernel

theorem test_refuses_from_ldb : ([
    .ldb 0 { bsaddr := big }, .ldb 0 { bix := big }, .ldb 0 { count := big }, .ldb 0 { aux := big }, .ldb 0 { xsh := big }, .ldb 0 { xix := big },
    .ldb 0 { off := big }, .stb big {}, .stb 0 { tkind := big }, .ldt big {}, .ldt 0 { tkind := big }, .stt big {}, .stt 0 { tkind := big },
    .dmaTransferEnd big, .send big {}, .send 0 { tkind := big }, .recv big {}, .recv 0 { tkind := big }, .pdisp big {}, .pdisp 0 { tkind := big },
    .ptake big {}, .ptake 0 { tkind := big }, .tqpop big 0, .tqpop 0 big, .tqwait big 0, .tqwait 0 big, .syncFence big 0, .syncFence 0 big,
    .bar big, .syncSignal big 0 0, .syncSignal 0 big 0, .land big 0, .land 0 big, .ctlEnd big, .budget big 0, .loop big 0 0 0 0, .loop 0 big 0 0 0,
    .loop 0 0 big 0 0, .loop 0 0 0 0 big, .seti big 0 0] : List Instr).any Instr.wf = false := by decide +kernel

theorem test_refuses_from_seti : ([
    .seti 0 big 0, .addi big 0 0 0, .addi 0 big 0 0, .addi 0 0 big 0, .muli big 0 0 0, .muli 0 big 0 0, .muli 0 0 big 0, .madd big 0 0 0 0,
    .madd 0 big 0 0 0, .madd 0 0 big 0 0, .madd 0 0 0 big 0, .divi big 0 0 0, .divi 0 big 0 0, .divi 0 0 big 0, .modi big 0 0 0, .modi 0 big 0 0,
    .modi 0 0 big 0, .beatStageArm big, .beatStageCancel big, .censSelWrite big 0, .censClrCtx big, .censClrSel big, .passSelWrite big 0,
    .passClrSel big, .ptNextWrite big 0 0, .ptNextWrite 0 big 0, .ptModeArm big, .ptModeCancel big, .applyIdle big, .schedSwap big 0 0,
    .schedSwap 0 big 0, .schedCancel big 0 0, .schedCancel 0 big 0, .ctxCreate big 0, .ctxCreate 0 big, .ctxDestroy big 0, .ctxDestroy 0 big,
    .ctxRselWrite big 0 0, .ctxRselWrite 0 big 0, .acctSelWrite big 0] : List Instr).any Instr.wf = false := by decide +kernel

theorem test_refuses_from_acctClrSel : ([
    .acctClrSel big, .retrain big 0 0, .retrain 0 big 0, .bistImgData big 0, .bistImgClear big, .bistImgGo big {}, .bistAbort big,
    .bistResSel big 0, .cairnRdSeq big 0, .cairnClrData big 0, .cairnClrRestart big, .cairnClrGo big, .cairnCodeWrite big 0 0,
    .cairnCodeWrite 0 big 0, .irqTgtClaim big 0, .irqTgtClaim 0 big, .irqTgtComplete big 0 0, .irqTgtComplete 0 big 0, .irqTgtIdle big 0,
    .irqTgtIdle 0 big, .irqModeWrite big 0, .holdoffEnd big, .lease { port := big } 0 0, .lease { seq := big } 0 0, .lease {} big 0,
    .lease {} 0 big, .derateArm { port := big } 0 derateTable0, .derateArm {} 0 { derateTable0 with fcap := [] },
    .derateArm {} 0 { derateTable0 with band := [] }, .derateArm {} 0 { derateTable0 with echo := [] },
    .derateArm {} 0 { derateTable0 with retireList := List.replicate 513 0 }, .derateCancel { port := big }, .reset { port := big } 0,
    .reset {} big, .binsRead { port := big } 0 0 false, .binsRead {} big 0 false, .binsRead {} 0 big false, .standdown (.host 256 0),
    .standdown (.stobin { port := 2 } false), .wake { port := big }] : List Instr).any Instr.wf = false := by decide +kernel

theorem test_refuses_from_retry : ([
    .retry (.host 256 0) {}, .attest { port := big } (List.replicate 32 0), .attest {} long, .certRead { port := big },
    .bistRead { port := big } 0 0, .bistRead {} big 0, .bistRead {} 0 big, .cairnRead { port := big } 0 0, .cairnRead {} big 0,
    .cairnRead {} 0 big, .cairnClear { port := big } [], .cairnClear {} long, .startReport big, .discoverSend big, .discoverReply big 0 {},
    .discoverReply 0 0 { port := some 32 }, .discoverReply 0 0 { dst := big }, .discoverReply 0 0 { src := big },
    .discoverReply 0 0 { dstCtx := big }, .discoverReply 0 0 { srcCtx := big }, .discoverReply 0 0 { lseq := big },
    .discoverReply 0 0 { payload := long }, .discover big false {}, .discover 0 false { port := some 32 }, .beatMarker big 0 0 {},
    .epochAnnounce big false {}, .epochAnnounce 0 false { port := some 32 }, .hopAck big false 0, .hopAck 0 false big, .hopCredit big 0 0 0 0,
    .hopCredit 0 big 0 0 0, .hopCredit 0 0 big 0 0, .hopCredit 0 0 0 big 0, .hopCredit 0 0 0 0 big, .frameCrcError big 0, .frameCrcError 0 big,
    .reservedFrame big 0, .reservedFrame 0 big, .e2eAck { port := some 32 }, .e2eNotready false { port := some 32 }] : List Instr).any Instr.wf = false := by decide +kernel

theorem test_refuses_from_collData : ([
    .collData { port := some 32 }, .collAbort { port := some 32 }, .permData { port := some 32 }, .permMark { port := some 32 },
    .chanData { port := some 32 }, .chanCommit { port := some 32 }, .chanCredit { port := some 32 }, .passTry { port := some 32 } {},
    .passReply { port := some 32 } {} none, .passMark { port := some 32 } {} 0 0, .passRow { port := some 32 } {} 0, .portTrained big 0,
    .portFailure big 0, .ramalinkRetrain big, .purgeAck 0 big, .quarantine 0 big, .unitReady big, .cairnRefill big, .start big {},
    .startStepTimeout big 0, .startStepTimeout 0 big, .thermalThrottle big 0 0, .coolant big 0 0, .thermalThrottleEnd big 0] : List Instr).any Instr.wf = false := by decide +kernel

/-! ### Words of tile instructions, laid out by hand from R170 to R182 (the listing of the optimizer step, and corner values) -/

/-- `vec.fma d10 <- d9, d17, d0+i11 cls=13` (R172, code 0x05 of R144). -/
theorem test_word_fma : decodeTI 0x200501A1401202200160000000000000 =
    some (.vec 0x05 { cls := 13, dd := 10, sa := 9, sb := 17, sc := 0, scix := 11 }) := by decide +kernel

/-- `vec.cvt.sr d7+i11 <- d10 cls=14`. -/
theorem test_word_cvt : decodeTI 0x200111C0F61400000000000000000000 =
    some (.vec 0x01 { rnd := 2, cls := 14, dd := 7, dix := 11, sa := 10 }) := by decide +kernel

/-- `mov.ldb bs=0x1000+i11 n=960 reg=10 off=0+i7` (R174). -/
theorem test_word_ldb : decodeTI 0x30000200161DF9407000000000000000 =
    some (.mov 0 { bsaddr := 0x1000, bix := 11, count := 959, aux := 10, xix := 7 }) := by decide +kernel

/-- `mov.stt.q8 bs=0x21000+i11 n=1 reg=11 off=0+i10`. -/
theorem test_word_stt : decodeTI 0x3030420016000160A000000000000000 =
    some (.mov 3 { bsaddr := 0x21000, bix := 11, aux := 11, xix := 10 }) := by decide +kernel

/-- An MM with a CAPTURE operand and every line and stride different (R170). -/
theorem test_word_mm : decodeTI 0x10504022806224622400456213000000 =
    some (.mm { fmt := 1, bturn := true, acc := 1, cks := true, cls := 5, nm1 := 3, bsrc := 1, aline := 0x123, atstr := 17, aix := 2,
                bline := 0x456, btstr := 33, bix := 3 }) := by decide +kernel

theorem test_word_fence : decodeTI 0x40221000000000000000000000000000 = some (.sync 2 0x21 0) := by decide +kernel
theorem test_word_signal : decodeTI 0x404C8FFFFFFFF0000000000000000000 = some (.sync 4 200 0xFFFFFFFF) := by decide +kernel

/-- A GATE (R181). -/
theorem test_word_gate : decodeTI 0x48E9F891A140AA190480000000000000 =
    some (.gate { km1 := 7, norm := true, cls := 63, expertBase := 0x1234, sd := 40, six := 1, outp := 0x54320, oix := 9 }) := by
  decide +kernel

/-- `ctl.loop i5, 4, body=25` and `ctl.madd i7 = i6*61440 + i12` (R182). -/
theorem test_word_loop : decodeTI 0x50250000000004019000000000000000 = some (.ctl 2 5 0 0 4 25) := by decide +kernel
theorem test_word_madd : decodeTI 0x50676C0000F000000000000000000000 = some (.ctl 6 7 6 12 61440 0) := by decide +kernel

/-- A reserved opcode and a reserved bit spell nothing (R169). -/
theorem test_word_reserved : decodeTI 0x60000000000000000000000000000000 = none ∧ decodeTI 0x40221000000000000000000000000001 = none := by
  decide +kernel

/-- No word spells a command: the table gives no bits. -/
theorem test_no_table_word (n w : Nat) : decodeTableWord n w = none := rfl

/-! ### Packets, laid out by hand from R290 and R301 to R304 -/

/-- COPY with every header field. -/
theorem test_packet_copy : packetOf 1 5
    [0x30, 9, 3, 0, 5, 0, 3, 0, 0, 0, 0x21, 0, 2, 1, 0xFE, 0xCA, 7, 0, 0, 0x10, 0, 0, 0, 0, 8, 0, 0, 0x9A, 0x78, 0x56, 0x34, 0x12,
     0x40, 0, 0, 0, 0x80, 0, 0, 0, 0, 1, 0, 0, 0, 2, 0, 0, 2, 2, 0, 0, 0, 0, 0, 0, 0, 0, 0, 0, 0, 0, 0, 0] =
    ({ ctx := 1, stream := 5, timeout := 9, flags := 3, pstream := 5, gen := 3, cls := 33, tag := 0xCAFE0102 },
     .ok (.copy { src := { region := 7, off := 0x1000 }, dst := { region := 8, off := 0x123456789A00 }, rows := 64, cols := 128,
                  srcPitch := 256, dstPitch := 512, srcFmt := 2, dstFmt := 2, rnd := 0, srcTiled := false, dstTiled := false,
                  length := 0 })) := rfl

/-- ROUTE COUNTS with CLEAR and SLOT, table 9, phase 1. -/
theorem test_packet_route : (packetOf 1 0
    [0x50, 0, 0, 0, 0, 0, 3, 0, 0, 0, 0, 0, 0, 0, 0, 0, 6, 6, 9, 1, 0x34, 0x12, 0, 0, 0, 0, 0, 0, 0, 0, 0, 0, 4, 0, 0x40, 0, 0, 0, 0, 0,
     0, 0, 0, 0, 0, 0, 0, 0, 0, 0, 0, 0, 0, 0, 0, 0, 0, 0, 0, 0, 0, 0, 0, 0]).2 =
    .ok (.routeCounts { clear := true, slot := true, table := 9, phase := 1, batch := 0x1234, rows := { region := 4, off := 0x40 } }) := rfl

/-- SIGNAL SET, WEIGHT_SWITCH SWITCH with HOLD_NEW, and RUN. -/
theorem test_packet_signal : (packetOf 1 0
    [0x71, 0, 0, 0, 0, 0, 3, 0, 0, 0, 0, 0, 0, 0, 0, 0, 0xC8, 1, 0, 0, 0, 0, 0, 0, 1, 0, 0, 0, 0, 0, 0, 0x80, 0, 0, 0, 0, 0, 0, 0, 0,
     0, 0, 0, 0, 0, 0, 0, 0, 0, 0, 0, 0, 0, 0, 0, 0, 0, 0, 0, 0, 0, 0, 0, 0]).2 = .ok (.signalSet 200 0x8000000000000001) := rfl
theorem test_packet_switch : (packetOf 1 0
    [0x60, 0, 0, 0, 0, 0, 3, 0, 0, 0, 0, 0, 0, 0, 0, 0, 2, 1, 0xFF, 0, 0, 0, 0, 0, 0, 0, 0, 0, 0, 0, 0, 0, 0, 0, 0, 0, 0, 0, 0, 0,
     0, 0, 0, 0, 0, 0, 0, 0, 0, 0, 0, 0, 0, 0, 0, 0, 0, 0, 0, 0, 0, 0, 0, 0]).2 = .ok (.wsSwitch true 255) := rfl
theorem test_packet_run : (packetOf 1 0
    [0x20, 0, 0, 0, 0, 0, 3, 0, 0, 0, 0, 0, 0, 0, 0, 0, 0xFF, 0, 4, 0, 2, 0, 0, 0, 1, 0, 0, 0, 2, 0, 0, 0, 3, 0, 0, 0, 4, 0, 0, 0,
     0, 0, 0, 0, 0, 0, 0, 0, 0, 0, 0, 0, 0, 0, 0, 0, 0, 0, 0, 0, 0, 0, 0, 0]).2 =
    .ok (.run { program := 255, bgFirst := 4, bgSize := 2, args := [1, 2, 3, 4], binds := [0, 0, 0, 0] }) := rfl
theorem test_packet_open : (packetOf 1 0
    [1, 0, 0, 0, 0, 0, 3, 0, 0, 0, 0, 0, 0, 0, 0, 0, 0xFF, 3, 7, 3, 0x0A, 1, 9, 0, 0, 0x80, 0, 0, 0, 0, 0, 0, 0, 0x40, 0, 0, 0, 0, 0, 0,
     0, 0, 0, 0, 0, 0, 0, 0, 0, 0, 0, 0, 0, 0, 0, 0, 0, 0, 0, 0, 0, 0, 0, 0]).2 =
    .ok (.streamOpen { lstream := 1023, prio := 7, cq := 3, ringLog2 := 10, defineCq := true, cqLog2 := 9, ring := 0x8000,
                       cqOff := 0x4000 }) := rfl

/-- A FENCE with a reserved byte set is refused, naming the byte (R8, R289). -/
theorem test_packet_reserved : (packetOf 1 0
    [0x70, 0, 0, 0, 0, 0, 3, 0, 0, 0, 0, 0, 0, 0, 0, 0, 0, 0, 0, 0, 1, 0, 0, 0, 0, 0, 0, 0, 0, 0, 0, 0, 0, 0, 0, 0, 0, 0, 0, 0,
     0, 0, 0, 0, 0, 0, 0, 0, 0, 0, 0, 0, 0, 0, 0, 0, 0, 0, 0, 0, 0, 0, 0, 0]).2 = .error 20 := rfl


/-! ### Small states to start from -/

/-- The entry of a home region of 64 MiB on die 0. -/
def home : RegEntry :=
  { w0 := BitVec.ofNat 64 (regWords 0 false 15 1 0 false 0 0x4000000).1, w1 := BitVec.ofNat 64 (regWords 0 false 15 1 0 false 0 0x4000000).2 }

/-- An ACTIVE context with a stream and a completion ring. -/
def ctxA : Ctx :=
  { state := 1, gen := 3, func := 1, streams := [(0, 5)], cq := [(0, { defined := true, off := 0x4000, log2 := 9 })], regions := [(0, home)] }

/-- A stream with one packet to be fetched. -/
def strmA : Strm := { isOpen := true, ctx := 1, tail := 1 }

/-- A tile program of some words. -/
def prog (ws descs : List Nat) : Program := { work := 4, csRes := 0, instrs := ws, descs := descs }

/-- A partition with four blocks and one program. -/
def partA (p : Program) : Part :=
  { layout := { granules := 3, streams := 16, lo := 0, hi := 64 }, ordinals := [0, 1, 2, 3],
    model := some { programs := [(1, p)], active := true, users := [1] } }

/-- A ready device in beat 10, not fenced, with one context. -/
def dev : State :=
  { State.reset with
    phase := .run, rlLanes := 16,
    bist := { State.reset.bist with ready := true, mode := 1, memUp := true, started := true },
    fence := { State.reset.fence with cause := 0, leaseOk := true },
    lnk := { State.reset.lnk with devEpoch := 1, addr := 5, addrValid := true },
    beat := { State.reset.beat with aligned := true, count := 10 },
    ctxs := [(1, ctxA)], strms := [(5, strmA)], parts := [(0, partA (prog [] []))] }

/-- The device with no context. -/
def empty : State := { dev with ctxs := [], strms := [] }

/-- The device with something else in some part of it. -/
def withBist (f : Bist → Bist) : State := { dev with bist := f dev.bist }
def withBeat (f : Beat → Beat) : State := { dev with beat := f dev.beat }
def withLnk (f : Lnk → Lnk) : State := { dev with lnk := f dev.lnk }
def withCairn (f : Cairn → Cairn) : State := { dev with cairn := f dev.cairn }
def withCrest (f : Crest → Crest) : State := { dev with crest := f dev.crest }
def withPort (p : Nat) (x : Port) : State := withLnk (fun l => { l with ports := [(p, x)] })

/-- A message for this device on port A, the first one there. -/
def msg : Stobin := { deviceId := Config.deviceId, nonce := 0, seq := 1 }

/-- A frame for this device, through the fabric, from context 1 of device 9 to context 1. -/
def frm : Frame := { src := 9, dst := 5, srcCtx := 1, dstCtx := 1 }

/-- What a state becomes once a frame is heard. -/
def heard (s : State) (ty : Nat) (fr : Frame) : State := (s.receive ty fr).getD s

/-- A packet header of the context's stream. -/
def hdr : Hdr := { ctx := 1, stream := 0, gen := 3 }

/-- Words of tile instructions, bit by bit from R169 to R182. -/
def ctlW (cop dst sa sb imm body : Nat) : Nat :=
  0x50 * 2 ^ 120 + cop * 2 ^ 116 + dst * 2 ^ 112 + sa * 2 ^ 108 + sb * 2 ^ 104 + imm * 2 ^ 72 + body * 2 ^ 60
def syncW (sop a8 imm : Nat) : Nat := 0x40 * 2 ^ 120 + sop * 2 ^ 116 + a8 * 2 ^ 108 + imm * 2 ^ 76
def movW (kind bsaddr count aux off : Nat) : Nat :=
  0x30 * 2 ^ 120 + kind * 2 ^ 116 + bsaddr * 2 ^ 93 + count * 2 ^ 75 + aux * 2 ^ 69 + off * 2 ^ 16
def vecW (op dd sa sb sc : Nat) : Nat :=
  0x20 * 2 ^ 120 + op * 2 ^ 112 + dd * 2 ^ 93 + sa * 2 ^ 81 + sb * 2 ^ 69 + sc * 2 ^ 57

/-- A RUN on blocks 0 and 1. -/
def runCmd : Cmd := { id := 7, ctx := 1, strm := 5, op := .run { program := 1, bgFirst := 0, bgSize := 2, args := [], binds := [] }, phase := .issued, blocks := [0, 1] }

/-- The RUN at the first word of its program, block 0 as given. -/
def running (ws descs : List Nat) (f : Block → Block) : State :=
  { dev with
    parts := [(0, partA (prog ws descs))], cmds := [runCmd],
    blocks := [(0, f { run := some 7, owner := some 1 }), (1, { run := some 7, owner := some 1, ordinal := 1 })] }

/-- One H16 element of the block store at byte `a`. -/
def elemD (a : Nat) : Nat := 2 * 2 ^ 60 + a

/-- A GATHER of devices 9 and 5, and a PERMUTE. -/
def grpA : Group := { members := [(9, 1), (5, 1)] }
def gatherCmd (b : Bool) : Cmd :=
  { id := 4, ctx := 1, strm := 5, op := .gather { src := {}, dst := {}, length := 64, layoutEpoch := 0, group := 0 }, phase := .issued,
    coll := { grp := grpA, started := b, piece := 64 } }
def permP : PermP := { plan := {}, cursor := {}, fromEpoch := 0, toEpoch := 0, group := 0, bind := 0 }
def permCmd : Cmd := { id := 4, ctx := 1, strm := 5, op := .permute permP, phase := .issued, coll := { grp := grpA, started := true } }

/-- A channel of block 0 with one armed area; DIR as given. -/
def chanDev (dir : Nat) : State :=
  { dev with blocks := [(0, { chans := [(66, { ent := { dir := dir, peerCtx := 1, peerDev := 9, peerChan := 2, count := 1 }, areas := [{ addr := 0, units := 1, base := 0 }] })] })] }

/-- A slot with two places and a batch open. -/
def resvA (pos token : Nat) : Resv := { pos := pos, device := 9, ctx := 1, gen := 0, opt := 0, table := 0, token := token, entry := 0 }
def slotA (l : List Resv) : SlotSt := { d := { enabled := true, backward := true, cap := 2 }, bufs := [(0, { batch := 4, resv := l })] }
def slotDev (x : SlotSt) : State := { dev with parts := [(0, { partA (prog [] []) with slots := [(3, x)] })] }
def passA : PassArgs := { slot := 3, batch := 4 }
def tokCmd : Cmd :=
  { id := 4, ctx := 1, strm := 5, op := .fence, phase := .issued, toks := [{ table := 0, batch := 4, token := 0, ents := [{}, {}], waiting := [0, 1] }] }

/-- An OPTSTEP that waits for its version. -/
def optP : OptP :=
  { program := 1, bgFirst := 0, bgSize := 2, waitLimit := 1, args := [], step := 0, normTag := 0, newMask := false, pack := false, stageRegion := 0,
    mask := 0, stageOff := 0 }
def optCmd : Cmd := { id := 8, ctx := 1, strm := 5, op := .optstep optP, heldNow := true, acceptBeat := 9 }

/-! ### A few commands, one step each -/

/-- The state that a command leaves. -/
def after (i : Instr) (s : State) : State :=
  match exec i s with
  | .next t => t
  | _ => s

/-- `I5 = 7` (R182). -/
theorem test_seti : (((after (.seti 0 5 7) (running [ctlW 3 5 0 0 7 0] [] id)).block 0).idx[5]?) = some 7 := by decide +kernel

/-- −3 mod 4 is 1: the quotient is a floor (R182). -/
theorem test_modi : (((after (.modi 0 5 6 4) (running [ctlW 8 5 6 0 4 0] [] (fun b => { b with idx := setAt b.idx 6 (-3) }))).block 0).idx[5]?) =
    some 1 := by decide +kernel

/-- −3 ÷ 4 is −1. -/
theorem test_divi : (((after (.divi 0 5 6 4) (running [ctlW 7 5 6 0 4 0] [] (fun b => { b with idx := setAt b.idx 6 (-3) }))).block 0).idx[5]?) =
    some (-1 : BitVec 32) := by decide +kernel

/-- A loop of no passes skips its body (R183). -/
theorem test_loop_zero : ((after (.loop 0 5 0 0 2) (running [ctlW 2 5 0 0 0 2, 0, 0] [] id)).block 0).pc = 3 := by decide +kernel

/-- The highest-numbered pending, unmasked, routed source is claimed (R461). -/
theorem test_claim : (after (.irqTgtClaim 0 63) { dev with irq := { mask := [(0, 0x100)], pend := [(0, 0x100)], cfg := [(8, 63)], bankmap := 0xBF } }).out =
    dev.out ++ [.readWord 8] := by decide +kernel

/-- The edge begins the next beat (R33). -/
theorem test_edge : (after (.beatEdge {}) dev).beat.count = 11 := by decide +kernel

/-- A step runs the command in front with the rest of the queue. -/
theorem test_commands_front : step { dev with pending := [.unitReady 0, .cairnRecordWrite] } =
    exec (.unitReady 0) { dev with pending := [.cairnRecordWrite] } := rfl

/-- On an empty queue the device idles. -/
theorem test_idle : step dev = .next dev := rfl



/-! ### What some of the hypotheses need -/

theorem noDemand : ¬ dev.irq.Demands 0 := by
  rintro ⟨n, h, -⟩
  simp [dev, State.reset, Irq.isPending, Irq.bank, Irq.isPrivate, wordBit, Tab.get] at h

theorem reset_noDemand (t : Nat) : ¬ State.reset.irq.Demands t := by
  rintro ⟨n, h, -⟩
  simp [State.reset, Irq.isPending, Irq.bank, Irq.isPrivate, wordBit, Tab.get] at h

theorem reset_lines : State.reset.LinesFollow := fun t _ => by
  have h := reset_noDemand t
  simp [State.reset, Irq.target, Tab.get] at h ⊢
  exact h

theorem only8_below : ∀ m < 1023,
    ({ mask := [(0, 0x100)], pend := [(0, 0x100)], cfg := [(8, 63)], bankmap := 0xBF } : Irq).isPending m = true → m ≤ 8 := by decide +kernel

theorem only8 : ∀ m, ({ mask := [(0, 0x100)], pend := [(0, 0x100)], cfg := [(8, 63)], bankmap := 0xBF } : Irq).isPending m = true →
    ({ mask := [(0, 0x100)], pend := [(0, 0x100)], cfg := [(8, 63)], bankmap := 0xBF } : Irq).isMasked m = false →
    ({ mask := [(0, 0x100)], pend := [(0, 0x100)], cfg := [(8, 63)], bankmap := 0xBF } : Irq).routed m 63 = true → m ≤ 8 := by
  intro m h _ _
  refine only8_below m ?_ h
  simp only [Irq.isPending, irqReal, Bool.and_eq_true, decide_eq_true_eq] at h
  exact h.1.2

theorem tail65 : ∀ g, dev.openStream 1 0 = some g →
    ((65 : BitVec 32) - (dev.strm g).head).toNat < ((dev.strm g).tail - (dev.strm g).head).toNat ∨
      2 ^ (dev.strm g).log2 < ((65 : BitVec 32) - (dev.strm g).head).toNat := by
  intro g h
  have h5 : dev.openStream 1 0 = some 5 := by decide +kernel
  rw [h5] at h
  obtain rfl := Option.some.inj h
  decide +kernel

theorem noColl : ∀ x, (heard dev 0x10 frm).collMatch frm = some x → x.coll.started = false := by
  intro x h
  have h0 : (heard dev 0x10 frm).collMatch frm = none := by decide +kernel
  rw [h0] at h
  nomatch h

theorem noSlot : ∀ x, Tab.find ((heard dev 0x30 frm).part passA.pt).slots passA.slot = some x → x.d.enabled = false := by
  intro x h
  have h0 : Tab.find ((heard dev 0x30 frm).part passA.pt).slots passA.slot = none := by decide +kernel
  rw [h0] at h
  nomatch h

theorem witness_hostUp : ∃ s : State, s.hostUp = true := ⟨dev, by decide +kernel⟩

theorem witness_full_buffer (l : List Byte) (h : 16777208 < l.length) :
    ∃ s : State, s.hostUp = true ∧ 16777216 < s.bist.img.length + 8 :=
  ⟨withBist (fun b => { b with img := l }), rfl, by show 16777216 < l.length + 8; omega⟩

theorem witness_DeliveryBuffersAndBistWindow_1 : ∃ s : State, s.hostUp = true ∧ 16777216 < s.bist.img.length + 8 :=
  witness_full_buffer (List.replicate 16777209 0) (by rw [List.length_replicate]; norm_num)


/-! ### States that meet the hypotheses of the statements, clause by clause -/

theorem witness_LinesFollowStep_0 :
    ∃ (s : State) (t : State), (s.LinesFollow) ∧ (step s = .next t) :=
  ⟨State.reset, State.reset, reset_lines, rfl⟩

theorem witness_ClaimReturns_0 :
    ∃ (s : State) (t : Nat) (n : Nat), (s.hostUp = true) ∧ (t < 64) ∧ (s.irq.isPending n = true) ∧ (s.irq.isMasked n = false) ∧ (s.irq.routed n t = true) ∧ ((∀ m, s.irq.isPending m = true → s.irq.isMasked m = false → s.irq.routed m t = true → m ≤ n)) :=
  ⟨{ dev with irq := { mask := [(0, 0x100)], pend := [(0, 0x100)], cfg := [(8, 63)], bankmap := 0xBF } }, 63, 8, by decide +kernel, by decide +kernel, (by decide +kernel), by decide +kernel, by decide +kernel, only8⟩

theorem witness_ClaimReturns_1 :
    ∃ (s : State) (t : Nat), (s.hostUp = true) ∧ (t < 64) ∧ (¬ s.irq.Demands t) :=
  ⟨dev, 63, by decide +kernel, by decide +kernel, noDemand⟩

theorem witness_CompleteIdleModeHoldoff_0 :
    ∃ (s : State) (t : Nat), (s.hostUp = true) ∧ (t < 64) :=
  ⟨dev, 63, by decide +kernel⟩

theorem witness_CompleteIdleModeHoldoff_3 :
    ∃ (s : State) (t : Nat), (t < 64) ∧ ((s.irq.target t).held = true) :=
  ⟨{ dev with irq := { targets := [(63, { held := true, holdoff := 5 })] } }, 63, by decide +kernel⟩

theorem witness_FunctionZeroOnly_0 :
    ∃ (i : Instr) (f : Nat) (a : Nat) (s : State), (i.mgmtRow = some (f, a)) ∧ (f ≠ 0) ∧ (s.hostUp = true) :=
  ⟨.ctxCreate 255 255, 255, 0x40000 + 255 * 0x400 + 8, dev, by decide +kernel⟩

theorem witness_RegisterWidths_0 :
    ∃ (s : State) (a : Nat) (w : Nat), (s.hostUp = true) ∧ (a < 0x1000000) ∧ (reg32 a = false) ∧ ((w ≠ 8 ∨ a % 8 ≠ 0)) :=
  ⟨dev, 0xFFFFF8, 4, by decide +kernel⟩

theorem witness_BeatShapeStaged_0 :
    ∃ (s : State), (s.hostUp = true) ∧ (s.beat.aligned = true) ∧ (s.beat.staged = none) ∧ (s.beat.count.toNat + 2 ≤ s.beat.stageTarget.toNat) ∧ (20 ≤ s.beat.periodNext.toNat) ∧ (s.beat.periodNext.toNat ≤ 1000) ∧ (1 ≤ s.beat.saddleNext.toNat) ∧ (s.beat.saddleNext.toNat ≤ 10) ∧ (s.beat.saddleNext.toNat + 15 ≤ s.beat.periodNext.toNat) ∧ (s.maxBudget ≤ (s.beat.periodNext.toNat - s.beat.saddleNext.toNat) * stepMHz s.beat.loadFloor.toNat) :=
  ⟨withBeat (fun b => { b with stageTarget := 12, periodNext := 20, saddleNext := 5 }), by decide +kernel⟩

theorem witness_BeatShapeStaged_1 :
    ∃ (s : State) (g : Staged), (s.hostUp = true) ∧ (s.beat.staged = some g) ∧ (s.beat.count.toNat + 2 ≤ g.target) :=
  ⟨withBeat (fun b => { b with staged := some { target := 12, period := 50, saddle := 2 } }), { target := 12, period := 50, saddle := 2 }, by decide +kernel⟩

theorem witness_BeatShapeStaged_2 :
    ∃ (s : State) (g : Staged), (s.hostUp = true) ∧ (s.beat.aligned = true) ∧ (s.beat.staged = some g) :=
  ⟨withBeat (fun b => { b with staged := some { target := 12, period := 50, saddle := 2 } }), { target := 12, period := 50, saddle := 2 }, by decide +kernel⟩

theorem witness_SelectsCaptureAndClear_1 :
    ∃ (s : State) (v : W64), (s.hostUp = true) ∧ (v.toNat / 2 ^ 16 % 4 < 2) :=
  ⟨dev, 0x1FFFF, by decide +kernel⟩

theorem witness_SelectsCaptureAndClear_2 :
    ∃ (s : State) (v : W64), (s.hostUp = true) ∧ (v.toNat / 2 ^ 16 % 4 < 3) :=
  ⟨dev, 0x11FFF, by decide +kernel⟩

theorem witness_SelectsCaptureAndClear_3 :
    ∃ (s : State) (c : Nat), (s.hostUp = true) ∧ (c < 256) :=
  ⟨dev, 255, by decide +kernel⟩

theorem witness_SelectsCaptureAndClear_4 :
    ∃ (s : State) (v : W64), (s.hostUp = true) ∧ (2 ≤ v.toNat / 2 ^ 16 % 4) :=
  ⟨dev, 0x20000, by decide +kernel⟩

theorem witness_SelectsCaptureAndClear_5 :
    ∃ (s : State) (v : W64), (s.hostUp = true) ∧ (v.toNat / 2 ^ 16 % 4 = 3) :=
  ⟨dev, 0x30000, by decide +kernel⟩

theorem witness_ModeChangeArmed_0 :
    ∃ (s : State), (s.hostUp = true) ∧ (s.beat.aligned = true) ∧ (s.pt.armed = none) ∧ (s.beat.count.toNat + 2 ≤ s.pt.target.toNat) ∧ (layoutsOk s.layoutToArm = true) ∧ (s.rebuildsEmpty s.layoutToArm = true) :=
  ⟨{ dev with pt := { target := 12 } }, by decide +kernel⟩

theorem witness_ModeChangeArmed_1 :
    ∃ (s : State) (b : Nat), (s.hostUp = true) ∧ (s.pt.armed = some b) ∧ (s.beat.count.toNat + 2 ≤ b) :=
  ⟨{ dev with pt := { armed := some 12 } }, 12, by decide +kernel⟩

theorem witness_ModeChangeArmed_2 :
    ∃ (s : State), (s.hostUp = true) ∧ (s.pt.armed = none) :=
  ⟨dev, by decide +kernel⟩

theorem witness_ModeChangeArmed_3 :
    ∃ (s : State), (s.hostUp = true) ∧ ((∀ c ∈ s.ctxs, c.2.state = 0)) ∧ (s.pt.armed = none) ∧ ((s.pt.pending = true → layoutsOk ((List.range 16).map (fun n => (s.part n).next)) = true)) :=
  ⟨empty, by decide +kernel⟩

theorem witness_ModeChangeArmed_4 :
    ∃ (s : State) (c : Nat × Ctx), (s.hostUp = true) ∧ (s.pt.armed = none) ∧ (c ∈ s.ctxs) ∧ (c.2.state ≠ 0) :=
  ⟨dev, (1, ctxA), by decide +kernel⟩

theorem witness_LayoutsAndSchedules_0 :
    ∃ (s : State) (n : Nat), (s.hostUp = true) ∧ (n < 16) ∧ (s.pt.armed = none) :=
  ⟨dev, 15, by decide +kernel⟩

theorem witness_LayoutsAndSchedules_1 :
    ∃ (s : State) (b : Nat), (s.hostUp = true) ∧ (s.pt.armed = some b) :=
  ⟨{ dev with pt := { armed := some 11 } }, 11, by decide +kernel⟩

theorem witness_LayoutsAndSchedules_2 :
    ∃ (s : State) (n : Nat) (v : W64), (s.hostUp = true) ∧ (n < 16) ∧ (v.getLsbD 1 = false) ∧ (1 ≤ v.toNat / 2 ^ 32 % 2 ^ 10) ∧ (v.toNat / 2 ^ 32 % 2 ^ 10 ≤ 512) ∧ (s.beat.count.toNat + 2 ≤ (s.part n).sched.originNext.toNat) :=
  ⟨{ dev with parts := [(15, { sched := { originNext := 12 } })] }, 15, 0x20000000001, by decide +kernel⟩

theorem witness_LayoutsAndSchedules_3 :
    ∃ (s : State) (n : Nat) (v : W64), (s.hostUp = true) ∧ (n < 16) ∧ (v.getLsbD 1 = false) ∧ ((v.toNat / 2 ^ 32 % 2 ^ 10 = 0 ∨ 512 < v.toNat / 2 ^ 32 % 2 ^ 10 ∨ (s.part n).sched.originNext.toNat < s.beat.count.toNat + 2)) :=
  ⟨{ dev with parts := [(15, { sched := { originNext := 12 } })] }, 15, 0x20100000001, by decide +kernel⟩

theorem witness_LayoutsAndSchedules_4 :
    ∃ (s : State) (n : Nat) (v : W64) (w : Swap), (s.hostUp = true) ∧ (n < 16) ∧ (v.getLsbD 0 = false) ∧ ((s.part n).sched.swap = some w) :=
  ⟨{ dev with parts := [(15, { sched := { swap := some { len := 1, origin := 12, table := [] } } })] }, 15, 2, { len := 1, origin := 12, table := [] }, by decide +kernel⟩

theorem witness_LayoutsAndSchedules_5 :
    ∃ (s : State) (n : Nat) (v : W64), (s.hostUp = true) ∧ (n < 16) ∧ (v.getLsbD 0 = false) ∧ ((s.part n).sched.swap = none) :=
  ⟨dev, 15, 2, by decide +kernel⟩

theorem witness_ContextCreation_0 :
    ∃ (s : State) (c : Nat) (u : Nat), (s.hostUp = true) ∧ (s.bist.ready = true) ∧ (c < 256) ∧ (s.createErr c = 0) ∧ (s.homeFit c = some u) :=
  ⟨dev, 255, 11, by decide +kernel⟩

theorem witness_ContextCreation_1 :
    ∃ (s : State) (c : Nat), (s.hostUp = true) ∧ (s.bist.ready = true) ∧ (c < 256) ∧ ((s.ctx c).state ≠ 0) :=
  ⟨dev, 1, by decide +kernel⟩

theorem witness_ContextCreation_2 :
    ∃ (s : State) (c : Nat), (s.hostUp = true) ∧ (s.bist.ready = true) ∧ (c < 256) ∧ ((s.ctx c).state = 0) ∧ ((s.ctx c).endedBeat = none) ∧ (((s.ctx c).home64M = 0 ∨ 64 < (s.ctx c).home64M.toNat)) :=
  ⟨{ dev with ctxs := [(255, { home64M := 65 })] }, 255, by decide +kernel⟩

theorem witness_ContextDestroyOrdered_0 :
    ∃ (s : State) (c : Nat), (s.hostUp = true) ∧ (c < 256) ∧ ((s.ctx c).state = 1) ∧ ((s.ctx c).reset = none) ∧ ((s.ctx c).lastReset = none) ∧ (s.beat.windowOpen = false) :=
  ⟨dev, 1, by decide +kernel⟩

theorem witness_BundleGo_0 :
    ∃ (s : State) (o : StartObs) (k : Nat), (s.hostUp = true) ∧ (s.awaitsBundle = true) ∧ (o.failStep = none) ∧ (bundleBad s.bist.img = some k) :=
  ⟨withBist (fun b => { b with ready := false, mode := 0, step := 3, memUp := false }), {}, 0, by decide +kernel⟩

theorem witness_BundleGo_1 :
    ∃ (s : State), (s.hostUp = true) ∧ (s.awaitsBundle = true) ∧ (s.bist.ready = false) ∧ (s.crest.tripped = false) :=
  ⟨withBist (fun b => { b with ready := false, mode := 0, step := 3, memUp := false }), by decide +kernel⟩

theorem witness_DeliveryBuffersAndBistWindow_0 :
    ∃ (s : State), (s.hostUp = true) ∧ ((s.bist.imgState = 0 ∨ s.bist.imgState = 1)) ∧ (s.bist.img.length + 8 ≤ 16777216) :=
  ⟨dev, by decide +kernel⟩

theorem witness_DeliveryBuffersAndBistWindow_3 :
    ∃ (s : State), (s.hostUp = true) ∧ (s.cairn.clrBuf.length + 8 ≤ 3392) :=
  ⟨withCairn (fun c => { c with clrBuf := zeros 3384 }), by decide +kernel⟩

theorem witness_DeliveryBuffersAndBistWindow_4 :
    ∃ (s : State), (s.hostUp = true) ∧ (3392 < s.cairn.clrBuf.length + 8) :=
  ⟨withCairn (fun c => { c with clrBuf := zeros 3385 }), by decide +kernel⟩

theorem witness_DeliveryBuffersAndBistWindow_6 :
    ∃ (s : State), (s.hostUp = true) ∧ (s.bist.sdActive = true) ∧ (s.bist.sdPhase < 3) ∧ (s.bist.sdStop = false) :=
  ⟨withBist (fun b => { b with sdActive := true, sdPhase := 2 }), by decide +kernel⟩

theorem witness_CairnReadsAndCodes_1 :
    ∃ (s : State) (n : Nat), (s.hostUp = true) ∧ (n < 4096) :=
  ⟨dev, 4095, by decide +kernel⟩

theorem witness_RecorderWrites_0 :
    ∃ (s : State) (e : Event) (rest : List Event), (s.crest.powered = true) ∧ (s.cairn.queue = e :: rest) ∧ (recorderCode e.code = false) ∧ ((s.cairn.code e.code).tokens ≠ 0) :=
  ⟨withCairn (fun c => { c with queue := [{ code := 0x501 }] }), { code := 0x501 }, [], by decide +kernel⟩

theorem witness_RecorderWrites_1 :
    ∃ (s : State) (e : Event) (rest : List Event), (s.crest.powered = true) ∧ (s.cairn.queue = e :: rest) ∧ (recorderCode e.code = false) ∧ ((s.cairn.code e.code).tokens = 0) :=
  ⟨withCairn (fun c => { c with queue := [{ code := 0x501 }], codes := [(0x501, { tokens := 0 })] }), { code := 0x501 }, [], by decide +kernel⟩

theorem witness_RecorderWrites_2 :
    ∃ (s : State) (n : Nat), (recorderCode n = false) ∧ ((s.cairn.code n).tokens < (s.cairn.code n).burstOf) ∧ ((s.cairn.code n).refillOf < (s.cairn.code n).edges) :=
  ⟨withCairn (fun c => { c with codes := [(256, { tokens := 15, edges := 11 })] }), 256, by decide +kernel⟩

theorem witness_RecorderWrites_3 :
    ∃ (s : State) (r : LogRec), (s.cairn.mirrorSt ≠ 0) ∧ (s.cairn.ring.find? (fun k => decide (s.cairn.mirrored < k.seq)) = some r) :=
  ⟨withCairn (fun c => { c with mirrorSt := 1, ring := [{ seq := 1 }], seq := 1 }), { seq := 1 }, by decide +kernel⟩

theorem witness_RecorderWrites_4 :
    ∃ (s : State), (s.hostUp = true) ∧ (sub8 s.cairn.clrBuf 0 8 ≠ clearMagic) :=
  ⟨dev, by decide +kernel⟩

theorem witness_DoorbellTail_0 :
    ∃ (s : State) (f : Nat) (c : Nat) (n : Nat) (g : Nat) (tail : BitVec 32), (s.hostUp = true) ∧ (s.reaches f c = true) ∧ (s.openStream c n = some g) ∧ (((s.strm g).tail - (s.strm g).head).toNat ≤ (tail - (s.strm g).head).toNat) ∧ ((tail - (s.strm g).head).toNat ≤ 2 ^ (s.strm g).log2) :=
  ⟨dev, 1, 1, 0, 5, 64, by decide +kernel⟩

theorem witness_DoorbellTail_1 :
    ∃ (s : State) (f : Nat) (c : Nat) (n : Nat) (tail : BitVec 32), (s.hostUp = true) ∧ (s.reaches f c = true) ∧ ((∀ g, s.openStream c n = some g → (tail - (s.strm g).head).toNat < ((s.strm g).tail - (s.strm g).head).toNat ∨ 2 ^ (s.strm g).log2 < (tail - (s.strm g).head).toNat)) :=
  ⟨dev, 1, 1, 0, 65, by decide +kernel, by decide +kernel, tail65⟩

theorem witness_ApertureWriteStores_0 :
    ∃ (s : State) (f : Nat) (c : Nat) (r : Nat) (off : Nat) (data : List Byte), (s.hostUp = true) ∧ (s.bist.memUp = true) ∧ (c < 256) ∧ (r < 64) ∧ (off < 2 ^ 42) ∧ (s.reaches f c = true) ∧ (s.allows c { region := r, off := off } data.length .hostWr true = true) :=
  ⟨dev, 1, 1, 0, 0x3FFFFFF, [7], by decide +kernel⟩

theorem witness_ApertureReads_0 :
    ∃ (s : State) (f : Nat) (c : Nat) (r : Nat) (off : Nat) (data : List Byte), (s.hostUp = true) ∧ (s.bist.memUp = true) ∧ (c < 256) ∧ (r < 64) ∧ (off < 2 ^ 42) ∧ (s.reaches f c = true) ∧ (s.allows c { region := r, off := off } data.length .hostWr true = false) ∧ (s.allows c { region := r, off := off } data.length .hostRd false = false) :=
  ⟨dev, 0, 1, 63, 0, [7], by decide +kernel⟩

theorem witness_ApertureReads_1 :
    ∃ (s : State) (f : Nat) (c : Nat) (r : Nat) (off : Nat) (n : Nat), (s.hostUp = true) ∧ (s.bist.memUp = true) ∧ (c < 256) ∧ (r < 64) ∧ (off < 2 ^ 42) ∧ (s.reaches f c = true) ∧ (s.allows c { region := r, off := off } n .hostRd false = true) :=
  ⟨dev, 0, 1, 0, 0x3FFFFFE, 2, by decide +kernel⟩

theorem witness_StobinDropsUnaddressed_0 :
    ∃ (s : State) (m : Stobin) (i : Instr), (s.crest.powered = true) ∧ (m.port < 2) ∧ (s.crest.tripped = false) ∧ (s.bist.inHold = false) ∧ (s.bist.mode ≠ 2) ∧ (s.phase ≠ .reset) ∧ ((m.deviceId ≠ Config.deviceId ∨ m.nonce ≠ s.bist.nonce ∨ m.seq ≤ (s.fence.mgmt m.port).lastSeq)) ∧ (((∃ n v, i = .lease m n v) ∨ (∃ n d, i = .derateArm m n d) ∨ i = .derateCancel m ∨ (∃ k, i = .reset m k) ∨ (∃ a n c, i = .binsRead m a n c) ∨ (∃ a n, i = .bistRead m a n) ∨ (∃ l, i = .cairnClear m l) ∨ (∃ b, i = .standdown (.stobin m b)) ∨ (∃ b o, i = .retry (.stobin m b) o))) :=
  ⟨dev, { msg with seq := 0 }, .lease { msg with seq := 0 } 1000 0, by decide +kernel, by decide +kernel, (by decide +kernel), by decide +kernel, by decide +kernel, (by decide +kernel), .inr (.inr (by decide +kernel)), .inl ⟨1000, 0, rfl⟩⟩

theorem witness_LeaseLoadsAndLapses_0 :
    ∃ (s : State) (m : Stobin) (ms : Nat), (s.crest.powered = true) ∧ (m.port = 0) ∧ (s.crest.tripped = false) ∧ (s.bist.inHold = false) ∧ (s.bist.mode = 1) ∧ (s.bist.ready = true) ∧ (s.phase = .run) ∧ (m.deviceId = Config.deviceId) ∧ (m.nonce = s.bist.nonce) ∧ (s.fence.portA.lastSeq < m.seq) ∧ (1000 ≤ ms) ∧ (ms ≤ 60000) :=
  ⟨dev, msg, 1000, by decide +kernel, by decide +kernel, (by decide +kernel), by decide +kernel, by decide +kernel, (by decide +kernel), by decide +kernel, rfl, (by decide +kernel)⟩

theorem witness_LeaseLoadsAndLapses_1 :
    ∃ (s : State), ((s.fence.portA.running = true ∨ s.fence.portB.running = true)) ∧ (s.bist.ready = true) ∧ (s.fence.cause = 0) :=
  ⟨{ dev with fence := { dev.fence with portB := { running := true } } }, by decide +kernel⟩

theorem witness_DerateStaged_0 :
    ∃ (s : State) (m : Stobin) (n : Nat) (d : DerateTable), (s.listens m 0x20 = true) ∧ (m.deviceId = Config.deviceId) ∧ (m.nonce = s.bist.nonce) ∧ ((s.fence.mgmt m.port).lastSeq < m.seq) ∧ (s.beat.aligned = true) ∧ (s.derate.pending = none) ∧ (s.beat.count.toNat + 2 ≤ n) ∧ (tableOk d = true) :=
  ⟨dev, msg, 12, DerateTable.cold, by decide +kernel, rfl, (by decide +kernel)⟩

theorem witness_DerateStaged_1 :
    ∃ (s : State) (m : Stobin) (n : Nat) (d : DerateTable), (s.listens m 0x20 = true) ∧ (m.deviceId = Config.deviceId) ∧ (m.nonce = s.bist.nonce) ∧ ((s.fence.mgmt m.port).lastSeq < m.seq) ∧ (s.derate.pending = some (n, d)) ∧ (s.beat.count.toNat + 2 ≤ n) :=
  ⟨{ dev with derate := { pending := some (12, DerateTable.cold) } }, msg, 12, DerateTable.cold, by decide +kernel, rfl, (by decide +kernel)⟩

theorem witness_ResetOrdersStart_0 :
    ∃ (s : State) (m : Stobin) (kind : Nat), (kind ≤ 1) ∧ (s.listens m 0x30 = true) ∧ (m.deviceId = Config.deviceId) ∧ (m.nonce = s.bist.nonce) ∧ ((s.fence.mgmt m.port).lastSeq < m.seq) :=
  ⟨dev, msg, 1, by decide +kernel, by decide +kernel, rfl, by decide +kernel⟩

theorem witness_SignedReadsAnswered_0 :
    ∃ (s : State) (m : Stobin) (a : Nat) (n : Nat), (1 ≤ n) ∧ (n ≤ 16) ∧ (a + n ≤ 5120) ∧ (s.listens m 0x40 = true) ∧ (m.deviceId = Config.deviceId) ∧ (m.nonce = s.bist.nonce) ∧ ((s.fence.mgmt m.port).lastSeq < m.seq) :=
  ⟨dev, msg, 5104, 16, by decide +kernel, by decide +kernel, (by decide +kernel), by decide +kernel, rfl, (by decide +kernel)⟩

theorem witness_SignedReadsAnswered_1 :
    ∃ (s : State) (m : Stobin) (n : Nat), (1 ≤ n) ∧ (n ≤ 64) ∧ (s.listens m 0x74 = true) ∧ (m.deviceId = Config.deviceId) ∧ (m.nonce = s.bist.nonce) ∧ ((s.fence.mgmt m.port).lastSeq < m.seq) :=
  ⟨dev, msg, 64, by decide +kernel, by decide +kernel, (by decide +kernel), rfl, by decide +kernel⟩

theorem witness_SignedReadsAnswered_2 :
    ∃ (s : State) (m : Stobin) (l : List Byte), (l.length = 3392) ∧ (sub8 l 0 8 ≠ clearMagic) ∧ (s.listens m 0x82 = true) ∧ (m.deviceId = Config.deviceId) ∧ (m.nonce = s.bist.nonce) ∧ ((s.fence.mgmt m.port).lastSeq < m.seq) :=
  ⟨dev, msg, zeros 3392, by decide +kernel, by decide +kernel, (by decide +kernel), rfl, by decide +kernel⟩

theorem witness_OpenReadsAnswered_0 :
    ∃ (s : State) (p : Nat), (p < 2) ∧ (s.crest.powered = true) ∧ ((s.fence.mgmt p).heard = false) ∧ ((s.bist.ready = true ∨ s.bist.mode = 2)) :=
  ⟨dev, 1, by decide +kernel⟩

theorem witness_OpenReadsAnswered_1 :
    ∃ (s : State) (m : Stobin) (nonce : List Byte), (s.listens m 0x70 = true) ∧ (nonce.length = 32) :=
  ⟨dev, msg, zeros 32, by decide +kernel⟩

theorem witness_OpenReadsAnswered_2 :
    ∃ (s : State) (m : Stobin), (s.listens m 0x72 = true) :=
  ⟨dev, msg, by decide +kernel⟩

theorem witness_OpenReadsAnswered_3 :
    ∃ (s : State) (m : Stobin) (n : Nat), (s.listens m 0x80 = true) ∧ (m.deviceId = Config.deviceId) ∧ (1 ≤ n) ∧ (n ≤ 256) :=
  ⟨dev, msg, 256, by decide +kernel, rfl, (by decide +kernel)⟩

theorem witness_StandDownBegins_0 :
    ∃ (s : State) (v : W64), (s.hostUp = true) ∧ (v.getLsbD 2 = false) ∧ (v.getLsbD 1 = false) ∧ (s.bist.ready = true) ∧ (s.bist.mode = 1) ∧ ((∀ c ∈ s.ctxs, c.2.state = 0)) ∧ (s.pt.armed = none) :=
  ⟨empty, 0, by decide +kernel⟩

theorem witness_StandDownBegins_1 :
    ∃ (s : State) (v : W64), (s.hostUp = true) ∧ (v.getLsbD 2 = false) ∧ ((s.bist.ready = false ∨ s.bist.mode = 3)) :=
  ⟨withBist (fun b => { b with mode := 3 }), 0, by decide +kernel⟩

theorem witness_StandDownBegins_2 :
    ∃ (s : State) (v : W64) (c : Nat × Ctx), (s.hostUp = true) ∧ (v.getLsbD 2 = false) ∧ (s.bist.ready = true) ∧ (s.bist.mode = 1) ∧ (c ∈ s.ctxs) ∧ (c.2.state ≠ 0) :=
  ⟨dev, 0, (1, ctxA), by decide +kernel⟩

theorem witness_HoldAndWake_0 :
    ∃ (s : State), (s.bist.sdActive = true) ∧ (s.bist.sdPhase = 6) ∧ (s.bist.wakePending = false) :=
  ⟨withBist (fun b => { b with mode := 3, sdActive := true, sdPhase := 6 }), by decide +kernel⟩

theorem witness_HoldAndWake_1 :
    ∃ (s : State) (m : Stobin), (s.crest.powered = true) ∧ (s.crest.tripped = false) ∧ (m.port < 2) ∧ (s.bist.inHold = true) ∧ (m.deviceId = Config.deviceId) ∧ ((s.fence.mgmt m.port).lastSeq < m.seq) :=
  ⟨withBist (fun b => { b with mode := 3, inHold := true }), msg, by decide +kernel, by decide +kernel, (by decide +kernel), by decide +kernel, rfl, (by decide +kernel)⟩

theorem witness_RetryInCampOnly_0 :
    ∃ (s : State) (v : W64), (s.hostUp = true) ∧ (s.bist.mode ≠ 2) ∧ (v.getLsbD 0 = false) ∧ (v.getLsbD 2 = false) :=
  ⟨dev, 2, by decide +kernel⟩

theorem witness_RetryInCampOnly_1 :
    ∃ (s : State), (s.bist.mode ≠ 2) :=
  ⟨dev, by decide +kernel⟩

theorem witness_RetryInCampOnly_2 :
    ∃ (s : State) (v : W64), (s.bist.mode = 2) ∧ (s.crest.powered = true) ∧ (s.crest.tripped = false) ∧ (s.rlLanes ≠ 0) ∧ (v.getLsbD 0 = false) ∧ (v.getLsbD 2 = false) :=
  ⟨withBist (fun b => { b with mode := 2, ready := false, baseCamp := true }), 0, by decide +kernel⟩

theorem witness_StartRuns_0 :
    ∃ (s : State), (s.crest.powered = true) ∧ (s.bist.started = false) ∧ (s.bist.inHold = false) ∧ (s.crest.tripped = false) ∧ (s.bist.mode = 0) ∧ (s.bist.attempts.toNat < 2) ∧ (s.bist.ready = false) :=
  ⟨{ State.reset with bist := { State.reset.bist with attempts := 1 } }, by decide +kernel⟩

theorem witness_StartsCutShort_0 :
    ∃ (s : State), (s.bist.started = true) ∧ (s.bist.mode = 0) ∧ (s.bist.step = 3) ∧ (3 ≤ s.bist.attempts.toNat) :=
  ⟨withBist (fun b => { b with mode := 0, ready := false, step := 3, attempts := 3 }), by decide +kernel⟩

theorem witness_StartsCutShort_1 :
    ∃ (s : State), (s.bist.kind = true) ∧ (s.bist.warmBound = true) ∧ (s.bist.ready = false) ∧ (s.bist.mode = 0) ∧ (s.crest.powered = true) ∧ (s.crest.tripped = false) :=
  ⟨withBist (fun b => { b with mode := 0, ready := false, kind := true, warmBound := true }), by decide +kernel⟩

theorem witness_StartsCutShort_2 :
    ∃ (s : State), (s.crest.powered = true) ∧ (s.crest.tripped = false) :=
  ⟨dev, by decide +kernel⟩

theorem witness_BusPowerAndExcursions_0 :
    ∃ (s : State), (s.crest.powered = true) :=
  ⟨dev, by decide +kernel⟩

theorem witness_BusPowerAndExcursions_1 :
    ∃ (s : State), (s.crest.powered = false) :=
  ⟨withCrest (fun c => { c with powered := false }), by decide +kernel⟩

theorem witness_BusPowerAndExcursions_2 :
    ∃ (s : State) (mv : Nat), (s.crest.powered = true) ∧ (36000 ≤ mv) ∧ (mv < 38000) ∧ (s.crest.vinLow = false) :=
  ⟨dev, 37999, by decide +kernel⟩

theorem witness_BusPowerAndExcursions_3 :
    ∃ (s : State) (mv : Nat), (s.crest.powered = true) ∧ (48000 < mv) ∧ (mv ≤ 52000) ∧ (s.crest.vinHigh = false) :=
  ⟨dev, 52000, by decide +kernel⟩

theorem witness_BusPowerAndExcursions_4 :
    ∃ (s : State) (mv : Nat), (s.crest.powered = true) ∧ (38000 ≤ mv) ∧ (mv ≤ 48000) :=
  ⟨dev, 38000, by decide +kernel⟩

theorem witness_ThermalAndCoolantEvents_0 :
    ∃ (s : State) (d : Nat) (k : Nat) (x : Int), (s.crest.powered = true) ∧ (d < 8) ∧ (k / 60 = d) ∧ (840 ≤ x) :=
  ⟨dev, 7, 479, 840, by decide +kernel⟩

theorem witness_ThermalAndCoolantEvents_1 :
    ∃ (s : State) (d : Nat) (x : Int), (s.crest.powered = true) ∧ (d < 8) ∧ ((s.die d).hot = true) ∧ (x < 800) :=
  ⟨{ dev with dies := [(7, { hot := true })] }, 7, 799, by decide +kernel⟩

theorem witness_ThermalAndCoolantEvents_2 :
    ∃ (s : State) (k : Nat) (x : Int), (s.crest.powered = true) ∧ (s.crest.tripped = false) ∧ (k < 512) ∧ (960 ≤ x) :=
  ⟨dev, 511, 960, by decide +kernel⟩

theorem witness_ThermalAndCoolantEvents_3 :
    ∃ (s : State) (inlet : Int), (s.crest.powered = true) ∧ (s.crest.coolCap = false) ∧ (360 < inlet) :=
  ⟨dev, 361, by decide +kernel⟩

theorem witness_ThermalAndCoolantEvents_4 :
    ∃ (s : State) (inlet : Int) (flow : Nat), (s.crest.powered = true) ∧ (s.crest.coolCap = false) ∧ (flow < (if inlet ≤ 240 then 1000 else if inlet ≤ 320 then 1200 else 1400)) :=
  ⟨dev, 240, 999, by decide +kernel⟩

theorem witness_FramesChecked_0 :
    ∃ (i : Instr) (ty : Nat) (fr : Frame) (s : State), (i.frame = some (ty, fr)) ∧ (s.linksLive = true) ∧ (s.portOpen fr = false) :=
  ⟨.e2eAck { frm with port := some 31 }, 7, { frm with port := some 31 }, dev, by decide +kernel⟩

theorem witness_FramesChecked_1 :
    ∃ (i : Instr) (ty : Nat) (fr : Frame) (s : State), (i.frame = some (ty, fr)) ∧ (s.linksLive = true) ∧ (s.portOpen fr = true) ∧ (((s.fenced = true ∧ laneOf ty ≠ 0) ∨ fr.dst ≠ s.lnk.addr.toNat ∨ s.stale fr = true ∨ s.fromFenced fr = true)) :=
  ⟨.collData { frm with dst := 6 }, 0x10, { frm with dst := 6 }, dev, by decide +kernel⟩

theorem witness_PortsTrainAndFail_0 :
    ∃ (s : State) (p : Nat) (lanes : Nat), (s.linksLive = true) ∧ (p < 32) ∧ ((s.port p).enable = true) ∧ ((s.port p).quarantined = false) ∧ (((s.port p).state = 0 ∨ (s.port p).state = 1 ∨ (s.port p).state = 5)) ∧ (8 ≤ lanes) :=
  ⟨dev, 31, 8, by decide +kernel⟩

theorem witness_PortsTrainAndFail_1 :
    ∃ (s : State) (p : Nat) (lanes : Nat), (s.linksLive = true) ∧ (p < 32) ∧ (lanes < 8) :=
  ⟨dev, 31, 7, by decide +kernel⟩

theorem witness_PortsTrainAndFail_2 :
    ∃ (s : State) (p : Nat), (s.linksLive = true) ∧ (((s.port p).state = 2 ∨ (s.port p).state = 3)) :=
  ⟨withPort 31 { state := 2 }, 31, by decide +kernel⟩

theorem witness_PortsTrainAndFail_3 :
    ∃ (s : State) (p : Nat), (s.linksLive = true) ∧ (p < 32) ∧ (((s.port p).state = 1 ∨ (s.port p).state = 2 ∨ (s.port p).state = 3)) :=
  ⟨withPort 31 { state := 3 }, 31, by decide +kernel⟩

theorem witness_PortsTrainAndFail_4 :
    ∃ (s : State) (n : Nat) (v : W64), (s.hostUp = true) ∧ (s.linksLive = true) ∧ (n < 32) ∧ (v.getLsbD 0 = true) ∧ ((s.port n).quarantined = false) :=
  ⟨dev, 31, 1, by decide +kernel⟩

theorem witness_PortsTrainAndFail_5 :
    ∃ (s : State) (n : Nat) (v : W64), (s.hostUp = true) ∧ (n < 32) ∧ (v.getLsbD 0 = false) :=
  ⟨withPort 31 { state := 3 }, 31, 2, by decide +kernel⟩

theorem witness_PortsTrainAndFail_6 :
    ∃ (s : State) (lanes : Nat), (s.hostUp = true) ∧ ((lanes = 4 ∨ lanes = 8 ∨ lanes = 16)) :=
  ⟨dev, 16, by decide +kernel⟩

theorem witness_HopAnswers_0 :
    ∃ (s : State) (p : Nat) (lseq : Nat), (s.linksLive = true) ∧ (((s.port p).state = 2 ∨ (s.port p).state = 3)) ∧ ((∃ k ∈ (s.port p).replayBuf, k.fr.lseq = lseq)) :=
  ⟨withPort 31 { state := 3, replayBuf := [{ ty := 7, fr := { lseq := 9 } }] }, 31, 9, by decide +kernel⟩

theorem witness_HopAnswers_1 :
    ∃ (s : State) (p : Nat) (lseq : Nat), (s.linksLive = true) ∧ (((s.port p).state = 2 ∨ (s.port p).state = 3)) ∧ ((∃ k ∈ (s.port p).replayBuf, k.fr.lseq = lseq)) ∧ ((s.port p).spent lseq = false) :=
  ⟨withPort 31 { state := 3, replayBuf := [{ ty := 7, fr := { lseq := 9 } }] }, 31, 9, by decide +kernel⟩

theorem witness_HopAnswers_2 :
    ∃ (s : State) (p : Nat) (lseq : Nat), (s.linksLive = true) ∧ (p < 32) ∧ (((s.port p).state = 2 ∨ (s.port p).state = 3)) ∧ ((∃ k ∈ (s.port p).replayBuf, k.fr.lseq = lseq ∧ k.again = true ∧ 7 ≤ k.failed)) :=
  ⟨withPort 31 { state := 3, replayBuf := [{ ty := 7, fr := { lseq := 9 }, again := true, failed := 7 }] }, 31, 9, by decide +kernel⟩

theorem witness_HopAnswers_3 :
    ∃ (s : State) (p : Nat) (lseq : Nat), (s.linksLive = true) ∧ ((∀ k ∈ (s.port p).replayBuf, k.fr.lseq ≠ lseq)) :=
  ⟨withPort 31 { state := 3, replayBuf := [{ ty := 7, fr := { lseq := 9 } }] }, 31, 8, by decide +kernel⟩

theorem witness_HopAnswers_4 :
    ∃ (s : State) (p : Nat) (a : Nat) (b : Nat) (c : Nat) (d : Nat) (w : Nat) (x : Nat) (y : Nat) (z : Nat), (s.linksLive = true) ∧ (((s.port p).state = 2 ∨ (s.port p).state = 3)) ∧ (s.lnk.unacked = []) ∧ ((s.port p).waiting = []) ∧ ((s.port p).owing = false) ∧ ((s.port p).replayBuf.length < 256) ∧ (a < 65536) ∧ (b < 65536) ∧ (c < 65536) ∧ (d < 65536) ∧ ((s.port p).credits = [w, x, y, z]) ∧ (1 ≤ w + a) :=
  ⟨withPort 31 { state := 3, credits := [1, 2, 3, 4] }, 31, 65535, 65535, 65535, 65535, 1, 2, 3, 4, by decide +kernel⟩

theorem witness_HopAnswers_5 :
    ∃ (s : State) (p : Nat) (a : Nat) (w : Nat) (x : Nat) (y : Nat) (z : Nat) (ty : Nat) (f : Frame), (s.linksLive = true) ∧ (((s.port p).state = 2 ∨ (s.port p).state = 3)) ∧ (s.lnk.unacked = []) ∧ ((s.port p).waiting = [(ty, f)]) ∧ ((s.port p).owing = false) ∧ ((s.port p).replayBuf.length < 256) ∧ (a < 65536) ∧ ((s.port p).credits = [w, x, y, z]) ∧ (laneOf ty = 0) ∧ (oneHop ty = true) ∧ (frameUnits f ≤ w + a) :=
  ⟨withPort 31 { state := 3, waiting := [(1, { payload := zeros 16 })] }, 31, 1, 0, 0, 0, 0, 1, { payload := zeros 16 }, by decide +kernel⟩

theorem witness_HopAnswers_6 :
    ∃ (s : State) (p : Nat), (s.linksLive = true) ∧ (((s.port p).state = 2 ∨ (s.port p).state = 3)) :=
  ⟨withPort 31 { state := 3 }, 31, by decide +kernel⟩

theorem witness_HopAnswers_7 :
    ∃ (s : State) (p : Nat) (ty : Nat), (s.linksLive = true) ∧ ((s.port p).state = 3) ∧ (ty ∉ frameTypes) :=
  ⟨withPort 31 { state := 3 }, 31, 0x34, by decide +kernel⟩

theorem witness_AcksAndResends_0 :
    ∃ (s : State) (u : State) (fr : Frame), (s.Hears 0x07 fr u) ∧ ((∃ k ∈ u.lnk.unacked, ackCovers fr k = true)) :=
  ⟨withLnk (fun l => { l with unacked := [{ ty := 0x10, fr := { dst := 9 }, plane := 33, cmd := 4 }] }), heard (withLnk (fun l => { l with unacked := [{ ty := 0x10, fr := { dst := 9 }, plane := 33, cmd := 4 }] })) 0x07 { frm with payload := (leBytes 8 1).reverse }, { frm with payload := (leBytes 8 1).reverse }, ⟨by decide +kernel, by decide +kernel, rfl⟩, by decide +kernel⟩

theorem witness_AcksAndResends_1 :
    ∃ (s : State) (u : State) (fr : Frame), (s.Hears 0x07 fr u) ∧ ((∀ k ∈ u.lnk.unacked, ackCovers fr k = false)) :=
  ⟨dev, heard dev 0x07 frm, frm, ⟨by decide +kernel, by decide +kernel, rfl⟩, by decide +kernel⟩

theorem witness_AcksAndResends_2 :
    ∃ (s : State) (u : State) (fr : Frame) (k : Unacked), (s.Hears 0x08 fr u) ∧ (k ∈ u.lnk.unacked) ∧ (k.fr.dst = fr.src) ∧ (k.fr.tag = fr.tag) ∧ (k.fr.key = fr.key) :=
  ⟨withLnk (fun l => { l with unacked := [{ ty := 0x10, fr := { dst := 9 }, plane := 33, cmd := 4 }] }), heard (withLnk (fun l => { l with unacked := [{ ty := 0x10, fr := { dst := 9 }, plane := 33, cmd := 4 }] })) 0x08 frm, frm, { ty := 0x10, fr := { dst := 9 }, plane := 33, cmd := 4 }, ⟨by decide +kernel, by decide +kernel, rfl⟩, by decide +kernel⟩

theorem witness_AcksAndResends_3 :
    ∃ (s : State) (u : State) (fr : Frame), (s.Hears 0x08 fr u) ∧ ((∀ k ∈ u.lnk.unacked, ¬ (k.fr.dst = fr.src ∧ k.fr.tag = fr.tag ∧ k.fr.key = fr.key))) :=
  ⟨dev, heard dev 0x08 frm, frm, ⟨by decide +kernel, by decide +kernel, rfl⟩, by decide +kernel⟩

theorem witness_AcksAndResends_4 :
    ∃ (s : State) (u : State) (fr : Frame) (k : Unacked) (x : Cmd), (s.Hears 0x08 fr u) ∧ (u.lnk.unacked = [k]) ∧ (k.fr.dst = fr.src) ∧ (k.fr.tag = fr.tag) ∧ (k.fr.key = fr.key) ∧ (k.fr.off = fr.off &&& ~~~(1#64 <<< 63)) ∧ (u.cmds = [x]) ∧ (x.id = k.cmd) ∧ (x.live = true) :=
  ⟨{ withLnk (fun l => { l with unacked := [{ ty := 0x12, fr := { dst := 9, key := 0xFF000000 }, plane := 33, cmd := 4 }] }) with cmds := [{ id := 4, op := .permute { plan := {}, cursor := {}, fromEpoch := 0, toEpoch := 0, group := 0, bind := 0 } }] }, heard { withLnk (fun l => { l with unacked := [{ ty := 0x12, fr := { dst := 9, key := 0xFF000000 }, plane := 33, cmd := 4 }] }) with cmds := [{ id := 4, op := .permute { plan := {}, cursor := {}, fromEpoch := 0, toEpoch := 0, group := 0, bind := 0 } }] } 0x08 { frm with key := 0xFF000000, off := 0x8000000000000000 }, { frm with key := 0xFF000000, off := 0x8000000000000000 }, { ty := 0x12, fr := { dst := 9, key := 0xFF000000 }, plane := 33, cmd := 4 }, { id := 4, op := .permute { plan := {}, cursor := {}, fromEpoch := 0, toEpoch := 0, group := 0, bind := 0 } }, ⟨by decide +kernel, by decide +kernel, rfl⟩, by decide +kernel⟩

theorem witness_AcksAndResends_5 :
    ∃ (s : State) (ix : Nat) (k : Unacked), (s.linksLive = true) ∧ (s.lnk.unacked[ix]? = some k) ∧ (k.plane = 33) ∧ (s.fenced = false) :=
  ⟨withLnk (fun l => { l with unacked := [{ ty := 0x12, fr := { dst := 5 }, plane := 33, cmd := 4 }] }), 0, { ty := 0x12, fr := { dst := 5 }, plane := 33, cmd := 4 }, by decide +kernel⟩

theorem witness_AcksAndResends_6 :
    ∃ (s : State) (ix : Nat) (p : Nat) (k : Unacked), (s.linksLive = true) ∧ (s.lnk.unacked[ix]? = some k) ∧ (k.plane < 32) ∧ (s.fenced = false) ∧ (laneOf k.ty ≠ 0) ∧ (planeAfter (s.planes k.fr.dst) k.plane = some p) ∧ (s.canPut p k.ty k.fr = true) :=
  ⟨withLnk (fun l => { l with up := 3, ports := [(1, { state := 3, credits := [16, 16, 16, 16] })], unacked := [{ ty := 0x10, fr := { dst := 9 }, plane := 0, cmd := 4 }] }), 0, 1, { ty := 0x10, fr := { dst := 9 }, plane := 0, cmd := 4 }, by decide +kernel⟩

theorem witness_AcksAndResends_7 :
    ∃ (s : State) (ix : Nat) (p : Nat) (k : Unacked), (s.linksLive = true) ∧ (s.lnk.unacked[ix]? = some k) ∧ (k.plane = 32) ∧ (k.primary = some p) ∧ (s.fenced = false) ∧ (laneOf k.ty ≠ 0) ∧ (p ∈ s.planes k.fr.dst) ∧ (s.canPut p k.ty k.fr = true) :=
  ⟨withLnk (fun l => { l with up := 3, ports := [(1, { state := 3, credits := [16, 16, 16, 16] })], unacked := [{ ty := 0x10, fr := { dst := 9 }, plane := 32, cmd := 4, primary := some 1 }] }), 0, 1, { ty := 0x10, fr := { dst := 9 }, plane := 32, cmd := 4, primary := some 1 }, by decide +kernel⟩

theorem witness_AcksAndResends_8 :
    ∃ (s : State) (ix : Nat) (k : Unacked), (s.linksLive = true) ∧ (s.lnk.unacked[ix]? = some k) ∧ (k.plane ≠ 33) ∧ (s.fenced = false) ∧ (s.nextPlane k = none) :=
  ⟨withLnk (fun l => { l with ports := [(1, { state := 3, credits := [16, 16, 16, 16] })], unacked := [{ ty := 0x10, fr := { dst := 9 }, plane := 32, cmd := 4, primary := some 1 }] }), 0, { ty := 0x10, fr := { dst := 9 }, plane := 32, cmd := 4, primary := some 1 }, by decide +kernel⟩

theorem witness_AcksAndResends_9 :
    ∃ (s : State) (ix : Nat) (k : Unacked), (s.linksLive = true) ∧ (s.lnk.unacked[ix]? = some k) ∧ (((s.fenced = true ∧ 6 < k.ty) ∨ (k.plane ≠ 33 ∧ ∃ p, s.nextPlane k = some p ∧ s.canPut p k.ty k.fr = false))) :=
  ⟨withLnk (fun l => { l with up := 3, ports := [(1, { state := 3 })], unacked := [{ ty := 0x10, fr := { dst := 9 }, plane := 32, cmd := 4, primary := some 1 }] }), 0, { ty := 0x10, fr := { dst := 9 }, plane := 32, cmd := 4, primary := some 1 }, by decide +kernel, by decide +kernel, .inr ⟨by decide +kernel, 1, by decide +kernel, by decide +kernel⟩⟩

theorem witness_AcksAndResends_10 :
    ∃ (s : State) (ix : Nat), (s.linksLive = true) ∧ (s.lnk.unacked.length ≤ ix) :=
  ⟨dev, 0, by decide +kernel⟩

theorem witness_CollectiveFrames_0 :
    ∃ (s : State) (u : State) (fr : Frame) (x : Cmd) (pos : Nat), (s.Hears 0x10 fr u) ∧ (u.collMatch fr = some x) ∧ (x.coll.started = true) ∧ (x.coll.grp.posOf fr = some pos) ∧ ((geoOf x.op).kind ≠ 4) ∧ (((geoOf x.op).kind ≠ 1 ∨ 2 ≤ fr.key.toNat / 2 ^ 14 % 4)) :=
  ⟨{ dev with cmds := [gatherCmd true] }, heard { dev with cmds := [gatherCmd true] } 0x10 { frm with payload := [1] }, { frm with payload := [1] }, gatherCmd true, 0, ⟨by decide +kernel, by decide +kernel, rfl⟩, by decide +kernel⟩

theorem witness_CollectiveFrames_1 :
    ∃ (s : State) (u : State) (fr : Frame) (x : Cmd) (pos : Nat), (s.Hears 0x10 fr u) ∧ (u.collMatch fr = some x) ∧ (x.coll.started = true) ∧ (x.coll.grp.posOf fr = some pos) ∧ ((geoOf x.op).kind = 4) ∧ ((∀ q ∈ x.coll.got, ¬ (q.1 = fr.key.toNat / 2 ^ 14 % 4 * 16384 + fr.key.toNat % 2 ^ 14 ∧ q.2.1 = pos ∧ q.2.2.1 = fr.off.toNat))) :=
  ⟨{ dev with cmds := [{ id := 4, ctx := 1, strm := 5, op := .normreduce { result := {}, clip := 0, tag := 0, layoutEpoch := 0, group := 0, regions := [] }, phase := .issued, coll := { grp := grpA, started := true } }] }, heard { dev with cmds := [{ id := 4, ctx := 1, strm := 5, op := .normreduce { result := {}, clip := 0, tag := 0, layoutEpoch := 0, group := 0, regions := [] }, phase := .issued, coll := { grp := grpA, started := true } }] } 0x10 { frm with payload := [1, 2, 3, 4, 5] }, { frm with payload := [1, 2, 3, 4, 5] }, { id := 4, ctx := 1, strm := 5, op := .normreduce { result := {}, clip := 0, tag := 0, layoutEpoch := 0, group := 0, regions := [] }, phase := .issued, coll := { grp := grpA, started := true } }, 0, ⟨by decide +kernel, by decide +kernel, rfl⟩, by decide +kernel⟩

theorem witness_CollectiveFrames_2 :
    ∃ (s : State) (u : State) (fr : Frame) (x : Cmd) (pos : Nat), (s.Hears 0x10 fr u) ∧ (u.collMatch fr = some x) ∧ (x.coll.started = true) ∧ (x.coll.grp.posOf fr = some pos) ∧ ((geoOf x.op).kind = 1) ∧ (fr.key.toNat / 2 ^ 14 % 4 < 2) ∧ (u.cmds = [x]) ∧ (x.coll.part = []) ∧ (fr.payload.length = (geoOf x.op).fmt.size) ∧ (fr.off.toNat % (geoOf x.op).fmt.size = 0) ∧ ((∀ q ∈ x.coll.got, ¬ (q.1 = fr.key.toNat / 2 ^ 14 % 4 * 16384 + fr.key.toNat % 2 ^ 14 ∧ q.2.1 = pos ∧ q.2.2.1 = fr.off.toNat))) :=
  ⟨{ dev with cmds := [{ id := 4, ctx := 1, strm := 5, op := .reduce { src := {}, dst := {}, length := 128, layoutEpoch := 0, group := 0, fmt := 3 }, phase := .issued, coll := { grp := grpA, started := true, piece := 64 } }] }, heard { dev with cmds := [{ id := 4, ctx := 1, strm := 5, op := .reduce { src := {}, dst := {}, length := 128, layoutEpoch := 0, group := 0, fmt := 3 }, phase := .issued, coll := { grp := grpA, started := true, piece := 64 } }] } 0x10 { frm with off := 5, payload := [1, 2, 3, 4, 5] }, { frm with off := 5, payload := [1, 2, 3, 4, 5] }, { id := 4, ctx := 1, strm := 5, op := .reduce { src := {}, dst := {}, length := 128, layoutEpoch := 0, group := 0, fmt := 3 }, phase := .issued, coll := { grp := grpA, started := true, piece := 64 } }, 0, ⟨by decide +kernel, by decide +kernel, rfl⟩, by decide +kernel⟩

theorem witness_CollectiveFrames_3 :
    ∃ (s : State) (u : State) (fr : Frame), (s.Hears 0x10 fr u) ∧ ((∀ x, u.collMatch fr = some x → x.coll.started = false)) :=
  ⟨dev, heard dev 0x10 frm, frm, ⟨by decide +kernel, by decide +kernel, rfl⟩, noColl⟩

theorem witness_CollectiveFrames_4 :
    ∃ (s : State) (u : State) (fr : Frame), (s.Hears 0x11 fr u) :=
  ⟨{ dev with cmds := [gatherCmd true] }, heard { dev with cmds := [gatherCmd true] } 0x11 frm, frm, ⟨by decide +kernel, by decide +kernel, rfl⟩⟩

theorem witness_CollectiveFrames_5 :
    ∃ (s : State) (u : State) (fr : Frame) (x : Cmd) (p : PermP) (pos : Nat), (s.Hears 0x12 fr u) ∧ (u.permMatch fr = some (x, p, pos)) :=
  ⟨{ dev with cmds := [permCmd] }, heard { dev with cmds := [permCmd] } 0x12 { frm with key := 0x1000000, payload := zeros 64 }, { frm with key := 0x1000000, payload := zeros 64 }, permCmd, permP, 0, ⟨by decide +kernel, by decide +kernel, rfl⟩, by decide +kernel⟩

theorem witness_CollectiveFrames_6 :
    ∃ (s : State) (u : State) (fr : Frame) (x : Cmd) (p : PermP) (pos : Nat), (s.Hears 0x13 fr u) ∧ (u.permMatch fr = some (x, p, pos)) :=
  ⟨{ dev with cmds := [permCmd] }, heard { dev with cmds := [permCmd] } 0x13 { frm with off := 4096 }, { frm with off := 4096 }, permCmd, permP, 0, ⟨by decide +kernel, by decide +kernel, rfl⟩, by decide +kernel⟩

theorem witness_CollectiveFrames_7 :
    ∃ (u : State) (fr : Frame), (u.permMatch fr = none) :=
  ⟨dev, frm, by decide +kernel⟩

theorem witness_ChannelFrames_0 :
    ∃ (s : State) (u : State) (fr : Frame) (b : Nat) (k : Nat), (s.Hears 0x20 fr u) ∧ (u.recvChan fr = some (b, k)) ∧ ((u.chan b k).ent.epoch = fr.key.toNat / 2 ^ 32 % 2 ^ 32) ∧ (fr.payload.length = 64) ∧ ((u.chan b k).fits fr.off.toNat = true) ∧ ((∀ a ∈ (u.chan b k).areas, (fr.again = true → a.complete = true) → Tab.find a.staged fr.off.toNat = none)) :=
  ⟨chanDev 2, heard (chanDev 2) 0x20 { frm with tag := 2, payload := zeros 64, again := true }, { frm with tag := 2, payload := zeros 64, again := true }, 0, 66, ⟨by decide +kernel, by decide +kernel, rfl⟩, by decide +kernel⟩

theorem witness_ChannelFrames_1 :
    ∃ (c : Chan) (i : Nat) (a : Area), (c.areas[i]? = some a) ∧ (a.complete = false) :=
  ⟨{ areas := [{ addr := 0, units := 1, base := 0, staged := [(0, zeros 64)] }] }, 0, { addr := 0, units := 1, base := 0, staged := [(0, zeros 64)] }, by decide +kernel⟩

theorem witness_ChannelFrames_2 :
    ∃ (c : Chan) (n : Nat) (l : List Byte) (a : Area), (a ∈ (c.put (n, l)).areas) ∧ (a.complete = false) ∧ (a.base ≤ n) ∧ (n < a.base + a.units) :=
  ⟨{ areas := [{ addr := 0, units := 1, base := 0 }] }, 0, zeros 64, { addr := 0, units := 1, base := 0, staged := [(0, zeros 64)] }, by decide +kernel⟩

theorem witness_ChannelFrames_3 :
    ∃ (s : State) (u : State) (fr : Frame) (b : Nat) (k : Nat), (s.Hears 0x21 fr u) ∧ (u.recvChan fr = some (b, k)) ∧ ((u.chan b k).ent.epoch = fr.key.toNat / 2 ^ 32 % 2 ^ 32) :=
  ⟨chanDev 2, heard (chanDev 2) 0x21 { frm with tag := 2, off := 1 }, { frm with tag := 2, off := 1 }, 0, 66, ⟨by decide +kernel, by decide +kernel, rfl⟩, by decide +kernel⟩

theorem witness_ChannelFrames_4 :
    ∃ (c : Chan) (i : Nat) (a : Area), (c.areas[i]? = some a) :=
  ⟨{ areas := [{ addr := 0, units := 1, base := 0 }] }, 0, { addr := 0, units := 1, base := 0 }, by decide +kernel⟩

theorem witness_ChannelFrames_5 :
    ∃ (s : State) (u : State) (fr : Frame) (b : Nat) (k : Nat) (c : Chan), (s.Hears 0x22 fr u) ∧ (k = fr.dstCtx * 64 + fr.tag.toNat % 64) ∧ ((u.part (u.ctxPart fr.dstCtx)).blockAt (fr.key.toNat % 2 ^ 16) = some b) ∧ ((u.ctx fr.dstCtx).state = 1) ∧ (Tab.find (u.block b).chans k = some c) ∧ (c.ent.dir = 1) ∧ (c.ent.peerDev = fr.src) ∧ (c.ent.peerCtx = fr.srcCtx) ∧ (c.ent.pairOf (fr.key.toNat % 2 ^ 16) = some (fr.key.toNat / 2 ^ 16 % 2 ^ 16)) ∧ (c.ent.epoch = fr.key.toNat / 2 ^ 32 % 2 ^ 32) :=
  ⟨chanDev 1, heard (chanDev 1) 0x22 { frm with tag := 2, off := 8 }, { frm with tag := 2, off := 8 }, 0, 66, { ent := { dir := 1, peerCtx := 1, peerDev := 9, peerChan := 2, count := 1 }, areas := [{ addr := 0, units := 1, base := 0 }] }, ⟨by decide +kernel, by decide +kernel, rfl⟩, by decide +kernel⟩

theorem witness_ChannelFrames_6 :
    ∃ (s : State) (u : State) (fr : Frame), (s.Hears 0x22 fr u) ∧ ((u.part (u.ctxPart fr.dstCtx)).blockAt (fr.key.toNat % 2 ^ 16) = none) :=
  ⟨dev, heard dev 0x22 { frm with key := 4 }, { frm with key := 4 }, ⟨by decide +kernel, by decide +kernel, rfl⟩, by decide +kernel⟩

theorem witness_ChannelFrames_7 :
    ∃ (u : State) (fr : Frame), (u.recvChan fr = none) :=
  ⟨heard dev 0x20 frm, frm, by decide +kernel⟩

theorem witness_ChannelFrames_8 :
    ∃ (u : State) (fr : Frame) (b : Nat) (k : Nat), (u.recvChan fr = some (b, k)) ∧ ((u.chan b k).ent.epoch ≠ fr.key.toNat / 2 ^ 32 % 2 ^ 32) :=
  ⟨heard (chanDev 2) 0x20 { frm with tag := 2, key := 0x100000000 }, { frm with tag := 2, key := 0x100000000 }, 0, 66, by decide +kernel⟩

theorem witness_PassTryPlaces_0 :
    ∃ (s : State) (u : State) (fr : Frame) (a : PassArgs) (x : SlotSt) (k : SlotBuf) (p : Nat), (s.Hears 0x30 fr u) ∧ (Tab.find (u.part a.pt).slots a.slot = some x) ∧ (x.d.enabled = true) ∧ (u.passCurrent fr a (u.slotDie a.pt a.slot) = true) ∧ (Tab.find x.bufs (a.batch.toNat % Nat.max 1 x.d.nbuf) = some k) ∧ (k.batch = a.batch) ∧ ((k.phase a.phase).isSealed = false) ∧ (x.released a.batch = false) ∧ (k.resv.find? (fun r => r.sameKey fr a) = none) ∧ (p < x.d.cap) ∧ ((∀ r ∈ k.resv, r.pos ≠ p)) ∧ ((∀ q, q < p → ∃ r ∈ k.resv, r.pos = q)) :=
  ⟨slotDev (slotA [resvA 0 9]), heard (slotDev (slotA [resvA 0 9])) 0x30 frm, frm, passA, slotA [resvA 0 9], { batch := 4, resv := [resvA 0 9] }, 1, ⟨by decide +kernel, by decide +kernel, rfl⟩, by decide +kernel⟩

theorem witness_PassTryPlaces_1 :
    ∃ (s : State) (u : State) (fr : Frame) (a : PassArgs) (x : SlotSt) (k : SlotBuf) (r : Resv), (s.Hears 0x30 fr u) ∧ (Tab.find (u.part a.pt).slots a.slot = some x) ∧ (x.d.enabled = true) ∧ (u.passCurrent fr a (u.slotDie a.pt a.slot) = true) ∧ (Tab.find x.bufs (a.batch.toNat % Nat.max 1 x.d.nbuf) = some k) ∧ (k.batch = a.batch) ∧ ((k.phase a.phase).isSealed = false) ∧ (x.released a.batch = false) ∧ (k.resv.find? (fun r => r.sameKey fr a) = some r) :=
  ⟨slotDev (slotA [resvA 1 0]), heard (slotDev (slotA [resvA 1 0])) 0x30 frm, frm, passA, slotA [resvA 1 0], { batch := 4, resv := [resvA 1 0] }, resvA 1 0, ⟨by decide +kernel, by decide +kernel, rfl⟩, by decide +kernel⟩

theorem witness_PassTryPlaces_2 :
    ∃ (s : State) (u : State) (fr : Frame) (a : PassArgs) (x : SlotSt), (s.Hears 0x30 fr u) ∧ (Tab.find (u.part a.pt).slots a.slot = some x) ∧ (x.d.enabled = true) ∧ (u.passCurrent fr a (u.slotDie a.pt a.slot) = true) ∧ (Tab.find x.bufs (a.batch.toNat % Nat.max 1 x.d.nbuf) = none) ∧ (x.released a.batch = false) ∧ (0 < x.d.cap) :=
  ⟨slotDev { slotA [] with bufs := [] }, heard (slotDev { slotA [] with bufs := [] }) 0x30 frm, frm, passA, { slotA [] with bufs := [] }, ⟨by decide +kernel, by decide +kernel, rfl⟩, by decide +kernel⟩

theorem witness_PassTryPlaces_3 :
    ∃ (s : State) (u : State) (fr : Frame) (a : PassArgs) (x : SlotSt) (k : SlotBuf), (s.Hears 0x30 fr u) ∧ (Tab.find (u.part a.pt).slots a.slot = some x) ∧ (x.d.enabled = true) ∧ (u.passCurrent fr a (u.slotDie a.pt a.slot) = true) ∧ (Tab.find x.bufs (a.batch.toNat % Nat.max 1 x.d.nbuf) = some k) ∧ (k.batch = a.batch) ∧ ((k.phase a.phase).isSealed = false) ∧ (x.released a.batch = false) ∧ (k.resv.find? (fun r => r.sameKey fr a) = none) ∧ ((∀ q, q < x.d.cap → ∃ r ∈ k.resv, r.pos = q)) :=
  ⟨slotDev (slotA [resvA 0 9, resvA 1 8]), heard (slotDev (slotA [resvA 0 9, resvA 1 8])) 0x30 frm, frm, passA, slotA [resvA 0 9, resvA 1 8], { batch := 4, resv := [resvA 0 9, resvA 1 8] }, ⟨by decide +kernel, by decide +kernel, rfl⟩, by decide +kernel⟩

theorem witness_PassTryPlaces_4 :
    ∃ (s : State) (u : State) (fr : Frame) (a : PassArgs) (x : SlotSt) (k : SlotBuf), (s.Hears 0x30 fr u) ∧ (Tab.find (u.part a.pt).slots a.slot = some x) ∧ (x.d.enabled = true) ∧ (u.passCurrent fr a (u.slotDie a.pt a.slot) = true) ∧ (Tab.find x.bufs (a.batch.toNat % Nat.max 1 x.d.nbuf) = some k) ∧ ((k.batch ≠ a.batch ∨ (k.phase a.phase).isSealed = true ∨ x.released a.batch = true)) :=
  ⟨slotDev { slotA [] with past := [(0, 4)] }, heard (slotDev { slotA [] with past := [(0, 4)] }) 0x30 frm, frm, passA, { slotA [] with past := [(0, 4)] }, { batch := 4 }, ⟨by decide +kernel, by decide +kernel, rfl⟩, by decide +kernel⟩

theorem witness_PassTryPlaces_5 :
    ∃ (s : State) (u : State) (fr : Frame) (a : PassArgs), (s.Hears 0x30 fr u) ∧ ((∀ x, Tab.find (u.part a.pt).slots a.slot = some x → x.d.enabled = false)) :=
  ⟨dev, heard dev 0x30 frm, frm, passA, ⟨by decide +kernel, by decide +kernel, rfl⟩, noSlot⟩

theorem witness_PassTryPlaces_6 :
    ∃ (s : State) (u : State) (fr : Frame) (a : PassArgs) (x : SlotSt) (y : Cmd), (s.Hears 0x30 fr u) ∧ (Tab.find (u.part a.pt).slots a.slot = some x) ∧ (x.d.enabled = true) ∧ (u.passCurrent fr a (u.slotDie a.pt a.slot) = false) ∧ (u.cmds = [y]) ∧ (y.ctx = fr.srcCtx) ∧ (y.phase = .issued) ∧ (y.shielded = false) ∧ (y.tried a = true) :=
  ⟨{ slotDev (slotA []) with cmds := [tokCmd] }, heard { slotDev (slotA []) with cmds := [tokCmd] } 0x30 frm, frm, { passA with cmd := 4, epoch := 9 }, slotA [], tokCmd, ⟨by decide +kernel, by decide +kernel, rfl⟩, by decide +kernel⟩

theorem witness_PassAnswers_0 :
    ∃ (s : State) (u : State) (fr : Frame) (a : PassArgs), (s.Hears 0x31 fr u) ∧ (older16 a.gen (u.ctx fr.dstCtx).gen = true) :=
  ⟨dev, heard dev 0x31 frm, frm, { passA with gen := 2 }, ⟨by decide +kernel, by decide +kernel, rfl⟩, by decide +kernel⟩

theorem witness_PassAnswers_1 :
    ∃ (s : State) (u : State) (fr : Frame) (a : PassArgs) (x : Cmd) (k : Tok), (s.Hears 0x31 fr u) ∧ (older16 a.gen (u.ctx fr.dstCtx).gen = false) ∧ (u.cmds = [x]) ∧ (x.ctx = fr.dstCtx) ∧ (x.phase = .issued) ∧ (x.toks = [k]) ∧ (x.id = a.cmd) ∧ (k.table = a.table) ∧ (k.batch = a.batch) ∧ (k.token = a.token) ∧ (k.nth = a.nth) ∧ (k.waiting = [a.entry, a.entry + 1]) ∧ (u.passCurrent fr a (u.sendDie x k.origin) = true) :=
  ⟨{ dev with cmds := [tokCmd] }, heard { dev with cmds := [tokCmd] } 0x31 frm, frm, { passA with gen := 3, cmd := 4 }, tokCmd, { table := 0, batch := 4, token := 0, ents := [{}, {}], waiting := [0, 1] }, ⟨by decide +kernel, by decide +kernel, rfl⟩, by decide +kernel⟩

theorem witness_PassAnswers_2 :
    ∃ (s : State) (u : State) (fr : Frame) (a : PassArgs), (s.Hears 0x31 fr u) ∧ (older16 a.gen (u.ctx fr.dstCtx).gen = false) ∧ ((∀ x ∈ u.cmds, x.ctx = fr.dstCtx → x.live = false)) :=
  ⟨dev, heard dev 0x31 frm, frm, { passA with gen := 3 }, ⟨by decide +kernel, by decide +kernel, rfl⟩, by decide +kernel⟩

theorem witness_PassAnswers_3 :
    ∃ (k : Tok) (i : Nat) (e : RouteEnt), (k.ents[i]? = some e) :=
  ⟨{ ents := [{}, {}], waiting := [0, 1] }, 0, {}, by decide +kernel⟩

theorem witness_PassAnswers_4 :
    ∃ (s : State) (u : State) (fr : Frame) (a : PassArgs) (kind : Nat) (x : SlotSt) (k : SlotBuf), (s.Hears 0x32 fr u) ∧ (kind ≤ 1) ∧ (Tab.find (u.part a.pt).slots a.slot = some x) ∧ (x.d.enabled = true) ∧ (Tab.find x.bufs (a.batch.toNat % Nat.max 1 x.d.nbuf) = some k) ∧ (k.batch = a.batch) ∧ (u.passCurrent fr a (u.homeDie a.pt x) = true) :=
  ⟨slotDev (slotA [resvA 1 0]), heard (slotDev (slotA [resvA 1 0])) 0x32 frm, frm, passA, 0, slotA [resvA 1 0], { batch := 4, resv := [resvA 1 0] }, ⟨by decide +kernel, by decide +kernel, rfl⟩, by decide +kernel⟩

theorem witness_PassAnswers_5 :
    ∃ (s : State) (u : State) (fr : Frame) (a : PassArgs) (kind : Nat), (s.Hears 0x32 fr u) ∧ (((kind ≤ 1 ∧ Tab.find (u.part a.pt).slots a.slot = none) ∨ (1 < kind ∧ (Tab.get {} (u.part a.opt).tabs a.table).batch a.batch = none))) :=
  ⟨dev, heard dev 0x32 frm, frm, passA, 2, ⟨by decide +kernel, by decide +kernel, rfl⟩, .inr ⟨by decide +kernel, by decide +kernel⟩⟩

theorem witness_PassAnswers_7 :
    ∃ (a : PassArgs), (a.phase = 0) :=
  ⟨passA, by decide +kernel⟩

theorem witness_PassAnswers_8 :
    ∃ (s : State) (u : State) (fr : Frame) (a : PassArgs) (kind : Nat) (b : BatchSt), (s.Hears 0x32 fr u) ∧ (1 < kind) ∧ ((Tab.get {} (u.part a.opt).tabs a.table).batch a.batch = some b) ∧ ((if kind = 3 then b.lost else (if a.phase = 0 then b.retF else b.retB).contains (fr.src * 1024 + a.pt * 64 + a.slot)) = false) :=
  ⟨{ dev with parts := [(0, { partA (prog [] []) with tabs := [(0, { batches := [{ b := 4 }] })] })] }, heard { dev with parts := [(0, { partA (prog [] []) with tabs := [(0, { batches := [{ b := 4 }] })] })] } 0x32 frm, frm, passA, 3, { b := 4 }, ⟨by decide +kernel, by decide +kernel, rfl⟩, by decide +kernel⟩

theorem witness_PassAnswers_9 :
    ∃ (s : State) (u : State) (fr : Frame) (a : PassArgs) (pos : Nat) (x : SlotSt) (k : SlotBuf), (s.Hears 0x33 fr u) ∧ (a.pull = false) ∧ (Tab.find (u.part a.pt).slots a.slot = some x) ∧ (x.buf a.batch = some k) ∧ (u.passCurrent fr a (u.homeDie a.pt x) = true) ∧ (x.d.backward = true) ∧ (k.bwd.isSealed = false) ∧ (pos < x.d.cap) :=
  ⟨slotDev (slotA [resvA 1 0]), heard (slotDev (slotA [resvA 1 0])) 0x33 { frm with payload := [1] }, { frm with payload := [1] }, passA, 1, slotA [resvA 1 0], { batch := 4, resv := [resvA 1 0] }, ⟨by decide +kernel, by decide +kernel, rfl⟩, by decide +kernel⟩

theorem witness_PassAnswers_10 :
    ∃ (s : State) (u : State) (fr : Frame) (a : PassArgs) (x : SlotSt), (s.Hears 0x33 fr u) ∧ (a.pull = true) ∧ (fr.payload = []) ∧ (Tab.find (u.part a.pt).slots a.slot = some x) :=
  ⟨slotDev (slotA [resvA 1 0]), heard (slotDev (slotA [resvA 1 0])) 0x33 frm, frm, { passA with pull := true }, slotA [resvA 1 0], ⟨by decide +kernel, by decide +kernel, rfl⟩, by decide +kernel⟩

theorem witness_PassAnswers_11 :
    ∃ (s : State) (u : State) (fr : Frame) (a : PassArgs), (s.Hears 0x33 fr u) ∧ (a.pull = true) ∧ (fr.payload ≠ []) ∧ (older16 a.gen (u.ctx fr.dstCtx).gen = false) ∧ ((∀ x ∈ u.cmds, x.pulling fr.dstCtx a = none)) :=
  ⟨dev, heard dev 0x33 { frm with payload := [1] }, { frm with payload := [1] }, { passA with gen := 3, pull := true }, ⟨by decide +kernel, by decide +kernel, rfl⟩, by decide +kernel⟩

theorem witness_PeersAndDiscovery_0 :
    ∃ (s : State) (p : Nat) (fr : Frame), (s.linksLive = true) ∧ (p < 32) ∧ ((s.port p).state = 2) ∧ ((s.port p).rejoin = false) ∧ (s.replyFails p fr = none) ∧ (s.lnk.unacked = []) ∧ (s.beat.srcAct = 2) :=
  ⟨{ withLnk (fun l => { l with addr := 32, ports := [(31, { state := 2 })] }) with beat := { dev.beat with srcAct := 2 } }, 31, { payload := [0, 0, 32, 0, 31], key := 100, tag := 100 }, by decide +kernel⟩

theorem witness_PeersAndDiscovery_1 :
    ∃ (s : State) (p : Nat) (k : Nat) (fr : Frame), (s.linksLive = true) ∧ (p < 32) ∧ (((s.port p).state = 2 ∨ (s.port p).state = 3)) ∧ (s.replyFails p fr = some k) :=
  ⟨withPort 31 { state := 3 }, 31, 2, { payload := [0, 0, 32, 0, 30] }, by decide +kernel⟩

theorem witness_PeersAndDiscovery_2 :
    ∃ (s : State) (p : Nat) (fr : Frame), (s.linksLive = true) ∧ ((s.port p).state = 3) ∧ (fr.dst = s.lnk.addr.toNat) ∧ (s.oldEpoch fr = false) :=
  ⟨{ withLnk (fun l => { l with ports := [(31, { state := 3 })], peers := [{ device := 9, epoch := some 4 }] }) with cmds := [gatherCmd true] }, 31, { frm with srcEpoch := 4, key := 5 }, by decide +kernel⟩

theorem witness_PeersAndDiscovery_3 :
    ∃ (s : State) (p : Nat) (fr : Frame), (s.linksLive = true) ∧ (((s.port p).state = 2 ∨ (s.port p).state = 3)) ∧ (s.oldEpoch fr = false) :=
  ⟨{ withLnk (fun l => { l with ports := [(31, { state := 2 })], peers := [{ device := 9, epoch := some 4 }] }) with cmds := [gatherCmd true] }, 31, { frm with srcEpoch := 4 }, by decide +kernel⟩

theorem witness_PeersAndDiscovery_4 :
    ∃ (s : State) (fr : Frame), (s.linksLive = true) ∧ (s.oldEpoch fr = true) :=
  ⟨{ withLnk (fun l => { l with ports := [(31, { state := 3 })], peers := [{ device := 9, epoch := some 4 }] }) with cmds := [gatherCmd true] }, { frm with srcEpoch := 3 }, by decide +kernel⟩

theorem witness_PacketsAccepted_0 :
    ∃ (i : Instr) (h : Hdr) (op : Op) (s : State) (g : Nat), (i.packet = some (h, op)) ∧ (s.openStream h.ctx h.stream = some g) ∧ (s.fetchable g = true) ∧ (s.packetWaits g h op = false) ∧ (s.packetFail g h op = none) :=
  ⟨.fence hdr, hdr, .fence, dev, 5, by decide +kernel⟩

theorem witness_PacketsAccepted_1 :
    ∃ (s : State) (g : Nat) (op : Op), (s.fetchable g = true) ∧ ((∀ p, op ≠ .streamOpen p)) :=
  ⟨dev, 5, .fence, by decide +kernel, by intro p h; nomatch h⟩

theorem witness_PacketsAccepted_2 :
    ∃ (op : Op), (((∃ p, op = .copy p) ∨ (∃ p, op = .fill p) ∨ op = .fence ∨ (∃ n v, op = .signalAdd n v) ∨ (∃ n v, op = .signalSet n v) ∨ (∃ n l v, op = .wait n l v) ∨ (∃ d c, op = .censusRead d c) ∨ (∃ p, op = .accountRead p) ∨ (∃ n, op = .streamClose n) ∨ op = .unload ∨ (∃ p, op = .routeOpen p) ∨ (∃ p, op = .routeDispatch p) ∨ (∃ p, op = .routeClose p) ∨ (∃ p, op = .combineForward p) ∨ op = .wsAbort)) :=
  ⟨.fence, .inr (.inr (.inl rfl))⟩

theorem witness_PacketsRefused_0 :
    ∃ (i : Instr) (h : Hdr) (op : Op) (s : State) (g : Nat) (f : Nat × Nat × Nat), (i.packet = some (h, op)) ∧ (s.openStream h.ctx h.stream = some g) ∧ (s.fetchable g = true) ∧ (s.packetWaits g h op = false) ∧ (s.packetFail g h op = some f) :=
  ⟨.fence { hdr with gen := 2 }, { hdr with gen := 2 }, .fence, dev, 5, (2, 0, 0), by decide +kernel⟩

theorem witness_PacketsRefused_1 :
    ∃ (s : State) (g : Nat) (f : Nat × Nat × Nat), (s.fetchable g = true) ∧ (f.1 ≠ 0x3A) :=
  ⟨dev, 5, (2, 0, 0), by decide +kernel⟩

theorem witness_PacketsRefused_2 :
    ∃ (s : State) (g : Nat) (b : Nat) (h : Hdr), (s.fetchable g = true) ∧ (packetOf (s.strm g).ctx (s.strm g).lstream (s.home (s.strm g).ctx ((s.strm g).off + (s.strm g).head.toNat % 2 ^ (s.strm g).log2 * 64) 64) = (h, .error b)) :=
  ⟨dev, 5, 0, { ctx := 1 }, by decide +kernel⟩

theorem witness_PacketsRefused_3 :
    ∃ (s : State) (g : Nat) (h : Hdr) (op : Op), ((s.strm g).held = none) ∧ (packetOf (s.strm g).ctx (s.strm g).lstream (s.home (s.strm g).ctx ((s.strm g).off + (s.strm g).head.toNat % 2 ^ (s.strm g).log2 * 64) 64) = (h, .ok op)) :=
  ⟨{ dev with hbm := ({} : Mem).writeN 0 (leBytes 8 0x0003000000000070) }, 5, hdr, .fence, by decide +kernel⟩

theorem witness_PacketsRefused_4 :
    ∃ (s : State) (g : Nat) (q : Hdr × Op), ((s.strm g).held = some q) :=
  ⟨{ dev with strms := [(5, { strmA with held := some (hdr, .fence) })] }, 5, (hdr, .fence), by decide +kernel⟩

theorem witness_PacketsRefused_5 :
    ∃ (s : State) (g : Nat) (h : Hdr) (op : Op), (s.fetchable g = true) ∧ (s.packetWaits g h op = true) :=
  ⟨{ dev with ctxs := [(1, { ctxA with regions := [(0, home), (2, { w0 := BitVec.ofNat 64 (regWords 1 false 15 1 0 false 0 0x1000).1, w1 := BitVec.ofNat 64 (regWords 1 false 15 1 0 false 0 0x1000).2 })] })], parts := [(0, { partA (prog [] []) with sw := { closed := true, holdNew := true } })] }, 5, hdr, .fence, by decide +kernel⟩

theorem witness_PacketsRefused_6 :
    ∃ (i : Instr) (h : Hdr) (op : Op) (s : State), (i.packet = some (h, op)) ∧ (s.openStream h.ctx h.stream = none) :=
  ⟨.fence { hdr with stream := 9 }, { hdr with stream := 9 }, .fence, dev, by decide +kernel⟩

theorem witness_PacketsRefused_7 :
    ∃ (s : State), (s.fenced = true) :=
  ⟨{ dev with fence := {} }, by decide +kernel⟩

theorem witness_PacketsRefused_8 :
    ∃ (s : State) (h : Hdr) (op : Op), ((s.ctx h.ctx).mayIssue h.ctx op = false) :=
  ⟨dev, hdr, .wsAbort, by decide +kernel⟩

theorem witness_AcceptanceActs_1 :
    ∃ (s : State) (id : Nat) (t : Nat) (x : Cmd) (y : Cmd), (s.cmds = [x, y]) ∧ (y.id = id) ∧ (x.id ≠ id) ∧ (x.ctx = t) ∧ (x.phase = .issued) ∧ (x.shielded = false) ∧ (y.phase = .accepted) ∧ ((s.ctx t).reset = none) :=
  ⟨{ dev with cmds := [runCmd, { id := 8, ctx := 2 }] }, 8, 1, runCmd, { id := 8, ctx := 2 }, by decide +kernel⟩

theorem witness_IssueAndWindow_0 :
    ∃ (s : State) (pt : Nat) (x : Cmd), (s.cmds = [x]) ∧ (x.phase = .accepted) ∧ (s.ctxPart x.ctx = pt) ∧ (s.ctxIssues x.ctx = true) ∧ (((∃ n v, x.op = .signalAdd n v) ∨ (∃ n v, x.op = .signalSet n v) ∨ (∃ d c, x.op = .censusRead d c) ∨ (∃ p, x.op = .accountRead p))) :=
  ⟨{ dev with cmds := [{ id := 8, ctx := 1, strm := 5, op := .signalAdd 255 1 }] }, 0, { id := 8, ctx := 1, strm := 5, op := .signalAdd 255 1 }, by decide +kernel, by decide +kernel, (by decide +kernel), by decide +kernel, .inl ⟨255, 1, rfl⟩⟩

theorem witness_IssueAndWindow_1 :
    ∃ (s : State) (v : State) (pt : Nat) (t : Nat) (leg : Nat) (x : Cmd) (r : RunP) (p : Program), (v = { s with beat := { s.beat with at_ := t, legCap := some leg } }) ∧ (v.cmds = [x]) ∧ (x.phase = .accepted) ∧ (v.ctxPart x.ctx = pt) ∧ (v.ctxIssues x.ctx = true) ∧ (x.op = .run r) ∧ (v.programOf x = some p) ∧ (v.lostBlock (v.groupOf x) = none) ∧ (v.unitsLag x (v.groupOf x) = false) ∧ (v.enginesReady x (v.groupOf x) = true) ∧ (v.unitRefuses x (v.groupOf x) = false) ∧ (x.heldNow = false) ∧ (p.budget ≤ budgetOf v.beat.periodCur.toNat v.beat.saddleCur.toNat (v.slowest (v.groupOf x))) ∧ (p.budget ≤ v.cyclesLeft (v.slowest (v.groupOf x))) ∧ ((∀ b ∈ v.groupOf x, (v.block b).run = none ∧ (v.block b).owner = some x.ctx)) ∧ (v.spillJobs = []) ∧ ((v.groupOf x).Nodup) ∧ (v.predicted (v.groupOf x) ≤ v.grantNow * 1000) :=
  ⟨{ running [ctlW 1 0 0 0 100 0, ctlW 0 0 0 0 0 0] [] id with cmds := [{ runCmd with phase := .accepted, blocks := [] }], blocks := [(0, { owner := some 1 }), (1, { owner := some 1 })] }, { { running [ctlW 1 0 0 0 100 0, ctlW 0 0 0 0 0 0] [] id with cmds := [{ runCmd with phase := .accepted, blocks := [] }], blocks := [(0, { owner := some 1 }), (1, { owner := some 1 })] } with beat := { dev.beat with at_ := 0, legCap := some 0 } }, 0, 0, 0, { runCmd with phase := .accepted, blocks := [] }, { program := 1, bgFirst := 0, bgSize := 2, args := [], binds := [] }, prog [ctlW 1 0 0 0 100 0, ctlW 0 0 0 0 0 0] [], rfl, by decide +kernel⟩

theorem witness_IssueAndWindow_2 :
    ∃ (s : State) (x : Cmd), (s.Lone x) ∧ (x.final = true) ∧ (1 ≤ s.beat.saddleCur.toNat) ∧ (((∃ p, x.op = .copy p) ∨ (∃ p, x.op = .fill p) ∨ x.op = .fence ∨ (∃ n l v, x.op = .wait n l v) ∨ (∃ n v, x.op = .signalAdd n v) ∨ (∃ n v, x.op = .signalSet n v))) ∧ (x.sigs = []) :=
  ⟨{ dev with cmds := [{ id := 8, ctx := 1, strm := 5, op := .signalAdd 255 1, phase := .done }] }, { id := 8, ctx := 1, strm := 5, op := .signalAdd 255 1, phase := .done }, by unfold State.Lone; decide +kernel, by decide +kernel, (by decide +kernel), .inr (.inr (.inr (.inr (.inl ⟨255, 1, rfl⟩)))), by decide +kernel⟩

theorem witness_EngineRowsIssue_0 :
    ∃ (i : Instr) (b : Nat) (ti : TI) (echo : Option Nat) (s : State) (x : Cmd) (p : Program) (w : Nat), (i.engineRow = some (b, ti, echo)) ∧ (s.Stands b ti x p w) :=
  ⟨.add 0 { dd := 0, sa := 1, sb := 2 } none, 0, .vec 0x02 { dd := 0, sa := 1, sb := 2 }, none, running [vecW 0x02 0 1 2 0] [elemD 0, elemD 256, elemD 512] id, runCmd, prog [vecW 0x02 0 1 2 0] [elemD 0, elemD 256, elemD 512], vecW 0x02 0 1 2 0, by decide +kernel, ⟨by decide +kernel, by decide +kernel⟩⟩

theorem witness_EngineRowsIssue_1 :
    ∃ (i : Instr) (b : Nat) (ti : TI) (echo : Option Nat) (s : State) (x : Cmd) (p : Program) (w : Nat), (i.engineRow = some (b, ti, echo)) ∧ (s.Stands b ti x p w) ∧ ((s.block b).queue = []) ∧ ((s.block b).tracks p ((s.block b).item w echo) = true) ∧ (((s.block b).item w echo).engine ≠ 2) ∧ ((s.setBlock b { (s.block b).next with queue := [(s.block b).item w echo] }).tiReady x p b ((s.block b).item w echo) = true) :=
  ⟨.add 0 { dd := 0, sa := 1, sb := 2 } none, 0, .vec 0x02 { dd := 0, sa := 1, sb := 2 }, none, running [vecW 0x02 0 1 2 0] [elemD 0, elemD 256, elemD 512] id, runCmd, prog [vecW 0x02 0 1 2 0] [elemD 0, elemD 256, elemD 512], vecW 0x02 0 1 2 0, by decide +kernel, ⟨by decide +kernel, by decide +kernel⟩, (by decide +kernel)⟩

theorem witness_EngineRowsIssue_2 :
    ∃ (b : Nat) (kind : Nat) (m : MovF) (s : State) (x : Cmd) (p : Program) (q : QI), (s.runOf b = some (x, p)) ∧ ((s.block b).queue = [q]) ∧ (q.ti = some (.mov kind m)) ∧ (kind ≤ 3) :=
  ⟨0, 0, { bsaddr := 64, count := 1, aux := 0, off := 0x10000 }, running [movW 0 64 1 0 0x10000] [] (fun b => { b with queue := [{ pos := 0, word := movW 0 64 1 0 0x10000, idx := b.idx }], pc := 1 }), runCmd, prog [movW 0 64 1 0 0x10000] [], { pos := 0, word := movW 0 64 1 0 0x10000, idx := List.replicate 16 0 }, by decide +kernel⟩

theorem witness_EngineRowsIssue_3 :
    ∃ (i : Instr) (b : Nat) (ti : TI) (echo : Option Nat) (s : State), (i.engineRow = some (b, ti, echo)) ∧ (s.fetchTI b = none) :=
  ⟨.mm 0 {}, 0, .mm {}, none, dev, by decide +kernel⟩

theorem witness_TransfersMoveBytes_0 :
    ∃ (b : Nat) (m : MovF) (s : State) (x : Cmd) (p : Program) (q : QI), (s.runOf b = some (x, p)) ∧ ((s.block b).queue = [q]) ∧ (q.ti = some (.mov 0 m)) ∧ (s.dmaFree x q = true) ∧ (movAligned m 0 q = true) ∧ (p.inStore (movAddr m q) (64 * (m.count + 1)) = true) :=
  ⟨0, { bsaddr := 64, count := 1, aux := 0, off := 0x10000 }, running [movW 0 64 1 0 0x10000] [] (fun b => { b with queue := [{ pos := 0, word := movW 0 64 1 0 0x10000, idx := b.idx }], pc := 1 }), runCmd, prog [movW 0 64 1 0 0x10000] [], { pos := 0, word := movW 0 64 1 0 0x10000, idx := List.replicate 16 0 }, by decide +kernel⟩

theorem witness_TransfersMoveBytes_1 :
    ∃ (b : Nat) (m : MovF) (s : State) (x : Cmd) (p : Program) (q : QI), (s.runOf b = some (x, p)) ∧ (s.cmds = [x]) ∧ ((s.block b).queue = [q]) ∧ (q.ti = some (.mov 1 m)) ∧ (s.dmaFree x q = true) ∧ (movAligned m 1 q = true) ∧ (p.inStore (movAddr m q) (64 * (m.count + 1)) = true) ∧ (0 ≤ movOffset m q) ∧ ((∀ o, s.drops x m.aux o = false)) :=
  ⟨0, { bsaddr := 64, count := 1, aux := 0, off := 0x10000 }, running [movW 1 64 1 0 0x10000] [] (fun b => { b with queue := [{ pos := 0, word := movW 1 64 1 0 0x10000, idx := b.idx }], pc := 1 }), runCmd, prog [movW 1 64 1 0 0x10000] [], { pos := 0, word := movW 1 64 1 0 0x10000, idx := List.replicate 16 0 }, by decide +kernel, by decide +kernel, (by decide +kernel), by decide +kernel, by decide +kernel, (by decide +kernel), by decide +kernel, by decide +kernel, by intro o; rfl⟩

theorem witness_VectorElements_0 :
    ∃ (a : Exact) (b : Exact) (c : Exact) (u : Fp) (w : Fp) (z : Fp), (a.v = some u) ∧ (b.v = some w) ∧ (c.v = some z) :=
  ⟨{ v := some Fp.zero }, { v := some Fp.zero }, { v := some Fp.zero }, Fp.zero, Fp.zero, Fp.zero, by decide +kernel⟩

theorem witness_VectorElements_1 :
    ∃ (op : Nat) (a : Exact), (op ∈ [1, 2, 3, 4, 5, 6, 7, 10, 11, 16, 17, 18, 19, 20, 24, 25, 26, 27, 32, 33, 34, 35, 36, 37]) ∧ (a.v = none) :=
  ⟨37, { v := none }, by decide +kernel⟩

theorem witness_VectorElements_2 :
    ∃ (a : Exact) (u : Fp), (a.v = some u) :=
  ⟨{ v := some Fp.zero }, Fp.zero, by decide +kernel⟩

theorem witness_VectorElements_3 :
    ∃ (op : Nat) (l : List Exact), (op = 0x28 ∨ op = 0x29) ∧ ((∃ x ∈ l, x.v = none)) :=
  ⟨0x29, [{ v := none }], by decide +kernel⟩

theorem witness_VectorElements_5 :
    ∃ (n : Nat) (e : Nat), (e < n) :=
  ⟨8, 7, by decide +kernel⟩

theorem witness_VectorElements_7 :
    ∃ (p : Program) (q : QI) (op : Nat) (v : VecF) (d : VOp) (src : List VOp), (vecOperands p q op v = (d, src)) ∧ (op ≠ 0x38) ∧ (d.d.space = .bs) ∧ (d.d.tile = false) ∧ (d.d.rows = 1) ∧ (d.d.cols = 1) ∧ (d.inside p = true) ∧ ((∀ o ∈ src, o.inside p = true ∧ d.clashes o = false)) :=
  ⟨prog [] [elemD 0, elemD 256, elemD 512], { pos := 0, word := vecW 0x02 0 1 2 0, idx := List.replicate 16 0 }, 2, { dd := 0, sa := 1, sb := 2 }, ((prog [] [elemD 0, elemD 256, elemD 512]).vop { pos := 0, word := vecW 0x02 0 1 2 0, idx := List.replicate 16 0 } 0 0), [((prog [] [elemD 0, elemD 256, elemD 512]).vop { pos := 0, word := vecW 0x02 0 1 2 0, idx := List.replicate 16 0 } 1 0), ((prog [] [elemD 0, elemD 256, elemD 512]).vop { pos := 0, word := vecW 0x02 0 1 2 0, idx := List.replicate 16 0 } 2 0)], by decide +kernel⟩

theorem witness_ControlInstructions_0 :
    ∃ (s : State) (i : Instr) (ti : TI) (b : Nat) (dst : Nat) (sa : Nat) (sb : Nat) (imm : BitVec 32) (v : BitVec 32) (x : Cmd) (p : Program) (w : Nat), (((i = .seti b dst imm ∧ ti = .ctl 3 dst 0 0 imm 0 ∧ v = imm) ∨ (i = .addi b dst sa imm ∧ ti = .ctl 4 dst sa 0 imm 0 ∧ v = ((s.block b).idx[sa]?).getD 0 + imm) ∨ (i = .muli b dst sa imm ∧ ti = .ctl 5 dst sa 0 imm 0 ∧ v = ((s.block b).idx[sa]?).getD 0 * imm) ∨ (i = .madd b dst sa sb imm ∧ ti = .ctl 6 dst sa sb imm 0 ∧ v = ((s.block b).idx[sa]?).getD 0 * imm + ((s.block b).idx[sb]?).getD 0) ∨ (i = .divi b dst sa imm ∧ ti = .ctl 7 dst sa 0 imm 0 ∧ 1 ≤ imm.toInt ∧ v = BitVec.ofInt 32 (Int.fdiv (((s.block b).idx[sa]?).getD 0).toInt imm.toInt)) ∨ (i = .modi b dst sa imm ∧ ti = .ctl 8 dst sa 0 imm 0 ∧ 1 ≤ imm.toInt ∧ v = BitVec.ofInt 32 ((((s.block b).idx[sa]?).getD 0).toInt - imm.toInt * Int.fdiv (((s.block b).idx[sa]?).getD 0).toInt imm.toInt)))) ∧ (s.Stands b ti x p w) ∧ ((∀ l ∈ (s.block b).loops, l.dst ≠ dst)) ∧ (dst < (s.block b).idx.length) :=
  ⟨running [ctlW 7 15 14 0 3 0] [] (fun b => { b with idx := List.replicate 14 0 ++ [0xFFFFFFF9, 0] }), .divi 0 15 14 3, .ctl 7 15 14 0 3 0, 0, 15, 14, 0, 3, 0xFFFFFFFD, runCmd, prog [ctlW 7 15 14 0 3 0] [], ctlW 7 15 14 0 3 0, .inr (.inr (.inr (.inr (.inl (by decide +kernel))))), ⟨by decide +kernel, by decide +kernel⟩, (by decide +kernel)⟩

theorem witness_ControlInstructions_1 :
    ∃ (s : State) (b : Nat) (imm : BitVec 32) (x : Cmd) (p : Program) (w : Nat), (s.Stands b (.ctl 1 0 0 0 imm 0) x p w) :=
  ⟨running [ctlW 1 0 0 0 100 0] [] id, 0, 100, runCmd, prog [ctlW 1 0 0 0 100 0] [], ctlW 1 0 0 0 100 0, ⟨by decide +kernel, by decide +kernel⟩⟩

theorem witness_ControlInstructions_2 :
    ∃ (s : State) (b : Nat) (dst : Nat) (sa : Nat) (body : Nat) (n : Nat) (imm : BitVec 32) (x : Cmd) (p : Program) (w : Nat), (s.Stands b (.ctl 2 dst sa 0 imm body) x p w) ∧ ((imm + ((s.block b).idx[sa]?).getD 0).toInt = n) ∧ ((s.block b).loops = []) ∧ (dst < (s.block b).idx.length) :=
  ⟨running [ctlW 2 15 0 0 1 2] [] id, 0, 15, 0, 2, 1, 1, runCmd, prog [ctlW 2 15 0 0 1 2] [], ctlW 2 15 0 0 1 2, ⟨by decide +kernel, by decide +kernel⟩, by decide +kernel⟩

theorem witness_ControlInstructions_3 :
    ∃ (s : State) (b : Nat) (dst : Nat) (sa : Nat) (body : Nat) (imm : BitVec 32) (x : Cmd) (p : Program) (w : Nat), (s.Stands b (.ctl 2 dst sa 0 imm body) x p w) ∧ ((imm + ((s.block b).idx[sa]?).getD 0).toInt < 0) ∧ ((s.block b).loops = []) :=
  ⟨running [ctlW 2 15 0 0 0xFFFFFFFF 2] [] id, 0, 15, 0, 2, 0xFFFFFFFF, runCmd, prog [ctlW 2 15 0 0 0xFFFFFFFF 2] [], ctlW 2 15 0 0 0xFFFFFFFF 2, ⟨by decide +kernel, by decide +kernel⟩, by decide +kernel⟩

theorem witness_ControlInstructions_4 :
    ∃ (k : Block) (l : LoopSt), (k.loops = [l]) ∧ (k.pc + 1 = l.stop) ∧ (l.dst < k.idx.length) :=
  ⟨{ pc := 4, loops := [{ first := 2, stop := 5, left := 1, dst := 15 }] }, { first := 2, stop := 5, left := 1, dst := 15 }, by decide +kernel⟩

theorem witness_ControlInstructions_5 :
    ∃ (k : Block), (k.loops = []) :=
  ⟨{}, by decide +kernel⟩

theorem witness_SyncInstructions_0 :
    ∃ (s : State) (b : Nat) (a : Nat) (x : Cmd) (p : Program) (w : Nat), (s.Stands b (.sync 1 a 0) x p w) :=
  ⟨running [syncW 1 0 0] [] (fun b => { b with tq := [{}] }), 0, 0, runCmd, prog [syncW 1 0 0] [], syncW 1 0 0, ⟨by decide +kernel, by decide +kernel⟩⟩

theorem witness_SyncInstructions_1 :
    ∃ (s : State) (b : Nat) (mask : Nat) (x : Cmd) (p : Program) (w : Nat), (s.Stands b (.sync 2 mask 0) x p w) :=
  ⟨running [syncW 2 63 0] [] id, 0, 63, runCmd, prog [syncW 2 63 0] [], syncW 2 63 0, ⟨by decide +kernel, by decide +kernel⟩⟩

theorem witness_SyncInstructions_2 :
    ∃ (s : State) (b : Nat) (c : Nat) (x : Cmd) (p : Program) (w : Nat), (s.Stands b (.sync 3 0 0) x p w) ∧ (x.blocks = [b, c]) ∧ (b ≠ c) ∧ ((s.block b).barWait = false) ∧ ((s.block b).loops = []) :=
  ⟨running [syncW 3 0 0] [] id, 0, 1, runCmd, prog [syncW 3 0 0] [], syncW 3 0 0, ⟨by decide +kernel, by decide +kernel⟩, by decide +kernel⟩

theorem witness_SyncInstructions_3 :
    ∃ (s : State) (b : Nat) (ch : Nat) (x : Cmd) (p : Program) (w : Nat), (s.Stands b (.sync 5 ch 0) x p w) :=
  ⟨running [syncW 5 63 0] [] (fun b => { b with chans := [(127, { areas := [{ addr := 256, units := 1, base := 0, complete := true }] })] }), 0, 63, runCmd, prog [syncW 5 63 0] [], syncW 5 63 0, ⟨by decide +kernel, by decide +kernel⟩⟩

theorem witness_SyncInstructions_4 :
    ∃ (s : State) (b : Nat) (x : Cmd) (p : Program) (w : Nat), (s.Stands b (.ctl 0 0 0 0 0 0) x p w) :=
  ⟨running [ctlW 0 0 0 0 0 0] [] id, 0, runCmd, prog [ctlW 0 0 0 0 0 0] [], ctlW 0 0 0 0 0 0, ⟨by decide +kernel, by decide +kernel⟩⟩

theorem witness_DrainsAndAcks_0 :
    ∃ (s : State) (b : Nat) (x : Cmd) (p : Program) (d : Drain), (s.runOf b = some (x, p)) ∧ ((s.block b).drain = some d) ∧ (d.cks = false) ∧ ((s.block b).queue = []) :=
  ⟨running [] [] (fun b => { b with drain := some { toFold := true, slot := 15 } }), 0, runCmd, prog [] [], { toFold := true, slot := 15 }, by decide +kernel⟩

theorem witness_DrainsAndAcks_1 :
    ∃ (s : State) (b : Nat) (x : Cmd) (p : Program), (s.runOf b = some (x, p)) ∧ ((s.block b).ended = true) ∧ ((s.block b).acked = false) ∧ (s.cmds = [x]) :=
  ⟨running [] [] (fun b => { b with ended := true }), 0, runCmd, prog [] [], by decide +kernel⟩

theorem witness_DrainsAndAcks_2 :
    ∃ (s : State) (b : Nat) (x : Cmd) (p : Program), (s.runOf b = some (x, p)) ∧ ((s.block b).ended = false ∨ (s.block b).acked = true) :=
  ⟨running [] [] id, 0, runCmd, prog [] [], by decide +kernel⟩

theorem witness_EdgesBeginBeats_0 :
    ∃ (s : State), (s.crest.powered = true) ∧ (s.phase ≠ .hold) :=
  ⟨dev, by decide +kernel⟩

theorem witness_EdgesBeginBeats_1 :
    ∃ (s : State), (s.crest.powered = true) ∧ (s.phase = .hold) :=
  ⟨{ dev with phase := .hold }, by decide +kernel⟩

theorem witness_EdgesBeginBeats_2 :
    ∃ (s : State) (off : Int), (s.crest.powered = true) ∧ (s.phase = .run) ∧ (s.beat.srcAct = 0) ∧ (s.beat.src = 0) ∧ (-(s.beat.tolIn.toNat * 10 : Int) ≤ off) ∧ (off ≤ (s.beat.tolIn.toNat * 10 : Int)) :=
  ⟨withBeat (fun b => { b with src := 0, srcAct := 0 }), -500, by decide +kernel⟩

theorem witness_EdgesBeginBeats_3 :
    ∃ (s : State) (off : Int), (s.crest.powered = true) ∧ (s.phase = .run) ∧ (s.beat.srcAct = 0) ∧ (s.beat.src = 0) ∧ (off < -(s.beat.tolIn.toNat * 10 : Int)) :=
  ⟨withBeat (fun b => { b with src := 0, srcAct := 0 }), -501, by decide +kernel⟩

theorem witness_EdgesBeginBeats_4 :
    ∃ (s : State) (off : Int), ((s.beat.src ≠ s.beat.srcAct ∨ s.beat.srcAct ≠ 0 ∨ (s.beat.tolIn.toNat * 10 : Int) < off)) :=
  ⟨withBeat (fun b => { b with src := 0, srcAct := 0 }), 501, by decide +kernel⟩

theorem witness_EdgesBeginBeats_5 :
    ∃ (s : State), (s.crest.powered = true) ∧ (s.phase ≠ .hold) ∧ (s.beat.srcAct ≠ 2) ∧ ((s.phase ≠ .run ∨ s.beat.src ≠ s.beat.srcAct)) :=
  ⟨withBeat (fun b => { b with src := 1, srcAct := 0 }), by decide +kernel⟩

theorem witness_EdgesBeginBeats_6 :
    ∃ (s : State), (s.crest.powered = true) ∧ (s.phase = .run) ∧ (s.beat.srcAct ≠ 2) ∧ (s.beat.src = s.beat.srcAct) :=
  ⟨withBeat (fun b => { b with src := 0, srcAct := 0 }), by decide +kernel⟩

theorem witness_EdgesBeginBeats_7 :
    ∃ (s : State) (p : Nat) (off : Int), (s.crest.powered = true) ∧ ((s.port p).state = 3) ∧ (s.beat.srcAct = 1) ∧ (s.beat.src = 1) ∧ (s.beat.srcPort.toNat = p) ∧ (s.phase = .run) ∧ (-(s.beat.tolIn.toNat * 10 : Int) ≤ off) ∧ (off ≤ (s.beat.tolIn.toNat * 10 : Int)) :=
  ⟨{ withPort 31 { state := 3 } with beat := { dev.beat with src := 1, srcAct := 1, srcPort := 31 } }, 31, 500, by decide +kernel⟩

theorem witness_EdgesBeginBeats_8 :
    ∃ (s : State) (p : Nat) (off : Int), (s.crest.powered = true) ∧ ((s.port p).state = 3) ∧ (s.beat.srcAct = 1) ∧ (s.beat.src = 1) ∧ (s.beat.srcPort.toNat = p) ∧ (s.phase = .run) ∧ (off < -(s.beat.tolIn.toNat * 10 : Int)) :=
  ⟨{ withPort 31 { state := 3 } with beat := { dev.beat with src := 1, srcAct := 1, srcPort := 31 } }, 31, -501, by decide +kernel⟩

theorem witness_EdgesBeginBeats_9 :
    ∃ (s : State) (p : Nat) (off : Int) (num : W64), (s.crest.powered = true) ∧ ((s.port p).state = 3) ∧ ((s.beat.srcAct ≠ 1 ∨ s.beat.srcPort.toNat ≠ p)) ∧ (-(s.beat.markTol.toNat * 10 : Int) ≤ off) ∧ (off ≤ (s.beat.markTol.toNat * 10 : Int)) ∧ (num.toNat = (if off < 0 then s.beat.count.toNat + 1 else s.beat.count.toNat)) :=
  ⟨withPort 31 { state := 3 }, 31, -500, 11, by decide +kernel⟩

theorem witness_EdgesBeginBeats_10 :
    ∃ (s : State) (p : Nat) (off : Int) (num : W64), (s.crest.powered = true) ∧ ((s.port p).state = 3) ∧ ((s.beat.srcAct ≠ 1 ∨ s.beat.srcPort.toNat ≠ p)) ∧ (-(s.beat.markTol.toNat * 10 : Int) ≤ off) ∧ (off ≤ (s.beat.markTol.toNat * 10 : Int)) ∧ (num.toNat ≠ (if off < 0 then s.beat.count.toNat + 1 else s.beat.count.toNat)) :=
  ⟨withPort 31 { state := 3 }, 31, 0, 11, by decide +kernel⟩

theorem witness_EdgesBeginBeats_11 :
    ∃ (s : State) (p : Nat) (off : Int), (s.crest.powered = true) ∧ ((s.port p).state = 3) ∧ ((s.beat.srcAct ≠ 1 ∨ s.beat.srcPort.toNat ≠ p)) ∧ ((off < -(s.beat.markTol.toNat * 10 : Int) ∨ (s.beat.markTol.toNat * 10 : Int) < off)) :=
  ⟨withPort 31 { state := 3 }, 31, 501, by decide +kernel⟩

theorem witness_LimitsRunOut_0 :
    ∃ (s : State) (c : Nat) (n : Nat), ((s.ctx c).held = some n) ∧ (n < s.beat.count.toNat) ∧ ((s.ctx c).heldForever = false) :=
  ⟨{ dev with ctxs := [(1, { ctxA with held := some 9 })] }, 1, 9, by decide +kernel⟩

theorem witness_LimitsRunOut_1 :
    ∃ (s : State) (id : Nat) (x : Cmd), (s.cmd id = some x) ∧ (s.hung x = true) ∧ (s.bist.ready = true) :=
  ⟨{ running [] [] id with beat := { dev.beat with windowOpen := true } }, 7, runCmd, by decide +kernel⟩

theorem witness_LimitsRunOut_2 :
    ∃ (s : State) (x : Cmd), (s.cmds = [x]) ∧ (x.drains = false) ∧ (x.h.flags.getLsbD 5 = false) :=
  ⟨running [] [] id, runCmd, by decide +kernel⟩

theorem witness_LimitsRunOut_3 :
    ∃ (s : State) (x : Cmd) (g : Nat) (limit : Nat) (v : W64), (s.cmds = [x]) ∧ (x.op = .wait g limit v) ∧ (x.phase = .accepted) ∧ (limit ≠ 0) ∧ (x.acceptBeat + limit ≤ s.beat.count.toNat) ∧ ((Tab.get 0 (s.ctx x.ctx).sig g).toNat < v.toNat) :=
  ⟨{ dev with cmds := [{ id := 8, ctx := 1, strm := 5, op := .wait 255 1 1, acceptBeat := 9 }] }, { id := 8, ctx := 1, strm := 5, op := .wait 255 1 1, acceptBeat := 9 }, 255, 1, 1, by decide +kernel⟩

theorem witness_LimitsRunOut_4 :
    ∃ (s : State) (x : Cmd) (p : OptP), (s.cmds = [x]) ∧ (x.op = .optstep p) ∧ (x.phase = .accepted) ∧ (x.heldNow = true) ∧ (p.waitLimit ≠ 0) ∧ (x.acceptBeat + p.waitLimit ≤ s.beat.count.toNat) :=
  ⟨{ dev with cmds := [optCmd] }, optCmd, optP, by decide +kernel⟩

theorem witness_LimitsRunOut_5 :
    ∃ (s : State) (pt : Nat) (x : Cmd), (s.cmd (s.part pt).sw.cmd = some x) ∧ ((s.part pt).sw.closed = true) ∧ ((s.part pt).sw.drained = false) ∧ (s.beat.windowOpen = true) ∧ ((s.part pt).sw.beatA + (s.part pt).sw.limit ≤ s.beat.count.toNat + 1) :=
  ⟨{ dev with cmds := [{ id := 8, ctx := 1, strm := 5, op := .wsSwitch false 1 }], beat := { dev.beat with windowOpen := true }, parts := [(15, { sw := { closed := true, limit := 1, beatA := 10, cmd := 8 } })] }, 15, { id := 8, ctx := 1, strm := 5, op := .wsSwitch false 1 }, by decide +kernel⟩

theorem witness_EnginesAnswer_0 :
    ∃ (s : State), (s.beat.windowOpen = false) :=
  ⟨dev, by decide +kernel⟩

theorem witness_EnginesAnswer_1 :
    ∃ (s : State) (id : Nat) (e : Nat) (p : Purge), (p ∈ s.purges) ∧ (p.id = id) ∧ (e ∈ p.owed) ∧ (s.beat.windowOpen = true) ∧ (p.beat + 2 ≤ s.beat.count.toNat) :=
  ⟨{ dev with beat := { dev.beat with windowOpen := true }, purges := [{ id := 3, ctx := some 1, cmd := none, beat := 8, owed := [0x400] }] }, 3, 0x400, { id := 3, ctx := some 1, cmd := none, beat := 8, owed := [0x400] }, by decide +kernel⟩

theorem witness_EnginesAnswer_3 :
    ∃ (s : State), (s.bist.ready = true) :=
  ⟨dev, by decide +kernel⟩

theorem witness_EnginesAnswer_4 :
    ∃ (s : State) (u : Nat), (s.pt.lag.getLsbD u = true) ∧ (u ∉ s.pt.unitReady) :=
  ⟨{ dev with pt := { lag := 0x4000000 } }, 26, by decide +kernel⟩

theorem witness_HoldoffRule_0 :
    ∃ (s : State) (t : Nat) (n : Nat), (s.hostUp = true) ∧ (t < 64) ∧ (s.irq.isPending n = true) ∧ (s.irq.isMasked n = false) ∧ (s.irq.routed n t = true) :=
  ⟨{ dev with irq := { mask := [(0, 0x100)], pend := [(0, 0x100)], cfg := [(8, 63)], bankmap := 0xBF } }, 63, 8, by decide +kernel⟩

theorem witness_HoldoffRule_2 :
    ∃ (s : State) (u : State) (t : Nat), ((∀ t, (s.irq.target t).idle = true → (s.irq.target t).held = false)) ∧ (step s = .next u) :=
  ⟨State.reset, State.reset, 63, by intro t h; exact absurd h (by simp [State.reset, Irq.target, Tab.get]), rfl⟩

theorem witness_SignalAtCommit_0 :
    ∃ (s : State) (b : Nat) (n : Nat) (v : BitVec 32) (x : Cmd) (p : Program) (w : Nat), (s.Stands b (.sync 4 n v) x p w) :=
  ⟨running [syncW 4 255 1] [] id, 0, 255, 1, runCmd, prog [syncW 4 255 1] [], syncW 4 255 1, ⟨by decide +kernel, by decide +kernel⟩⟩

theorem witness_SignalAtCommit_1 :
    ∃ (s : State) (x : Cmd) (r : RunP), (s.Lone x) ∧ (x.op = .run r) ∧ (x.final = true) ∧ (1 ≤ s.beat.saddleCur.toNat) :=
  ⟨{ dev with cmds := [{ runCmd with phase := .done, sigs := [(255, 1)] }] }, { runCmd with phase := .done, sigs := [(255, 1)] }, { program := 1, bgFirst := 0, bgSize := 2, args := [], binds := [] }, by unfold State.Lone; decide +kernel, by decide +kernel⟩

theorem witness_H16Reads_0 :
    ∃ (w : Nat), (w < 65536) :=
  ⟨65535, by decide +kernel⟩

theorem witness_Q4Q8Codes_0 :
    ∃ (c : Nat), (c < 16) :=
  ⟨15, by decide +kernel⟩

theorem witness_Q4Q8Codes_1 :
    ∃ (c : Nat), (c < 256) :=
  ⟨255, by decide +kernel⟩

end Sys2Proof.Tests
end

section
/-! SUPPORT. What an H16 code reads as (R64), by the three ranges of its magnitude bits: finite, infinity, NaN. -/

namespace Sys2Proof.Proofs

open Sys2Proof Sys2Proof.Machine

/-! ### The fields of an H16 code -/

/-- Bit 15 of an H16 code is its sign. -/
theorem bitOf_fifteen {w : Nat} (hw : w < 65536) : bitOf w 15 = decide (32768 ≤ w) := by
  rw [Bool.eq_iff_iff, bitOf, beq_iff_eq, decide_eq_true_iff, bits]
  omega

/-- The model's reading of an H16 magnitude code, with the format's numbers put in. -/
theorem h16_mag (c : Nat) :
    Fmt.h16.mag c = if c < 256 then { m := c, e := -133 }
      else { m := 128 + (c : Int) % 128, e := -133 + ((c / 128 : Nat) : Int) - 1 } := rfl

/-- With exponent field 0 a magnitude code spells its fraction, without a hidden one. -/
theorem h16_mag_subnormal {c : Nat} (hk : c / 128 = 0) : Fmt.h16.mag c = { m := (c % 128 : Nat), e := -133 } := by
  have hfrac : c % 128 = c := by omega
  rw [h16_mag, if_pos (by omega), hfrac]

/-- With a nonzero exponent field a magnitude code spells its fraction under a hidden one; code 128 to 255, where the model
keeps the code itself, already has the hidden one as its bit 7. -/
theorem h16_mag_normal {c : Nat} (hk : c / 128 ≠ 0) :
    Fmt.h16.mag c = { m := (128 + c % 128 : Nat), e := ((c / 128 : Nat) : Int) - 134 } := by
  rw [h16_mag]
  split <;> rw [Dy.mk.injEq] <;> omega

/-! ### What a code reads as -/

/-- A magnitude code below infinity's reads as the finite number that it spells, with the code's sign. -/
theorem h16_readv_finite {w : Nat} (hc : w % 32768 < 0x7F80) :
    Fmt.h16.readv w = { v := some { neg := bitOf w 15, mag := (Fmt.h16.mag (w % 32768)).m.natAbs,
                                    e := (Fmt.h16.mag (w % 32768)).e } } := by
  simp [Fmt.readv, Fmt.signBit, hc]

/-- An infinity reads as the largest finite W40 value of its sign, with the flag that it saturated. -/
theorem h16_readv_infinity {w : Nat} (hc : w % 32768 = 0x7F80) :
    Fmt.h16.readv w = { v := some (w40Max (bitOf w 15)), sat := true } := by
  simp [Fmt.readv, Fmt.signBit, w40Max, hc]

/-- A magnitude code above infinity's, a NaN, reads as invalid. -/
theorem h16_readv_nan {w : Nat} (hc : 0x7F80 < w % 32768) : Fmt.h16.readv w = { v := none } := by
  simp [Fmt.readv, Fmt.signBit, hc.not_gt, hc.ne']

/-- R84: what carries the flag that it saturated counts as saturated in every format and mode, also as an invalid result. -/
theorem write_saturated_of_sat (f : Fmt) (md : Rnd) {x : Exact} (hx : x.sat = true) : (f.write md x).tally.saturated = 1 := by
  cases hv : x.v <;> simp [Fmt.write, hv, hx]

/-- The bfloat16 value of an H16 magnitude code, by its exponent field. -/
theorem h16_mag_value (c : Nat) :
    ((Fmt.h16.mag c).m.natAbs : ℚ) * 2 ^ (Fmt.h16.mag c).e =
      if c / 128 = 0 then ((c % 128 : Nat) : ℚ) * 2 ^ (-133 : Int)
      else ((128 + c % 128 : Nat) : ℚ) * 2 ^ (((c / 128 : Nat) : Int) - 134) := by
  split
  next hk => rw [h16_mag_subnormal hk, Int.natAbs_natCast]
  next hk => rw [h16_mag_normal hk, Int.natAbs_natCast]

/-! ### R64 -/

/-- Settles O59: the exponent field and the fraction place the magnitude code below, at or above infinity's. -/
theorem h16Reads : Obligations.H16Reads := by
  intro w hw
  have hexp : w % 32768 / 128 = w / 128 % 256 := by omega
  have hfrac : w % 32768 % 128 = w % 128 := by omega
  refine ⟨fun hk => ?finite, fun hk hf => ?nan, fun hk hf => ?infinity⟩
  case finite =>
    refine ⟨_, h16_readv_finite (by omega), bitOf_fifteen hw, ?_⟩
    have hval := h16_mag_value (w % 32768)
    rwa [hexp, hfrac] at hval
  case nan => rw [h16_readv_nan (by omega)]
  case infinity =>
    have hread := h16_readv_infinity (w := w) (by omega)
    rw [bitOf_fifteen hw] at hread
    exact ⟨hread, fun f md => write_saturated_of_sat f md (by rw [hread])⟩

end Sys2Proof.Proofs
end

section
/-! SUPPORT. What a SIGNAL adds at the commit of its RUN (R180, R298), over a window with one command in it (R49): the steps before the
commits find nothing to do, the commit adds what the RUN kept, and no later step adds anything. -/

namespace Sys2Proof.Proofs

open Sys2Proof Sys2Proof.Machine

/-! ### Folds over lists of acts -/

/-- A fold whose every act leaves its start as it is ends there. -/
theorem foldl_eq_self {α β : Type} {f : β → α → β} {s : β} {l : List α} (h : ∀ a ∈ l, f s a = s) : l.foldl f s = s :=
  List.foldlRecOn (motive := fun t => t = s) l f rfl fun _ ht a ha => by rw [ht, h a ha]

/-! ### Sparse tables -/

/-- A table reads as its default, or as one of its entries. -/
theorem Tab.get_eq_or_mem {α : Type} (d : α) (t : Tab α) (k : Nat) : Tab.get d t k = d ∨ (k, Tab.get d t k) ∈ t := by
  induction t with
  | nil => exact .inl rfl
  | cons q t ih =>
    obtain ⟨j, v⟩ := q
    rw [Tab.get]
    split
    · next h => exact .inr (by simp [h])
    · exact ih.imp_right (List.mem_cons_of_mem _)

theorem Tab.mem_set {α : Type} {t : Tab α} {k : Nat} {v : α} {q : Nat × α} (h : q ∈ Tab.set t k v) : q = (k, v) ∨ q ∈ t := by
  induction t with
  | nil => exact .inl (by simpa [Tab.set] using h)
  | cons r t ih =>
    obtain ⟨j, w⟩ := r
    rw [Tab.set] at h
    split at h
    · exact (List.mem_cons.mp h).imp_right (List.mem_cons_of_mem _)
    · split at h
      · exact List.mem_cons.mp h
      · rcases List.mem_cons.mp h with rfl | h
        · exact .inr List.mem_cons_self
        · exact (ih h).imp_right (List.mem_cons_of_mem _)

/-! ### What is added to the signals of a context -/

/-- What a list of signals adds to signal `n`, wrapping. -/
def signalSum (l : List (Nat × W64)) (n : Nat) : W64 := ((l.filter (fun q => q.1 == n)).map (·.2)).sum

@[simp] theorem signalSum_nil (n : Nat) : signalSum [] n = 0 := rfl

theorem signalSum_append (l m : List (Nat × W64)) (n : Nat) : signalSum (l ++ m) n = signalSum l n + signalSum m n := by
  simp [signalSum, List.sum_append]

theorem signalSum_singleton (m n : Nat) (v : W64) : signalSum [(m, v)] n = if m = n then v else 0 := by
  by_cases h : m = n <;> simp [signalSum, h]

/-- No partition has a routing table. -/
def NoTabs (s : State) : Prop := ∀ q ∈ s.parts, q.2.tabs = []

/-- From `s` to `t` the signals of context `c` take the additions of `l`, and nothing else changes of what the rest of a window
goes by: the commands, the transfers of resident data, the resets, and that no partition has a routing table. -/
structure Adds (c : Nat) (l : List (Nat × W64)) (s t : State) : Prop where
  cmds : t.cmds = s.cmds
  spillJobs : t.spillJobs = s.spillJobs
  reset : ∀ k, (t.ctx k).reset = (s.ctx k).reset
  tabs : NoTabs s → NoTabs t
  sig : ∀ n, Tab.get 0 (t.ctx c).sig n = Tab.get 0 (s.ctx c).sig n + signalSum l n

variable {c : Nat} {s t u : State} {l m : List (Nat × W64)}

theorem Adds.trans (h : Adds c l s t) (k : Adds c m t u) : Adds c (l ++ m) s u where
  cmds := k.cmds.trans h.cmds
  spillJobs := k.spillJobs.trans h.spillJobs
  reset n := (k.reset n).trans (h.reset n)
  tabs hs := k.tabs (h.tabs hs)
  sig n := by rw [k.sig, h.sig, signalSum_append, BitVec.add_assoc]

/-- An act that leaves the commands, the transfers, the contexts and the partitions adds nothing. -/
theorem Adds.of_same (hcmds : t.cmds = s.cmds) (hjobs : t.spillJobs = s.spillJobs) (hctxs : t.ctxs = s.ctxs)
    (hparts : t.parts = s.parts) : Adds c [] s t where
  cmds := hcmds
  spillJobs := hjobs
  reset k := by rw [State.ctx, State.ctx, hctxs]
  tabs hs := by rwa [NoTabs, hparts]
  sig n := by simp [State.ctx, hctxs]

/-- An act that adds nothing after the additions of `l`. -/
theorem Adds.and_nothing (h : Adds c l s t) (k : Adds c [] t u) : Adds c l s u := by
  simpa using h.trans k

theorem Adds.refl (c : Nat) (s : State) : Adds c [] s s := .of_same rfl rfl rfl rfl

/-- A fold adds nothing when none of its acts does. -/
theorem Adds.foldl {α : Type} {f : State → α → State} (l : List α) (hf : ∀ s, ∀ a ∈ l, Adds c [] s (f s a)) (s : State) :
    Adds c [] s (l.foldl f s) :=
  List.foldlRecOn l f (.refl c s) fun t ht a ha => ht.and_nothing (hf t a ha)

/-- An update of a context that keeps its signals and its reset adds nothing. -/
theorem Adds.updCtx {f : Ctx → Ctx} (hsig : ∀ x, (f x).sig = x.sig) (hreset : ∀ x, (f x).reset = x.reset) (s : State) (k : Nat) :
    Adds c [] s (s.updCtx k f) where
  cmds := rfl
  spillJobs := rfl
  reset n := by
    by_cases h : n = k
    · subst h; simp [hreset]
    · rw [State.ctx_updCtx_ne s f h]
  tabs := id
  sig n := by
    by_cases h : c = k
    · subst h; simp [hsig]
    · simp [State.ctx_updCtx_ne s f h]

/-- An update of a routing table adds nothing: a partition without one stays without. -/
theorem Adds.updTab (s : State) (pt table : Nat) (f : RTable → RTable) : Adds c [] s (s.updTab pt table f) where
  cmds := rfl
  spillJobs := rfl
  reset _ := rfl
  tabs hs q hq := by
    rcases Tab.mem_set hq with rfl | hq
    · have hnone : (s.part pt).tabs = [] := by
        rcases Tab.get_eq_or_mem {} s.parts pt with h | h
        · rw [State.part, h]
        · exact hs _ h
      simp [hnone]
    · exact hs q hq
  sig _ := by simp [State.updTab]

/-- R298: an addition to a signal of the context. -/
theorem Adds.addSignal (s : State) (c n : Nat) (v : W64) : Adds c [(n, v)] s (s.addSignal c n v) where
  cmds := rfl
  spillJobs := rfl
  reset k := by
    by_cases h : k = c
    · subst h; simp [State.addSignal]
    · rw [State.addSignal, State.ctx_updCtx_ne s _ h]
  tabs := id
  sig k := by
    by_cases h : k = n
    · subst h; simp [State.addSignal, signalSum_singleton]
    · rw [State.addSignal, State.ctx_updCtx_same, Tab.get_upd_ne 0 _ _ h, signalSum_singleton, if_neg (Ne.symm h)]
      exact (BitVec.add_zero _).symm

/-- The additions of a list of signals, in its order. -/
theorem Adds.addSignals (c : Nat) (l : List (Nat × W64)) (s : State) :
    Adds c l s (l.foldl (fun (s : State) q => s.addSignal c q.1 q.2) s) := by
  induction l generalizing s with
  | nil => exact .refl c s
  | cons q l ih => exact (Adds.addSignal s c q.1 q.2).trans (ih _)

/-! ### Operations on other parts -/

theorem Adds.updBlock (s : State) (b : Nat) (f : Block → Block) : Adds c [] s (s.updBlock b f) := .of_same rfl rfl rfl rfl
theorem Adds.updStrm (s : State) (g : Nat) (f : Strm → Strm) : Adds c [] s (s.updStrm g f) := .of_same rfl rfl rfl rfl
theorem Adds.updWeight (s : State) (w : Nat) (f : WVer → WVer) : Adds c [] s (s.updWeight w f) := .of_same rfl rfl rfl rfl
theorem Adds.regWrite (s : State) (e : RegEntry) (b o : Nat) (v : List Byte) : Adds c [] s (s.regWrite e b o v) :=
  .of_same rfl rfl rfl rfl
theorem Adds.regUndef (s : State) (e : RegEntry) (b o n : Nat) : Adds c [] s (s.regUndef e b o n) := .of_same rfl rfl rfl rfl
theorem Adds.burn (s : State) : Adds c [] s s.burn := .of_same rfl rfl rfl rfl
theorem Adds.send (s : State) (o : Out) : Adds c [] s (s.send o) := .of_same rfl rfl rfl rfl
theorem Adds.raise (s : State) (n : Nat) : Adds c [] s (s.raise n) := .of_same rfl rfl rfl rfl

theorem Adds.putRef (s : State) (k : Nat) (r : Ref) (v : List Byte) : Adds c [] s (s.putRef k r v) := .regWrite ..

theorem Adds.putHold (s : State) (k : Nat) (d : RouteTab) (row : Nat) (v : List Byte) : Adds c [] s (s.putHold k d row v) :=
  (Adds.regUndef ..).and_nothing (.putRef ..)

/-! ### Sending changes the links alone -/

theorem putOnPort_links (s : State) (p ty : Nat) (fr : Frame) : ∃ k o, s.putOnPort p ty fr = { s with lnk := k, out := o } := by
  unfold State.putOnPort
  dsimp only
  split <;> exact ⟨_, _, rfl⟩

theorem rotate_links (s : State) (ty d : Nat) : ∃ k, s.rotate ty d = { s with lnk := k } := by
  unfold State.rotate
  split <;> exact ⟨_, rfl⟩

/-- A frame that is sent changes the link layer and what the device has sent, and nothing else. -/
theorem sendFrame_links (s : State) (cmd ty : Nat) (fr : Frame) : ∃ k o, s.sendFrame cmd ty fr = { s with lnk := k, out := o } := by
  unfold State.sendFrame
  dsimp only
  split
  · exact ⟨_, _, rfl⟩
  · split
    · split <;> exact ⟨_, _, rfl⟩
    · split
      · exact ⟨_, _, rfl⟩
      next p _ =>
        obtain ⟨k, hk⟩ := rotate_links s ty (s.stamp fr).dst
        obtain ⟨k', o, hp⟩ := putOnPort_links (s.rotate ty (s.stamp fr).dst) p ty (s.stamp fr)
        split
        · exact ⟨_, _, by rw [hk]; rfl⟩
        · rw [hp, hk]
          split <;> exact ⟨_, _, rfl⟩

theorem Adds.sendFrame (s : State) (cmd ty : Nat) (fr : Frame) : Adds c [] s (s.sendFrame cmd ty fr) := by
  obtain ⟨k, o, h⟩ := sendFrame_links s cmd ty fr
  rw [h]
  exact .of_same rfl rfl rfl rfl

theorem Adds.sendMark (s : State) (dev dstCtx srcCtx : Nat) (a : PassArgs) (kind count : Nat) :
    Adds c [] s (s.sendMark dev dstCtx srcCtx a kind count) := by
  unfold State.sendMark State.sendPass
  split
  · exact .refl c s
  · exact (Adds.sendFrame ..).and_nothing (.send ..)

/-! ### What a RUN leaves at its commit -/

theorem Adds.sendCommits (s : State) (x : Cmd) (b : Nat) : Adds c [] s (s.sendCommits x b) := by
  unfold State.sendCommits
  split
  · exact .refl c s
  · exact .foldl _ (fun s q _ => Adds.sendFrame ..) s

theorem Adds.blocksCommit (s : State) (x : Cmd) : Adds c [] s (s.blocksCommit x) := by
  have hsent := Adds.foldl (c := c) x.blocks (fun s b _ => Adds.sendCommits s x b) s
  refine ((hsent.and_nothing (.burn _)).and_nothing (.burn _)).and_nothing (.foldl _ (fun s b _ => ?_) _)
  exact .updBlock ..

theorem Adds.markTok (s : State) (x : Cmd) (k : Tok) (phase : Nat) : Adds c [] s (s.markTok x k phase) := by
  unfold State.markTok
  refine .foldl _ (fun s i _ => ?_) s
  split
  · split
    · exact (Adds.updTab ..).and_nothing (.sendMark ..)
    · exact .refl c s
  · exact .refl c s

theorem Adds.commitTok (s : State) (x : Cmd) (k : Tok) : Adds c [] s (s.commitTok x k) := by
  unfold State.commitTok
  extract_lets d a e g
  have ha : Adds c [] s a := (Adds.putRef ..).and_nothing (.burn _)
  have he : Adds c [] a e := .foldl _ (fun s h _ => Adds.putHold ..) a
  have hg : Adds c [] e g := .updTab ..
  exact ((ha.and_nothing he).and_nothing hg).and_nothing (.markTok ..)

theorem Adds.toksCommit (s : State) (x : Cmd) : Adds c [] s (s.toksCommit x) :=
  .foldl _ (fun s k _ => Adds.commitTok s x k) s

theorem Adds.addHold (s : State) (k w : Nat) (v : BitVec 16) : Adds c [] s (s.addHold k w v) := by
  unfold State.addHold
  dsimp only
  split <;> exact .of_same rfl rfl rfl rfl

theorem Adds.removeHold (s : State) (k w : Nat) (v : BitVec 16) : Adds c [] s (s.removeHold k w v) := by
  unfold State.removeHold
  split
  · exact .of_same rfl rfl rfl rfl
  · exact .refl c s

theorem Adds.bindCommit (s : State) (x : Cmd) : Adds c [] s (s.bindCommit x) := by
  unfold State.bindCommit
  refine .foldl _ (fun s b _ => ?_) s
  split
  · exact .addHold ..
  · split
    · exact .removeHold ..
    · exact .refl c s

/-- What the commit of a RUN does beside its staging and its SIGNALs touches no signal. -/
theorem Adds.opCommit_run (s : State) {x : Cmd} {r : RunP} (hop : x.op = .run r) : Adds c [] s (s.opCommit x) := by
  rw [State.opCommit, hop]
  exact ((Adds.blocksCommit s x).and_nothing (.toksCommit _ x)).and_nothing (.bindCommit _ x)

/-! ### The record -/

theorem Adds.unbind (s : State) (x : Cmd) : Adds c [] s (s.unbind x) :=
  .foldl _ (fun s b _ => Adds.updWeight s b.1 (fun w => w.uncount b.2 1)) s

theorem Adds.account (s : State) (g k i n : Nat) : Adds c [] s (s.account g k i n) := by
  refine (Adds.updStrm s g _).and_nothing (.updCtx ?_ ?_ _ k) <;> exact fun _ => rfl

theorem Adds.updCq (s : State) (k q : Nat) (f : Cq → Cq) : Adds c [] s (s.updCq k q f) := by
  refine .updCtx ?_ ?_ s k <;> exact fun _ => rfl

theorem Adds.writeRecord (s : State) (x : Cmd) : Adds c [] s (s.writeRecord x) := by
  unfold State.writeRecord
  extract_lets q u v i l w z
  have hu : Adds c [] s u := by
    unfold u
    split
    · exact .account ..
    · exact .refl c s
  have hv : Adds c [] s v := hu.and_nothing (.updCq ..)
  have hw : Adds c [] s w := hv.and_nothing (.regWrite ..)
  have hz : Adds c [] s z := hw.and_nothing (.updCq ..)
  split
  · exact hv
  · split
    · exact hz.and_nothing (.raise ..)
    · exact hz

/-- R49 step 3, R180: a RUN that ends with its commit leaves the Dispatcher, and the additions are those of the SIGNALs that it kept. -/
theorem commitCmd_run (s : State) {x : Cmd} {r : RunP} (hop : x.op = .run r) (hfinal : x.final = true) :
    ∃ u, s.commitCmd x = u.dropCmd x.id ∧ Adds x.ctx x.sigs s u := by
  have hends : x.ends = true := by simp [Cmd.ends, hfinal, hop]
  have hland : Adds x.ctx [] s { s with hbm := s.hbm.land x.writes, census := landCensus x.ctx x.census s.census } :=
    .of_same rfl rfl rfl rfl
  have hsigs := (hland.trans (.addSignals x.ctx x.sigs _)).and_nothing (.opCommit_run _ hop)
  refine ⟨_, ?_, (hsigs.and_nothing (.unbind _ x)).and_nothing (.writeRecord _ x)⟩
  rw [State.commitCmd, if_pos hends, State.finish]

/-! ### Resets in a window (R383) -/

theorem takeResets_of_noReset {s : State} (h : ∀ k, (s.ctx k).reset = none) : s.takeResets = s :=
  foldl_eq_self fun k _ => by rw [h]

/-- With no reset open none finishes; only purges that are over are forgotten, and the memory that they held. -/
theorem finishResets_of_noReset {s : State} (h : ∀ k, (s.ctx k).reset = none) :
    s.finishResets = ({ s with purges := s.purges.filter (fun p => p.cmd.isNone || !p.owed.isEmpty) } : State).pruneOwed := by
  unfold State.finishResets
  rw [foldl_eq_self fun k _ => by rw [h]]

theorem Adds.finishResets {s : State} (h : ∀ k, (s.ctx k).reset = none) : Adds c [] s s.finishResets := by
  rw [finishResets_of_noReset h]
  exact .of_same rfl rfl rfl rfl

/-! ### The commits of a window with one done command in it (R49) -/

/-- What `State.Lone` says of everything but the beat. -/
structure Alone (s : State) (x : Cmd) : Prop where
  cmds : s.cmds = [x]
  done : x.phase = .done
  fail : x.fail = none
  peer : x.peerEpoch = none
  lost : x.lostBlk = none
  carried : x.carried = false
  reset : ∀ k, (s.ctx k).reset = none
  purges : s.purges = []
  owed : s.hbmOwed = []
  fence : s.fence.atWindow = false
  clears : s.cens.clears = []
  spillJobs : s.spillJobs = []
  tabs : NoTabs s
  slots : ∀ q ∈ s.parts, q.2.slots = []

theorem Alone.withBeat {x : Cmd} (h : Alone s x) (b : Beat) : Alone { s with beat := b } x := { h with }

theorem alone_of_lone {x : Cmd} (h : s.Lone x) : Alone s x := by
  obtain ⟨-, -, -, hcmds, hdone, hfail, hpeer, hlost, hcarried, hreset, hpurges, howed, hfence, hclears, hjobs, hparts⟩ := h
  refine ⟨hcmds, hdone, hfail, hpeer, hlost, hcarried, fun k => ?_, hpurges, howed, hfence, hclears, hjobs,
    fun q hq => (hparts q hq).1, fun q hq => (hparts q hq).2⟩
  rcases Tab.get_eq_or_mem {} s.ctxs k with hk | hk
  · rw [State.ctx, hk]
  · exact hreset _ hk

section
variable {x : Cmd} (h : Alone s x)
include h

/-- Step 1 fixes the set of done commands, and how many of them may commit. -/
theorem Alone.fixDone (n : Nat) (cycles : List (Nat × Nat)) :
    s.fixDone n cycles = { s with beat := { s.beat with winDone := [x.id], winLeft := n } } := by
  simp [State.fixDone, h.cmds, h.done]

theorem Alone.countOverruns : s.countOverruns = s := by
  simp [State.countOverruns, h.cmds, h.done]

theorem Alone.finishResets : s.finishResets = s := by
  rw [finishResets_of_noReset h.reset]
  simp only [State.pruneOwed, h.purges, h.owed, List.filter_nil]
  simp only [← h.purges, ← h.owed]

theorem Alone.takeFence : s.takeFence = s := by
  simp [State.takeFence, h.fence]

theorem Alone.takePeers : s.takePeers = s := by
  simp [State.takePeers, h.cmds, h.peer]

theorem Alone.takeLost : s.takeLost = s := by
  simp [State.takeLost, h.cmds, h.lost]

theorem Alone.takeClears : s.takeClears = s := by
  simp only [State.takeClears, h.clears, List.foldl_nil]
  simp only [← h.clears]

theorem Alone.sealReady : s.sealReady = s := by
  unfold State.sealReady
  dsimp only
  rw [List.flatMap_eq_nil_iff.mpr fun q hq => by rw [h.slots q hq, List.flatMap_nil], List.foldl_nil]

/-- Step 3 commits the one command that is done. -/
theorem Alone.commits (hwin : s.beat.winDone = [x.id]) (hleft : s.beat.winLeft ≠ 0) (hclose : s.closeFail x = none) :
    s.commits = { s.commitCmd x with beat :=
      { ((s.commitCmd x).turned x.id).beat with winLeft := s.beat.winLeft - 1 } } := by
  have hcmd : s.cmd x.id = some x := by simp [State.cmd, h.cmds]
  have hfirst : s.blockedBy x = [] := by simp [State.blockedBy, h.cmds]
  have hturn : State.turnOf (s, s.beat.winLeft) x.id = ((s.commitCmd x).turned x.id, s.beat.winLeft - 1) := by
    simp [State.turnOf, hcmd, hfirst, h.done, hwin, h.fail, hclose, hleft]
  simp [State.commits, h.cmds, h.done, h.carried, hturn, State.turned]

end

/-- The commit capacity of even the shortest window is not 0 (R52). -/
theorem capacity_pos (o : WindowObs) {n : Nat} (h : 1 ≤ n) : Nat.max o.capacity ((n * 1000 - 500) * 400 / 1000) ≠ 0 := by
  have hright : (n * 1000 - 500) * 400 / 1000 ≤ Nat.max o.capacity ((n * 1000 - 500) * 400 / 1000) := Nat.le_max_right ..
  omega

/-- Steps 1 to 3 for one done command: the set of done commands is fixed, no reset, fence, loss, clear or seal takes effect, and the
command commits. -/
theorem Alone.window {x : Cmd} (h : Alone s x) (o : WindowObs) (hsaddle : 1 ≤ s.beat.saddleCur.toNat)
    (hclose : ∀ v : State, v.closeFail x = none) :
    ∃ b b', s.window o =
      (((({ State.commitCmd { s with beat := b } x with beat := b' } : State).permWindow).retSignals).commitSpills).finishResets := by
  unfold State.window
  dsimp only
  rw [h.fixDone]
  have hv := h.withBeat { s.beat with
    winDone := [x.id], winLeft := Nat.max o.capacity ((s.beat.saddleCur.toNat * 1000 - 500) * 400 / 1000) }
  rw [hv.countOverruns, takeResets_of_noReset hv.reset, hv.finishResets, hv.takeFence, hv.takePeers, hv.takeLost, hv.takeClears,
    hv.sealReady, hv.commits rfl (capacity_pos o hsaddle) (hclose _)]
  exact ⟨_, _, rfl⟩

/-! ### The rest of the window -/

theorem permWindow_of_noCmds (h : s.cmds = []) : s.permWindow = s := by
  simp [State.permWindow, h]

theorem commitSpills_of_noJobs (h : s.spillJobs = []) : s.commitSpills = s := by
  simp only [State.commitSpills, h, List.map_nil, List.filter_nil, List.foldl_nil]
  simp only [← h]

/-- Without routing tables no returns are complete. -/
theorem Adds.retSignals (h : NoTabs s) : Adds c [] s s.retSignals := by
  unfold State.retSignals
  extract_lets todo u
  have hnone : todo = [] := List.flatMap_eq_nil_iff.mpr fun q hq => by rw [h q hq, List.flatMap_nil]
  rw [hnone, List.foldl_nil]
  refine ⟨rfl, rfl, fun _ => rfl, fun _ q hq => ?_, fun _ => (BitVec.add_zero _).symm⟩
  obtain ⟨p, hp, rfl⟩ := List.mem_map.mp hq
  rw [h p hp, List.map_nil]

/-- What follows the commits adds nothing, once no command is left. -/
theorem Adds.afterCommits (hcmds : s.cmds = []) (hjobs : s.spillJobs = []) (hreset : ∀ k, (s.ctx k).reset = none) (htabs : NoTabs s) :
    Adds c [] s (((s.permWindow).retSignals).commitSpills).finishResets := by
  have hret := Adds.retSignals (c := c) htabs
  rw [permWindow_of_noCmds hcmds, commitSpills_of_noJobs (hret.spillJobs.trans hjobs)]
  exact hret.and_nothing (.finishResets fun k => (hret.reset k).trans (hreset k))

/-- R49, R180: the window of a beat in which one RUN is done commits it, and the signals of its context take the additions that it kept. -/
theorem Alone.window_run {x : Cmd} (h : Alone s x) (o : WindowObs) (hsaddle : 1 ≤ s.beat.saddleCur.toNat) {r : RunP}
    (hop : x.op = .run r) (hfinal : x.final = true) :
    (s.window o).cmds = [] ∧
      ∀ n, Tab.get 0 ((s.window o).ctx x.ctx).sig n = Tab.get 0 (s.ctx x.ctx).sig n + signalSum x.sigs n := by
  obtain ⟨b, b', hwindow⟩ := h.window o hsaddle fun v => by rw [State.closeFail, hop]
  obtain ⟨u, hcommit, hu⟩ := commitCmd_run { s with beat := b } hop hfinal
  rw [hcommit] at hwindow
  have hcmds : (u.dropCmd x.id).cmds = [] := by simp [hu.cmds, h.cmds]
  have hrest : Adds x.ctx [] { u.dropCmd x.id with beat := b' } (s.window o) := by
    rw [hwindow]
    exact .afterCommits hcmds (hu.spillJobs.trans h.spillJobs) (fun k => (hu.reset k).trans (h.reset k)) (hu.tabs h.tabs)
  refine ⟨hrest.cmds.trans hcmds, fun n => ?_⟩
  calc Tab.get 0 ((s.window o).ctx x.ctx).sig n
    _ = Tab.get 0 (u.ctx x.ctx).sig n + signalSum [] n := hrest.sig n
    _ = Tab.get 0 (u.ctx x.ctx).sig n := by simp
    _ = Tab.get 0 (s.ctx x.ctx).sig n + signalSum x.sigs n := hu.sig n

theorem exec_saddleWindowOpen (o : WindowObs) (s : State) : exec (.saddleWindowOpen o) s = .next (s.openWindow o) := rfl

/-- SADDLE_WINDOW_OPEN in a device that is ready, before its window of the beat. -/
theorem openWindow_of_lone {x : Cmd} (h : s.Lone x) (o : WindowObs) :
    ∃ b : Beat, b.saddleCur = s.beat.saddleCur ∧ s.openWindow o = (State.window { s with beat := b } o).settle := by
  obtain ⟨hpower, hready, hclosed, -⟩ := h
  refine ⟨{ s.beat with windowOpen := true, at_ := (s.beat.periodCur.toNat - s.beat.saddleCur.toNat) * 1000 }, rfl, ?_⟩
  simp [State.openWindow, hpower, hready, hclosed]

/-! ### SIGNAL on a block (R180) -/

theorem exec_syncSignal (b n : Nat) (v : BitVec 32) (s : State) : exec (.syncSignal b n v) s = .next (s.signalTI b n v) := rfl

theorem syncSignal_ordinal_zero {b n w : Nat} {v : BitVec 32} {x : Cmd} {p : Program} (h : s.Stands b (.sync 4 n v) x p w)
    (hord : (s.block b).ordinal = 0) :
    exec (.syncSignal b n v) s = .next ((s.setBlock b (s.block b).next).updCmd x.id (fun y =>
      { y with sigs := y.sigs ++ [(n, v.zeroExtend 64)] })).settle := by
  rw [exec_syncSignal, State.signalTI, State.withTI_next _ h.1 h.2, if_pos hord]
  rfl

theorem syncSignal_ordinal_ne {b n w : Nat} {v : BitVec 32} {x : Cmd} {p : Program} (h : s.Stands b (.sync 4 n v) x p w)
    (hord : (s.block b).ordinal ≠ 0) : exec (.syncSignal b n v) s = .next (s.setBlock b (s.block b).next).settle := by
  rw [exec_syncSignal, State.signalTI, State.withTI_next _ h.1 h.2, if_neg hord]
  rfl

/-- Settles O58: on the block, by its ordinal; at the commit, since of all that a window does with one RUN only the fold over the
SIGNALs kept changes a signal of the RUN's context. -/
theorem signalAtCommit : Obligations.SignalAtCommit := by
  refine ⟨fun s b n v x p w h => ⟨syncSignal_ordinal_zero h, syncSignal_ordinal_ne h⟩, fun s x o r h hop hfinal hsaddle => ?_⟩
  obtain ⟨b, hsame, hopen⟩ := openWindow_of_lone h o
  obtain ⟨hcmds, hsig⟩ := ((alone_of_lone h).withBeat b).window_run o (by rwa [← hsame] at hsaddle) hop hfinal
  refine ⟨_, by rw [exec_saddleWindowOpen, hopen], ?_, fun n => ?_⟩
  · rw [State.settle_cmds, hcmds]
  · rw [State.ctx_settle]
    exact hsig n

end Sys2Proof.Proofs
end

section
/-! SUPPORT. The frame of the interrupt targets: what becomes of a command, link frames, layouts, acceptance, legs and collectives write
no register of a target. Of the controller these operations set pending bits at most (R457). -/

namespace Sys2Proof.Proofs

open Sys2Proof Sys2Proof.Machine

/-! ### Folds and branches -/

/-- The fold's step leaves every target as it was. A definition of its own, so that `simp` can prove it of the step where the rule of
the fold asks for it. -/
def KeepsTargets {α : Type} (f : State → α → State) : Prop := ∀ s a, (f s a).irq.targets = s.irq.targets

@[simp] theorem keepsTargets_iff {α : Type} {f : State → α → State} :
    KeepsTargets f ↔ ∀ s a, (f s a).irq.targets = s.irq.targets := ⟨id, id⟩

@[simp] theorem foldl_targets {α : Type} {f : State → α → State} (h : KeepsTargets f) (l : List α) (s : State) :
    (l.foldl f s).irq.targets = s.irq.targets := by
  induction l generalizing s with
  | nil => rfl
  | cons a l ih => exact (ih (f s a)).trans (h s a)

/-- The same of a fold that carries a second value. -/
theorem foldl_fst_targets {α β : Type} {f : State × β → α → State × β} (h : ∀ r a, (f r a).1.irq.targets = r.1.irq.targets)
    (l : List α) (r : State × β) : (l.foldl f r).1.irq.targets = r.1.irq.targets := by
  induction l generalizing r with
  | nil => rfl
  | cons a l ih => exact (ih (f r a)).trans (h r a)

@[simp] theorem ite_targets (c : Prop) [Decidable c] (s t : State) :
    (if c then s else t).irq.targets = if c then s.irq.targets else t.irq.targets := by
  split <;> rfl

/-! ### The controller's own operations -/

@[simp] theorem setPending_targets (q : Irq) (n : Nat) (v : Bool) : (q.setPending n v).targets = q.targets := by
  unfold Irq.setPending
  split
  · split <;> rfl
  · rfl

@[simp] theorem clearCtx_targets (q : Irq) (c : Nat) : (q.clearCtx c).targets = q.targets := by
  simp [Irq.clearCtx]

variable (s : State)

/-! ### Operations of the state -/

@[simp] theorem noteDev_targets (code : Nat) (payload : List Byte) : (s.noteDev code payload).irq.targets = s.irq.targets := rfl

@[simp] theorem stageRef_targets (id : Nat) (c : Nat) (ref : Ref) (l : List Byte) : (s.stageRef id c ref l).irq.targets = s.irq.targets :=
  rfl

/-! ### Loading (09) -/

@[simp] theorem placeAccept_targets (id c : Nat) (l : LoadP) : (placeAccept s id c l).irq.targets = s.irq.targets := rfl
@[simp] theorem dropHolds_targets (c : Nat) : (s.dropHolds c).irq.targets = s.irq.targets := by simp [State.dropHolds]
@[simp] theorem unload_targets (c : Nat) : (s.unload c).irq.targets = s.irq.targets := by simp [State.unload]
@[simp] theorem touch_targets (c region off n : Nat) : (s.touch c region off n).irq.targets = s.irq.targets := by simp [State.touch]
@[simp] theorem activate_targets (c : Nat) : (s.activate c).irq.targets = s.irq.targets := by simp [State.activate]

/-! ### Commands in flight (10, 11) -/

@[simp] theorem account_targets (g c i n : Nat) : (s.account g c i n).irq.targets = s.irq.targets := rfl
@[simp] theorem accountWait_targets (g c n : Nat) : (s.accountWait g c n).irq.targets = s.irq.targets := rfl
@[simp] theorem freeBlocks_targets (x : Cmd) : (s.freeBlocks x).irq.targets = s.irq.targets := by simp [State.freeBlocks]
@[simp] theorem forgetFrames_targets (cmd : Nat) : (s.forgetFrames cmd).irq.targets = s.irq.targets := rfl

@[simp] theorem kill_targets (id : Nat) : (s.kill id).irq.targets = s.irq.targets := by
  unfold State.kill
  split <;> simp

@[simp] theorem unbind_targets (x : Cmd) : (s.unbind x).irq.targets = s.irq.targets := by simp [State.unbind]
@[simp] theorem addHold_targets (c w : Nat) (v : BitVec 16) : (s.addHold c w v).irq.targets = s.irq.targets := by simp [State.addHold]

@[simp] theorem removeHold_targets (c w : Nat) (v : BitVec 16) : (s.removeHold c w v).irq.targets = s.irq.targets := by
  simp [State.removeHold]

@[simp] theorem collUndef_targets (x : Cmd) : (s.collUndef x).irq.targets = s.irq.targets := by simp [State.collUndef]
@[simp] theorem unplace_targets (c : Nat) : (s.unplace c).irq.targets = s.irq.targets := by simp [State.unplace]
@[simp] theorem endOptstep_targets (x : Cmd) (p : OptP) : (s.endOptstep x p).irq.targets = s.irq.targets := by simp [State.endOptstep]
@[simp] theorem restartSeq_targets (c g : Nat) : (s.restartSeq c g).irq.targets = s.irq.targets := rfl

@[simp] theorem undo_targets (x : Cmd) : (s.undo x).irq.targets = s.irq.targets := by
  unfold State.undo
  (repeat' split) <;> simp

@[simp] theorem cutLoad_targets (x : Cmd) (st : Nat) : (s.cutLoad x st).irq.targets = s.irq.targets := by simp [State.cutLoad]

@[simp] theorem dropHeld_targets (g : Nat) : (s.dropHeld g).irq.targets = s.irq.targets := by
  simp only [State.dropHeld]
  split <;> rfl

@[simp] theorem halt_targets (g : Nat) (st : Nat) : (s.halt g st).irq.targets = s.irq.targets := by simp [State.halt]

@[simp] theorem endWith_targets (id st kind ix : Nat) : (s.endWith id st kind ix).irq.targets = s.irq.targets := by
  unfold State.endWith
  split <;> simp

@[simp] theorem endAll_targets (ids : List Nat) (st kind ix : Nat) : (s.endAll ids st kind ix).irq.targets = s.irq.targets := by
  simp [State.endAll]

@[simp] theorem purge_targets (c i : Option Nat) (n : Nat) (l : List Nat) : (s.purge c i n l).1.irq.targets = s.irq.targets := rfl

/-! ### Link frames (12) -/

@[simp] theorem setPeer_targets (p : Peer) : (s.setPeer p).irq.targets = s.irq.targets := rfl
@[simp] theorem meet_targets (p d : Nat) : (s.meet p d).irq.targets = s.irq.targets := rfl
@[simp] theorem putOnPort_targets (p ty : Nat) (fr : Frame) : (s.putOnPort p ty fr).irq.targets = s.irq.targets := by simp [State.putOnPort]
@[simp] theorem portSend_targets (p ty : Nat) (fr : Frame) : (s.portSend p ty fr).irq.targets = s.irq.targets := by simp [State.portSend]
@[simp] theorem giveCredit_targets (p : Nat) : (s.giveCredit p).irq.targets = s.irq.targets := by simp [State.giveCredit]
@[simp] theorem oweCredit_targets (p ty n : Nat) : (s.oweCredit p ty n).irq.targets = s.irq.targets := rfl

@[simp] theorem flushPort_targets (p : Nat) : (s.flushPort p).irq.targets = s.irq.targets := by
  rw [State.flushPort, giveCredit_targets]
  refine foldl_targets (fun s w => ?_) _ _
  split
  · rfl
  · simp

@[simp] theorem rotate_targets (ty d : Nat) : (s.rotate ty d).irq.targets = s.irq.targets := by simp [State.rotate]
@[simp] theorem remember_targets (u : Unacked) : (s.remember u).irq.targets = s.irq.targets := rfl

@[simp] theorem sendFrame_targets (cmd ty : Nat) (fr : Frame) : (s.sendFrame cmd ty fr).irq.targets = s.irq.targets := by
  simp only [State.sendFrame]
  (repeat' split) <;> simp

@[simp] theorem sendFrames_targets (cmd ty : Nat) (l : List Frame) : (s.sendFrames cmd ty l).irq.targets = s.irq.targets := by
  simp [State.sendFrames]

@[simp] theorem resendAt_targets (i : Nat) : (s.resendAt i).irq.targets = s.irq.targets := by
  unfold State.resendAt
  (repeat' split) <;> simp

@[simp] theorem flushWaiting_targets (n : Nat) (s : State) : (State.flushWaiting n s).irq.targets = s.irq.targets := by
  induction n generalizing s with
  | zero => rfl
  | succ n ih =>
    unfold State.flushWaiting
    split <;> simp [ih]

@[simp] theorem markPeer_targets (d : Nat) : (s.markPeer d).irq.targets = s.irq.targets := rfl
@[simp] theorem resetChans_targets (f : ChanEnt → Bool) : (s.resetChans f).irq.targets = s.irq.targets := rfl
@[simp] theorem learn_targets (fr : Frame) : (s.learn fr).irq.targets = s.irq.targets := by simp [State.learn]
@[simp] theorem hopTake_targets (p ty lseq units : Nat) : (s.hopTake p ty lseq units).irq.targets = s.irq.targets := by simp [State.hopTake]

@[simp] theorem hopAnswer_targets (ty : Nat) (fr : Frame) : (s.hopAnswer ty fr).irq.targets = s.irq.targets := by
  unfold State.hopAnswer
  split <;> simp

@[simp] theorem countStray_targets : s.countStray.irq.targets = s.irq.targets := rfl
@[simp] theorem countDup_targets : s.countDup.irq.targets = s.irq.targets := rfl
@[simp] theorem countLate_targets : s.countLate.irq.targets = s.irq.targets := rfl
@[simp] theorem dropFrame_targets (ty : Nat) (fr : Frame) : (s.dropFrame ty fr).irq.targets = s.irq.targets := by simp [State.dropFrame]

@[simp] theorem withFrame_targets (ty : Nat) (fr : Frame) (f : State → State) (hf : ∀ s, (f s).irq.targets = s.irq.targets) :
    (s.withFrame ty fr f).irq.targets = s.irq.targets := by
  obtain ⟨-, h⟩ | ⟨-, -, h⟩ | ⟨-, u, hu, h⟩ := s.withFrame_cases ty fr f
  · rw [h]
  · rw [h, dropFrame_targets]
  · obtain ⟨-, -, -, -, rfl⟩ := State.receive_some hu
    rw [h, hf, learn_targets, hopAnswer_targets]

@[simp] theorem ack_targets (fr : Frame) : (s.ack fr).irq.targets = s.irq.targets := by simp [State.ack]

@[simp] theorem notReady_targets (fr : Frame) (refused : Bool) : (s.notReady fr refused).irq.targets = s.irq.targets := by
  simp [State.notReady]

/-! ### Layouts and mode changes (11) -/

@[simp] theorem setNext_targets (l : List Layout) : (s.setNext l).irq.targets = s.irq.targets := rfl
@[simp] theorem armMode_targets (target : Nat) (idle : Bool) : (s.armMode target idle).irq.targets = s.irq.targets := rfl
@[simp] theorem disarmMode_targets : s.disarmMode.irq.targets = s.irq.targets := by simp [State.disarmMode]
@[simp] theorem modeRefuse_targets (c : Nat) : (s.modeRefuse c).irq.targets = s.irq.targets := by simp [State.modeRefuse]
@[simp] theorem pendLayout_targets (l : List Layout) : (s.pendLayout l).irq.targets = s.irq.targets := by simp [State.pendLayout]

@[simp] theorem rebuildPart_targets (n : Nat) (new : Layout) : (s.rebuildPart n new).irq.targets = s.irq.targets := by
  simp [State.rebuildPart]

@[simp] theorem latchLayout_targets : s.latchLayout.irq.targets = s.irq.targets := by simp [State.latchLayout]

/-! ### Acceptance of a packet (10) -/

@[simp] theorem takePacket_targets (g : Nat) : (s.takePacket g).irq.targets = s.irq.targets := rfl

@[simp] theorem refuse_targets (g : Nat) (h : Hdr) (op : Op) (f : Nat × Nat × Nat) : (s.refuse g h op f).irq.targets = s.irq.targets := by
  simp [State.refuse]

@[simp] theorem startColl_targets (id c g : Nat) (epoch : BitVec 32) (unit : Nat) :
    (s.startColl id c g epoch unit).irq.targets = s.irq.targets := rfl

@[simp] theorem startReset_targets (t : Nat) (cmd : Option Nat) (destroy : Bool) (beat : Nat) :
    (s.startReset t cmd destroy beat).irq.targets = s.irq.targets := by
  simp [State.startReset]

@[simp] theorem killAll_targets (t : Nat) : (s.killAll t).irq.targets = s.irq.targets := by simp [State.killAll]
@[simp] theorem takeBinds_targets (id : Nat) (op : Op) : (s.takeBinds id op).irq.targets = s.irq.targets := by simp [State.takeBinds]

@[simp] theorem onAccept_targets (id c : Nat) (op : Op) : (s.onAccept id c op).irq.targets = s.irq.targets := by
  unfold State.onAccept
  split <;> simp

@[simp] theorem requestFlags_targets (g : Nat) (h : Hdr) : (s.requestFlags g h).irq.targets = s.irq.targets := rfl
@[simp] theorem accept_targets (g : Nat) (h : Hdr) (op : Op) : (s.accept g h op).irq.targets = s.irq.targets := by simp [State.accept]
@[simp] theorem holdPacket_targets (g : Nat) (h : Hdr) (op : Op) : (s.holdPacket g h op).irq.targets = s.irq.targets := rfl

@[simp] theorem checkPacket_targets (g : Nat) (h : Hdr) (op : Op) : (s.checkPacket g h op).irq.targets = s.irq.targets := by
  unfold State.checkPacket
  (repeat' split) <;> simp

@[simp] theorem retryHeld_targets (g : Nat) : (s.retryHeld g).irq.targets = s.irq.targets := by
  unfold State.retryHeld
  split <;> simp

@[simp] theorem retryAll_targets (pt : Nat) : (s.retryAll pt).irq.targets = s.irq.targets := by simp [State.retryAll]
@[simp] theorem fetchOp_targets (g : Nat) (h : Hdr) (op : Op) : (s.fetchOp g h op).irq.targets = s.irq.targets := by simp [State.fetchOp]

/-! ### Legs within the device (02, 10) -/

@[simp] theorem stageTrained_targets (x : Cmd) (ref : Ref) (l : List Byte) : (s.stageTrained x ref l).irq.targets = s.irq.targets := by
  simp [State.stageTrained]

@[simp] theorem copyGroup_targets (x : Cmd) (p : CopyP) (k : Nat) : (s.copyGroup x p k).irq.targets = s.irq.targets := by
  simp [State.copyGroup]

@[simp] theorem copyLeg_targets (x : Cmd) (p : CopyP) (i n : Nat) : (s.copyLeg x p i n).irq.targets = s.irq.targets := by
  simp [State.copyLeg]

@[simp] theorem fillLeg_targets (x : Cmd) (p : FillP) (i n : Nat) : (s.fillLeg x p i n).irq.targets = s.irq.targets := by
  simp [State.fillLeg]

@[simp] theorem verifyLeg_targets (x : Cmd) : (s.verifyLeg x).irq.targets = s.irq.targets := rfl
@[simp] theorem normLocal_targets (x : Cmd) (p : NormP) : (s.normLocal x p).irq.targets = s.irq.targets := rfl
@[simp] theorem packTileAt_targets (x : Cmd) (p : OptP) (k : Nat) : (s.packTileAt x p k).irq.targets = s.irq.targets := rfl

@[simp] theorem localLeg_targets (x : Cmd) : (s.localLeg x).irq.targets = s.irq.targets := by
  unfold State.localLeg
  split <;> simp

/-! ### Collectives and PERMUTE (12) -/

@[simp] theorem sendShard_targets (x : Cmd) (m : Nat × Nat × Nat) (j lo n : Nat) (rd : Nat → Nat → List Byte) :
    (s.sendShard x m j lo n rd).irq.targets = s.irq.targets := by
  simp [State.sendShard]

@[simp] theorem collOwn_targets (x : Cmd) : (s.collOwn x).irq.targets = s.irq.targets := by simp [State.collOwn]
@[simp] theorem collSend_targets (x : Cmd) : (s.collSend x).irq.targets = s.irq.targets := by simp [State.collSend]

@[simp] theorem settleColl_targets (id : Nat) : (s.settleColl id).irq.targets = s.irq.targets := by
  unfold State.settleColl
  split <;> simp

@[simp] theorem collVoid_targets (id : Nat) : (s.collVoid id).irq.targets = s.irq.targets := by
  unfold State.collVoid
  split <;> simp

@[simp] theorem voidColls_targets : s.voidColls.irq.targets = s.irq.targets := by simp [State.voidColls]

@[simp] theorem collLeg_targets (x : Cmd) : (s.collLeg x).irq.targets = s.irq.targets := by
  simp only [State.collLeg]
  split <;> simp

@[simp] theorem collLand_targets (x : Cmd) : (s.collLand x).irq.targets = s.irq.targets := by simp [State.collLand]

@[simp] theorem collTake_targets (x : Cmd) (pos : Nat) (fr : Frame) : (s.collTake x pos fr).irq.targets = s.irq.targets := by
  simp [State.collTake]

@[simp] theorem collData_targets (fr : Frame) : (s.collData fr).irq.targets = s.irq.targets := by
  refine withFrame_targets _ _ _ _ (fun s => ?_)
  split <;> split <;> simp

@[simp] theorem collAbort_targets (fr : Frame) : (s.collAbort fr).irq.targets = s.irq.targets := by simp [State.collAbort]

@[simp] theorem permPut_targets (c pos region off : Nat) (l : List Byte) : (s.permPut c pos region off l).irq.targets = s.irq.targets := by
  simp [State.permPut]

@[simp] theorem permMove_targets (x : Cmd) (p : PermP) (m : Move × Nat × Nat) : (s.permMove x p m).irq.targets = s.irq.targets := by
  simp [State.permMove]

@[simp] theorem settlePerm_targets (id : Nat) : (s.settlePerm id).irq.targets = s.irq.targets := by
  unfold State.settlePerm
  (repeat' split) <;> rfl

@[simp] theorem permIssue_targets (x : Cmd) (p : PermP) : (s.permIssue x p).irq.targets = s.irq.targets := by simp [State.permIssue]

@[simp] theorem cursorWrite_targets (x : Cmd) (p : PermP) (o : Nat) (l : List Byte) :
    (s.cursorWrite x p o l).irq.targets = s.irq.targets := rfl

@[simp] theorem permCommit_targets (x : Cmd) (p : PermP) : (s.permCommit x p).irq.targets = s.irq.targets := by simp [State.permCommit]

@[simp] theorem permRecord_targets (x : Cmd) (p : PermP) : (s.permRecord x p).irq.targets = s.irq.targets := by
  refine foldl_targets (fun s i => ?_) _ _
  dsimp only
  split
  · rfl
  · split <;> rfl

@[simp] theorem permFinish_targets (x : Cmd) (p : PermP) : (s.permFinish x p).irq.targets = s.irq.targets := by simp [State.permFinish]
@[simp] theorem permLost_targets (fr : Frame) : (s.permLost fr).irq.targets = s.irq.targets := by simp [State.permLost]

@[simp] theorem permData_targets (fr : Frame) : (s.permData fr).irq.targets = s.irq.targets := by
  refine withFrame_targets _ _ _ _ (fun s => ?_)
  split <;> simp

@[simp] theorem permMark_targets (fr : Frame) : (s.permMark fr).irq.targets = s.irq.targets := by
  refine withFrame_targets _ _ _ _ (fun s => ?_)
  split <;> simp

end Sys2Proof.Proofs
end

section
/-! SUPPORT. The frame of the interrupt targets, continued: routing, issue points, channels and the saddle window. -/

namespace Sys2Proof.Proofs

open Sys2Proof Sys2Proof.Machine

variable (s : State)

/-! ### Conditional routing (08) -/

@[simp] theorem sendPass_targets (cmd ty : Nat) (fr : Frame) (a : PassArgs) (nums : List Nat) :
    (s.sendPass cmd ty fr a nums).irq.targets = s.irq.targets := by
  simp [State.sendPass]

@[simp] theorem sendMark_targets (dev dstCtx srcCtx : Nat) (a : PassArgs) (kind count : Nat) :
    (s.sendMark dev dstCtx srcCtx a kind count).irq.targets = s.irq.targets := by
  simp [State.sendMark]

@[simp] theorem withPass_targets (ty : Nat) (fr : Frame) (f : State → State) (hf : ∀ s, (f s).irq.targets = s.irq.targets) :
    (s.withPass ty fr f).irq.targets = s.irq.targets := by
  simp [State.withPass, hf]

@[simp] theorem passLate_targets : s.passLate.irq.targets = s.irq.targets := rfl
@[simp] theorem passRefused_targets (id : Nat) : (s.passRefused id).irq.targets = s.irq.targets := by simp [State.passRefused]
@[simp] theorem updTab_targets (pt table : Nat) (f : RTable → RTable) : (s.updTab pt table f).irq.targets = s.irq.targets := rfl

@[simp] theorem offer_targets (x : Cmd) (k : Tok) (i : Nat) : (s.offer x k i).1.irq.targets = s.irq.targets := by
  unfold State.offer
  split
  · rfl
  · split <;> simp

@[simp] theorem offerSpare_targets (n : Nat) (s : State) (x : Cmd) (k : Tok) :
    (State.offerSpare n s x k).1.irq.targets = s.irq.targets := by
  induction n generalizing s k with
  | zero => rfl
  | succ n ih =>
    unfold State.offerSpare
    split
    · rfl
    · dsimp only
      split <;> simp [ih]

@[simp] theorem holdEntry_targets (x : Cmd) (k : Tok) (i : Nat) : (s.holdEntry x k i).1.irq.targets = s.irq.targets := by
  unfold State.holdEntry
  dsimp only
  split <;> rfl

@[simp] theorem settleRefused_targets (x : Cmd) (k : Tok) : (s.settleRefused x k).1.irq.targets = s.irq.targets := by
  refine foldl_fst_targets (fun r i => ?_) _ (s, k)
  (repeat' split) <;> simp

@[simp] theorem advance_targets (x : Cmd) (k : Tok) : (s.advance x k).1.irq.targets = s.irq.targets := by
  simp only [State.advance]
  (repeat' split) <;> simp

@[simp] theorem dispatchTok_targets (id : Nat) (k : Tok) (prims : List Nat) :
    (s.dispatchTok id k prims).irq.targets = s.irq.targets := by
  unfold State.dispatchTok
  split
  · rfl
  · simp only [State.updCmd_irq, advance_targets]
    exact foldl_fst_targets (fun r i => offer_targets ..) _ _

@[simp] theorem dispatchNew_targets (id c table : Nat) (b : BitVec 16) (token : Nat) (origin : Option Nat) (row grec : List Byte) :
    (s.dispatchNew id c table b token origin row grec).irq.targets = s.irq.targets := by
  simp [State.dispatchNew]

@[simp] theorem settleTries_targets (id : Nat) : (s.settleTries id).irq.targets = s.irq.targets := rfl

@[simp] theorem passReply_targets (fr : Frame) (a : PassArgs) (pos : Option Nat) :
    (s.passReply fr a pos).irq.targets = s.irq.targets := by
  refine withPass_targets _ _ _ _ (fun s => ?_)
  split
  · simp
  · split <;> simp

@[simp] theorem updSlot_targets (pt slot : Nat) (f : SlotSt → SlotSt) : (s.updSlot pt slot f).irq.targets = s.irq.targets := rfl

@[simp] theorem slotUndef_targets (d : SlotDesc) (r : Ref) (j : Nat) : (s.slotUndef d r j).irq.targets = s.irq.targets := by
  simp [State.slotUndef]

@[simp] theorem answerTry_targets (fr : Frame) (a : PassArgs) (pos : Option Nat) (disabled : Bool) :
    (s.answerTry fr a pos disabled).irq.targets = s.irq.targets := by
  simp [State.answerTry]

@[simp] theorem passTry_targets (fr : Frame) (a : PassArgs) : (s.passTry fr a).irq.targets = s.irq.targets := by
  refine withPass_targets _ _ _ _ (fun s => ?_)
  dsimp only
  split
  · simp
  · split
    · simp
    · split
      · split <;> simp
      · split <;> simp

@[simp] theorem putRef_targets (c : Nat) (r : Ref) (l : List Byte) : (s.putRef c r l).irq.targets = s.irq.targets := rfl

@[simp] theorem putHold_targets (c : Nat) (d : RouteTab) (row : Nat) (l : List Byte) : (s.putHold c d row l).irq.targets = s.irq.targets :=
  rfl

@[simp] theorem markTok_targets (x : Cmd) (k : Tok) (phase : Nat) : (s.markTok x k phase).irq.targets = s.irq.targets := by
  refine foldl_targets (fun s i => ?_) _ _
  split
  · split <;> simp
  · rfl

@[simp] theorem commitTok_targets (x : Cmd) (k : Tok) : (s.commitTok x k).irq.targets = s.irq.targets := by simp [State.commitTok]

@[simp] theorem commitHeld_targets (x : Cmd) (k : Tok) : (s.commitHeld x k).irq.targets = s.irq.targets := by
  simp only [State.commitHeld, markTok_targets, updTab_targets, State.burn_irq]
  refine foldl_targets (fun s i => ?_) _ _
  split
  · split <;> rfl
  · rfl

@[simp] theorem openIssue_targets (x : Cmd) (p : RouteP) : (s.openIssue x p).irq.targets = s.irq.targets := by simp [State.openIssue]
@[simp] theorem openCommit_targets (x : Cmd) (p : RouteP) : (s.openCommit x p).irq.targets = s.irq.targets := by simp [State.openCommit]

@[simp] theorem closeCommit_targets (x : Cmd) (table phase : Nat) (batch : BitVec 16) :
    (s.closeCommit x table phase batch).irq.targets = s.irq.targets := by
  simp [State.closeCommit]

@[simp] theorem xsetCommit_targets (x : Cmd) (p : RouteP) : (s.xsetCommit x p).irq.targets = s.irq.targets := rfl

@[simp] theorem countsCommit_targets (x : Cmd) (p : RouteP) : (s.countsCommit x p).irq.targets = s.irq.targets := by
  simp [State.countsCommit]

@[simp] theorem dispatchLeg_targets (x : Cmd) (p : RouteP) : (s.dispatchLeg x p).irq.targets = s.irq.targets := by
  simp only [State.dispatchLeg]
  split <;> simp

@[simp] theorem retraceLeg_targets (x : Cmd) (p : RouteP) : (s.retraceLeg x p).irq.targets = s.irq.targets := by simp [State.retraceLeg]
@[simp] theorem settleRetrace_targets (id : Nat) : (s.settleRetrace id).irq.targets = s.irq.targets := by simp [State.settleRetrace]

@[simp] theorem saveRows_targets (x : Cmd) (d : RouteTab) (b : BitVec 16) (tk : Nat) (rows : List (Nat × W40 × List Byte)) :
    (s.saveRows x d b tk rows).irq.targets = s.irq.targets := by
  simp [State.saveRows]

@[simp] theorem combineTok_targets (x : Cmd) (p : CombineP) (fwd : Bool) (tk : Nat) :
    (s.combineTok x p fwd tk).irq.targets = s.irq.targets := by
  simp [State.combineTok]

@[simp] theorem combineLate_targets (x : Cmd) (p : CombineP) (tk : Nat) : (s.combineLate x p tk).irq.targets = s.irq.targets := by
  simp [State.combineLate]

@[simp] theorem slotLost_targets (id table : Nat) : (s.slotLost id table).irq.targets = s.irq.targets := rfl

@[simp] theorem combineEnd_targets (id : Nat) (p : CombineP) (fwd : Bool) : (s.combineEnd id p fwd).irq.targets = s.irq.targets := by
  simp only [State.combineEnd]
  (repeat' split) <;> simp

@[simp] theorem combineLeg_targets (x : Cmd) (p : CombineP) (fwd : Bool) : (s.combineLeg x p fwd).irq.targets = s.irq.targets := by
  unfold State.combineLeg
  split <;> simp

@[simp] theorem markSaved_targets (x : Cmd) (d : RouteTab) (b : BitVec 16) (tk : Nat) :
    (s.markSaved x d b tk).irq.targets = s.irq.targets := rfl

@[simp] theorem combineCommit_targets (x : Cmd) (p : CombineP) (fwd : Bool) : (s.combineCommit x p fwd).irq.targets = s.irq.targets := by
  simp [State.combineCommit]

@[simp] theorem gradRow_targets (fr : Frame) (a : PassArgs) (pos : Nat) : (s.gradRow fr a pos).irq.targets = s.irq.targets := by
  unfold State.gradRow
  (repeat' split) <;> simp

@[simp] theorem pulledRow_targets (fr : Frame) (a : PassArgs) : (s.pulledRow fr a).irq.targets = s.irq.targets := by
  unfold State.pulledRow
  split <;> simp

@[simp] theorem passRow_targets (fr : Frame) (a : PassArgs) (pos : Nat) : (s.passRow fr a pos).irq.targets = s.irq.targets := by
  refine withPass_targets _ _ _ _ (fun s => ?_)
  (repeat' split) <;> simp

@[simp] theorem slotMark_targets (fr : Frame) (a : PassArgs) (kind count : Nat) :
    (s.slotMark fr a kind count).irq.targets = s.irq.targets := by
  unfold State.slotMark
  split <;> simp

@[simp] theorem originMark_targets (fr : Frame) (a : PassArgs) (kind : Nat) : (s.originMark fr a kind).irq.targets = s.irq.targets := by
  unfold State.originMark
  split <;> simp

@[simp] theorem passMark_targets (fr : Frame) (a : PassArgs) (kind count : Nat) :
    (s.passMark fr a kind count).irq.targets = s.irq.targets := by
  simp [State.passMark]

@[simp] theorem addSignal_targets (c n : Nat) (v : W64) : (s.addSignal c n v).irq.targets = s.irq.targets := rfl

@[simp] theorem sealBuf_targets (pt slot j ph : Nat) (forced : Bool) : (s.sealBuf pt slot j ph forced).irq.targets = s.irq.targets := by
  simp [State.sealBuf]

@[simp] theorem sealReady_targets : s.sealReady.irq.targets = s.irq.targets := by simp [State.sealReady]
@[simp] theorem retSignals_targets : s.retSignals.irq.targets = s.irq.targets := by simp [State.retSignals]

@[simp] theorem tellSources_targets (pt slot ph kind c : Nat) (b : BitVec 16) (who : List (Nat × Nat × Nat)) :
    (s.tellSources pt slot ph kind c b who).irq.targets = s.irq.targets := by
  simp [State.tellSources]

@[simp] theorem returnCommit_targets (x : Cmd) (p : RouteP) : (s.returnCommit x p).irq.targets = s.irq.targets := by
  simp [State.returnCommit]

@[simp] theorem forceCommit_targets (x : Cmd) (p : RouteP) : (s.forceCommit x p).irq.targets = s.irq.targets := by simp [State.forceCommit]

@[simp] theorem releaseSlots_targets (hit : Nat → SlotSt → Bool) : (s.releaseSlots hit).irq.targets = s.irq.targets := by
  simp [State.releaseSlots]

@[simp] theorem e2eAck_targets (fr : Frame) : (s.e2eAck fr).irq.targets = s.irq.targets := by simp [State.e2eAck]

@[simp] theorem e2eNotready_targets (refused : Bool) (fr : Frame) : (s.e2eNotready refused fr).irq.targets = s.irq.targets := by
  refine withFrame_targets _ _ _ _ (fun s => ?_)
  dsimp only
  (repeat' split) <;> rfl

/-! ### Issue points (02, 11) -/

@[simp] theorem unitRefusal_targets (x : Cmd) : (s.unitRefusal x).irq.targets = s.irq.targets := rfl
@[simp] theorem markIssued_targets (x : Cmd) : (s.markIssued x).irq.targets = s.irq.targets := by simp [State.markIssued]
@[simp] theorem doneNow_targets (x : Cmd) : (s.doneNow x).irq.targets = s.irq.targets := by simp [State.doneNow]
@[simp] theorem hold_targets (x : Cmd) (group : List Nat) : (s.hold x group).irq.targets = s.irq.targets := by simp [State.hold]

@[simp] theorem openSpill_targets (c : Nat) (blocks : List Nat) (killed : Bool) :
    (s.openSpill c blocks killed).irq.targets = s.irq.targets := rfl

@[simp] theorem startRun_targets (x : Cmd) (group : List Nat) (p : Program) : (s.startRun x group p).irq.targets = s.irq.targets := by
  simp [State.startRun]

@[simp] theorem runReady_targets (x : Cmd) (group : List Nat) (p : Program) (killed : Bool) :
    (s.runReady x group p killed).irq.targets = s.irq.targets := by
  simp [State.runReady]

@[simp] theorem runClaims_targets (x : Cmd) (group : List Nat) (p : Program) (ids : List Nat) :
    (s.runClaims x group p ids).irq.targets = s.irq.targets := by
  simp [State.runClaims]

@[simp] theorem tryRun_targets (pt : Nat) (x : Cmd) : (s.tryRun pt x).irq.targets = s.irq.targets := by
  unfold State.tryRun
  split
  · rfl
  · dsimp only
    split <;> simp

@[simp] theorem tryLeg_targets (x : Cmd) (f : State → Cmd → State) (hf : ∀ s a, (f s a).irq.targets = s.irq.targets) :
    (s.tryLeg x f).irq.targets = s.irq.targets := by
  simp only [State.tryLeg]
  (repeat' split) <;> simp [hf]

@[simp] theorem tryCombine_targets (x : Cmd) (p : CombineP) (fwd : Bool) : (s.tryCombine x p fwd).irq.targets = s.irq.targets := by
  simp [State.tryCombine]

@[simp] theorem tryIssue_targets (pt : Nat) (id : Nat) : (s.tryIssue pt id).irq.targets = s.irq.targets := by
  unfold State.tryIssue
  (repeat' split) <;> simp

@[simp] theorem issuePass_targets (pt : Nat) : (s.issuePass pt).irq.targets = s.irq.targets := by simp [State.issuePass]

@[simp] theorem issuePasses_targets (pt n : Nat) (s : State) : (State.issuePasses pt n s).irq.targets = s.irq.targets := by
  induction n generalizing s with
  | zero => rfl
  | succ n ih =>
    simp only [State.issuePasses]
    split <;> simp [ih]

@[simp] theorem issuePoint_targets (pt : Nat) : (s.issuePoint pt).irq.targets = s.irq.targets := by simp [State.issuePoint]

@[simp] theorem endNow_targets (id st kind ix : Nat) : (s.endNow id st kind ix).irq.targets = s.irq.targets := by
  unfold State.endNow
  split <;> simp

@[simp] theorem collIssue_targets (id : Nat) : (s.collIssue id).irq.targets = s.irq.targets := by
  unfold State.collIssue
  (repeat' split) <;> simp

@[simp] theorem collLegs_targets : s.collLegs.irq.targets = s.irq.targets := by simp [State.collLegs]

/-! ### Channels (12) -/

@[simp] theorem updChan_targets (b k : Nat) (f : Chan → Chan) : (s.updChan b k f).irq.targets = s.irq.targets := rfl

@[simp] theorem useChan_targets (b k : Nat) (e : ChanEnt) : (s.useChan b k e).irq.targets = s.irq.targets := by
  unfold State.useChan
  split <;> simp

@[simp] theorem sendUnits_targets (x : Cmd) (b ch : Nat) (pair : Nat) (l : List Byte) :
    (s.sendUnits x b ch pair l).irq.targets = s.irq.targets := by
  simp [State.sendUnits]

@[simp] theorem armArea_targets (x : Cmd) (b ch pair addr units : Nat) :
    (s.armArea x b ch pair addr units).irq.targets = s.irq.targets := by
  simp [State.armArea]

@[simp] theorem dropEpoch_targets : s.dropEpoch.irq.targets = s.irq.targets := rfl

@[simp] theorem chanData_targets (fr : Frame) : (s.chanData fr).irq.targets = s.irq.targets := by
  refine withFrame_targets _ _ _ _ (fun s => ?_)
  split <;> simp

@[simp] theorem chanCommit_targets (fr : Frame) : (s.chanCommit fr).irq.targets = s.irq.targets := by
  refine withFrame_targets _ _ _ _ (fun s => ?_)
  split <;> simp

@[simp] theorem chanCredit_targets (fr : Frame) : (s.chanCredit fr).irq.targets = s.irq.targets := by
  refine withFrame_targets _ _ _ _ (fun s => ?_)
  dsimp only
  split
  · rfl
  · split
    · rfl
    · split <;> simp

@[simp] theorem sendCommits_targets (x : Cmd) (b : Nat) : (s.sendCommits x b).irq.targets = s.irq.targets := by
  unfold State.sendCommits
  split <;> simp

/-! ### The saddle window (02) -/

@[simp] theorem updCq_targets (c q : Nat) (f : Cq → Cq) : (s.updCq c q f).irq.targets = s.irq.targets := rfl
@[simp] theorem writeRecord_targets (x : Cmd) : (s.writeRecord x).irq.targets = s.irq.targets := by simp [State.writeRecord]
@[simp] theorem finish_targets (x : Cmd) : (s.finish x).irq.targets = s.irq.targets := by simp [State.finish]
@[simp] theorem placeCommit_targets (x : Cmd) (p : LoadP) : (s.placeCommit x p).irq.targets = s.irq.targets := by simp [State.placeCommit]

@[simp] theorem keepVerified_targets (x : Cmd) : (s.keepVerified x).irq.targets = s.irq.targets := by
  unfold State.keepVerified
  split <;> rfl

@[simp] theorem verifyCommit_targets (x : Cmd) : (s.verifyCommit x).irq.targets = s.irq.targets := by simp [State.verifyCommit]
@[simp] theorem owe_targets (c : Nat) (rs : List Extent) : (s.owe c rs).irq.targets = s.irq.targets := by simp [State.owe]
@[simp] theorem unloadCommit_targets (c : Nat) : (s.unloadCommit c).irq.targets = s.irq.targets := by simp [State.unloadCommit]
@[simp] theorem attachCommit_targets (x : Cmd) : (s.attachCommit x).irq.targets = s.irq.targets := rfl
@[simp] theorem attachVerified_targets (x : Cmd) : (s.attachVerified x).irq.targets = s.irq.targets := by simp [State.attachVerified]
@[simp] theorem detachCommit_targets (x : Cmd) (r : Nat) : (s.detachCommit x r).irq.targets = s.irq.targets := by simp [State.detachCommit]
@[simp] theorem stageCommit_targets (x : Cmd) : (s.stageCommit x).irq.targets = s.irq.targets := rfl
@[simp] theorem switchCommit_targets (x : Cmd) : (s.switchCommit x).irq.targets = s.irq.targets := by simp [State.switchCommit]
@[simp] theorem abortCommit_targets (x : Cmd) : (s.abortCommit x).irq.targets = s.irq.targets := by simp [State.abortCommit]
@[simp] theorem bindCommit_targets (x : Cmd) : (s.bindCommit x).irq.targets = s.irq.targets := by simp [State.bindCommit]
@[simp] theorem blocksCommit_targets (x : Cmd) : (s.blocksCommit x).irq.targets = s.irq.targets := by simp [State.blocksCommit]
@[simp] theorem toksCommit_targets (x : Cmd) : (s.toksCommit x).irq.targets = s.irq.targets := by simp [State.toksCommit]
@[simp] theorem runCommit_targets (x : Cmd) : (s.runCommit x).irq.targets = s.irq.targets := by simp [State.runCommit]
@[simp] theorem setMask_targets (c region : Nat) (m : W64) : (s.setMask c region m).irq.targets = s.irq.targets := by simp [State.setMask]

@[simp] theorem advanceVersion_targets (x : Cmd) (p : OptP) : (s.advanceVersion x p).irq.targets = s.irq.targets := by
  simp [State.advanceVersion]

@[simp] theorem normCommit_targets (x : Cmd) (p : NormP) : (s.normCommit x p).irq.targets = s.irq.targets := rfl

@[simp] theorem accountCommit_targets (x : Cmd) (p : AccountP) : (s.accountCommit x p).irq.targets = s.irq.targets := by
  unfold State.accountCommit
  (repeat' split) <;> simp

@[simp] theorem dropStream_targets (c n : Nat) : (s.dropStream c n).irq.targets = s.irq.targets := by
  unfold State.dropStream
  split <;> simp

@[simp] theorem opCommit_targets (x : Cmd) : (s.opCommit x).irq.targets = s.irq.targets := by
  simp only [State.opCommit]
  (repeat' split) <;> simp

@[simp] theorem endDoomed_targets (id : Nat) (f : Nat × Nat × Nat) : (s.endDoomed id f).irq.targets = s.irq.targets := by
  simp only [State.endDoomed]
  split <;> simp

@[simp] theorem commitCmd_targets (x : Cmd) : (s.commitCmd x).irq.targets = s.irq.targets := by
  unfold State.commitCmd
  (repeat' split) <;> simp

@[simp] theorem turned_targets (id : Nat) : (s.turned id).irq.targets = s.irq.targets := rfl

@[simp] theorem turnOf_targets (r : State × Nat) (id : Nat) : (State.turnOf r id).1.irq.targets = r.1.irq.targets := by
  simp only [State.turnOf]
  (repeat' split) <;> simp

@[simp] theorem commits_targets : s.commits.irq.targets = s.irq.targets :=
  foldl_fst_targets turnOf_targets _ (s, s.beat.winLeft)

@[simp] theorem permWindow_targets : s.permWindow.irq.targets = s.irq.targets := by
  refine foldl_targets (fun s id => ?_) _ _
  (repeat' split) <;> simp

@[simp] theorem fixDone_targets (capacity : Nat) (cycles : List (Nat × Nat)) : (s.fixDone capacity cycles).irq.targets = s.irq.targets :=
  rfl

@[simp] theorem countOverruns_targets : s.countOverruns.irq.targets = s.irq.targets := by simp [State.countOverruns]
@[simp] theorem haltCtx_targets (c st : Nat) : (s.haltCtx c st).irq.targets = s.irq.targets := by simp [State.haltCtx]
@[simp] theorem takeReset_targets (c : Nat) (r : ResetSt) : (s.takeReset c r).irq.targets = s.irq.targets := by simp [State.takeReset]

@[simp] theorem takeResets_targets : s.takeResets.irq.targets = s.irq.targets := by
  refine foldl_targets (fun s c => ?_) _ _
  split <;> simp

@[simp] theorem takePeers_targets : s.takePeers.irq.targets = s.irq.targets := by simp [State.takePeers]
@[simp] theorem takeFence_targets : s.takeFence.irq.targets = s.irq.targets := by simp [State.takeFence]
@[simp] theorem takeLost_targets : s.takeLost.irq.targets = s.irq.targets := by simp [State.takeLost]
@[simp] theorem takeClears_targets : s.takeClears.irq.targets = s.irq.targets := rfl
@[simp] theorem pruneOwed_targets : s.pruneOwed.irq.targets = s.irq.targets := rfl

@[simp] theorem finishReset_targets (c : Nat) (r : ResetSt) (p : Option Purge) : (s.finishReset c r p).irq.targets = s.irq.targets := by
  simp only [State.finishReset]
  split <;> simp

@[simp] theorem finishResets_targets : s.finishResets.irq.targets = s.irq.targets := by
  simp only [State.finishResets, pruneOwed_targets]
  refine foldl_targets (fun s c => ?_) _ _
  split <;> simp

@[simp] theorem writeSpill_targets (c b : Nat) : (s.writeSpill c b).irq.targets = s.irq.targets := by
  unfold State.writeSpill
  split <;> rfl

@[simp] theorem endTransfer_targets (j : SpillJob) : (s.endTransfer j).irq.targets = s.irq.targets := by
  refine (foldl_targets (fun s o => ?_) _ _).trans (foldl_targets (fun s b => ?_) _ _)
  · rfl
  · dsimp only [State.updBlock_irq]
    split <;> simp

@[simp] theorem commitSpills_targets : s.commitSpills.irq.targets = s.irq.targets := by simp [State.commitSpills]
@[simp] theorem window_targets (o : WindowObs) : (s.window o).irq.targets = s.irq.targets := by simp [State.window]
@[simp] theorem recordNow_targets : s.recordNow.irq.targets = s.irq.targets := by simp [State.recordNow]

end Sys2Proof.Proofs
end

section
/-! SUPPORT. The frame of the interrupt targets, continued: ports, recovery, the recorder, starts, the engines, the beat edge and what the
host and the management ports write, all but the controller's own registers. -/

namespace Sys2Proof.Proofs

open Sys2Proof Sys2Proof.Machine

variable (s : State)

/-! ### Link ports (12) -/

@[simp] theorem setUp_targets (p : Nat) (v : Bool) : (s.setUp p v).irq.targets = s.irq.targets := rfl

@[simp] theorem portTo_targets (p : Nat) (st : BitVec 3) (f : Port → Port) : (s.portTo p st f).irq.targets = s.irq.targets := by
  simp [State.portTo]

@[simp] theorem resendFrom_targets (p : Nat) (k : Kept) : (s.resendFrom p k).irq.targets = s.irq.targets := by
  unfold State.resendFrom
  (repeat' split) <;> simp

@[simp] theorem failPort_targets (p cause : Nat) : (s.failPort p cause).irq.targets = s.irq.targets := by simp [State.failPort]
@[simp] theorem sendDiscover_targets (p : Nat) : (s.sendDiscover p).irq.targets = s.irq.targets := by simp [State.sendDiscover]
@[simp] theorem portTrained_targets (p lanes : Nat) : (s.portTrained p lanes).irq.targets = s.irq.targets := by simp [State.portTrained]
@[simp] theorem firstCredit_targets (p : Nat) : (s.firstCredit p).irq.targets = s.irq.targets := by simp [State.firstCredit]

@[simp] theorem markError_targets (p kind : Nat) (offNs : Int) : (s.markError p kind offNs).irq.targets = s.irq.targets := by
  simp [State.markError]

@[simp] theorem replyNumber_targets (p n : Nat) : (s.replyNumber p n).irq.targets = s.irq.targets := by simp [State.replyNumber]

@[simp] theorem discoverReply_targets (p arrival : Nat) (fr : Frame) : (s.discoverReply p arrival fr).irq.targets = s.irq.targets := by
  simp only [State.discoverReply]
  (repeat' split) <;> simp

@[simp] theorem losePeer_targets (d : Nat) : (s.losePeer d).irq.targets = s.irq.targets := rfl

@[simp] theorem notePeer_targets (p d : Nat) (epoch : BitVec 16) (fenced : Bool) :
    (s.notePeer p d epoch fenced).irq.targets = s.irq.targets := rfl

@[simp] theorem epochAnnounce_targets (p : Nat) (fenced : Bool) (fr : Frame) :
    (s.epochAnnounce p fenced fr).irq.targets = s.irq.targets := by
  simp [State.epochAnnounce]

@[simp] theorem discoverSeen_targets (p : Nat) (fenced : Bool) (fr : Frame) : (s.discoverSeen p fenced fr).irq.targets = s.irq.targets := by
  simp [State.discoverSeen]

@[simp] theorem replay_targets (p lseq : Nat) : (s.replay p lseq).irq.targets = s.irq.targets := rfl
@[simp] theorem flush_targets (p : Nat) : (s.flush p).irq.targets = s.irq.targets := by simp [State.flush]

@[simp] theorem hopAck_targets (p : Nat) (nack : Bool) (lseq : Nat) : (s.hopAck p nack lseq).irq.targets = s.irq.targets := by
  simp [State.hopAck]

@[simp] theorem hopCredit_targets (p : Nat) (g : List Nat) : (s.hopCredit p g).irq.targets = s.irq.targets := by simp [State.hopCredit]
@[simp] theorem crcError_targets (p lseq : Nat) : (s.crcError p lseq).irq.targets = s.irq.targets := by simp [State.crcError]
@[simp] theorem badType_targets (p ty : Nat) : (s.badType p ty).irq.targets = s.irq.targets := by simp [State.badType]
@[simp] theorem portFailure_targets (p cause : Nat) : (s.portFailure p cause).irq.targets = s.irq.targets := by simp [State.portFailure]
@[simp] theorem countFec_targets (l : List (Nat × Nat × Nat)) : (s.countFec l).irq.targets = s.irq.targets := by simp [State.countFec]

@[simp] theorem announce_targets (new : BitVec 16) (fenced : Bool) : (s.announce new fenced).irq.targets = s.irq.targets := by
  refine foldl_targets (fun s d => ?_) _ _
  split <;> simp

@[simp] theorem retrainPort_targets (p : Nat) : (s.retrainPort p).irq.targets = s.irq.targets := by simp [State.retrainPort]

/-! ### Faults and recovery (13) -/

@[simp] theorem tell_targets (port ty : Nat) (body : List Byte) : (s.tell port ty body).irq.targets = s.irq.targets := rfl
@[simp] theorem enterFence_targets (cause : Nat) : (s.enterFence cause).irq.targets = s.irq.targets := by simp [State.enterFence]
@[simp] theorem liftFence_targets : s.liftFence.irq.targets = s.irq.targets := by simp [State.liftFence]
@[simp] theorem absorb_targets (x : Cmd) : (s.absorb x).irq.targets = s.irq.targets := rfl
@[simp] theorem resetCtxs_targets : s.resetCtxs.irq.targets = s.irq.targets := by simp [State.resetCtxs]
@[simp] theorem stopWork_targets : s.stopWork.irq.targets = s.irq.targets := rfl

@[simp] theorem cutRecord_targets : s.cutRecord.irq.targets = s.irq.targets := by
  unfold State.cutRecord
  split <;> simp

@[simp] theorem toStart_targets (kind : Bool) : (s.toStart kind).irq.targets = s.irq.targets := rfl
@[simp] theorem stopBist_targets (code : Nat) : (s.stopBist code).irq.targets = s.irq.targets := by simp [State.stopBist]
@[simp] theorem warmReset_targets (cause : Nat) : (s.warmReset cause).irq.targets = s.irq.targets := by simp [State.warmReset]
@[simp] theorem lateWindow_targets : s.lateWindow.irq.targets = s.irq.targets := by simp [State.lateWindow]
@[simp] theorem hang_targets (x : Cmd) : (s.hang x).irq.targets = s.irq.targets := by simp [State.hang]
@[simp] theorem dropOwed_targets (id : Option Nat) (e : Nat) : (s.dropOwed id e).irq.targets = s.irq.targets := rfl
@[simp] theorem loseEngine_targets (e : Nat) : (s.loseEngine e).irq.targets = s.irq.targets := by simp [State.loseEngine]
@[simp] theorem quarantine_targets (e : Nat) : (s.quarantine e).irq.targets = s.irq.targets := by simp [State.quarantine]

/-! ### The recorder (15) -/

@[simp] theorem afterRecord_targets (k : CodeSt) (bytes : List Byte) : (s.afterRecord k bytes).irq.targets = s.irq.targets := by
  simp [State.afterRecord]

@[simp] theorem recordSelf_targets (e : Event) : (s.recordSelf e).irq.targets = s.irq.targets := by simp [State.recordSelf]

@[simp] theorem recordNext_targets : s.recordNext.irq.targets = s.irq.targets := by
  unfold State.recordNext
  split <;> simp

@[simp] theorem submitClear_targets (path : Nat) (r : List Byte) : (s.submitClear path r).1.irq.targets = s.irq.targets := by
  simp only [State.submitClear]
  split <;> simp

@[simp] theorem clearGo_targets : s.clearGo.irq.targets = s.irq.targets := by simp [State.clearGo]

@[simp] theorem findTorn_targets : s.findTorn.irq.targets = s.irq.targets := by
  unfold State.findTorn
  split <;> simp

/-! ### Starts (14) -/

@[simp] theorem newReport_targets : s.newReport.irq.targets = s.irq.targets := rfl
@[simp] theorem enterCamp_targets : s.enterCamp.irq.targets = s.irq.targets := rfl

@[simp] theorem failStart_targets (step cause detail : Nat) : (s.failStart step cause detail).irq.targets = s.irq.targets := by
  simp [State.failStart]

@[simp] theorem loadStraps_targets (v : Nat) : (s.loadStraps v).irq.targets = s.irq.targets := rfl
@[simp] theorem beginStart_targets : s.beginStart.irq.targets = s.irq.targets := by simp [State.beginStart]
@[simp] theorem atStep_targets (k : Nat) : (s.atStep k).irq.targets = s.irq.targets := rfl
@[simp] theorem trained_targets (lanes : Nat) : (s.trained lanes).irq.targets = s.irq.targets := by simp [State.trained]

@[simp] theorem firstSteps_targets (straps : Nat) (o : StartObs) : (s.firstSteps straps o).irq.targets = s.irq.targets := by
  unfold State.firstSteps
  (repeat' split) <;> simp

@[simp] theorem repairBlocks_targets (m : List W64) : (s.repairBlocks m).irq.targets = s.irq.targets := by simp [State.repairBlocks]
@[simp] theorem loseRow_targets (e : W64) : (s.loseRow e).irq.targets = s.irq.targets := rfl

@[simp] theorem repairMemory_targets (m : List W64) (o : StartObs) : (s.repairMemory m o).irq.targets = s.irq.targets := by
  simp [State.repairMemory]

@[simp] theorem startPorts_targets : s.startPorts.irq.targets = s.irq.targets := by simp [State.startPorts]
@[simp] theorem becomeReady_targets : s.becomeReady.irq.targets = s.irq.targets := by simp [State.becomeReady]

@[simp] theorem lastSteps_targets (o : StartObs) : (s.lastSteps o).irq.targets = s.irq.targets := by
  unfold State.lastSteps
  dsimp only
  split
  · simp
  · (repeat' split) <;> simp

@[simp] theorem imgGo_targets (o : StartObs) : (s.imgGo o).irq.targets = s.irq.targets := by simp [State.imgGo]
@[simp] theorem retryStart_targets (o : StartObs) : (s.retryStart o).irq.targets = s.irq.targets := by simp [State.retryStart]

/-! ### The matrix engine (04) -/

@[simp] theorem compareTile_targets (x : Cmd) (b : Nat) (d : Drain) (vals : List Machine.Num) :
    (s.compareTile x b d vals).irq.targets = s.irq.targets := by
  simp only [State.compareTile]
  split <;> rfl

@[simp] theorem endDrain_targets (b : Nat) (x : Cmd) (d : Drain) (upset : List (Nat × W40)) :
    (s.endDrain b x d upset).irq.targets = s.irq.targets := by
  simp only [State.endDrain]
  split <;> simp

/-! ### The vector engine (05) -/

@[simp] theorem echo_targets (x : Cmd) (p : Program) (b : Nat) (q : QI) (op : Nat) (v : VecF) :
    (s.echo x p b q op v).irq.targets = s.irq.targets := by
  simp only [State.echo]
  (repeat' split) <;> simp

@[simp] theorem runVec_targets (x : Cmd) (p : Program) (b : Nat) (q : QI) (op : Nat) (v : VecF) :
    (s.runVec x p b q op v).irq.targets = s.irq.targets := by
  simp [State.runVec]

@[simp] theorem runGate_targets (x : Cmd) (p : Program) (b : Nat) (q : QI) (g : GateF) :
    (s.runGate x p b q g).irq.targets = s.irq.targets := rfl

/-! ### MOVs (06) -/

@[simp] theorem runStore_targets (x : Cmd) (b r : Nat) (e : RegEntry) (o : Nat) (l : List Byte) :
    (s.runStore x b r e o l).irq.targets = s.irq.targets := by
  simp [State.runStore]

@[simp] theorem moveEnd_targets (x : Cmd) (p : Program) (b : Nat) (q : QI) (kind : Nat) (m : MovF) :
    (s.moveEnd x p b q kind m).irq.targets = s.irq.targets := by
  simp [State.moveEnd]

@[simp] theorem runSend_targets (x : Cmd) (p : Program) (b : Nat) (q : QI) (m : MovF) :
    (s.runSend x p b q m).irq.targets = s.irq.targets := by
  unfold State.runSend
  split <;> simp

@[simp] theorem runRecv_targets (x : Cmd) (p : Program) (b : Nat) (q : QI) (m : MovF) :
    (s.runRecv x p b q m).irq.targets = s.irq.targets := by
  unfold State.runRecv
  split <;> simp

@[simp] theorem runPdisp_targets (x : Cmd) (p : Program) (b : Nat) (q : QI) (m : MovF) :
    (s.runPdisp x p b q m).irq.targets = s.irq.targets := by
  simp only [State.runPdisp]
  (repeat' split) <;> simp

@[simp] theorem runPtake_targets (x : Cmd) (p : Program) (b : Nat) (q : QI) (m : MovF) :
    (s.runPtake x p b q m).irq.targets = s.irq.targets := by
  unfold State.runPtake
  (repeat' split) <;> simp

/-! ### How a block runs its program (06) -/

@[simp] theorem runTI_targets (x : Cmd) (p : Program) (b : Nat) (q : QI) : (s.runTI x p b q).irq.targets = s.irq.targets := by
  unfold State.runTI
  split <;> simp

@[simp] theorem runAt_targets (x : Cmd) (p : Program) (b i : Nat) : (s.runAt x p b i).irq.targets = s.irq.targets := by
  unfold State.runAt
  split <;> simp

@[simp] theorem pump_targets (b n : Nat) (s : State) : (State.pump b n s).irq.targets = s.irq.targets := by
  induction n generalizing s with
  | zero => rfl
  | succ n ih =>
    simp only [State.pump]
    (repeat' split) <;> simp [ih]

@[simp] theorem pumpAll_targets (b : Nat) : (s.pumpAll b).irq.targets = s.irq.targets := by simp [State.pumpAll]

/-! ### Power (16) -/

@[simp] theorem stepDies_targets (grant : Nat) : (s.stepDies grant).irq.targets = s.irq.targets := rfl
@[simp] theorem takeReadings_targets (o : EdgeObs) : (s.takeReadings o).irq.targets = s.irq.targets := rfl
@[simp] theorem clampCheck_targets (o : EdgeObs) : (s.clampCheck o).irq.targets = s.irq.targets := by simp [State.clampCheck]
@[simp] theorem ceilCheck_targets : s.ceilCheck.irq.targets = s.irq.targets := by simp [State.ceilCheck]

@[simp] theorem governor_targets (o : EdgeObs) : (s.governor o).irq.targets = s.irq.targets := by
  simp only [State.governor]
  split <;> simp

@[simp] theorem stopDomains_targets : s.stopDomains.irq.targets = s.irq.targets := rfl

/-! ### The beat edge (02) -/

@[simp] theorem freeCtx_targets (c : Nat) : (s.freeCtx c).irq.targets = s.irq.targets := by simp [State.freeCtx]

@[simp] theorem freeCtxs_targets : s.freeCtxs.irq.targets = s.irq.targets := by
  refine foldl_targets (fun s c => ?_) _ _
  split <;> simp

@[simp] theorem countOn_targets : s.countOn.irq.targets = s.irq.targets := by
  unfold State.countOn
  split <;> simp

@[simp] theorem latchShape_targets (n : Nat) : (s.latchShape n).irq.targets = s.irq.targets := by
  unfold State.latchShape
  split <;> simp

@[simp] theorem markLag_targets : s.markLag.irq.targets = s.irq.targets := rfl
@[simp] theorem mapAgain_targets (g : BitVec 16) : (s.mapAgain g).irq.targets = s.irq.targets := rfl
@[simp] theorem killMoved_targets : s.killMoved.irq.targets = s.irq.targets := by simp [State.killMoved]

@[simp] theorem latchMode_targets (n : Nat) : (s.latchMode n).irq.targets = s.irq.targets := by
  unfold State.latchMode
  split <;> simp

@[simp] theorem latchUnits_targets : s.latchUnits.irq.targets = s.irq.targets := rfl
@[simp] theorem derateAck_targets (port st cause : Nat) : (s.derateAck port st cause).irq.targets = s.irq.targets := rfl
@[simp] theorem applyRetire_targets (l : List Nat) : (s.applyRetire l).irq.targets = s.irq.targets := by simp [State.applyRetire]

@[simp] theorem latchDerate_targets (n : Nat) : (s.latchDerate n).irq.targets = s.irq.targets := by
  unfold State.latchDerate
  split <;> simp

@[simp] theorem drainTest_targets (pt : Nat) : (s.drainTest pt).irq.targets = s.irq.targets := by
  simp only [State.drainTest]
  split <;> simp

@[simp] theorem waitTests_targets : s.waitTests.irq.targets = s.irq.targets := by
  refine foldl_targets (fun s id => ?_) _ _
  split <;> simp

@[simp] theorem rejoin_targets : s.rejoin.irq.targets = s.irq.targets := by simp [State.rejoin]
@[simp] theorem heldBeats_targets : s.heldBeats.irq.targets = s.irq.targets := rfl

@[simp] theorem countIdle_targets (seen : List (Nat × Nat × Nat)) : (s.countIdle seen).irq.targets = s.irq.targets := by
  simp [State.countIdle]

@[simp] theorem spillLegs_targets : s.spillLegs.irq.targets = s.irq.targets := rfl
@[simp] theorem sendMarkers_targets : s.sendMarkers.irq.targets = s.irq.targets := by simp [State.sendMarkers]
@[simp] theorem prunePeers_targets : s.prunePeers.irq.targets = s.irq.targets := rfl
@[simp] theorem bistEdge_targets (o : EdgeObs) : (s.bistEdge o).irq.targets = s.irq.targets := by simp [State.bistEdge]
@[simp] theorem beatStart_targets : s.beatStart.irq.targets = s.irq.targets := by simp [State.beatStart]

@[simp] theorem liveEdge_targets (o : EdgeObs) (holdover : Bool) : (s.liveEdge o holdover).irq.targets = s.irq.targets := by
  simp [State.liveEdge]

@[simp] theorem heldEdge_targets (holdover : Bool) : (s.heldEdge holdover).irq.targets = s.irq.targets := by simp [State.heldEdge]
@[simp] theorem edge_targets (o : EdgeObs) (holdover : Bool) : (s.edge o holdover).irq.targets = s.irq.targets := by simp [State.edge]
@[simp] theorem loseBeat_targets : s.loseBeat.irq.targets = s.irq.targets := by simp [State.loseBeat]

@[simp] theorem marker_targets (p : Nat) (off : Int) (num : W64) (o : EdgeObs) : (s.marker p off num o).irq.targets = s.irq.targets := by
  simp [State.marker]

/-! ### The management ports (13, 14) -/

@[simp] theorem stobinDrop_targets (m : Stobin) (ty k : Nat) : (s.stobinDrop m ty k).irq.targets = s.irq.targets := rfl
@[simp] theorem stobinAccept_targets (m : Stobin) (x : Exempt) : (s.stobinAccept m x).irq.targets = s.irq.targets := rfl
@[simp] theorem leaseLine_targets : s.leaseLine.irq.targets = s.irq.targets := by simp [State.leaseLine]
@[simp] theorem verdict_targets (v : Nat) : (s.verdict v).irq.targets = s.irq.targets := by simp [State.verdict]
@[simp] theorem leaseAck_targets (m : Stobin) : (s.leaseAck m).irq.targets = s.irq.targets := rfl
@[simp] theorem loadLease_targets (port ms : Nat) : (s.loadLease port ms).irq.targets = s.irq.targets := rfl
@[simp] theorem derateRefuse_targets (port c : Nat) : (s.derateRefuse port c).irq.targets = s.irq.targets := by simp [State.derateRefuse]
@[simp] theorem clearBins_targets (a n : Nat) : (s.clearBins a n).irq.targets = s.irq.targets := by simp [State.clearBins]
@[simp] theorem enterHold_targets : s.enterHold.irq.targets = s.irq.targets := rfl
@[simp] theorem beginStandDown_targets (skip : Bool) : (s.beginStandDown skip).irq.targets = s.irq.targets := by simp [State.beginStandDown]
@[simp] theorem standDown_targets (skip : Bool) : (s.standDown skip).irq.targets = s.irq.targets := by simp [State.standDown]
@[simp] theorem wakeUp_targets : s.wakeUp.irq.targets = s.irq.targets := rfl
@[simp] theorem bistOver_targets : s.bistOver.irq.targets = s.irq.targets := by simp [State.bistOver]
@[simp] theorem wake_targets : s.wake.irq.targets = s.irq.targets := by simp [State.wake]

/-! ### Registers and apertures (10) -/

@[simp] theorem funcDrop_targets (f : Nat) (write : Bool) (addr : Nat) : (s.funcDrop f write addr).irq.targets = s.irq.targets := rfl
@[simp] theorem stageRefuse_targets (c : Nat) : (s.stageRefuse c).irq.targets = s.irq.targets := by simp [State.stageRefuse]

@[simp] theorem armShape_targets : s.armShape.irq.targets = s.irq.targets := by
  unfold State.armShape
  split <;> simp

@[simp] theorem cancelShape_targets : s.cancelShape.irq.targets = s.irq.targets := by
  unfold State.cancelShape
  split <;> simp

@[simp] theorem writeBeat_targets (o : Nat) (v : W64) : (s.writeBeat o v).irq.targets = s.irq.targets := by
  unfold State.writeBeat
  split <;> simp

@[simp] theorem censSel_targets (v : W64) : (s.censSel v).irq.targets = s.irq.targets := rfl
@[simp] theorem censClrCtx_targets : s.censClrCtx.irq.targets = s.irq.targets := rfl
@[simp] theorem censClrSel_targets : s.censClrSel.irq.targets = s.irq.targets := rfl

@[simp] theorem writeCens_targets (o : Nat) (v : W64) : (s.writeCens o v).irq.targets = s.irq.targets := by
  unfold State.writeCens
  split <;> simp

@[simp] theorem passSel_targets (v : W64) : (s.passSel v).irq.targets = s.irq.targets := by simp [State.passSel]
@[simp] theorem passClr_targets : s.passClr.irq.targets = s.irq.targets := rfl

@[simp] theorem writePass_targets (o : Nat) (v : W64) : (s.writePass o v).irq.targets = s.irq.targets := by
  unfold State.writePass
  split <;> simp

@[simp] theorem writeCrest_targets (o : Nat) (v : W64) : (s.writeCrest o v).irq.targets = s.irq.targets := by
  unfold State.writeCrest
  split <;> rfl

@[simp] theorem ptArm_targets : s.ptArm.irq.targets = s.irq.targets := by
  unfold State.ptArm
  split <;> simp

@[simp] theorem ptCancel_targets : s.ptCancel.irq.targets = s.irq.targets := by simp [State.ptCancel]

@[simp] theorem applyIdle_targets : s.applyIdle.irq.targets = s.irq.targets := by
  unfold State.applyIdle
  split <;> simp

@[simp] theorem writeNext_targets (n : Nat) (v : W64) : (s.writeNext n v).irq.targets = s.irq.targets := by simp [State.writeNext]
@[simp] theorem updSched_targets (n : Nat) (f : Sched → Sched) : (s.updSched n f).irq.targets = s.irq.targets := by simp [State.updSched]
@[simp] theorem writePtPart_targets (n r : Nat) (v : W64) : (s.writePtPart n r v).irq.targets = s.irq.targets := by simp [State.writePtPart]
@[simp] theorem writePt_targets (o : Nat) (v : W64) : (s.writePt o v).irq.targets = s.irq.targets := by simp [State.writePt]
@[simp] theorem openControl_targets (c : Nat) : (s.openControl c).irq.targets = s.irq.targets := rfl
@[simp] theorem makeCtx_targets (c off : Nat) : (s.makeCtx c off).irq.targets = s.irq.targets := by simp [State.makeCtx]

@[simp] theorem createCtx_targets (c : Nat) : (s.createCtx c).irq.targets = s.irq.targets := by
  unfold State.createCtx
  (repeat' split) <;> simp

@[simp] theorem destroyCtx_targets (c : Nat) : (s.destroyCtx c).irq.targets = s.irq.targets := by
  simp only [State.destroyCtx]
  (repeat' split) <;> simp

@[simp] theorem writeCtx_targets (c r : Nat) (v : W64) : (s.writeCtx c r v).irq.targets = s.irq.targets := by
  unfold State.writeCtx
  split <;> simp

@[simp] theorem acctSel_targets (v : W64) : (s.acctSel v).irq.targets = s.irq.targets := by simp [State.acctSel]

@[simp] theorem acctClr_targets : s.acctClr.irq.targets = s.irq.targets := by
  unfold State.acctClr
  split <;> simp

@[simp] theorem writeAcct_targets (o : Nat) (v : W64) : (s.writeAcct o v).irq.targets = s.irq.targets := by
  unfold State.writeAcct
  split <;> simp

@[simp] theorem writeFault_targets (v : W64) : (s.writeFault v).irq.targets = s.irq.targets := by simp [State.writeFault]
@[simp] theorem writeCairn_targets (o : Nat) (v : W64) : (s.writeCairn o v).irq.targets = s.irq.targets := by simp [State.writeCairn]
@[simp] theorem bistStop_targets : s.bistStop.irq.targets = s.irq.targets := by simp [State.bistStop]
@[simp] theorem writeBistCtrl_targets (v : W64) : (s.writeBistCtrl v).irq.targets = s.irq.targets := by simp [State.writeBistCtrl]

@[simp] theorem writeBist_targets (o : Nat) (v : W64) : (s.writeBist o v).irq.targets = s.irq.targets := by
  unfold State.writeBist
  split <;> simp

@[simp] theorem writePctrl_targets (p : Nat) (v : W64) : (s.writePctrl p v).irq.targets = s.irq.targets := by simp [State.writePctrl]
@[simp] theorem updLnk_targets (f : Lnk → Lnk) : (s.updLnk f).irq.targets = s.irq.targets := rfl

@[simp] theorem writePort_targets (p r : Nat) (v : W64) : (s.writePort p r v).irq.targets = s.irq.targets := by
  unfold State.writePort
  split <;> simp

@[simp] theorem writeLnk_targets (o : Nat) (v : W64) : (s.writeLnk o v).irq.targets = s.irq.targets := by simp [State.writeLnk]
@[simp] theorem setDbErr_targets (c : Nat) : (s.setDbErr c).irq.targets = s.irq.targets := by simp [State.setDbErr]
@[simp] theorem setHostFault_targets (c : Nat) : (s.setHostFault c).irq.targets = s.irq.targets := by simp [State.setHostFault]

@[simp] theorem ring_targets (c n : Nat) (tail : BitVec 32) (resume : Bool) : (s.ring c n tail resume).irq.targets = s.irq.targets := by
  unfold State.ring
  split <;> simp

@[simp] theorem writePage_targets (c r : Nat) (v : W64) : (s.writePage c r v).irq.targets = s.irq.targets := by simp [State.writePage]

@[simp] theorem apertureDrop_targets (c : Nat) (r : Ref) (write : Bool) : (s.apertureDrop c r write).irq.targets = s.irq.targets := by
  simp [State.apertureDrop]

@[simp] theorem hostWrite_targets (c : Nat) (r : Ref) (l : List Byte) : (s.hostWrite c r l).irq.targets = s.irq.targets := by
  simp [State.hostWrite]

@[simp] theorem apWrite_targets (f a : Nat) (l : List Byte) : (s.apWrite f a l).irq.targets = s.irq.targets := by
  unfold State.apWrite
  split <;> simp

@[simp] theorem apRead_targets (f a n : Nat) : (s.apRead f a n).irq.targets = s.irq.targets := by
  unfold State.apRead
  split <;> simp

end Sys2Proof.Proofs
end

section
/-! SUPPORT. How the request lines follow their sources and their holdoffs (R461, R463): a line is high exactly where a source demands it
and no holdoff holds it, and nothing else of a target moves with it. -/

namespace Sys2Proof.Proofs

open Sys2Proof Sys2Proof.Machine

/-! ### The sources that ask for a line -/

theorem mem_tabBits {t : Tab W64} {n : Nat} (h : wordBit t n = true) : n ∈ tabBits t := by
  rw [wordBit] at h
  obtain hzero | hmem := Tab.get_eq_or_mem 0 t (n / 64)
  · rw [hzero] at h
    simp at h
  · refine List.mem_flatMap.2 ⟨_, hmem, List.mem_map.2 ⟨n % 64, List.mem_filter.2 ⟨List.mem_range.2 (by omega), h⟩, ?_⟩⟩
    exact Nat.div_add_mod n 64

theorem mem_waiting {q : Irq} {n : Nat} : n ∈ q.waiting ↔ q.isPending n = true ∧ q.isMasked n = false := by
  simp only [Irq.waiting, List.mem_filter, Bool.and_eq_true, Bool.not_eq_true', and_iff_right_iff_imp]
  rintro ⟨hpend, hmask⟩
  have hsmall : n < 1023 := by simp_all [Irq.isPending, irqReal]
  rw [List.mem_append]
  simp only [Irq.isMasked, Bool.not_eq_false'] at hmask
  split at hmask
  case h_1 k _ => exact .inr (List.mem_map.2 ⟨1024 * k + n, mem_tabBits hmask, by omega⟩)
  case h_2 => exact .inl (mem_tabBits hmask)

theorem best_isSome {q : Irq} {t : Nat} : (q.best t).isSome = true ↔ q.Demands t := by
  rw [Irq.best, List.isSome_max?_iff, ne_eq, List.filter_eq_nil_iff]
  simp [mem_waiting, Irq.Demands]

theorem wantsLine_iff {q : Irq} {t : Nat} : q.wantsLine t = true ↔ q.Demands t ∧ (q.target t).held = false := by
  simp [Irq.wantsLine, best_isSome]

/-! ### What the lines' following leaves of a target (R461, R463) -/

section
variable (q : Irq) (t u : Nat)

theorem follow_best : (q.follow t).best u = q.best u := by
  unfold Irq.follow
  split <;> rfl

/-- Only the line of a target moves with its sources. -/
theorem follow_target : (q.follow t).target u = { q.target u with line := ((q.follow t).target u).line } := by
  unfold Irq.follow
  split
  · rfl
  · by_cases h : u = t
    · subst h
      simp [Irq.setTarget, Irq.target]
    · simp [Irq.setTarget, Irq.target, Tab.get_set_ne _ _ _ h]

theorem follow_wantsLine : (q.follow t).wantsLine u = q.wantsLine u := by
  rw [Irq.wantsLine, Irq.wantsLine, follow_best, follow_target]

end

/-- The request lines of several targets follow their sources. -/
def followAll (l : List Nat) (q : Irq) : Irq := l.foldl (fun q t => q.follow t) q

section
variable (l : List Nat) (q : Irq) (t : Nat)

theorem followAll_best : (followAll l q).best t = q.best t := by
  induction l generalizing q with
  | nil => rfl
  | cons u l ih => exact (ih (q.follow u)).trans (follow_best ..)

theorem followAll_target : (followAll l q).target t = { q.target t with line := ((followAll l q).target t).line } := by
  induction l generalizing q with
  | nil => rfl
  | cons u l ih =>
    have h := ih (q.follow u)
    rw [follow_target] at h
    exact h

theorem followAll_wantsLine : (followAll l q).wantsLine t = q.wantsLine t := by
  rw [Irq.wantsLine, Irq.wantsLine, followAll_best, followAll_target]

/-- A line that has followed does not move again. -/
theorem followAll_line_of_line (h : (q.target t).line = q.wantsLine t) : ((followAll l q).target t).line = q.wantsLine t := by
  induction l generalizing q with
  | nil => exact h
  | cons u l ih =>
    have hu : ((q.follow u).target t).line = (q.follow u).wantsLine t := by
      rw [follow_wantsLine]
      by_cases htu : t = u
      · exact htu ▸ (q.follow_line t).1
      · rw [q.follow_target_ne htu, h]
    exact (ih _ hu).trans (follow_wantsLine ..)

theorem followAll_line {l : List Nat} (h : t ∈ l) : ((followAll l q).target t).line = q.wantsLine t := by
  induction l generalizing q with
  | nil => nomatch h
  | cons u l ih =>
    rw [← follow_wantsLine q u]
    obtain rfl | ht := List.mem_cons.1 h
    · refine followAll_line_of_line l _ _ ?_
      rw [follow_wantsLine, (q.follow_line t).1]
    · exact ih _ ht

end

theorem latch_targets (q : Irq) (lv : Nat → Bool) : (q.latch lv).targets = q.targets := by
  simp only [Irq.latch, levelSources, List.foldl_cons, List.foldl_nil, apply_ite Irq.targets, setPending_targets, ite_self]

section
variable (s : State) (t : Nat)

theorem settle_irq : s.settle.irq = followAll (List.range 64) (s.irq.latch s.level) := by
  simp only [State.settle, followAll]

/-- Settling moves the line of a target and nothing else of it. -/
theorem settle_target : s.settle.irq.target t = { s.irq.target t with line := (s.settle.irq.target t).line } := by
  have hlatch : (s.irq.latch s.level).target t = s.irq.target t := by rw [Irq.target, latch_targets, Irq.target]
  rw [settle_irq, ← hlatch]
  exact followAll_target ..

theorem settle_line_iff {t : Nat} (ht : t < 64) :
    (s.settle.irq.target t).line = true ↔ s.settle.irq.Demands t ∧ (s.settle.irq.target t).held = false := by
  rw [← wantsLine_iff, settle_irq, followAll_wantsLine, followAll_line _ _ (List.mem_range.2 ht)]

@[simp] theorem settle_idle : (s.settle.irq.target t).idle = (s.irq.target t).idle := by rw [settle_target]
@[simp] theorem settle_held : (s.settle.irq.target t).held = (s.irq.target t).held := by rw [settle_target]
@[simp] theorem settle_holdoff : (s.settle.irq.target t).holdoff = (s.irq.target t).holdoff := by rw [settle_target]

end

end Sys2Proof.Proofs
end

section
/-! SUPPORT. Which rows write IDLE or a holdoff (R463): eight do, and every other leaves both as they were at every target. -/

namespace Sys2Proof.Proofs

open Sys2Proof Sys2Proof.Machine

/-! ### IDLE and the holdoffs (R463) -/

/-- IDLE of each target, and whether a holdoff holds its line low. -/
def holdoffs (l : Tab Target) (t : Nat) : Bool × Bool := ((Tab.get {} l t).idle, (Tab.get {} l t).held)

theorem holdoffs_targets (q : Irq) (t : Nat) : holdoffs q.targets t = ((q.target t).idle, (q.target t).held) := rfl

/-- No holdoff applies while IDLE is set. -/
def IdleUnheld (q : Irq) : Prop := ∀ t, (q.target t).idle = true → (q.target t).held = false

theorem idleUnheld_iff {q : Irq} : IdleUnheld q ↔ ∀ t, (holdoffs q.targets t).1 = true → (holdoffs q.targets t).2 = false := Iff.rfl

theorem IdleUnheld.of_holdoffs {p q : Irq} (hp : IdleUnheld p) (h : holdoffs q.targets = holdoffs p.targets) : IdleUnheld q := by
  rw [idleUnheld_iff, h]
  exact hp

@[simp] theorem settle_holdoffs (s : State) : holdoffs s.settle.irq.targets = holdoffs s.irq.targets :=
  funext fun t => by rw [holdoffs_targets, holdoffs_targets, settle_idle, settle_held]

theorem IdleUnheld.settle {s : State} (h : IdleUnheld s.irq) : IdleUnheld s.settle.irq := h.of_holdoffs (settle_holdoffs s)

/-- A write of one target keeps the rule if what it writes does. -/
theorem IdleUnheld.setTarget {q : Irq} (hq : IdleUnheld q) (t : Nat) {x : Target} (hx : x.idle = true → x.held = false) :
    IdleUnheld (q.setTarget t x) := by
  intro u
  by_cases h : u = t
  · subst h
    simpa [Irq.setTarget, Irq.target] using hx
  · simpa [Irq.setTarget, Irq.target, Tab.get_set_ne _ _ _ h] using hq u

/-! ### The gates -/

section
variable (s : State)

theorem mgmtWrite_holdoffs (f addr : Nat) {g : State → State} (hg : (g s).irq.targets = s.irq.targets) :
    holdoffs (s.mgmtWrite f addr g).irq.targets = holdoffs s.irq.targets := by
  obtain ⟨-, h⟩ | ⟨-, -, h⟩ | ⟨-, -, h⟩ := s.mgmtWrite_cases f addr g <;> simp [h, hg]

theorem stobin_holdoffs (m : Stobin) (ty : Nat) (body : List Byte) (ok : Bool) (x : Exempt) {f : State → State}
    (hf : ∀ s, (f s).irq.targets = s.irq.targets) : holdoffs (s.stobin m ty body ok x f).irq.targets = holdoffs s.irq.targets := by
  obtain ⟨-, h⟩ | ⟨-, k, -, h⟩ | ⟨-, -, h⟩ := s.stobin_cases m ty body ok x f <;> simp [h, hf]

theorem present_holdoffs (h : Hdr) (op : Op) : holdoffs (s.present h op).irq.targets = holdoffs s.irq.targets := by
  obtain ⟨-, h⟩ | ⟨g, -, h⟩ := s.present_cases h op <;> simp [h]

theorem dbWrite_holdoffs (f c n : Nat) (tail : BitVec 32) (resume : Bool) :
    holdoffs (s.dbWrite f c n tail resume).irq.targets = holdoffs s.irq.targets := by
  obtain ⟨-, h⟩ | ⟨-, -, h⟩ | ⟨-, -, h⟩ := s.dbWrite_cases f c n tail resume <;> simp [h]

theorem withTI_holdoffs (b : Nat) (t : TI) {f : Cmd → Program → Nat → State} (hf : ∀ x p w, (f x p w).irq.targets = s.irq.targets) :
    holdoffs (s.withTI b t f).irq.targets = holdoffs s.irq.targets := by
  obtain h | ⟨x, p, w, -, -, h⟩ := s.withTI_cases b t f <;> simp [h, hf]

theorem issueTI_holdoffs (b : Nat) (t : TI) (echo : Option Nat) :
    holdoffs (s.issueTI b t echo).irq.targets = holdoffs s.irq.targets := by
  refine withTI_holdoffs _ _ _ (fun x p w => ?_)
  dsimp only
  split
  · split <;> simp
  · rfl

theorem ctlTI_holdoffs (b : Nat) (t : TI) (dst : Nat) (f : (Nat → BitVec 32) → BitVec 32) :
    holdoffs (s.ctlTI b t dst f).irq.targets = holdoffs s.irq.targets :=
  withTI_holdoffs _ _ _ (fun _ _ _ => rfl)

theorem tqwaitTI_holdoffs (b a : Nat) : holdoffs (s.tqwaitTI b a).irq.targets = holdoffs s.irq.targets := by
  refine withTI_holdoffs _ _ _ (fun x p w => ?_)
  dsimp only
  split <;> rfl

theorem fenceTI_holdoffs (b mask : Nat) : holdoffs (s.fenceTI b mask).irq.targets = holdoffs s.irq.targets := by
  refine withTI_holdoffs _ _ _ (fun x p w => ?_)
  dsimp only
  (repeat' split) <;> rfl

theorem barTI_holdoffs (b : Nat) : holdoffs (s.barTI b).irq.targets = holdoffs s.irq.targets := by
  refine withTI_holdoffs _ _ _ (fun x p w => ?_)
  dsimp only
  (repeat' split) <;> simp

theorem signalTI_holdoffs (b sig : Nat) (v : BitVec 32) : holdoffs (s.signalTI b sig v).irq.targets = holdoffs s.irq.targets := by
  refine withTI_holdoffs _ _ _ (fun x p w => ?_)
  dsimp only
  split <;> rfl

theorem landTI_holdoffs (b ch : Nat) : holdoffs (s.landTI b ch).irq.targets = holdoffs s.irq.targets := by
  refine withTI_holdoffs _ _ _ (fun x p w => ?_)
  dsimp only
  (repeat' split) <;> rfl

theorem ctlEndTI_holdoffs (b : Nat) : holdoffs (s.ctlEndTI b).irq.targets = holdoffs s.irq.targets := by
  refine withTI_holdoffs _ _ _ (fun x p w => ?_)
  dsimp only
  (repeat' split) <;> rfl

theorem transferEnd_holdoffs (b : Nat) : holdoffs (s.transferEnd b).irq.targets = holdoffs s.irq.targets := by
  unfold State.transferEnd
  (repeat' split) <;> simp

theorem drainOf_holdoffs (b : Nat) (upset : List (Nat × W40)) : holdoffs (s.drainOf b upset).irq.targets = holdoffs s.irq.targets := by
  unfold State.drainOf
  (repeat' split) <;> simp

theorem doneAck_holdoffs (b n : Nat) : holdoffs (s.doneAck b n).irq.targets = holdoffs s.irq.targets := by
  simp only [State.doneAck]
  (repeat' split) <;> simp

theorem openWindow_holdoffs (o : WindowObs) : holdoffs (s.openWindow o).irq.targets = holdoffs s.irq.targets := by
  simp only [State.openWindow]
  (repeat' split) <;> simp

end

/-! ### The rows -/

/-- The outcome is a next state, with IDLE and the holdoffs as they were. -/
def KeepsHoldoffs (s : State) (o : Host.Outcome State Fault Refusal) : Prop :=
  ∃ u, o = .next u ∧ holdoffs u.irq.targets = holdoffs s.irq.targets

section
variable (s : State)

theorem onLinks_keepsHoldoffs {f : State → State} (hf : (f s).irq.targets = s.irq.targets) : KeepsHoldoffs s (s.onLinks f) := by
  obtain ⟨-, h⟩ | ⟨-, h⟩ := s.onLinks_cases f
  · exact ⟨s, h, rfl⟩
  · exact ⟨_, h, by simp [hf]⟩

theorem packetFetch_keepsHoldoffs (g : Nat) : KeepsHoldoffs s (execPacketFetch g s) := by
  simp only [execPacketFetch]
  (repeat' split) <;> exact ⟨_, rfl, by simp⟩

theorem commandHang_keepsHoldoffs (id : Nat) : KeepsHoldoffs s (execCommandHang id s) := by
  refine ⟨_, rfl, ?_⟩
  (repeat' split) <;> simp

theorem waitTimeout_keepsHoldoffs (id : Nat) : KeepsHoldoffs s (execWaitTimeout id s) := by
  refine ⟨_, rfl, ?_⟩
  (repeat' split) <;> simp

theorem versionBusy_keepsHoldoffs (id : Nat) : KeepsHoldoffs s (execVersionBusy id s) := by
  refine ⟨_, rfl, ?_⟩
  (repeat' split) <;> simp

theorem drainTimeout_keepsHoldoffs (pt : Nat) : KeepsHoldoffs s (execDrainTimeout pt s) := by
  refine ⟨_, rfl, ?_⟩
  split <;> simp

theorem quarantine_keepsHoldoffs (purge engine : Nat) : KeepsHoldoffs s (execQuarantine purge engine s) := by
  refine ⟨_, rfl, ?_⟩
  (repeat' split) <;> simp

theorem edgeAckMiss_keepsHoldoffs : KeepsHoldoffs s (execEdgeAckMiss s) := by
  refine ⟨_, rfl, ?_⟩
  (repeat' split) <;> simp

theorem unitReady_keepsHoldoffs (u : Nat) : KeepsHoldoffs s (execUnitReady u s) := by
  refine ⟨_, rfl, ?_⟩
  split <;> rfl

theorem cairnRecordWrite_keepsHoldoffs : KeepsHoldoffs s (execCairnRecordWrite s) := by
  refine ⟨_, rfl, ?_⟩
  split <;> simp

theorem cairnRefill_keepsHoldoffs (code : Nat) : KeepsHoldoffs s (execCairnRefill code s) := by
  refine ⟨_, rfl, ?_⟩
  split <;> rfl

theorem mirrorCopy_keepsHoldoffs : KeepsHoldoffs s (execMirrorCopy s) := by
  refine ⟨_, rfl, ?_⟩
  (repeat' split) <;> rfl

theorem start_keepsHoldoffs (straps : Nat) (o : StartObs) : KeepsHoldoffs s (execStart straps o s) := by
  refine ⟨_, rfl, ?_⟩
  split <;> simp

theorem startStepTimeout_keepsHoldoffs (step cause : Nat) : KeepsHoldoffs s (execStartStepTimeout step cause s) := by
  refine ⟨_, rfl, ?_⟩
  split <;> simp

theorem busPowerUp_keepsHoldoffs : KeepsHoldoffs s (execBusPowerUp s) := by
  refine ⟨_, rfl, ?_⟩
  split <;> simp

theorem inputExcursion_keepsHoldoffs (mv : Nat) : KeepsHoldoffs s (execInputExcursion mv s) := by
  refine ⟨_, rfl, ?_⟩
  (repeat' split) <;> simp

theorem inputExcursionEnd_keepsHoldoffs (mv : Nat) : KeepsHoldoffs s (execInputExcursionEnd mv s) := by
  refine ⟨_, rfl, ?_⟩
  split <;> simp

theorem thermalThrottle_keepsHoldoffs (die sensor : Nat) (temp : Int) : KeepsHoldoffs s (execThermalThrottle die sensor temp s) := by
  refine ⟨_, rfl, ?_⟩
  split <;> simp

theorem thermalThrottleEnd_keepsHoldoffs (die : Nat) (temp : Int) : KeepsHoldoffs s (execThermalThrottleEnd die temp s) := by
  refine ⟨_, rfl, ?_⟩
  split <;> simp

theorem thermalTrip_keepsHoldoffs (sensor : Nat) (temp : Int) : KeepsHoldoffs s (execThermalTrip sensor temp s) := by
  refine ⟨_, rfl, ?_⟩
  split <;> simp

theorem coolant_keepsHoldoffs (kind : Nat) (inlet : Int) (flow : Nat) : KeepsHoldoffs s (execCoolant kind inlet flow s) := by
  refine ⟨_, rfl, ?_⟩
  split <;> simp

theorem throttleNChange_keepsHoldoffs (asserted : Bool) : KeepsHoldoffs s (execThrottleNChange asserted s) := by
  refine ⟨_, rfl, ?_⟩
  split <;> simp

theorem beatEdge_keepsHoldoffs (o : EdgeObs) : KeepsHoldoffs s (execBeatEdge o s) := by
  refine ⟨_, rfl, ?_⟩
  split <;> simp

theorem beatInEdge_keepsHoldoffs (offNs : Int) (o : EdgeObs) : KeepsHoldoffs s (execBeatInEdge offNs o s) := by
  refine ⟨_, rfl, ?_⟩
  (repeat' split) <;> simp

theorem holdoverEdge_keepsHoldoffs (o : EdgeObs) : KeepsHoldoffs s (execHoldoverEdge o s) := by
  refine ⟨_, rfl, ?_⟩
  (repeat' split) <;> simp

theorem heldExpiry_keepsHoldoffs (c : Nat) : KeepsHoldoffs s (execHeldExpiry c s) := by
  refine ⟨_, rfl, ?_⟩
  (repeat' split) <;> simp

theorem beatMarker_keepsHoldoffs (p : Nat) (offNs : Int) (num : W64) (o : EdgeObs) :
    KeepsHoldoffs s (execBeatMarker p offNs num o s) := by
  refine ⟨_, rfl, ?_⟩
  split <;> simp

theorem leaseLapse_keepsHoldoffs : KeepsHoldoffs s (execLeaseLapse s) := by
  refine ⟨_, rfl, ?_⟩
  split <;> simp

theorem derateArm_keepsHoldoffs (m : Stobin) (target : Nat) (table : DerateTable) : KeepsHoldoffs s (execDerateArm m target table s) := by
  refine ⟨_, rfl, stobin_holdoffs _ _ _ _ _ _ (fun s => ?_)⟩
  split <;> simp

theorem derateCancel_keepsHoldoffs (m : Stobin) : KeepsHoldoffs s (execDerateCancel m s) := by
  refine ⟨_, rfl, stobin_holdoffs _ _ _ _ _ _ (fun s => ?_)⟩
  (repeat' split) <;> simp

theorem bistEnd_keepsHoldoffs : KeepsHoldoffs s (execBistEnd s) := by
  refine ⟨_, rfl, ?_⟩
  split <;> simp

theorem standdown_keepsHoldoffs (r : Carrier) : KeepsHoldoffs s (execStanddown r s) := by
  refine ⟨_, rfl, ?_⟩
  split
  · exact mgmtWrite_holdoffs _ _ _ (by simp)
  · exact stobin_holdoffs _ _ _ _ _ _ (by simp)

theorem retry_keepsHoldoffs (r : Carrier) (o : StartObs) : KeepsHoldoffs s (execRetry r o s) := by
  refine ⟨_, rfl, ?_⟩
  split
  · exact mgmtWrite_holdoffs _ _ _ (by simp)
  · exact stobin_holdoffs _ _ _ _ _ _ (by simp)

theorem startReport_keepsHoldoffs (port : Nat) : KeepsHoldoffs s (execStartReport port s) := by
  refine ⟨_, rfl, ?_⟩
  split <;> simp

theorem ramalinkRetrain_keepsHoldoffs (lanes : Nat) : KeepsHoldoffs s (execRamalinkRetrain lanes s) := by
  refine ⟨_, rfl, ?_⟩
  split <;> simp

theorem apertureWrite_keepsHoldoffs (f addr : Nat) (data : List Byte) : KeepsHoldoffs s (execApertureWrite f addr data s) := by
  refine ⟨_, rfl, ?_⟩
  split <;> simp

theorem apertureRead_keepsHoldoffs (f addr len : Nat) : KeepsHoldoffs s (execApertureRead f addr len s) := by
  refine ⟨_, rfl, ?_⟩
  split <;> simp

end

/-! ### The rows that can move a holdoff -/

/-- The rows that can write IDLE or a holdoff: the controller's own, the register write that stands for them, and those through
which the device comes up from reset. -/
def movesHoldoffs : Instr → Bool
  | .registerWrite .. | .irqTgtClaim .. | .irqTgtIdle .. | .holdoffEnd .. | .warmTimeout | .moduleReset | .reset .. | .busTrip => true
  | _ => false

/-- No other row writes IDLE or a holdoff of any target. -/
theorem exec_keepsHoldoffs {i : Instr} (hi : movesHoldoffs i = false) (s : State) : KeepsHoldoffs s (exec i s) := by
  cases i with
  | registerWrite | irqTgtClaim | irqTgtIdle | holdoffEnd | warmTimeout | moduleReset | reset | busTrip => nomatch hi
  | streamOpen | streamClose | loadsetLoadPlace | loadsetLoadVerify | loadsetUnload | adapterAttachPlace | adapterAttachVerify
  | adapterDetach | run | copy | fill | reduce | gather | broadcast | normreduce | permute | routeOpen | routeDispatch | routeClose
  | routeRetrace | routeReturn | routeForceSeal | routeCounts | routeXset | combineForward | combineRetrace | weightSwitchStage
  | weightSwitchVerify | weightSwitchSwitch | weightSwitchAbort | optstep | fence | signalAdd | signalSet | wait | preempt
  | preemptResume | contextReset | partitionConfig | modeStageArm | modeStageCancel | censusRead | accountRead =>
    exact ⟨_, rfl, present_holdoffs ..⟩
  | mm | cvt | add | sub | mul | fma | min | max | cmp | sel | abs | neg | exp2 | log2 | recip | rsqrt | sqrt | sigmoid | tanh
  | relu | softplus | dsig | dtanh | drelu | dexp | drecip | drsqrt | dsoftmax | rsum | rmax | rssq | randu | randn | occ | gate
  | ldb | stb | ldt | stt | send | recv | pdisp | ptake | tqpop =>
    exact ⟨_, rfl, issueTI_holdoffs ..⟩
  | drainEnd => exact ⟨_, rfl, drainOf_holdoffs ..⟩
  | dmaTransferEnd => exact ⟨_, rfl, transferEnd_holdoffs ..⟩
  | blockDoneAck => exact ⟨_, rfl, doneAck_holdoffs ..⟩
  | tqwait => exact ⟨_, rfl, tqwaitTI_holdoffs ..⟩
  | syncFence => exact ⟨_, rfl, fenceTI_holdoffs ..⟩
  | bar => exact ⟨_, rfl, barTI_holdoffs ..⟩
  | syncSignal => exact ⟨_, rfl, signalTI_holdoffs ..⟩
  | land => exact ⟨_, rfl, landTI_holdoffs ..⟩
  | ctlEnd => exact ⟨_, rfl, ctlEndTI_holdoffs ..⟩
  | budget | loop => exact ⟨_, rfl, withTI_holdoffs _ _ _ (fun _ _ _ => rfl)⟩
  | seti | addi | muli | madd | divi | modi => exact ⟨_, rfl, ctlTI_holdoffs ..⟩
  | doorbell | resume => exact ⟨_, rfl, dbWrite_holdoffs ..⟩
  | saddleWindowOpen => exact ⟨_, rfl, openWindow_holdoffs ..⟩
  | commandIssue | purgeAck | recoverN => exact ⟨_, rfl, by simp⟩
  | coolantRestored => exact ⟨_, rfl, rfl⟩
  | beatStageArm | beatStageCancel | censSelWrite | censClrCtx | censClrSel | passSelWrite | passClrSel | ptNextWrite | ptModeArm
  | ptModeCancel | applyIdle | schedSwap | schedCancel | ctxCreate | ctxDestroy | ctxRselWrite | acctSelWrite | acctClrSel | retrain
  | bistImgData | bistImgClear | bistImgGo | bistAbort | bistResSel | cairnRdSeq | cairnClrData | cairnClrRestart | cairnClrGo
  | cairnCodeWrite =>
    exact ⟨_, rfl, mgmtWrite_holdoffs _ _ _ (by simp)⟩
  | irqModeWrite => exact ⟨_, rfl, mgmtWrite_holdoffs _ _ _ rfl⟩
  | irqTgtComplete => exact ⟨_, rfl, mgmtWrite_holdoffs _ _ _ (by simp [Irq.complete])⟩
  | lease | binsRead | wake | attest | certRead | bistRead | cairnRead | cairnClear =>
    exact ⟨_, rfl, stobin_holdoffs _ _ _ _ _ _ (by simp)⟩
  | discoverSend | discoverReply | discover | epochAnnounce | hopAck | hopCredit | frameCrcError | reservedFrame | e2eAck
  | e2eNotready | e2eResend | collData | collAbort | permData | permMark | chanData | chanCommit | chanCredit | passTry
  | passReply | passMark | passRow | portTrained | portFailure =>
    simp only [exec]
    exact onLinks_keepsHoldoffs _ (by simp)
  | packetFetch => exact packetFetch_keepsHoldoffs ..
  | beatEdge => exact beatEdge_keepsHoldoffs ..
  | heldExpiry => exact heldExpiry_keepsHoldoffs ..
  | beatInEdge => exact beatInEdge_keepsHoldoffs ..
  | holdoverEdge => exact holdoverEdge_keepsHoldoffs ..
  | commandHang => exact commandHang_keepsHoldoffs ..
  | waitTimeout => exact waitTimeout_keepsHoldoffs ..
  | versionBusy => exact versionBusy_keepsHoldoffs ..
  | drainTimeout => exact drainTimeout_keepsHoldoffs ..
  | apertureWrite => exact apertureWrite_keepsHoldoffs ..
  | apertureRead => exact apertureRead_keepsHoldoffs ..
  | leaseLapse => exact leaseLapse_keepsHoldoffs ..
  | derateArm => exact derateArm_keepsHoldoffs ..
  | derateCancel => exact derateCancel_keepsHoldoffs ..
  | standdown => exact standdown_keepsHoldoffs ..
  | bistEnd => exact bistEnd_keepsHoldoffs ..
  | retry => exact retry_keepsHoldoffs ..
  | startReport => exact startReport_keepsHoldoffs ..
  | beatMarker => exact beatMarker_keepsHoldoffs ..
  | ramalinkRetrain => exact ramalinkRetrain_keepsHoldoffs ..
  | quarantine => exact quarantine_keepsHoldoffs ..
  | edgeAckMiss => exact edgeAckMiss_keepsHoldoffs ..
  | unitReady => exact unitReady_keepsHoldoffs ..
  | cairnRecordWrite => exact cairnRecordWrite_keepsHoldoffs ..
  | cairnRefill => exact cairnRefill_keepsHoldoffs ..
  | mirrorCopy => exact mirrorCopy_keepsHoldoffs ..
  | start => exact start_keepsHoldoffs ..
  | startStepTimeout => exact startStepTimeout_keepsHoldoffs ..
  | busPowerUp => exact busPowerUp_keepsHoldoffs ..
  | inputExcursion => exact inputExcursion_keepsHoldoffs ..
  | thermalThrottle => exact thermalThrottle_keepsHoldoffs ..
  | thermalTrip => exact thermalTrip_keepsHoldoffs ..
  | coolant => exact coolant_keepsHoldoffs ..
  | inputExcursionEnd => exact inputExcursionEnd_keepsHoldoffs ..
  | thermalThrottleEnd => exact thermalThrottleEnd_keepsHoldoffs ..
  | throttleNChange => exact throttleNChange_keepsHoldoffs ..

end Sys2Proof.Proofs
end

section
/-! The holdoff of a target (R463): IDLE and holdoffs exclude each other at every step, and what a claim, IDLE and the end of a holdoff do. -/

namespace Sys2Proof.Proofs

open Sys2Proof Sys2Proof.Machine

section
variable {s : State}

theorem IdleUnheld.of_targets {p q : Irq} (hp : IdleUnheld p) (h : q.targets = p.targets) : IdleUnheld q :=
  hp.of_holdoffs (congrArg holdoffs h)

/-- Out of reset no target is idle. -/
theorem idleUnheld_of_noTargets {q : Irq} (h : q.targets = []) : IdleUnheld q := by
  intro t hidle
  rw [Irq.target, h] at hidle
  nomatch hidle

/-! ### The controller's registers -/

theorem goIdle_idleUnheld {q : Irq} (hq : IdleUnheld q) (t : Nat) : IdleUnheld (q.goIdle t) := hq.setTarget t (fun _ => rfl)

theorem writeMod_idleUnheld {q : Irq} (hq : IdleUnheld q) (t : Nat) (v : W64) : IdleUnheld (q.writeMod t v) := hq.setTarget t (hq t)

theorem writeTarget_idleUnheld {q : Irq} (hq : IdleUnheld q) (t r : Nat) (v : W64) : IdleUnheld (q.writeTarget t r v) := by
  unfold Irq.writeTarget
  split
  · exact hq
  · split
    · exact goIdle_idleUnheld hq t
    · exact hq
  · exact writeMod_idleUnheld hq t v
  · exact hq

theorem write_targets (q : Irq) {o : Nat} (v : W64) (h : ¬ (0x6000 ≤ o ∧ o < 0x7000)) : (q.write o v).targets = q.targets := by
  simp only [Irq.write, if_neg h]
  (repeat' split) <;> rfl

theorem write_of_target (q : Irq) {o : Nat} (v : W64) (h : 0x6000 ≤ o ∧ o < 0x7000) :
    q.write o v = q.writeTarget ((o - 0x6000) / 0x40) ((o - 0x6000) % 0x40) v := by
  rw [Irq.write, if_neg (by omega), if_neg (by omega), if_neg (by omega), if_neg (by omega), if_neg (by omega), if_neg (by omega),
    if_neg (by omega), if_pos h]

theorem write_idleUnheld {q : Irq} (hq : IdleUnheld q) (o : Nat) (v : W64) : IdleUnheld (q.write o v) := by
  by_cases h : 0x6000 ≤ o ∧ o < 0x7000
  · rw [write_of_target q v h]
    exact writeTarget_idleUnheld hq _ _ _
  · exact hq.of_targets (write_targets q v h)

theorem claim_none {q : Irq} {t : Nat} (h : q.best t = none) : (q.claim t).2 = q := by
  rw [Irq.claim, h]

/-- A claim that returns a source clears IDLE, and holds the line low where HOLDOFF is not 0. -/
theorem claim_target {q : Irq} {t n : Nat} (h : q.best t = some n) : ∃ p : Irq, p.targets = q.targets ∧
    (q.claim t).2 = p.setTarget t { q.target t with last := BitVec.ofNat 10 n, held := (q.target t).holdoff != 0, idle := false } := by
  have htarget (p : Irq) (hp : p.targets = q.targets) : p.target t = q.target t := by rw [Irq.target, hp, Irq.target]
  simp only [Irq.claim, h]
  split <;>
  · refine ⟨_, ?_, congrArg (Irq.setTarget _ t) ?_⟩
    · exact setPending_targets ..
    · rw [htarget]
      exact setPending_targets ..

theorem claim_idleUnheld {q : Irq} (hq : IdleUnheld q) (t : Nat) : IdleUnheld (q.claim t).2 := by
  cases h : q.best t with
  | none => rwa [claim_none h]
  | some n =>
    obtain ⟨p, hp, heq⟩ := claim_target h
    rw [heq]
    exact (hq.of_targets hp).setTarget t (fun hidle => nomatch hidle)

/-! ### Rows -/

theorem writeMgmt_idleUnheld (h : IdleUnheld s.irq) (a : Nat) (v : W64) : IdleUnheld (s.writeMgmt a v).irq := by
  by_cases hirq : 0x200000 ≤ a ∧ a < 0x210000
  · have hwrite : (s.writeMgmt a v).irq = s.irq.write (a - 0x200000) v := by
      rw [State.writeMgmt, if_neg (by omega), if_neg (by omega), if_neg (by omega), if_neg (by omega), if_neg (by omega),
        if_neg (by omega), if_neg (by omega), if_pos hirq, State.writeIrq]
    rw [hwrite]
    exact write_idleUnheld h _ _
  · refine h.of_targets ?_
    simp only [State.writeMgmt, if_neg hirq]
    (repeat' split) <;> simp

theorem writeReg_idleUnheld (h : IdleUnheld s.irq) (f a width : Nat) (v : W64) : IdleUnheld (s.writeReg f a width v).irq := by
  simp only [State.writeReg]
  split
  · split
    · exact h.of_targets (by simp)
    · split
      · exact writeMgmt_idleUnheld h a v
      · exact h
  · refine h.of_targets ?_
    (repeat' split) <;> simp

theorem coldReset_idleUnheld (h : IdleUnheld s.irq) (ph : PinPhase) : IdleUnheld (s.coldReset ph).irq := by
  unfold State.coldReset
  split
  · exact h
  · exact idleUnheld_of_noTargets rfl

theorem registerWrite_idleUnheld (h : IdleUnheld s.irq) (f a w : Nat) (v : W64) :
    ∃ u, exec (.registerWrite f a w v) s = .next u ∧ IdleUnheld u.irq := by
  refine ⟨_, rfl, ?_⟩
  split
  · exact (writeReg_idleUnheld h f a w v).settle
  · exact h

theorem irqTgtClaim_idleUnheld (h : IdleUnheld s.irq) (f t : Nat) : ∃ u, exec (.irqTgtClaim f t) s = .next u ∧ IdleUnheld u.irq := by
  refine ⟨_, rfl, ?_⟩
  split
  · exact h
  · split
    · exact h.of_holdoffs (by simp)
    · refine IdleUnheld.settle ?_
      unfold State.claim
      split
      · exact h
      · exact claim_idleUnheld h t

theorem irqTgtIdle_idleUnheld (h : IdleUnheld s.irq) (f t : Nat) : ∃ u, exec (.irqTgtIdle f t) s = .next u ∧ IdleUnheld u.irq := by
  refine ⟨_, rfl, ?_⟩
  obtain ⟨-, hw⟩ | ⟨-, -, hw⟩ | ⟨-, -, hw⟩ := s.mgmtWrite_cases f (tgtAddr t 0x10)
    (fun s => if t < 64 then { s with irq := s.irq.goIdle t } else s)
  · rwa [hw]
  · rw [hw]
    exact h.of_holdoffs (by simp)
  · rw [hw]
    refine IdleUnheld.settle ?_
    split
    · exact goIdle_idleUnheld h t
    · exact h

theorem holdoffEnd_idleUnheld (h : IdleUnheld s.irq) (t : Nat) : ∃ u, exec (.holdoffEnd t) s = .next u ∧ IdleUnheld u.irq := by
  refine ⟨_, rfl, ?_⟩
  split
  · exact IdleUnheld.settle (h.setTarget t (fun _ => rfl))
  · exact h

theorem warmTimeout_idleUnheld (h : IdleUnheld s.irq) : ∃ u, exec .warmTimeout s = .next u ∧ IdleUnheld u.irq := by
  refine ⟨_, rfl, ?_⟩
  split
  · refine IdleUnheld.settle (coldReset_idleUnheld ?_ .reset)
    exact h
  · exact h

theorem reset_idleUnheld (h : IdleUnheld s.irq) (m : Stobin) (kind : Nat) : ∃ u, exec (.reset m kind) s = .next u ∧ IdleUnheld u.irq := by
  refine ⟨_, rfl, ?_⟩
  split
  · refine IdleUnheld.settle ?_
    split
    · exact h.of_targets (by simp)
    · exact coldReset_idleUnheld (h.of_targets (by simp)) _
  · obtain ⟨-, hw⟩ | ⟨-, k, -, hw⟩ | ⟨-, -, hw⟩ := s.stobin_cases m 0x30 (leBytes 1 kind ++ zeros 7) (decide (kind ≤ 1)) .none
      (fun s => if kind = 0 then s.warmReset 1 else s.coldReset .boot)
    · rwa [hw]
    · rw [hw]
      exact h.of_holdoffs (by simp)
    · rw [hw]
      refine IdleUnheld.settle ?_
      split
      · exact h.of_targets (by simp)
      · exact coldReset_idleUnheld (h.of_targets (by simp)) _

theorem busTrip_idleUnheld (h : IdleUnheld s.irq) : ∃ u, exec .busTrip s = .next u ∧ IdleUnheld u.irq := by
  refine ⟨_, rfl, ?_⟩
  split
  · exact idleUnheld_of_noTargets rfl
  · exact h

/-- Every row keeps the rule that no holdoff applies while IDLE is set (R463). -/
theorem exec_idleUnheld (h : IdleUnheld s.irq) (i : Instr) : ∃ u, exec i s = .next u ∧ IdleUnheld u.irq := by
  cases hi : movesHoldoffs i with
  | false =>
    obtain ⟨u, hu, hkeep⟩ := exec_keepsHoldoffs hi s
    exact ⟨u, hu, h.of_holdoffs hkeep⟩
  | true =>
    cases i with
    | registerWrite f a w v => exact registerWrite_idleUnheld h f a w v
    | irqTgtClaim f t => exact irqTgtClaim_idleUnheld h f t
    | irqTgtIdle f t => exact irqTgtIdle_idleUnheld h f t
    | holdoffEnd t => exact holdoffEnd_idleUnheld h t
    | warmTimeout => exact warmTimeout_idleUnheld h
    | moduleReset => exact ⟨_, rfl, (coldReset_idleUnheld h .reset).settle⟩
    | reset m kind => exact reset_idleUnheld h m kind
    | busTrip => exact busTrip_idleUnheld h
    | _ => nomatch hi

/-- Every step keeps the rule that no holdoff applies while IDLE is set (R463). -/
theorem step_idleUnheld {u : State} (h : IdleUnheld s.irq) (hstep : step s = .next u) : IdleUnheld u.irq := by
  unfold step at hstep
  split at hstep
  · cases hstep
    exact h
  · next c rest _ =>
    obtain ⟨v, hv, hidle⟩ := exec_idleUnheld (s := { s with pending := rest }) h c
    cases hv.symm.trans hstep
    exact hidle

/-! ### Claim, IDLE and the end of a holdoff -/

theorem claim_ends (s : State) {t n : Nat} (hup : s.hostUp = true) (ht : t < 64) (hpend : s.irq.isPending n = true)
    (hmask : s.irq.isMasked n = false) (hroute : s.irq.routed n t = true) :
    ∃ u, exec (.irqTgtClaim 0 t) s = .next u ∧ (u.irq.target t).idle = false ∧
      ((u.irq.target t).held = true ↔ (s.irq.target t).holdoff ≠ 0) ∧ ((u.irq.target t).held = true → (u.irq.target t).line = false) := by
  obtain ⟨m, hbest⟩ := Option.isSome_iff_exists.1 (best_isSome.2 ⟨n, hpend, hmask, hroute⟩)
  obtain ⟨p, -, hclaim⟩ := claim_target hbest
  have hexec : exec (.irqTgtClaim 0 t) s = .next (s.claim t).settle := by
    simp [exec, execIrqTgtClaim, hup]
  have htarget : (s.claim t).irq.target t =
      { s.irq.target t with last := BitVec.ofNat 10 m, held := (s.irq.target t).holdoff != 0, idle := false } := by
    simp [State.claim, Nat.not_le.2 ht, hclaim, Irq.setTarget, Irq.target]
  refine ⟨_, hexec, ?_, ?_, fun hheld => ?_⟩
  · rw [settle_idle, htarget]
  · rw [settle_held, htarget]
    simp
  · have hline := settle_line_iff (s.claim t) ht
    simpa [hheld] using hline

theorem idle_ends (s : State) {t : Nat} (hup : s.hostUp = true) (ht : t < 64) :
    ∃ u, exec (.irqTgtIdle 0 t) s = .next u ∧ (u.irq.target t).idle = true ∧ (u.irq.target t).held = false ∧
      ((u.irq.target t).line = true ↔ u.irq.Demands t) := by
  have hexec : exec (.irqTgtIdle 0 t) s = .next ({ s with irq := s.irq.goIdle t } : State).settle := by
    simp [exec, execIrqTgtIdle, State.mgmtWrite, State.mgmtAccess, hup, ht]
  have hheld : (({ s with irq := s.irq.goIdle t } : State).settle.irq.target t).held = false := by
    rw [settle_held]
    simp [Irq.goIdle, Irq.setTarget, Irq.target]
  refine ⟨_, hexec, ?_, hheld, ?_⟩
  · rw [settle_idle]
    simp [Irq.goIdle, Irq.setTarget, Irq.target]
  · simp [settle_line_iff _ ht, hheld]

theorem holdoffEnd_ends (s : State) {t : Nat} (ht : t < 64) (hheld : (s.irq.target t).held = true) :
    ∃ u, exec (.holdoffEnd t) s = .next u ∧ (u.irq.target t).held = false ∧
      (u.irq.target t).holdoff = (s.irq.target t).holdoff ∧ ((u.irq.target t).line = true ↔ u.irq.Demands t) := by
  have hexec : exec (.holdoffEnd t) s =
      .next ({ s with irq := s.irq.setTarget t { s.irq.target t with held := false } } : State).settle := by
    simp [exec, execHoldoffEnd, ht, hheld]
  have hfree : (({ s with irq := s.irq.setTarget t { s.irq.target t with held := false } } : State).settle.irq.target t).held = false := by
    rw [settle_held]
    simp [Irq.setTarget, Irq.target]
  refine ⟨_, hexec, hfree, ?_, ?_⟩
  · rw [settle_holdoff]
    simp [Irq.setTarget, Irq.target]
  · simp [settle_line_iff _ ht, hfree]

end

/-- Settles O57: the claim, IDLE and the end of a holdoff by their own effect and by the following of the lines; the step by the frame of
the targets, whose holdoffs all rows but eight leave as they were. -/
theorem holdoffRule : Obligations.HoldoffRule := by
  unfold Obligations.HoldoffRule
  exact ⟨fun s _ _ hup ht hpend hmask hroute => claim_ends s hup ht hpend hmask hroute, fun s _ hup ht => idle_ends s hup ht,
    fun _ _ h hstep => step_idleUnheld h hstep, fun s _ ht hheld => holdoffEnd_ends s ht hheld⟩

end Sys2Proof.Proofs
end

section
/-! SUPPORT. Every row leaves each request line as its sources and its holdoff ask for (R461, R463): nearly every row's effect ends by
letting the lines follow, and the few that do not leave the controller alone. -/

namespace Sys2Proof.Proofs

open Sys2Proof Sys2Proof.Machine

/-- The lines follow in `u` if they did in `s`. -/
structure KeepsLines (s u : State) : Prop where
  follow : s.LinesFollow → u.LinesFollow

theorem settle_linesFollow (s : State) : s.settle.LinesFollow := fun _ ht => settle_line_iff s ht

@[simp] theorem keepsLines_settle (s u : State) : KeepsLines s u.settle := ⟨fun _ => settle_linesFollow u⟩

theorem keepsLines_of_irq {s u : State} (h : u.irq = s.irq) : KeepsLines s u := by
  refine ⟨fun hs t ht => ?_⟩
  rw [h]
  exact hs t ht

@[simp] theorem keepsLines_self (s : State) : KeepsLines s s := ⟨id⟩

/-- Out of reset no line is high, and every source is masked. -/
theorem reset_isMasked (n : Nat) : State.reset.irq.isMasked n = true := by
  have hmask : State.reset.irq.mask = [] := rfl
  have hbank : State.reset.irq.bankMask = [] := rfl
  unfold Irq.isMasked
  split <;> simp [hmask, hbank, wordBit, Tab.get]

theorem linesFollow_of_resetIrq {u : State} (h : u.irq = State.reset.irq) : u.LinesFollow := by
  intro t _
  rw [h]
  refine ⟨fun hline => Bool.noConfusion (show false = true from hline), ?_⟩
  rintro ⟨⟨n, -, hmask, -⟩, -⟩
  rw [reset_isMasked] at hmask
  nomatch hmask

/-! ### The gates -/

section
variable (s : State)

theorem mgmtWrite_keepsLines (f addr : Nat) (g : State → State) : KeepsLines s (s.mgmtWrite f addr g) := by
  obtain ⟨-, h⟩ | ⟨-, -, h⟩ | ⟨-, -, h⟩ := s.mgmtWrite_cases f addr g <;> simp [h]

theorem stobin_keepsLines (m : Stobin) (ty : Nat) (body : List Byte) (ok : Bool) (x : Exempt) (f : State → State) :
    KeepsLines s (s.stobin m ty body ok x f) := by
  obtain ⟨-, h⟩ | ⟨-, k, -, h⟩ | ⟨-, -, h⟩ := s.stobin_cases m ty body ok x f <;> simp [h]

theorem present_keepsLines (h : Hdr) (op : Op) : KeepsLines s (s.present h op) := by
  obtain ⟨-, h⟩ | ⟨g, -, h⟩ := s.present_cases h op <;> simp [h]

theorem dbWrite_keepsLines (f c n : Nat) (tail : BitVec 32) (resume : Bool) : KeepsLines s (s.dbWrite f c n tail resume) := by
  obtain ⟨-, h⟩ | ⟨-, -, h⟩ | ⟨-, -, h⟩ := s.dbWrite_cases f c n tail resume <;> simp [h]

theorem withTI_keepsLines (b : Nat) (t : TI) (f : Cmd → Program → Nat → State) : KeepsLines s (s.withTI b t f) := by
  obtain h | ⟨x, p, w, -, -, h⟩ := s.withTI_cases b t f <;> simp [h]

theorem issueTI_keepsLines (b : Nat) (t : TI) (echo : Option Nat) : KeepsLines s (s.issueTI b t echo) := withTI_keepsLines ..

theorem ctlTI_keepsLines (b : Nat) (t : TI) (dst : Nat) (f : (Nat → BitVec 32) → BitVec 32) : KeepsLines s (s.ctlTI b t dst f) :=
  withTI_keepsLines ..

theorem transferEnd_keepsLines (b : Nat) : KeepsLines s (s.transferEnd b) := by
  unfold State.transferEnd
  (repeat' split) <;> simp

theorem drainOf_keepsLines (b : Nat) (upset : List (Nat × W40)) : KeepsLines s (s.drainOf b upset) := by
  unfold State.drainOf
  (repeat' split) <;> simp

theorem doneAck_keepsLines (b n : Nat) : KeepsLines s (s.doneAck b n) := by
  simp only [State.doneAck]
  (repeat' split) <;> simp

theorem openWindow_keepsLines (o : WindowObs) : KeepsLines s (s.openWindow o) := by
  unfold State.openWindow
  split
  · simp
  · dsimp only
    split
    · simp
    · exact keepsLines_of_irq rfl

end

/-! ### The rows -/

/-- The outcome is a next state in which the lines follow, if they did before. -/
def LeavesLines (s : State) (o : Host.Outcome State Fault Refusal) : Prop := ∃ u, o = .next u ∧ KeepsLines s u

section
variable (s : State)

theorem onLinks_leavesLines (f : State → State) : LeavesLines s (s.onLinks f) := by
  obtain ⟨-, h⟩ | ⟨-, h⟩ := s.onLinks_cases f <;> exact ⟨_, h, by simp⟩

theorem packetFetch_leavesLines (g : Nat) : LeavesLines s (execPacketFetch g s) := by
  simp only [execPacketFetch]
  (repeat' split) <;> exact ⟨_, rfl, by simp⟩

theorem edgeAckMiss_leavesLines : LeavesLines s (execEdgeAckMiss s) := by
  refine ⟨_, rfl, ?_⟩
  split
  · simp
  · split
    · simp
    · exact keepsLines_of_irq rfl

theorem unitReady_leavesLines (u : Nat) : LeavesLines s (execUnitReady u s) := by
  refine ⟨_, rfl, ?_⟩
  split
  · exact keepsLines_of_irq rfl
  · simp

theorem cairnRefill_leavesLines (code : Nat) : LeavesLines s (execCairnRefill code s) := by
  refine ⟨_, rfl, ?_⟩
  split
  · exact keepsLines_of_irq rfl
  · simp

theorem mirrorCopy_leavesLines : LeavesLines s (execMirrorCopy s) := by
  refine ⟨_, rfl, ?_⟩
  (repeat' split) <;> exact keepsLines_of_irq rfl

theorem startReport_leavesLines (port : Nat) : LeavesLines s (execStartReport port s) := by
  refine ⟨_, rfl, ?_⟩
  split
  · exact keepsLines_of_irq rfl
  · simp

theorem beatInEdge_leavesLines (off : Int) (o : EdgeObs) : LeavesLines s (execBeatInEdge off o s) := by
  refine ⟨_, rfl, ?_⟩
  split
  · split
    · simp
    · split
      · exact keepsLines_of_irq rfl
      · simp
  · simp

theorem busTrip_leavesLines : LeavesLines s (execBusTrip s) := by
  refine ⟨_, rfl, ?_⟩
  split
  · exact ⟨fun _ => linesFollow_of_resetIrq rfl⟩
  · simp

theorem commandHang_leavesLines (id : Nat) : LeavesLines s (execCommandHang id s) := by
  refine ⟨_, rfl, ?_⟩
  (repeat' split) <;> simp

theorem waitTimeout_leavesLines (id : Nat) : LeavesLines s (execWaitTimeout id s) := by
  refine ⟨_, rfl, ?_⟩
  (repeat' split) <;> simp

theorem versionBusy_leavesLines (id : Nat) : LeavesLines s (execVersionBusy id s) := by
  refine ⟨_, rfl, ?_⟩
  (repeat' split) <;> simp

theorem inputExcursion_leavesLines (mv : Nat) : LeavesLines s (execInputExcursion mv s) := by
  refine ⟨_, rfl, ?_⟩
  (repeat' split) <;> simp

theorem holdoverEdge_leavesLines (o : EdgeObs) : LeavesLines s (execHoldoverEdge o s) := by
  refine ⟨_, rfl, ?_⟩
  (repeat' split) <;> simp

theorem heldExpiry_leavesLines (c : Nat) : LeavesLines s (execHeldExpiry c s) := by
  refine ⟨_, rfl, ?_⟩
  (repeat' split) <;> simp

theorem quarantine_leavesLines (purge engine : Nat) : LeavesLines s (execQuarantine purge engine s) := by
  refine ⟨_, rfl, ?_⟩
  (repeat' split) <;> simp

theorem irqTgtClaim_leavesLines (f t : Nat) : LeavesLines s (execIrqTgtClaim f t s) := by
  refine ⟨_, rfl, ?_⟩
  (repeat' split) <;> simp

theorem standdown_leavesLines (r : Carrier) : LeavesLines s (execStanddown r s) := by
  refine ⟨_, rfl, ?_⟩
  split
  · exact mgmtWrite_keepsLines ..
  · exact stobin_keepsLines ..

theorem retry_leavesLines (r : Carrier) (o : StartObs) : LeavesLines s (execRetry r o s) := by
  refine ⟨_, rfl, ?_⟩
  split
  · exact mgmtWrite_keepsLines ..
  · exact stobin_keepsLines ..

theorem reset_leavesLines (m : Stobin) (kind : Nat) : LeavesLines s (execReset m kind s) := by
  refine ⟨_, rfl, ?_⟩
  split
  · simp
  · exact stobin_keepsLines ..

/-- A row that acts, where its guard holds, and then lets the lines follow. -/
theorem ite_leavesLines (c : Prop) [Decidable c] (u : State) : LeavesLines s (.next (if c then u.settle else s)) := by
  refine ⟨_, rfl, ?_⟩
  split <;> simp

end

/-- Every row leaves the lines following their sources and their holdoffs (R461, R463). -/
theorem exec_leavesLines (i : Instr) (s : State) : LeavesLines s (exec i s) := by
  cases i with
  | streamOpen | streamClose | loadsetLoadPlace | loadsetLoadVerify | loadsetUnload | adapterAttachPlace | adapterAttachVerify
  | adapterDetach | run | copy | fill | reduce | gather | broadcast | normreduce | permute | routeOpen | routeDispatch | routeClose
  | routeRetrace | routeReturn | routeForceSeal | routeCounts | routeXset | combineForward | combineRetrace | weightSwitchStage
  | weightSwitchVerify | weightSwitchSwitch | weightSwitchAbort | optstep | fence | signalAdd | signalSet | wait | preempt
  | preemptResume | contextReset | partitionConfig | modeStageArm | modeStageCancel | censusRead | accountRead =>
    exact ⟨_, rfl, present_keepsLines ..⟩
  | mm | cvt | add | sub | mul | fma | min | max | cmp | sel | abs | neg | exp2 | log2 | recip | rsqrt | sqrt | sigmoid | tanh
  | relu | softplus | dsig | dtanh | drelu | dexp | drecip | drsqrt | dsoftmax | rsum | rmax | rssq | randu | randn | occ | gate
  | ldb | stb | ldt | stt | send | recv | pdisp | ptake | tqpop =>
    exact ⟨_, rfl, issueTI_keepsLines ..⟩
  | tqwait | syncFence | bar | syncSignal | land | ctlEnd | budget | loop => exact ⟨_, rfl, withTI_keepsLines ..⟩
  | seti | addi | muli | madd | divi | modi => exact ⟨_, rfl, ctlTI_keepsLines ..⟩
  | drainEnd => exact ⟨_, rfl, drainOf_keepsLines ..⟩
  | dmaTransferEnd => exact ⟨_, rfl, transferEnd_keepsLines ..⟩
  | blockDoneAck => exact ⟨_, rfl, doneAck_keepsLines ..⟩
  | doorbell | resume => exact ⟨_, rfl, dbWrite_keepsLines ..⟩
  | saddleWindowOpen => exact ⟨_, rfl, openWindow_keepsLines ..⟩
  | commandIssue | purgeAck | recoverN | moduleReset => exact ⟨_, rfl, keepsLines_settle ..⟩
  | coolantRestored => exact ⟨_, rfl, keepsLines_of_irq rfl⟩
  | beatStageArm | beatStageCancel | censSelWrite | censClrCtx | censClrSel | passSelWrite | passClrSel | ptNextWrite | ptModeArm
  | ptModeCancel | applyIdle | schedSwap | schedCancel | ctxCreate | ctxDestroy | ctxRselWrite | acctSelWrite | acctClrSel | retrain
  | bistImgData | bistImgClear | bistImgGo | bistAbort | bistResSel | cairnRdSeq | cairnClrData | cairnClrRestart | cairnClrGo
  | cairnCodeWrite | irqModeWrite | irqTgtComplete | irqTgtIdle =>
    exact ⟨_, rfl, mgmtWrite_keepsLines ..⟩
  | lease | binsRead | wake | attest | certRead | bistRead | cairnRead | cairnClear | derateArm | derateCancel =>
    exact ⟨_, rfl, stobin_keepsLines ..⟩
  | discoverSend | discoverReply | discover | epochAnnounce | hopAck | hopCredit | frameCrcError | reservedFrame | e2eAck
  | e2eNotready | e2eResend | collData | collAbort | permData | permMark | chanData | chanCommit | chanCredit | passTry
  | passReply | passMark | passRow | portTrained | portFailure =>
    simp only [exec]
    exact onLinks_leavesLines _ _
  | registerWrite | apertureWrite | apertureRead | beatEdge | leaseLapse | drainTimeout | bistEnd | beatMarker | ramalinkRetrain
  | cairnRecordWrite | start | startStepTimeout | thermalThrottle | thermalTrip | coolant | inputExcursionEnd | thermalThrottleEnd
  | throttleNChange | holdoffEnd | warmTimeout =>
    exact ite_leavesLines ..
  | busPowerUp =>
    refine ⟨_, rfl, ?_⟩
    split <;> simp
  | packetFetch => exact packetFetch_leavesLines ..
  | heldExpiry => exact heldExpiry_leavesLines ..
  | beatInEdge => exact beatInEdge_leavesLines ..
  | holdoverEdge => exact holdoverEdge_leavesLines ..
  | commandHang => exact commandHang_leavesLines ..
  | waitTimeout => exact waitTimeout_leavesLines ..
  | versionBusy => exact versionBusy_leavesLines ..
  | standdown => exact standdown_leavesLines ..
  | retry => exact retry_leavesLines ..
  | reset => exact reset_leavesLines ..
  | startReport => exact startReport_leavesLines ..
  | quarantine => exact quarantine_leavesLines ..
  | edgeAckMiss => exact edgeAckMiss_leavesLines ..
  | unitReady => exact unitReady_leavesLines ..
  | cairnRefill => exact cairnRefill_leavesLines ..
  | mirrorCopy => exact mirrorCopy_leavesLines ..
  | inputExcursion => exact inputExcursion_leavesLines ..
  | irqTgtClaim => exact irqTgtClaim_leavesLines ..
  | busTrip => exact busTrip_leavesLines ..

/-- Settles O2: whatever row runs, either the lines have just followed, or the controller is as it was or as at reset. -/
theorem linesFollowStep : Obligations.LinesFollowStep := by
  unfold Obligations.LinesFollowStep
  intro s t hs hstep
  unfold step at hstep
  split at hstep
  · cases hstep
    exact hs
  · next c rest _ =>
    obtain ⟨u, hu, hkeep⟩ := exec_leavesLines c { s with pending := rest }
    cases hu.symm.trans hstep
    exact hkeep.follow hs

/-- Settles O3. -/
theorem linesFollowReset : Obligations.LinesFollowReset := by
  unfold Obligations.LinesFollowReset
  exact ⟨linesFollow_of_resetIrq rfl, reset_isMasked⟩

/-- Settles O1: both by the definition of the step. -/
theorem stepRunsFront : Obligations.StepRunsFront := by
  unfold Obligations.StepRunsFront
  exact ⟨fun _ _ _ => rfl, fun _ => rfl⟩

end Sys2Proof.Proofs
end

section
/-! SUPPORT. The pending bits of the interrupt sources: what setting one leaves of the others, and what a settle, a claim and the
controller's other rows do to them (R457, R458, R461 to R463). -/

namespace Sys2Proof.Proofs

open Sys2Proof Sys2Proof.Machine

/-! ### Bits of a table of words -/

theorem wordBit_setWordBit_same (t : Tab W64) (n : Nat) (v : Bool) : wordBit (setWordBit t n v) n = v := by
  have hn : n % 64 < 64 := Nat.mod_lt _ (by omega)
  cases v <;> simp [wordBit, setWordBit, hn]

theorem wordBit_setWordBit_ne (t : Tab W64) {m n : Nat} (v : Bool) (h : m ≠ n) : wordBit (setWordBit t n v) m = wordBit t m := by
  by_cases hw : m / 64 = n / 64
  · have hb : m % 64 ≠ n % 64 := by omega
    have hm : m % 64 < 64 := Nat.mod_lt _ (by omega)
    have hbit : m % 64 < n % 64 ∨ ¬ m % 64 - n % 64 = 0 := by omega
    cases v
    · simp [wordBit, setWordBit, hw, hm, hbit]
    · simp only [wordBit, setWordBit, hw, if_true, Tab.get_set_same, BitVec.getLsbD_or, BitVec.getLsbD_shiftLeft, BitVec.getLsbD_one]
      obtain h | h := hbit <;> simp [h]
  · simp [wordBit, setWordBit, Tab.get_set_ne _ _ _ hw]

/-! ### The pending bit of one source -/

section
variable (q : Irq) (n : Nat) (v : Bool)

/-- Setting a pending bit writes the pending bits alone. -/
theorem setPending_frame : ∃ p b, q.setPending n v = { q with pend := p, bankPend := b } := by
  unfold Irq.setPending
  split
  · split
    · exact ⟨_, _, rfl⟩
    · exact ⟨_, _, rfl⟩
  · exact ⟨_, _, rfl⟩

@[simp] theorem setPending_bank (m : Nat) : (q.setPending n v).bank m = q.bank m := by
  obtain ⟨p, b, h⟩ := setPending_frame q n v
  rw [h]
  rfl

@[simp] theorem setPending_isMasked (m : Nat) : (q.setPending n v).isMasked m = q.isMasked m := by
  obtain ⟨p, b, h⟩ := setPending_frame q n v
  rw [h]
  rfl

@[simp] theorem setPending_inService : (q.setPending n v).inService = q.inService := by
  obtain ⟨p, b, h⟩ := setPending_frame q n v
  rw [h]

@[simp] theorem setPending_target (t : Nat) : (q.setPending n v).target t = q.target t := by
  rw [Irq.target, setPending_targets, Irq.target]

theorem isPending_setPending_same {n : Nat} (h : irqReal n = true) : (q.setPending n v).isPending n = v := by
  rw [Irq.isPending, setPending_bank, Irq.setPending, if_pos h, h]
  cases q.bank n <;> simp [wordBit_setWordBit_same]

theorem isPending_setPending_ne {m n : Nat} (h : m ≠ n) : (q.setPending n v).isPending m = q.isPending m := by
  rw [Irq.isPending, setPending_bank, Irq.isPending]
  by_cases hm : irqReal m = true
  · by_cases hn : irqReal n = true
    · have hm' : m < 1023 := by simp_all [irqReal]
      have hn' : n < 1023 := by simp_all [irqReal]
      rw [Irq.setPending, if_pos hn]
      cases q.bank m <;> cases q.bank n
      · simp [wordBit_setWordBit_ne _ _ h]
      · simp
      · simp
      · next k j =>
        have hkey : 1024 * k + m ≠ 1024 * j + n := by omega
        simp [wordBit_setWordBit_ne _ _ hkey]
    · rw [Irq.setPending, if_neg hn]
  · simp [hm]

theorem isPending_setPending_of_pending {m n : Nat} (h : q.isPending m = true) : (q.setPending n true).isPending m = true := by
  by_cases hmn : m = n
  · subst hmn
    refine isPending_setPending_same q true ?_
    simp_all [Irq.isPending]
  · rw [isPending_setPending_ne q true hmn, h]

end

/-! ### Settling (R457, R458) -/

/-- One level source is latched: it becomes pending while its level is asserted and it is not in service. -/
def latchOne (lv : Nat → Bool) (q : Irq) (n : Nat) : Irq :=
  if lv n && !(q.inService.any (fun p => p.1 == n)) then q.setPending n true else q

theorem latch_eq_foldl (q : Irq) (lv : Nat → Bool) : q.latch lv = levelSources.foldl (latchOne lv) q := rfl

section
variable (lv : Nat → Bool) (l : List Nat) (q : Irq)

theorem latchOne_inService (n : Nat) : (latchOne lv q n).inService = q.inService := by
  unfold latchOne
  split <;> simp

theorem latchOne_keeps_pending (n : Nat) {m : Nat} (h : q.isPending m = true) : (latchOne lv q n).isPending m = true := by
  unfold latchOne
  split
  · exact isPending_setPending_of_pending q h
  · exact h

theorem foldl_latchOne_keeps_pending {m : Nat} (h : q.isPending m = true) : (l.foldl (latchOne lv) q).isPending m = true := by
  induction l generalizing q with
  | nil => exact h
  | cons n l ih => exact ih _ (latchOne_keeps_pending lv q n h)

/-- A source that is latched is pending or in service afterwards. -/
theorem foldl_latchOne_pending {n : Nat} (hn : n ∈ l) (hlv : lv n = true) (hreal : irqReal n = true) :
    (l.foldl (latchOne lv) q).isPending n = true ∨ q.inService.any (fun p => p.1 == n) = true := by
  induction l generalizing q with
  | nil => nomatch hn
  | cons k l ih =>
    rw [List.foldl_cons]
    obtain rfl | hn := List.mem_cons.1 hn
    · by_cases hs : q.inService.any (fun p => p.1 == n) = true
      · exact .inr hs
      · refine .inl (foldl_latchOne_keeps_pending lv l _ ?_)
        rw [latchOne, hlv, Bool.eq_false_iff.2 hs, Bool.not_false, Bool.and_true, if_pos rfl]
        exact isPending_setPending_same q true hreal
    · have h := ih (latchOne lv q k) hn
      rwa [latchOne_inService] at h

end

theorem irqReal_of_level {n : Nat} : n ∈ levelSources → irqReal n = true := by
  revert n
  decide

theorem followAll_isPending (l : List Nat) (q : Irq) (n : Nat) : (followAll l q).isPending n = q.isPending n := by
  induction l generalizing q with
  | nil => rfl
  | cons t l ih =>
    refine (ih (q.follow t)).trans ?_
    unfold Irq.follow
    split <;> rfl

theorem mem_lineMsg {q : Irq} {t u : Nat} {r : Bool} :
    Out.irq t r ∈ q.lineMsg u ↔ t = u ∧ 8 ≤ u ∧ (q.target u).line = !r ∧ q.wantsLine u = r := by
  unfold Irq.lineMsg
  split
  · next h =>
    simp only [List.mem_singleton, Out.irq.injEq]
    constructor
    · rintro ⟨rfl, rfl⟩
      revert h
      cases q.wantsLine t <;> cases (q.target t).line <;> simp
    · rintro ⟨rfl, -, -, rfl⟩
      exact ⟨rfl, rfl⟩
  · next h =>
    simp only [List.not_mem_nil, false_iff]
    rintro ⟨-, hu, hl, hw⟩
    exact h (by simp [hu, hl, hw])

/-- Settles O4: latching by its fold, the messages by `mem_lineMsg`, whose lines are the settled ones. -/
theorem settleLatchesAndTells : Obligations.SettleLatchesAndTells := by
  unfold Obligations.SettleLatchesAndTells
  intro s
  refine ⟨fun n hn hlv => ?_, ⟨_, rfl, fun t r => ?_⟩, by simp only [State.settle]⟩
  · rw [settle_irq, followAll_isPending, latch_eq_foldl]
    exact foldl_latchOne_pending s.level _ _ hn hlv (irqReal_of_level hn)
  · have htarget : (s.irq.latch s.level).target t = s.irq.target t := by rw [Irq.target, latch_targets, Irq.target]
    simp only [List.mem_flatMap, List.mem_range, mem_lineMsg, settle_irq]
    constructor
    · rintro ⟨u, hu, rfl, h8, hl, hw⟩
      rw [htarget] at hl
      exact ⟨h8, hu, hl, by rw [followAll_line _ _ (List.mem_range.2 hu), hw]⟩
    · rintro ⟨h8, ht, hl, hw⟩
      rw [followAll_line _ _ (List.mem_range.2 ht)] at hw
      exact ⟨t, ht, rfl, h8, by rw [htarget, hl], hw⟩

/-! ### Claims (R461) -/

theorem best_eq_some_iff {q : Irq} {t n : Nat} : q.best t = some n ↔
    (q.isPending n = true ∧ q.isMasked n = false ∧ q.routed n t = true) ∧
      ∀ m, q.isPending m = true → q.isMasked m = false → q.routed m t = true → m ≤ n := by
  rw [Irq.best, List.max?_eq_some_iff]
  simp [mem_waiting, and_assoc]

theorem best_eq_none_iff {q : Irq} {t : Nat} : q.best t = none ↔ ¬ q.Demands t := by
  rw [← best_isSome]
  simp

/-- What a claim that finds a source leaves of the controller. -/
theorem claim_some {q : Irq} {t n : Nat} (h : q.best t = some n) : ∃ p : Irq, q.claim t = (n, p) ∧
    p.isPending n = false ∧ (∀ m, m ≠ n → p.isPending m = q.isPending m) ∧ (∀ m, p.isMasked m = q.isMasked m) ∧
    p.inService = (if levelSources.contains n then q.inService ++ [(n, t)] else q.inService) ∧
    p.target t = { q.target t with last := BitVec.ofNat 10 n, held := (q.target t).holdoff != 0, idle := false } ∧
    ∀ u, u ≠ t → p.target u = q.target u := by
  obtain ⟨⟨hpend, -, -⟩, -⟩ := best_eq_some_iff.1 h
  have hreal : irqReal n = true := by simp_all [Irq.isPending]
  have htarget : (q.setPending n false).target t = q.target t := setPending_target ..
  have hother (x : Target) (p : Irq) (hp : p.targets = q.targets) (u : Nat) (hu : u ≠ t) : (p.setTarget t x).target u = q.target u := by
    rw [Irq.setTarget, Irq.target, hp, Tab.get_set_ne _ _ _ hu, Irq.target]
  simp only [Irq.claim, h]
  refine ⟨_, rfl, ?_⟩
  split
  · refine ⟨isPending_setPending_same q false hreal, fun m hm => isPending_setPending_ne q false hm,
      fun m => setPending_isMasked q n false m, ?_, ?_, fun u hu => hother _ _ (setPending_targets q n false) u hu⟩
    · simp [Irq.setTarget]
    · rw [Irq.setTarget, Irq.target, Tab.get_set_same]
      exact congrArg (fun x : Target => { x with last := BitVec.ofNat 10 n, held := x.holdoff != 0, idle := false }) htarget
  · refine ⟨isPending_setPending_same q false hreal, fun m hm => isPending_setPending_ne q false hm,
      fun m => setPending_isMasked q n false m, ?_, ?_, fun u hu => hother _ _ (setPending_targets q n false) u hu⟩
    · simp [Irq.setTarget]
    · rw [Irq.setTarget, Irq.target, Tab.get_set_same]
      exact congrArg (fun x : Target => { x with last := BitVec.ofNat 10 n, held := x.holdoff != 0, idle := false }) htarget

theorem exec_irqTgtClaim {s : State} {t : Nat} (hup : s.hostUp = true) (ht : t < 64) : exec (.irqTgtClaim 0 t) s =
    .next ({ s with irq := (s.irq.claim t).2, out := s.out ++ [.readWord (BitVec.ofNat 64 (s.irq.claim t).1)] } : State).settle := by
  simp [exec, execIrqTgtClaim, hup, State.claim, Nat.not_le.2 ht, State.send]

/-- Settles O5: with a source by what `claim_some` says of it, without one by the definition. -/
theorem claimReturns : Obligations.ClaimReturns := by
  unfold Obligations.ClaimReturns
  refine ⟨fun s t n hup ht hpend hmask hroute hmax => ?_, fun s t hup ht hdem => ?_⟩
  · obtain ⟨p, hclaim, hn, hm, hmasked, hserv, htarget, hother⟩ := claim_some (best_eq_some_iff.2 ⟨⟨hpend, hmask, hroute⟩, hmax⟩)
    refine ⟨p, ?_, hn, hm, hmasked, hserv, ?_, ?_, ?_, hother⟩
    · rw [exec_irqTgtClaim hup ht, hclaim]
    all_goals simp [htarget]
  · have hclaim : s.irq.claim t = (if s.irq.mode then 1023 else 0, s.irq) := by
      rw [Irq.claim, best_eq_none_iff.2 hdem]
    rw [exec_irqTgtClaim hup ht, hclaim]
    cases s.irq.mode <;> rfl

/-! ### A register of the MGMT window, written by function 0 (R274) -/

theorem mgmtWrite_host {s : State} (hup : s.hostUp = true) (addr : Nat) (g : State → State) : s.mgmtWrite 0 addr g = (g s).settle := by
  simp [State.mgmtWrite, State.mgmtAccess, hup]

/-- Settles O6: each by the row's own definition. -/
theorem completeIdleModeHoldoff : Obligations.CompleteIdleModeHoldoff := by
  unfold Obligations.CompleteIdleModeHoldoff
  refine ⟨fun s t v hup ht => ?_, fun s t hup ht => ?_, fun s v hup => ?_, fun s t ht hheld => ?_⟩
  · simp [exec, execIrqTgtComplete, mgmtWrite_host hup, ht, Irq.complete, wb, bits]
  · simp [exec, execIrqTgtIdle, mgmtWrite_host hup, ht, Irq.goIdle, Irq.setTarget]
  · simp [exec, execIrqModeWrite, mgmtWrite_host hup, Irq.writeMode]
  · simp [exec, execHoldoffEnd, ht, hheld, Irq.setTarget]

end Sys2Proof.Proofs
end

section
/-! SUPPORT. The registers of the MGMT window (R9, R56 to R59, R87 to R90, R240, R241, R274, R341): a write by another function is dropped,
and what the staged beat shape, the select registers and the clears do. -/

namespace Sys2Proof.Proofs

open Sys2Proof Sys2Proof.Machine

/-! ### Function 0 only (R274) -/

theorem mgmtWrite_dropped {s : State} {f : Nat} (hup : s.hostUp = true) (hf : f ≠ 0) (a : Nat) (g : State → State) :
    s.mgmtWrite f a g = ({ s with cairn := (s.cairn.push
      { code := 0x501, beat := s.beat.count, payload := leBytes 1 f ++ leBytes 1 1 ++ zeros 6 ++ leBytes 8 a }) } : State).settle := by
  obtain ⟨h, -⟩ | ⟨-, -, h⟩ | ⟨-, h, -⟩ := s.mgmtWrite_cases f a g
  · rw [hup] at h
    nomatch h
  · exact h
  · exact absurd h hf

/-- Settles O7: every such row is a write of its register's address, which is dropped. -/
theorem functionZeroOnly : Obligations.FunctionZeroOnly := by
  unfold Obligations.FunctionZeroOnly
  intro i f a s hrow hf hup
  cases i with
  | beatStageArm | beatStageCancel | censSelWrite | censClrCtx | censClrSel | passSelWrite | passClrSel | ptNextWrite | ptModeArm
  | ptModeCancel | applyIdle | schedSwap | schedCancel | ctxCreate | ctxDestroy | ctxRselWrite | acctSelWrite | acctClrSel | retrain
  | bistImgData | bistImgClear | bistImgGo | bistAbort | bistResSel | cairnRdSeq | cairnClrData | cairnClrRestart | cairnClrGo
  | cairnCodeWrite | irqTgtComplete | irqTgtIdle | irqModeWrite =>
    cases hrow
    exact congrArg _ (mgmtWrite_dropped hup hf _ _)
  | standdown r | retry r _ =>
    cases r with
    | host =>
      cases hrow
      exact congrArg _ (mgmtWrite_dropped hup hf _ _)
    | stobin => nomatch hrow
  | _ => nomatch hrow

/-! ### Widths (R9) -/

/-- Settles O8: by the gate of R9 in front of the register map. -/
theorem registerWidths : Obligations.RegisterWidths := by
  unfold Obligations.RegisterWidths
  refine ⟨fun s a w v hup ha hreg hw => ?_, fun s v hup => ?_⟩
  · have hwidth : widthOk a w = false := by
      simp only [widthOk, hreg]
      obtain h | h := hw <;> simp [h]
    simp [exec, execRegisterWrite, hup, State.writeReg, mgmtTop, ha, hwidth]
  · simp [exec, execRegisterWrite, hup, State.writeReg, mgmtTop, widthOk, reg32, State.writeMgmt, State.writeBeat, set32]

/-! ### The staged beat shape (R57, R59) -/

theorem exec_beatStageArm {s : State} (hup : s.hostUp = true) : exec (.beatStageArm 0) s = .next s.armShape.settle :=
  congrArg _ (mgmtWrite_host hup ..)

theorem exec_beatStageCancel {s : State} (hup : s.hostUp = true) : exec (.beatStageCancel 0) s = .next s.cancelShape.settle :=
  congrArg _ (mgmtWrite_host hup ..)

/-- Settles O9: by the cause that R57's order of refusals gives. -/
theorem beatShapeStaged : Obligations.BeatShapeStaged := by
  unfold Obligations.BeatShapeStaged
  refine ⟨fun s hup hal hst hnear hp hp' hd hd' hpd hb => ?_, fun s g hup hst hlate => ?_, fun s g hup hal hst => ?_⟩
  · have hcause : s.stageCause = 0 := by
      simp [State.stageCause, hal, hst, State.now, Nat.not_lt.2 hnear, shapeOk, hp, hp', hd, hd', hpd, budgetOf, Nat.not_lt.2 hb]
    rw [exec_beatStageArm hup, State.armShape, hcause]
    rfl
  · rw [exec_beatStageCancel hup]
    simp [State.cancelShape, hst, State.now, Nat.not_lt.2 hlate]
  · have hcause : s.stageCause = 4 := by
      simp [State.stageCause, hal, hst, causeBusy]
    rw [exec_beatStageArm hup, State.armShape, hcause]
    simp [State.stageRefuse, hst]

/-! ### Selects and clears (R87, R89, R240, R241, R341) -/

section
variable {s : State} (hup : s.hostUp = true)
include hup

theorem exec_censSelWrite (v : W64) : ∃ q : Cens,
    exec (.censSelWrite 0 v) s = .next ({ s with cens := q } : State).settle ∧ q.clears = s.cens.clears ∧
      q.ctx.toNat = v.toNat % 256 ∧ q.cls.toNat = v.toNat / 2 ^ 8 % 64 ∧ q.fmt.toNat = v.toNat / 2 ^ 16 % 4 ∧
      ∀ n, n < 5 → q.cap[n]? = some (Tab.get Cnt.zero s.census (((q.ctx.toNat * 64 + q.cls.toNat) * 4 + q.fmt.toNat) * 5 + n)) := by
  refine ⟨_, congrArg _ (mgmtWrite_host hup ..), rfl, by simp [wb, bits], by simp [wb, bits], by simp [wb, bits], fun n hn => ?_⟩
  simp [wb, bits, censusKey, List.getElem?_range hn]

theorem exec_passSelWrite {v : W64} (hk : v.toNat / 2 ^ 16 % 4 < 2) : ∃ q : PassRegs,
    exec (.passSelWrite 0 v) s = .next ({ s with passRegs := q } : State).settle ∧ q.late = s.passRegs.late ∧
      q.badDest = s.passRegs.badDest ∧ q.kind.toNat = v.toNat / 2 ^ 16 % 4 ∧ q.pt.toNat = v.toNat / 2 ^ 8 % 16 ∧ q.num.toNat = v.toNat % 64 ∧
      q.cap = (if v.toNat / 2 ^ 16 % 4 = 0
        then (Tab.get {} (s.part (v.toNat / 2 ^ 8 % 16)).tabs (v.toNat % 64)).counters
        else (Tab.get {} (s.part (v.toNat / 2 ^ 8 % 16)).slots (v.toNat % 64)).counters) := by
  have hsel : ¬ 2 ≤ wb v 16 2 := Nat.not_le.2 hk
  have hexec : exec (.passSelWrite 0 v) s = .next (s.passSel v).settle := congrArg _ (mgmtWrite_host hup ..)
  rw [hexec, State.passSel, if_neg hsel]
  refine ⟨_, rfl, rfl, rfl, ?_⟩
  have hzero : BitVec.ofNat 2 (v.toNat / 65536 % 4) = 0 ↔ v.toNat / 65536 % 4 = 0 := by
    rw [← BitVec.toNat_inj]
    simp
  simp only [wb, bits, State.passCounters]
  refine ⟨by simp, by simp, by simp, ?_⟩
  simp only [Nat.reducePow, BitVec.toNat_ofNat, Nat.mod_mod, Nat.div_one, hzero]
  rfl

theorem exec_acctSelWrite {v : W64} (hk : v.toNat / 2 ^ 16 % 4 < 3) : ∃ q : AcctRegs,
    exec (.acctSelWrite 0 v) s = .next ({ s with acctRegs := q } : State).settle ∧ q.kind.toNat = v.toNat / 2 ^ 16 % 4 ∧
      q.index.toNat = v.toNat % 2 ^ 13 ∧
      (v.toNat / 2 ^ 16 % 4 = 0 → v.toNat % 2 ^ 13 < 256 → q.cap = (s.ctx (v.toNat % 2 ^ 13)).acct) ∧
      (v.toNat / 2 ^ 16 % 4 = 1 → q.cap = (s.strm (v.toNat % 2 ^ 13)).acct) ∧
      (v.toNat / 2 ^ 16 % 4 = 2 → v.toNat % 2 ^ 13 < 5120 → q.cap = (s.block (v.toNat % 2 ^ 13)).acct) := by
  have hsel : ¬ wb v 16 2 = 3 := Nat.ne_of_lt hk
  have hexec : exec (.acctSelWrite 0 v) s = .next (s.acctSel v).settle := congrArg _ (mgmtWrite_host hup ..)
  rw [hexec, State.acctSel, if_neg hsel]
  have hindex : (BitVec.ofNat 13 (wb v 0 13)).toNat = v.toNat % 2 ^ 13 := by simp [wb, bits]
  have hkind : wb v 16 2 = v.toNat / 2 ^ 16 % 4 := rfl
  refine ⟨_, rfl, by simp [wb, bits], hindex, fun h hi => ?_, fun h => ?_, fun h hi => ?_⟩
  · simp only [State.acctCounters, hkind, h, hindex]
    exact if_pos hi
  · simp only [State.acctCounters, hkind, h, hindex]
    rfl
  · simp only [State.acctCounters, hkind, h, hindex]
    exact if_pos hi

end

/-- The counters of one entry of a table are cleared, where the table lists it. -/
theorem find_set_map {α : Type} (t : Tab α) {n : Nat} {x : α} (h : Tab.find t n = some x) (f : α → α) (m : Nat) :
    Tab.find (Tab.set t n (f x)) m = (Tab.find t m).map (fun y => if m = n then f y else y) := by
  by_cases hm : m = n
  · subst hm
    simp [h]
  · simp [hm, Tab.find_set_ne]

theorem find_map_absent {α : Type} (t : Tab α) {n : Nat} (h : Tab.find t n = none) (f : α → α) (m : Nat) :
    Tab.find t m = (Tab.find t m).map (fun y => if m = n then f y else y) := by
  by_cases hm : m = n
  · subst hm
    simp [h]
  · simp [hm]

/-- What CLR_SEL of PASS_CTRL does: it clears one entry of the selected partition's tables or of its slots (R241). -/
theorem passClr_eq (s : State) : ∃ q : Part, s.passClr = s.updPart s.passRegs.pt.toNat (fun _ => q) ∧
    (∀ n, Tab.find q.tabs n = (Tab.find (s.part s.passRegs.pt.toNat).tabs n).map (fun (x : RTable) =>
      if s.passRegs.kind = 0 ∧ n = s.passRegs.num.toNat then { x with counters := List.replicate 8 Cnt.zero } else x)) ∧
    (∀ n, Tab.find q.slots n = (Tab.find (s.part s.passRegs.pt.toNat).slots n).map (fun (x : SlotSt) =>
      if s.passRegs.kind ≠ 0 ∧ n = s.passRegs.num.toNat then { x with counters := List.replicate 8 Cnt.zero } else x)) := by
  refine ⟨_, rfl, ?_⟩
  by_cases hk : s.passRegs.kind = 0
  · simp only [hk, if_true, ne_eq, not_true, false_and, if_false, true_and, Option.map_id']
    split
    · next x hx => exact ⟨fun n => find_set_map _ hx (fun y => { y with counters := List.replicate 8 Cnt.zero }) n, fun _ => rfl⟩
    · next hx => exact ⟨fun n => find_map_absent _ hx _ n, fun _ => rfl⟩
  · simp only [hk, if_false, ne_eq, not_false_iff, true_and, false_and, Option.map_id']
    split
    · next x hx => exact ⟨fun _ => rfl, fun n => find_set_map _ hx (fun y => { y with counters := List.replicate 8 Cnt.zero }) n⟩
    · next hx => exact ⟨fun _ => rfl, fun n => find_map_absent _ hx _ n⟩

/-- CLR_SEL of ACCT_CTRL, by what is selected (R341): the one counter set changes, and nothing else. -/
theorem acctClr_eq (s : State) : ∃ cs gs bs, s.acctClr = { s with ctxs := cs, strms := gs, blocks := bs } ∧
    (∀ c, Tab.get {} cs c = if s.acctRegs.kind = 0 ∧ c = s.acctRegs.index.toNat ∧ c < 256
      then { s.ctx c with acct := List.replicate 8 Cnt.zero } else s.ctx c) ∧
    (∀ g, Tab.find gs g = (Tab.find s.strms g).map (fun (x : Strm) =>
      if s.acctRegs.kind = 1 ∧ g = s.acctRegs.index.toNat then { x with acct := List.replicate 8 Cnt.zero } else x)) ∧
    (∀ b, Tab.get {} bs b = if s.acctRegs.kind = 2 ∧ b = s.acctRegs.index.toNat ∧ b < 5120
      then { s.block b with acct := List.replicate 9 Cnt.zero } else s.block b) := by
  unfold State.acctClr
  dsimp only
  split
  next hk =>
    by_cases hi : s.acctRegs.index.toNat < 256
    · refine ⟨_, _, _, if_pos hi, fun c => ?_, fun g => by simp [hk], fun b => by simp [hk, State.block]⟩
      by_cases hc : c = s.acctRegs.index.toNat
      · simp [hk, hi, hc]
      · simp [hk, hc, Tab.get_set_ne, State.ctx]
    · have hne (c : Nat) : ¬ (c = s.acctRegs.index.toNat ∧ c < 256) := by omega
      exact ⟨_, _, _, if_neg hi, fun c => by simp [hne, State.ctx], fun g => by simp [hk], fun b => by simp [hk, State.block]⟩
  next hk =>
    cases hg : Tab.find s.strms s.acctRegs.index.toNat with
    | none =>
      refine ⟨_, _, _, if_neg (by simp), fun c => by simp [hk, State.ctx], fun g => ?_, fun b => by simp [hk, State.block]⟩
      simpa [hk] using find_map_absent _ hg (fun x => { x with acct := List.replicate 8 Cnt.zero }) g
    | some x =>
      have hx : s.strm s.acctRegs.index.toNat = x := by simp [State.strm, Tab.get_eq_find, hg]
      refine ⟨_, _, _, if_pos (by simp), fun c => by simp [hk, State.ctx], fun g => ?_, fun b => by simp [hk, State.block]⟩
      simpa [hk, hx] using find_set_map _ hg (fun x => { x with acct := List.replicate 8 Cnt.zero }) g
  next hk =>
    by_cases hi : s.acctRegs.index.toNat < 5120
    · refine ⟨_, _, _, if_pos hi, fun c => by simp [hk, State.ctx], fun g => by simp [hk], fun b => ?_⟩
      by_cases hb : b = s.acctRegs.index.toNat
      · simp [hk, hi, hb]
      · simp [hk, hb, Tab.get_set_ne, State.block]
    · have hne (b : Nat) : ¬ (b = s.acctRegs.index.toNat ∧ b < 5120) := by omega
      exact ⟨_, _, _, if_neg hi, fun c => by simp [hk, State.ctx], fun g => by simp [hk], fun b => by simp [hne, State.block]⟩
  next h0 h1 h2 =>
    replace h0 : s.acctRegs.kind ≠ 0 := h0
    replace h1 : s.acctRegs.kind ≠ 1 := h1
    replace h2 : s.acctRegs.kind ≠ 2 := h2
    exact ⟨_, _, _, rfl, fun c => (if_neg (fun h => h0 h.1)).symm, fun g => by simp only [h1, false_and, if_false, Option.map_id'],
      fun b => (if_neg (fun h => h2 h.1)).symm⟩

/-- Settles O10: the selects capture by their definitions; the clears by what they do to the part selected. -/
theorem selectsCaptureAndClear : Obligations.SelectsCaptureAndClear := by
  unfold Obligations.SelectsCaptureAndClear
  refine ⟨fun s v hup => exec_censSelWrite hup v, fun s v hup hk => exec_passSelWrite hup hk, fun s v hup hk => exec_acctSelWrite hup hk,
    fun s c v hup hc => ?_, fun s v hup hk => ?_, fun s v hup hk => ?_, fun s hup => ?_, fun s hup => ?_, fun s hup => ?_, fun s hup => ?_⟩
  · simp [exec, execCtxRselWrite, mgmtWrite_host hup, hc, State.updCtx, Ctx.writeRsel, wb, bits]
  · have hsel : 2 ≤ wb v 16 2 := hk
    simp [exec, execPassSelWrite, mgmtWrite_host hup, State.passSel, hsel]
  · have hsel : wb v 16 2 = 3 := hk
    simp [exec, execAcctSelWrite, mgmtWrite_host hup, State.acctSel, hsel]
  · exact congrArg _ (mgmtWrite_host hup ..)
  · exact congrArg _ (mgmtWrite_host hup ..)
  · obtain ⟨q, hclr, htabs, hslots⟩ := passClr_eq s
    refine ⟨s.passClr.settle, congrArg _ (mgmtWrite_host hup ..), ?_⟩
    rw [hclr]
    refine ⟨?_, ?_, fun p hp => ?_, rfl, rfl, rfl, rfl, rfl⟩
    · simpa using htabs
    · simpa using hslots
    · simp [State.part_updPart_ne _ _ hp]
  · obtain ⟨cs, gs, bs, hclr, hctx, hstrm, hblock⟩ := acctClr_eq s
    refine ⟨s.acctClr.settle, congrArg _ (mgmtWrite_host hup ..), ?_⟩
    rw [hclr]
    exact ⟨hctx, hstrm, hblock, rfl, rfl, rfl, rfl, rfl⟩

end Sys2Proof.Proofs
end

section
/-! SUPPORT. Mode changes, layouts and schedule swaps as the host writes them (R317 to R319, R329). -/

namespace Sys2Proof.Proofs

open Sys2Proof Sys2Proof.Machine

/-! ### The pending entries of the sixteen partitions -/

/-- Sets the pending entries of the partitions in a list. -/
def nextOf (l : List Layout) (ns : List Nat) (s : State) : State :=
  ns.foldl (fun (s : State) n => s.updPart n (fun q => { q with next := (l[n]?).getD {} })) s

section
variable (l : List Layout) (ns : List Nat) (s : State)

/-- Only the partitions change. -/
theorem nextOf_eq : ∃ ps, nextOf l ns s = { s with parts := ps } := by
  induction ns generalizing s with
  | nil => exact ⟨_, rfl⟩
  | cons n ns ih =>
    obtain ⟨ps, h⟩ := ih (s.updPart n (fun q => { q with next := (l[n]?).getD {} }))
    exact ⟨ps, h⟩

theorem nextOf_part (n : Nat) : (nextOf l ns s).part n = if n ∈ ns then { s.part n with next := (l[n]?).getD {} } else s.part n := by
  induction ns generalizing s with
  | nil => rfl
  | cons m ns ih =>
    refine (ih _).trans ?_
    by_cases hm : n = m
    · subst hm
      simp
    · simp [hm, State.part_updPart_ne]

theorem setNext_eq : ∃ ps, s.setNext l = { s with parts := ps } := nextOf_eq ..

theorem setNext_part (n : Nat) : (s.setNext l).part n = if n < 16 then { s.part n with next := (l[n]?).getD {} } else s.part n := by
  refine (nextOf_part l (List.range 16) s n).trans ?_
  simp

theorem setNext_layout (n : Nat) : ((s.setNext l).part n).layout = (s.part n).layout := by
  rw [setNext_part]
  split <;> rfl

theorem layoutToArm_get {n : Nat} (hn : n < 16) :
    (s.layoutToArm[n]?).getD {} = if s.pt.pending then (s.part n).next else (s.part n).layout := by
  simp [State.layoutToArm, List.getElem?_range hn]

end

/-! ### Arming and disarming (R318, R319) -/

/-- Arming writes PT_MODE and the pending entries, which take the layout that is armed. -/
theorem armMode_eq (s : State) (target : Nat) (idle : Bool) : ∃ ps, s.armMode target idle = { s with
    parts := ps, pt := { s.pt with
      armed := some target, idle := idle, state := 1, epochNext := s.pt.epoch + 1, target := if idle then s.pt.target else BitVec.ofNat 64 target,
      armedKept := s.keptSet s.layoutToArm } } ∧
    (∀ n, n < 16 → (Tab.get {} ps n).next = if s.pt.pending then (s.part n).next else (s.part n).layout) ∧
    ∀ n, (Tab.get {} ps n).layout = (s.part n).layout := by
  obtain ⟨ps, hps⟩ := setNext_eq s.layoutToArm s
  have hpart (n : Nat) : Tab.get {} ps n = (s.setNext s.layoutToArm).part n := by rw [hps]; rfl
  refine ⟨ps, ?_, fun n hn => ?_, fun n => ?_⟩
  · rw [State.armMode, hps]
  · rw [hpart, setNext_part, if_pos hn]
    exact layoutToArm_get s hn
  · rw [hpart, setNext_layout]

theorem disarmMode_eq (s : State) : ∃ ps, s.disarmMode = { s with
    parts := ps, pt := { s.pt with armed := none, idle := false, state := 0, armedKept := [] } } ∧
    ∀ n, (Tab.get {} ps n).layout = (s.part n).layout := by
  obtain ⟨ps, hps⟩ := setNext_eq [] s
  unfold State.disarmMode
  by_cases hp : s.pt.pending
  · exact ⟨s.parts, by simp [hp], fun n => rfl⟩
  · refine ⟨ps, by simp [hp, hps], fun n => ?_⟩
    rw [← setNext_layout [] s n, hps]
    rfl

section
variable {s : State} (hup : s.hostUp = true)
include hup

theorem exec_ptModeArm : exec (.ptModeArm 0) s = .next s.ptArm.settle := congrArg _ (mgmtWrite_host hup ..)

theorem exec_ptModeCancel : exec (.ptModeCancel 0) s = .next s.ptCancel.settle := congrArg _ (mgmtWrite_host hup ..)

theorem exec_applyIdle : exec (.applyIdle 0) s = .next s.applyIdle.settle := congrArg _ (mgmtWrite_host hup ..)

end

/-- Settles O11: each by its cause, none or BUSY, and by what arming and disarming write. -/
theorem modeChangeArmed : Obligations.ModeChangeArmed := by
  unfold Obligations.ModeChangeArmed
  refine ⟨fun s hup hal harm hnear hok hempty => ?_, fun s b hup harm hlate => ?_, fun s hup harm => ?_, fun s hup hctx harm hok => ?_,
    fun s c hup harm hc hstate => ?_⟩
  · have hcause : s.armCause s.pt.target.toNat = 0 := by
      simp [State.armCause, hal, harm, State.now, Nat.not_lt.2 hnear, hok, hempty]
    obtain ⟨ps, heq, hnext, hlay⟩ := armMode_eq s s.pt.target.toNat false
    refine ⟨_, exec_ptModeArm hup, ?_⟩
    rw [State.ptArm, hcause]
    change (s.armMode s.pt.target.toNat false).settle.pt.armed = _ ∧ _
    rw [heq]
    exact ⟨rfl, rfl, rfl, rfl, rfl, by simp, hnext, hlay, rfl, rfl, rfl⟩
  · have hcancel : s.ptCancel = s.disarmMode := by
      simp [State.ptCancel, harm, State.cancelLate, State.now, Nat.not_lt.2 hlate]
    obtain ⟨ps, heq, hlay⟩ := disarmMode_eq s
    refine ⟨_, exec_ptModeCancel hup, ?_⟩
    rw [hcancel, heq]
    exact ⟨rfl, rfl, rfl, rfl, hlay, rfl, rfl, rfl⟩
  · rw [exec_ptModeCancel hup]
    simp [State.ptCancel, harm]
  · have hany : s.anyCtx = false := by
      simpa [State.anyCtx] using hctx
    have hcause : s.idleCause = 0 := by
      simp only [State.idleCause, hany, harm]
      cases hp : s.pt.pending
      · simp
      · simp [hok hp]
    obtain ⟨ps, heq, -, hlay⟩ := armMode_eq s (s.now + 1) true
    refine ⟨_, exec_applyIdle hup, ?_⟩
    rw [State.applyIdle, hcause]
    change (s.armMode (s.now + 1) true).settle.pt.armed = _ ∧ _
    rw [heq]
    exact ⟨rfl, rfl, rfl, rfl, rfl, hlay⟩
  · have hany : s.anyCtx = true := by
      simp only [State.anyCtx, List.any_eq_true]
      exact ⟨c, hc, by simpa using hstate⟩
    have hcause : s.idleCause = 4 := by
      simp [State.idleCause, hany, causeBusy]
    rw [exec_applyIdle hup, State.applyIdle, hcause]
    simp [State.modeRefuse, harm]

/-! ### Schedules (R329) -/

/-- A bit set below a field leaves the field. -/
theorem wb_or_one_two {k : W64} (hk : k.toNat < 4) (v : W64) {lo : Nat} (hlo : 2 ≤ lo) (n : Nat) : wb (v ||| k) lo n = wb v lo n := by
  have h4 : 2 ^ 2 ≤ 2 ^ lo := Nat.pow_le_pow_right (by omega) hlo
  have hzero : k.toNat / 2 ^ lo = 0 := Nat.div_eq_of_lt (by omega)
  simp only [wb, bits, BitVec.toNat_or]
  rw [← Nat.shiftRight_eq_div_pow, Nat.shiftRight_or_distrib, Nat.shiftRight_eq_div_pow, Nat.shiftRight_eq_div_pow, hzero, Nat.or_zero]

section
variable {s : State} {n : Nat} (hup : s.hostUp = true) (hn : n < 16)
include hup hn

theorem exec_schedSwap (v : W64) : exec (.schedSwap 0 n v) s =
    .next (s.updPart n (fun q => { q with sched := q.sched.writeCtrl s.now (v ||| 1) })).settle := by
  simp [exec, execSchedSwap, mgmtWrite_host hup, State.updSched, hn]

theorem exec_schedCancel (v : W64) : exec (.schedCancel 0 n v) s =
    .next (s.updPart n (fun q => { q with sched := q.sched.writeCtrl s.now (v ||| 2) })).settle := by
  simp [exec, execSchedCancel, mgmtWrite_host hup, State.updSched, hn]

end

/-- SWAP in a word without CANCEL: LEN_NEXT is written, and the swap is taken or refused. -/
theorem writeCtrl_swap (q : Sched) (now : Nat) {v : W64} (hv : v.getLsbD 1 = false) :
    q.writeCtrl now (v ||| 1) = ({ q with lenNext := BitVec.ofNat 10 (v.toNat / 2 ^ 32 % 2 ^ 10) } : Sched).doSwap now := by
  have hone : (v ||| 1).getLsbD 0 = true := by simp
  have htwo : (v ||| 1).getLsbD 1 = false := by rw [BitVec.getLsbD_or, hv]; rfl
  have hlen : wb (v ||| 1) 32 10 = v.toNat / 2 ^ 32 % 2 ^ 10 := wb_or_one_two (by decide) v (by omega) 10
  simp only [Sched.writeCtrl, hone, htwo, hlen, if_true, Bool.false_eq_true, if_false]

/-- CANCEL in a word without SWAP. -/
theorem writeCtrl_cancel (q : Sched) (now : Nat) {v : W64} (hv : v.getLsbD 0 = false) :
    q.writeCtrl now (v ||| 2) = ({ q with lenNext := BitVec.ofNat 10 (v.toNat / 2 ^ 32 % 2 ^ 10) } : Sched).cancel := by
  have hone : (v ||| 2).getLsbD 0 = false := by rw [BitVec.getLsbD_or, hv]; rfl
  have htwo : (v ||| 2).getLsbD 1 = true := by simp
  have hlen : wb (v ||| 2) 32 10 = v.toNat / 2 ^ 32 % 2 ^ 10 := wb_or_one_two (by decide) v (by omega) 10
  simp only [Sched.writeCtrl, hone, htwo, hlen, if_true, Bool.false_eq_true, if_false]

theorem swapOk_iff (q : Sched) (now len : Nat) (hlen : len < 1024) :
    ({ q with lenNext := BitVec.ofNat 10 len } : Sched).swapOk now = true ↔ now + 2 ≤ q.originNext.toNat ∧ 1 ≤ len ∧ len ≤ 512 := by
  simp [Sched.swapOk, Nat.mod_eq_of_lt hlen, and_assoc]

/-- Settles O12: PT_NEXT by its definition, SWAP and CANCEL by the two forms of the word that they carry. -/
theorem layoutsAndSchedules : Obligations.LayoutsAndSchedules := by
  unfold Obligations.LayoutsAndSchedules
  have hsmall (v : W64) : v.toNat / 2 ^ 32 % 2 ^ 10 < 1024 := Nat.mod_lt _ (by omega)
  have hother (s : State) (n : Nat) (f : Part → Part) : ∀ p, p ≠ n → (s.updPart n f).settle.part p = s.part p := fun p hp => by
    rw [State.part_settle, State.part_updPart_ne _ _ hp]
  refine ⟨fun s n v hup hn harm => ?_, fun s n b v hup harm => ?_, fun s n v hup hn hv h1 h512 horig => ?_, fun s n v hup hn hv hbad => ?_,
    fun s n v w hup hn hv hswap => ?_, fun s n v hup hn hv hswap => ?_⟩
  · have hwrite : ¬ (s.pt.armed.isSome ∨ 16 ≤ n) := by
      simp [harm, hn]
    have hexec : exec (.ptNextWrite 0 n v) s = .next (s.writeNext n v).settle := congrArg _ (mgmtWrite_host hup ..)
    have hpart (p : Nat) : (s.writeNext n v).settle.part p = (s.updPart n (fun q => { q with next := layoutOf v })).part p := by
      simp only [State.writeNext, if_neg hwrite]
      rfl
    refine ⟨_, hexec, ?_, ?_, fun p => ?_, fun p hp => ?_, ?_⟩
    · simp [State.writeNext, hwrite]
    · rw [hpart, State.part_updPart_same]
      simp [layoutOf, wb, bits]
    · rw [hpart]
      by_cases hp : p = n
      · rw [hp, State.part_updPart_same]
      · rw [State.part_updPart_ne _ _ hp]
    · rw [hpart, State.part_updPart_ne _ _ hp]
    · simp [State.writeNext, hwrite]
  · simp [exec, execPtNextWrite, mgmtWrite_host hup, State.writeNext, harm]
  · refine ⟨_, exec_schedSwap hup hn v, ?_, hother s n _, rfl, rfl⟩
    have hyes : ({ (s.part n).sched with lenNext := BitVec.ofNat 10 (v.toNat / 2 ^ 32 % 2 ^ 10) } : Sched).swapOk s.now = true :=
      (swapOk_iff _ _ _ (hsmall v)).2 ⟨horig, h1, h512⟩
    rw [State.part_settle, State.part_updPart_same, writeCtrl_swap _ _ hv, Sched.doSwap, if_pos hyes]
    simp
  · refine ⟨_, exec_schedSwap hup hn v, ?_⟩
    have hno : ¬ ({ (s.part n).sched with lenNext := BitVec.ofNat 10 (v.toNat / 2 ^ 32 % 2 ^ 10) } : Sched).swapOk s.now = true := by
      rw [swapOk_iff _ _ _ (hsmall v), State.now]
      omega
    rw [State.part_settle, State.part_updPart_same, writeCtrl_swap _ _ hv, Sched.doSwap, if_neg hno]
    exact ⟨rfl, rfl, rfl, hother s n _⟩
  · refine ⟨_, exec_schedCancel hup hn v, ?_, hother s n _⟩
    rw [State.part_settle, State.part_updPart_same, writeCtrl_cancel _ _ hv]
    simp [Sched.cancel, hswap]
  · refine ⟨_, exec_schedCancel hup hn v, ?_, hother s n _, rfl, rfl⟩
    rw [State.part_settle, State.part_updPart_same, writeCtrl_cancel _ _ hv]
    simp [Sched.cancel, hswap]

end Sys2Proof.Proofs
end

section
/-! SUPPORT. Contexts created and destroyed: O13 and O14. -/
namespace Sys2Proof.Proofs
open Sys2Proof Sys2Proof.Machine

/-! ### What a fold of steps leaves -/

/-- A fold keeps a relation that each of its steps keeps. -/
theorem foldl_rel {σ α : Type} {r : σ → σ → Prop} (hrefl : ∀ s, r s s) (htrans : ∀ {a b c}, r a b → r b c → r a c) {f : σ → α → σ}
    (hstep : ∀ s a, r s (f s a)) (l : List α) (s : σ) : r s (l.foldl f s) :=
  List.foldlRecOn (motive := fun t => r s t) l f (hrefl s) fun t ht a _ => htrans ht (hstep t a)

/-- Two states that differ in the links and in what the device sends. -/
def LinksOnly (s t : State) : Prop := ∃ k o, t = { s with lnk := k, out := o }

theorem LinksOnly.refl (s : State) : LinksOnly s s := ⟨s.lnk, s.out, rfl⟩

theorem LinksOnly.trans {a b c : State} : LinksOnly a b → LinksOnly b c → LinksOnly a c := by
  rintro ⟨k, o, rfl⟩ ⟨k', o', rfl⟩
  exact ⟨k', o', rfl⟩

theorem sendFrames_linksOnly (s : State) (cmd ty : Nat) (l : List Frame) : LinksOnly s (s.sendFrames cmd ty l) :=
  foldl_rel LinksOnly.refl LinksOnly.trans (fun s fr => sendFrame_links s cmd ty fr) l s

/-- Two states that differ in the blocks and in the counter of the undefined bytes. -/
def BlocksOnly (s t : State) : Prop := ∃ b n, t = { s with blocks := b, fresh := n }

theorem BlocksOnly.refl (s : State) : BlocksOnly s s := ⟨s.blocks, s.fresh, rfl⟩

theorem BlocksOnly.trans {a b c : State} : BlocksOnly a b → BlocksOnly b c → BlocksOnly a c := by
  rintro ⟨k, o, rfl⟩ ⟨k', o', rfl⟩
  exact ⟨k', o', rfl⟩

theorem updBlock_blocksOnly (s : State) (b : Nat) (f : Block → Block) : BlocksOnly s (s.updBlock b f) := ⟨_, s.fresh, rfl⟩

theorem freeBlocks_blocksOnly (s : State) (x : Cmd) : BlocksOnly s (s.freeBlocks x) :=
  (foldl_rel BlocksOnly.refl BlocksOnly.trans (fun s b => updBlock_blocksOnly s b _) x.blocks s).trans ⟨_, _, rfl⟩

/-! ### Where a region fits (R244, R245) -/

/-- The least of a list and a first value is one of them. -/
theorem foldl_min_mem {l : List Nat} : ∀ {r : Option Nat} {u : Nat},
    l.foldl (fun r u => match r with | none => some u | some v => some (Nat.min u v)) r = some u → r = some u ∨ u ∈ l := by
  induction l with
  | nil => exact fun h => .inl h
  | cons a l ih =>
    intro r u h
    rcases ih h with hr | hu
    · cases r with
      | none => exact .inr (by simp_all)
      | some v =>
        rcases min_choice a v with hm | hm
        · exact .inr (by simp_all)
        · exact .inl (by simp_all)
    · exact .inr (List.mem_cons_of_mem _ hu)

theorem firstFit_free {lay : Layout} {used : List Extent} {dmask n u : Nat} (h : firstFit lay used dmask n = some u) :
    extentFree lay used { dmask := dmask, lo := u, hi := u + n } = true := by
  rcases foldl_min_mem h with hr | hu
  · cases hr
  · exact (List.mem_filter.1 hu).2

theorem firstFit_lt {lay : Layout} {used : List Extent} {dmask n u : Nat} (h : firstFit lay used dmask n = some u) : u < 2 ^ 16 := by
  have hfree := firstFit_free h
  simp only [extentFree, Bool.and_eq_true, decide_eq_true_eq] at hfree
  obtain ⟨⟨⟨-, hhi⟩, -⟩, -⟩ := hfree
  have := lay.hi.isLt
  omega

theorem granuleDies_lt (g : BitVec 16) : granuleDies g < 256 := by
  have hstep (n : Nat) : (List.range n).foldl (fun m d => if g.getLsbD (2 * d) || g.getLsbD (2 * d + 1) then m + 2 ^ d else m) 0 < 2 ^ n := by
    induction n with
    | zero => simp
    | succ n ih =>
      rw [List.range_succ, List.foldl_append]
      simp only [List.foldl_cons, List.foldl_nil]
      rw [Nat.pow_succ]
      split <;> omega
  exact hstep 8

/-! ### The table words of a home region (R282) -/

/-- The entry of a home region: kind 0, all four rights. -/
def homeEntry (dmask off size : Nat) : RegEntry :=
  let w := regWords 0 false 15 dmask off false 0 size
  { w0 := BitVec.ofNat 64 w.1, w1 := BitVec.ofNat 64 w.2, desc := { kind := 0, size := size, rights := 15 } }

section
variable {dmask off : Nat} (size : Nat) (hd : dmask < 256) (ho : off < 2 ^ 37)
include hd ho

theorem homeEntry_word : (homeEntry dmask off size).w0.toNat = 2 ^ 63 + 15 * 2 ^ 52 + dmask * 2 ^ 40 + off := by
  simp only [homeEntry, regWords, BitVec.toNat_ofNat, Bool.false_eq_true, if_false]
  omega

theorem homeEntry_valid : (homeEntry dmask off size).valid = true := by
  rw [RegEntry.valid, BitVec.getLsbD, homeEntry_word size hd ho, Nat.testBit_eq_decide_div_mod_eq]
  simp only [decide_eq_true_eq]
  omega

theorem homeEntry_kind : (homeEntry dmask off size).kind = 0 := by
  rw [RegEntry.kind, homeEntry_word size hd ho, bits]
  omega

theorem homeEntry_rights : (homeEntry dmask off size).rights = 15 := by
  rw [RegEntry.rights, homeEntry_word size hd ho, bits]
  omega

end

/-! ### CREATE (R323) -/

section
variable {s : State} {c : Nat} (hup : s.hostUp = true)
include hup

theorem exec_ctxCreate : exec (.ctxCreate 0 c) s = .next (s.createCtx c).settle := congrArg _ (mgmtWrite_host hup ..)

theorem exec_ctxDestroy : exec (.ctxDestroy 0 c) s = .next (s.destroyCtx c).settle := congrArg _ (mgmtWrite_host hup ..)

end

/-- A creation that fails sets LAST_ERR. -/
theorem createCtx_error {s : State} {c k : Nat} (hready : s.bist.ready = true) (hc : c < 256) (hk : k ≠ 0) (herr : s.createErr c = k) :
    s.createCtx c = s.updCtx c (fun x => { x with lastErr := BitVec.ofNat 8 k }) := by
  have hgate : (!s.bist.ready || decide (256 ≤ c)) = false := by simp [hready, hc]
  rw [State.createCtx, hgate, herr]
  cases k with
  | zero => exact absurd rfl hk
  | succ k => rfl

theorem createCtx_fits {s : State} {c u : Nat} (hready : s.bist.ready = true) (hc : c < 256) (herr : s.createErr c = 0)
    (hfit : s.homeFit c = some u) : s.createCtx c = s.makeCtx c (u * 2097152) := by
  have hgate : (!s.bist.ready || decide (256 ≤ c)) = false := by simp [hready, hc]
  rw [State.createCtx, hgate, herr, hfit]
  rfl

/-- The context that a creation begins, its home region at an offset (R282, R323). -/
def homeCtx (s : State) (c off : Nat) : Ctx :=
  { home64M := (s.ctx c).home64M, devCtrl := (s.ctx c).devCtrl, ptCtrl := (s.ctx c).ptCtrl, func := (s.ctx c).func, pt := (s.ctx c).pt,
    state := 1, gen := (s.ctx c).gen + 1, rsel := (s.ctx c).rsel, rword0 := (s.ctx c).rword0, rword1 := (s.ctx c).rword1,
    regions := [(0, homeEntry (s.part (s.ctx c).pt.toNat).layout.dies off (s.homeBytes c))],
    streams := [(0, s.freeStream)], cq := [(0, { defined := true, off := 0x4000, log2 := 9 })] }

section
variable (s : State) (c off : Nat)

theorem makeCtx_ctx_same : (s.makeCtx c off).ctx c = homeCtx s c off := by
  refine (State.ctx_updCtx_same _ c _).trans ?_
  exact congrArg (fun y : Ctx => ({ y with streams := [(0, s.freeStream)], cq := [(0, { defined := true, off := 0x4000, log2 := 9 })] } : Ctx))
    (Tab.get_set_same _ _ _ _)

theorem makeCtx_ctx_ne {d : Nat} (h : d ≠ c) : (s.makeCtx c off).ctx d = s.ctx d :=
  (State.ctx_updCtx_ne _ _ h).trans (Tab.get_set_ne _ _ _ h)

theorem makeCtx_strms : ∃ n, (s.makeCtx c off).strms =
    Tab.set s.strms s.freeStream { isOpen := true, pt := n, ctx := c, log2 := 8, off := 0 } := ⟨_, rfl⟩

theorem makeCtx_stream : ∃ n, (s.makeCtx c off).strm s.freeStream = { isOpen := true, pt := n, ctx := c, log2 := 8, off := 0 } := by
  obtain ⟨n, h⟩ := makeCtx_strms s c off
  refine ⟨n, ?_⟩
  rw [State.strm, h, Tab.get_set_same]

theorem makeCtx_census : (s.makeCtx c off).census = clearCensusCtx c s.census := rfl

end

/-- Settles O13: the fields of the created context, with the words of its home region in range; and LAST_ERR of a failure. -/
theorem contextCreation : Obligations.ContextCreation := by
  unfold Obligations.ContextCreation
  refine ⟨fun s c u hup hready hc herr hfit => ?_, fun s c hup hready hc hstate => ?_, fun s c hup hready hc hstate hended hsize => ?_⟩
  · have hoff : u * 2097152 < 2 ^ 37 := by
      have := firstFit_lt hfit
      omega
    have hdies := granuleDies_lt (s.part (s.ctx c).pt.toNat).layout.granules
    have hexec : exec (.ctxCreate 0 c) s = .next (s.makeCtx c (u * 2097152)).settle := by
      rw [exec_ctxCreate hup, createCtx_fits hready hc herr hfit]
    obtain ⟨n, hstrm⟩ := makeCtx_stream s c (u * 2097152)
    refine ⟨_, hexec, ?_⟩
    simp only [State.ctx_settle, State.strm_settle, State.settle_census, makeCtx_ctx_same, hstrm, makeCtx_census]
    refine ⟨rfl, rfl, rfl, rfl, rfl, rfl, rfl, homeEntry_valid _ hdies hoff, homeEntry_kind _ hdies hoff, homeEntry_rights _ hdies hoff, rfl, rfl,
      trivial, trivial, fun d hd => makeCtx_ctx_ne s c _ hd, fun k hk => ?_, rfl, rfl⟩
    exact bne_iff_ne.1 (List.mem_filter.1 hk).2
  · have herr : s.createErr c = 4 := if_pos (.inl hstate)
    rw [exec_ctxCreate hup, createCtx_error hready hc (by decide) herr]
    rfl
  · have hsize' : (s.ctx c).home64M.toNat = 0 ∨ 64 < (s.ctx c).home64M.toNat := hsize.imp_left (fun h => by rw [h]; rfl)
    have herr : s.createErr c = 5 := by
      simp [State.createErr, hstate, hended, hsize']
    rw [exec_ctxCreate hup, createCtx_error hready hc (by decide) herr]
    rfl

/-! ### DESTROY (R324) -/

/-- The orders of a reset: the purge, and the frames and the blocks that go with it. -/
theorem startReset_eq (s : State) (c : Nat) (cmd : Option Nat) (destroy : Bool) (beat : Nat) : ∃ b n k o,
    s.startReset c cmd destroy beat =
      { s with nextId := s.nextId + 1, purges := s.purges ++ [{ id := s.nextId, ctx := some c, cmd := none, beat := beat, owed := s.ctxEngines c }],
               blocks := b, fresh := n, lnk := k, out := o,
               ctxs := Tab.set s.ctxs c
                 { s.ctx c with reset := some { effectBeat := beat, cmd := cmd, purge := s.nextId, destroy := destroy } } } := by
  have hblocks (t : State) (l : List Cmd) : BlocksOnly t (l.foldl (fun (t : State) x => t.freeBlocks x) t) :=
    foldl_rel BlocksOnly.refl BlocksOnly.trans freeBlocks_blocksOnly l t
  simp only [State.startReset]
  obtain ⟨b, n, hb⟩ := hblocks (s.purge (some c) none beat (s.ctxEngines c)).1
    ((s.purge (some c) none beat (s.ctxEngines c)).1.cmds.filter (fun x => x.ctx == c && x.phase == .issued))
  rw [hb]
  obtain ⟨k, o, hl⟩ := sendFrames_linksOnly { (s.purge (some c) none beat (s.ctxEngines c)).1 with blocks := b, fresh := n } 0 fCollAbort (s.collAborts c)
  rw [hl]
  exact ⟨b, n, k, o, rfl⟩

/-- Settles O14: the order that DESTROY gives, which no step after it takes back. -/
theorem contextDestroyOrdered : Obligations.ContextDestroyOrdered := by
  unfold Obligations.ContextDestroyOrdered
  intro s c hup hc hstate hreset hlast hwin
  have hbeat : s.destroyBeat c = s.beat.count.toNat := by
    simp [State.destroyBeat, hlast, State.effectBeat, hwin, State.now]
  obtain ⟨b, n, k, o, heq⟩ := startReset_eq s c none true s.beat.count.toNat
  have hdestroy : s.destroyCtx c = (s.startReset c none true s.beat.count.toNat).updCtx c (fun k => { k with state := 2 }) := by
    simp only [State.destroyCtx, hreset, hbeat]
    exact if_neg (not_not.2 hstate)
  have hctx : (s.destroyCtx c).settle.ctx c =
      { s.ctx c with reset := some { effectBeat := s.beat.count.toNat, cmd := none, purge := s.nextId, destroy := true }, state := 2 } := by
    rw [State.ctx_settle, hdestroy, State.ctx_updCtx_same, heq]
    exact congrArg (fun k : Ctx => ({ k with state := 2 } : Ctx)) (Tab.get_set_same ..)
  refine ⟨_, { effectBeat := s.beat.count.toNat, cmd := none, purge := s.nextId, destroy := true }, exec_ctxDestroy hup, ?_⟩
  rw [hctx]
  refine ⟨rfl, rfl, rfl, rfl, rfl, rfl, rfl, ⟨{ id := s.nextId, ctx := some c, cmd := none, beat := s.beat.count.toNat, owed := s.ctxEngines c }, ?_, rfl, rfl, rfl⟩,
    ?_, ?_⟩ <;> rw [hdestroy, heq]
  · exact List.mem_append_right _ (List.mem_singleton.2 rfl)
  · rfl
  · rfl

end Sys2Proof.Proofs
end

section
/-! SUPPORT. The recorder and the delivery buffers: O16, O17 and O18. -/
namespace Sys2Proof.Proofs
open Sys2Proof Sys2Proof.Machine

/-! ### Delivery buffers and the BIST_ registers (R410, R440, R455) -/

/-- Settles O16: each register by its definition. -/
theorem deliveryBuffersAndBistWindow : Obligations.DeliveryBuffersAndBistWindow := by
  unfold Obligations.DeliveryBuffersAndBistWindow
  refine ⟨fun s v hup hstate hlen => ?_, fun s v hup hlen => ?_, fun s hup => congrArg _ (mgmtWrite_host hup ..), fun s v hup hlen => ?_,
    fun s v hup hlen => ?_, fun s hup => congrArg _ (mgmtWrite_host hup ..), fun s hup hactive hphase hstop => ?_,
    fun s v hup => ?_⟩
  · refine congrArg _ ((mgmtWrite_host hup ..).trans ?_)
    have hgate : ((s.bist.imgState == 0 || s.bist.imgState == 1) && decide (s.bist.img.length + 8 ≤ 16777216)) = true := by
      rcases hstate with h | h <;> simp [h, hlen]
    rw [Bist.imgData, if_pos hgate]
  · refine congrArg _ ((mgmtWrite_host hup ..).trans ?_)
    have hgate : ¬ ((s.bist.imgState == 0 || s.bist.imgState == 1) && decide (s.bist.img.length + 8 ≤ 16777216)) = true := by
      simp [Nat.not_le.2 hlen]
    rw [Bist.imgData, if_neg hgate]
  · refine congrArg _ ((mgmtWrite_host hup ..).trans ?_)
    rw [Cairn.clearData, if_pos hlen]
  · refine congrArg _ ((mgmtWrite_host hup ..).trans ?_)
    rw [Cairn.clearData, if_neg (Nat.not_le.2 hlen)]
  · refine congrArg _ ((mgmtWrite_host hup ..).trans ?_)
    have hopen : ¬ (6 ≤ s.bist.sdPhase ∨ s.bist.sdStop = true) := by
      rw [hstop]
      simp only [Bool.false_eq_true, or_false]
      omega
    rw [State.bistStop, if_pos hactive, Bist.stop, if_neg hopen]
    dsimp only
    split
    · omega
    · omega
    · omega
    · rfl
  · refine congrArg _ ((mgmtWrite_host hup ..).trans ?_)
    simp [Bist.resSelect, Bist.result, wb, bits]

/-! ### Reading (R453) -/

section
variable (q : Cairn) (v : W64)

theorem capture_buf_of_ne_ok (h : q.readStatus v.toNat ≠ 0) : (q.capture v).rdBuf = [] := if_neg h

theorem capture_buf_ok (h : q.readStatus v.toNat = 0) : (q.capture v).rdBuf = ((q.held v.toNat).map (·.bytes)).getD [] := if_pos h

theorem capture_status : (q.capture v).rdStatus = BitVec.ofNat 3 (q.readStatus v.toNat) := rfl

theorem capture_fails {k : Nat} (h : q.readStatus v.toNat = k) (hk : k ≠ 0) : (q.capture v).rdStatus = BitVec.ofNat 3 k ∧ (q.capture v).rdBuf = [] :=
  ⟨congrArg (BitVec.ofNat 3) h, capture_buf_of_ne_ok q v (h ▸ hk)⟩

end

section
variable {q : Cairn} {n : Nat}

theorem readStatus_notYet (h : q.seq < n) : q.readStatus n = 1 := if_pos h

theorem readStatus_cleared (h : n ≤ q.seq) (hc : n ≤ q.cleared) : q.readStatus n = 2 := by
  rw [Cairn.readStatus, if_neg (Nat.not_lt.2 h), if_pos hc]

theorem readStatus_torn (h : n ≤ q.seq) (hc : q.cleared < n) (ht : n ∈ q.torn) : q.readStatus n = 4 := by
  rw [Cairn.readStatus, if_neg (Nat.not_lt.2 h), if_neg (Nat.not_le.2 hc), if_pos (List.contains_iff_mem.2 ht)]

theorem held_of_ring {r : LogRec} (hr : q.ring.find? (fun k => k.seq == n) = some r) : q.held n = some r := by
  rw [Cairn.held, hr]

theorem readStatus_ok {r : LogRec} (h : n ≤ q.seq) (hc : q.cleared < n) (ht : n ∉ q.torn) (hr : q.held n = some r) : q.readStatus n = 0 := by
  rw [Cairn.readStatus, if_neg (Nat.not_lt.2 h), if_neg (Nat.not_le.2 hc), if_neg (mt List.contains_iff_mem.1 ht), hr]
  rfl

end

/-! ### Codes (R450, R455) -/

/-- The code as CAIRN_CODEn sets it. -/
theorem codeWrite_recorder (q : Cairn) {n : Nat} (v : W64) (h : recorderCode n = true) :
    q.codeWrite n v = q.setCode n { q.code n with event := v.getLsbD 1, irq := v.getLsbD 0 } := if_pos h

/-- What the word of CAIRN_CODEn says of a code that is rate-limited, its bucket apart. -/
def codeWorded (k : CodeSt) (v : W64) : CodeSt :=
  { k with event := v.getLsbD 1, irq := v.getLsbD 0, burst := bits v.toNat 8 8, refill := bits v.toNat 16 16 }

theorem codeWrite_limited (q : Cairn) {n : Nat} (v : W64) (h : recorderCode n = false) :
    q.codeWrite n v = q.setCode n (if (codeWorded (q.code n) v).burstOf = (q.code n).burstOf then codeWorded (q.code n) v
      else { codeWorded (q.code n) v with tokens := (codeWorded (q.code n) v).burstOf, edges := 0 }) := by
  rw [Cairn.codeWrite, h]
  rfl

/-- Settles O17: the first outcome that applies, and the bucket of the code written. -/
theorem cairnReadsAndCodes : Obligations.CairnReadsAndCodes := by
  unfold Obligations.CairnReadsAndCodes
  refine ⟨fun s v hup => ⟨s.cairn.capture v, congrArg _ (mgmtWrite_host hup ..), rfl, rfl, rfl, rfl, rfl, rfl, fun h => ?_, fun h hc => ?_,
    fun h hc ht => ?_, fun h hc ht r hr => ?_⟩, fun s n v hup hn => ?_⟩
  · exact capture_fails _ _ (readStatus_notYet h) (by decide)
  · exact capture_fails _ _ (readStatus_cleared h hc) (by decide)
  · exact capture_fails _ _ (readStatus_torn h hc ht) (by decide)
  · have hheld := held_of_ring hr
    have hok := readStatus_ok h hc ht hheld
    refine ⟨congrArg (BitVec.ofNat 3) hok, ?_⟩
    rw [capture_buf_ok _ _ hok, hheld]
    rfl
  · have hexec : exec (.cairnCodeWrite 0 n v) s = .next ({ s with cairn := s.cairn.codeWrite n v } : State).settle := by
      refine congrArg _ ((mgmtWrite_host hup ..).trans ?_)
      rw [if_pos hn]
    rw [hexec]
    by_cases hrec : recorderCode n = true
    · have hlow : n < 256 := of_decide_eq_true hrec
      rw [codeWrite_recorder _ _ hrec]
      exact ⟨_, rfl, rfl, rfl, rfl, fun h => absurd hlow (Nat.not_lt.2 h), fun h => absurd hlow (Nat.not_lt.2 h),
        fun h => absurd hlow (Nat.not_lt.2 h), fun _ => rfl⟩
    · have hhigh : 256 ≤ n := Nat.not_lt.1 (mt decide_eq_true hrec)
      rw [codeWrite_limited _ _ (Bool.eq_false_iff.2 hrec)]
      by_cases hburst : (codeWorded (s.cairn.code n) v).burstOf = (s.cairn.code n).burstOf
      · rw [if_pos hburst]
        exact ⟨_, rfl, rfl, rfl, rfl, fun _ => ⟨rfl, rfl⟩, fun _ _ => ⟨rfl, rfl⟩, fun _ h => absurd hburst h, fun h => absurd h (Nat.not_lt.2 hhigh)⟩
      · rw [if_neg hburst]
        exact ⟨_, rfl, rfl, rfl, rfl, fun _ => ⟨rfl, rfl⟩, fun _ h => absurd h hburst, fun _ _ => rfl, fun h => absurd h (Nat.not_lt.2 hhigh)⟩

/-! ### Records (R442 to R446, R450, R451) -/

section
variable (q : Cairn) (n : Nat) (k : CodeSt)

theorem code_setCode_same : (q.setCode n k).code n = k := by
  simp [Cairn.code, Cairn.setCode, Tab.find_set_same]

theorem code_setCode_ne {m : Nat} (h : m ≠ n) : (q.setCode n k).code m = q.code m := by
  simp [Cairn.code, Cairn.setCode, Tab.find_set_ne _ _ h]

end

/-- The record that is written stands in the ring, under the next SEQ. -/
theorem writeRec_ring (q : Cairn) (e : Event) :
    ∃ r ∈ (q.writeRec e).1.ring, r.seq = q.seq + 1 ∧ r.bytes = e.record (q.seq + 1) (q.code e.code).supp :=
  ⟨_, List.mem_append_right _ (List.mem_singleton.2 rfl), rfl, rfl⟩

theorem writeRec_code (q : Cairn) (e : Event) : (q.writeRec e).1.code e.code = { q.code e.code with supp := 0 } :=
  code_setCode_same q e.code _

/-- What goes with a record touches the ports' numbers, the lines' pending bits and the messages. -/
theorem afterRecord_eq (s : State) (k : CodeSt) (bytes : List Byte) : ∃ f i o, s.afterRecord k bytes = { s with fence := f, irq := i, out := o } := by
  unfold State.afterRecord
  split <;> split <;> exact ⟨_, _, _, rfl⟩

theorem afterRecord_out (s : State) {k : CodeSt} (bytes : List Byte) (h : k.event = true) :
    ∃ n m, Out.stobin 0 0x50 n bytes ∈ (s.afterRecord k bytes).out ∧ Out.stobin 1 0x50 m bytes ∈ (s.afterRecord k bytes).out := by
  have hout : (s.afterRecord k bytes).out = ((s.tell 0 0x50 bytes).tell 1 0x50 bytes).out := by
    rw [State.afterRecord, if_pos h]
    split <;> rfl
  rw [hout]
  exact ⟨_, _, List.mem_append_left _ (List.mem_append_right _ (List.mem_singleton.2 rfl)), List.mem_append_right _ (List.mem_singleton.2 rfl)⟩

/-- The recorder with the first event out of its queue and a token of its code taken (R444, R450). -/
def recorderTaking (q : Cairn) (e : Event) (rest : List Event) : Cairn := ({ q with queue := rest } : Cairn).setCode e.code (q.code e.code).take

section
variable {s : State} {e : Event} {rest : List Event} (hq : s.cairn.queue = e :: rest) (hlim : recorderCode e.code = false)
include hq hlim

theorem recordNext_written (htok : (s.cairn.code e.code).tokens ≠ 0) : s.recordNext =
    ({ s with cairn := ((recorderTaking s.cairn e rest).writeRec e).1 } : State).afterRecord
      (s.cairn.code e.code) (e.record (s.cairn.seq + 1) (s.cairn.code e.code).supp) := by
  have hgate : ¬ (!recorderCode e.code && (s.cairn.code e.code).tokens == 0) = true := by
    simp [htok]
  have hsupp : ((recorderTaking s.cairn e rest).code e.code).supp = (s.cairn.code e.code).supp := by
    rw [recorderTaking, code_setCode_same, CodeSt.take]
  have hbytes : ((recorderTaking s.cairn e rest).writeRec e).2 =
      e.record (s.cairn.seq + 1) (s.cairn.code e.code).supp := congrArg (e.record (s.cairn.seq + 1)) hsupp
  rw [← hbytes]
  simp only [State.recordNext, hq]
  refine (if_neg hgate).trans ?_
  rw [hlim]
  rfl

theorem recordNext_suppressed (htok : (s.cairn.code e.code).tokens = 0) : s.recordNext =
    { s with cairn := ({ s.cairn with queue := rest } : Cairn).setCode e.code
              { s.cairn.code e.code with supp := Nat.min 65535 ((s.cairn.code e.code).supp + 1) } } := by
  have hgate : (!recorderCode e.code && (s.cairn.code e.code).tokens == 0) = true := by
    simp [htok, hlim]
  simp only [State.recordNext, hq]
  exact if_pos hgate

end

/-- A record that the recorder writes of its own accord stands in the ring. -/
theorem recordSelf_eq (s : State) (e : Event) : ∃ f i o,
    s.recordSelf e = { s with cairn := (s.cairn.writeRec { e with beat := s.beat.count }).1, fence := f, irq := i, out := o } := by
  obtain ⟨f, i, o, h⟩ := afterRecord_eq { s with cairn := (s.cairn.writeRec { e with beat := s.beat.count }).1 } (s.cairn.code e.code)
    (s.cairn.writeRec { e with beat := s.beat.count }).2
  exact ⟨f, i, o, h⟩

theorem record_take_two (e : Event) (seq supp : Nat) : (e.record seq supp).take 2 = leBytes 2 e.code := by
  simp [Event.record, List.append_assoc, leBytes_length]

/-- A record copied into the mirror (R446). -/
def mirrorCopied (q : Cairn) (r : LogRec) : Cairn :=
  let m := logPut mirrorBytes q.mirrorPos q.mirror r.seq r.bytes
  let c := { q with mirror := m.1, mirrorPos := m.2, mirrored := r.seq }
  { c with mirrorSt := if c.unmirrored.isSome then c.mirrorSt else 2 }

theorem exec_mirrorCopy {s : State} {r : LogRec} (hon : s.cairn.mirrorSt ≠ 0) (hr : s.cairn.unmirrored = some r) :
    exec .mirrorCopy s = .next { s with cairn := mirrorCopied s.cairn r } := by
  simp only [exec, execMirrorCopy, if_neg hon, hr]
  rfl

theorem copied_mirrorSt_iff (q : Cairn) (r : LogRec) : (mirrorCopied q r).mirrorSt = 2 ↔ q.mirrorSt = 2 ∨ ∀ k ∈ q.ring, k.seq ≤ r.seq := by
  have hsome : (q.ring.find? (fun k => decide (r.seq < k.seq))).isSome = true ↔ ∃ k ∈ q.ring, r.seq < k.seq := by
    simp [List.find?_isSome]
  have hst : (mirrorCopied q r).mirrorSt = if (q.ring.find? (fun k => decide (r.seq < k.seq))).isSome then q.mirrorSt else 2 := rfl
  rw [hst]
  by_cases hmore : ∃ k ∈ q.ring, r.seq < k.seq
  · rw [if_pos (hsome.2 hmore)]
    refine ⟨.inl, fun h => h.resolve_right fun hall => ?_⟩
    obtain ⟨k, hk, hlt⟩ := hmore
    exact absurd (hall k hk) (Nat.not_le.2 hlt)
  · rw [if_neg (mt hsome.1 hmore)]
    exact ⟨fun _ => .inr fun k hk => Nat.not_lt.1 fun hlt => hmore ⟨k, hk, hlt⟩, fun _ => rfl⟩

/-- Settles O18: a token, the record it lets through, and what the recorder does without one; the mirror; a clear record of a wrong magic. -/
theorem recorderWrites : Obligations.RecorderWrites := by
  unfold Obligations.RecorderWrites
  refine ⟨fun s e rest hpow hq hlim htok => ?_, fun s e rest hpow hq hlim htok => ?_, fun s n hlim htok hdue => ?_, fun s r hon hr => ?_,
    fun s hup hmagic => ?_⟩
  · have hexec : exec .cairnRecordWrite s = .next s.recordNext.settle := congrArg _ (if_pos hpow)
    refine ⟨_, hexec, ?_⟩
    rw [recordNext_written hq hlim htok]
    have hmsg := afterRecord_out ({ s with cairn := ((recorderTaking s.cairn e rest).writeRec e).1 } : State)
      (k := s.cairn.code e.code) (e.record (s.cairn.seq + 1) (s.cairn.code e.code).supp)
    obtain ⟨f, i, o, heq⟩ := afterRecord_eq ({ s with cairn := ((recorderTaking s.cairn e rest).writeRec e).1 } : State)
      (s.cairn.code e.code) (e.record (s.cairn.seq + 1) (s.cairn.code e.code).supp)
    rw [heq] at hmsg ⊢
    have hcode : (recorderTaking s.cairn e rest).code e.code = (s.cairn.code e.code).take :=
      code_setCode_same ..
    have hring := writeRec_ring (recorderTaking s.cairn e rest) e
    have hwritten := writeRec_code (recorderTaking s.cairn e rest) e
    rw [hcode] at hring hwritten
    refine ⟨rfl, rfl, hring, congrArg CodeSt.tokens hwritten, congrArg CodeSt.supp hwritten, fun hev => ?_, rfl, rfl⟩
    obtain ⟨n, m, hn, hm⟩ := hmsg hev
    exact ⟨n, m, List.mem_append_left _ hn, List.mem_append_left _ hm⟩
  · have hexec : exec .cairnRecordWrite s = .next s.recordNext.settle := congrArg _ (if_pos hpow)
    refine ⟨_, hexec, ?_⟩
    rw [recordNext_suppressed hq hlim htok]
    exact ⟨rfl, rfl, rfl, congrArg CodeSt.supp (code_setCode_same ..), rfl⟩
  · have hgate : (!recorderCode n && (s.cairn.code n).due) = true := by
      simp [hlim, CodeSt.due, htok, hdue]
    refine ⟨s.cairn.setCode n (s.cairn.code n).fill, congrArg _ (if_pos hgate), ?_⟩
    rw [code_setCode_same]
    exact ⟨rfl, htok, rfl, rfl, rfl, fun m hm => code_setCode_ne _ _ _ hm⟩
  · exact ⟨_, exec_mirrorCopy hon hr, rfl, rfl, rfl, ⟨_, List.mem_append_right _ (List.mem_singleton.2 rfl), rfl, rfl⟩, copied_mirrorSt_iff _ _⟩
  · have hexec : exec (.cairnClrGo 0) s = .next s.clearGo.settle := congrArg _ (mgmtWrite_host hup ..)
    have hst : s.clearState s.cairn.clrBuf = 1 := if_pos (.inr (.inl hmagic))
    let e : Event := { code := 0x002, payload := leBytes 1 1 ++ leBytes 1 0 ++ zeros 6 ++ clearKey s.cairn.clrBuf }
    have hgo : s.clearGo = { s.recordSelf e with cairn := { (s.recordSelf e).cairn with clrState := 1 } } := by
      simp only [State.clearGo, State.submitClear, hst]
      rfl
    obtain ⟨f, i, o, heq⟩ := recordSelf_eq s e
    obtain ⟨r, hr, hseq, hbytes⟩ := writeRec_ring s.cairn { e with beat := s.beat.count }
    refine ⟨_, hexec, ?_⟩
    rw [hgo, heq]
    exact ⟨rfl, rfl, rfl, rfl, ⟨r, hr, hseq, hbytes ▸ record_take_two ..⟩, rfl, rfl⟩

end Sys2Proof.Proofs
end

section
/-! SUPPORT. Doorbells and apertures: O19 and O21. -/
namespace Sys2Proof.Proofs
open Sys2Proof Sys2Proof.Machine

/-! ### Doorbells (R284) -/

section
variable {s : State} {f c n : Nat} {tail : BitVec 32} (hup : s.hostUp = true) (hreach : s.reaches f c = true)
include hup hreach

theorem dbWrite_reaches (resume : Bool) : s.dbWrite f c n tail resume = (s.ring c n tail resume).settle := by
  simp [State.dbWrite, hup, hreach]

theorem exec_doorbell : exec (.doorbell f c n tail) s = .next (s.ring c n tail false).settle :=
  congrArg Host.Outcome.next (dbWrite_reaches hup hreach false)

theorem exec_resume : exec (.resume f c n tail) s = .next (s.ring c n tail true).settle :=
  congrArg Host.Outcome.next (dbWrite_reaches hup hreach true)

end

section
variable {s : State} {c n g : Nat} {tail : BitVec 32}

theorem ring_taken (hg : s.openStream c n = some g) (htake : (s.strm g).takes tail = true) (resume : Bool) :
    s.ring c n tail resume = s.updStrm g (fun x => { x with tail := tail, halted := x.halted && !resume }) := by
  simp [State.ring, hg, htake]

theorem ring_ignored (hno : ∀ g, s.openStream c n = some g → (s.strm g).takes tail = false) (resume : Bool) :
    s.ring c n tail resume = s.setDbErr c := by
  unfold State.ring
  split
  · rfl
  · next g hg => rw [hno g hg]; rfl

end

theorem takes_iff (x : Strm) (tail : BitVec 32) :
    x.takes tail = true ↔ (x.tail - x.head).toNat ≤ (tail - x.head).toNat ∧ (tail - x.head).toNat ≤ 2 ^ x.log2 := by
  rw [Strm.takes, Bool.and_eq_true, decide_eq_true_iff, decide_eq_true_iff]

/-- Settles O19: what STRM_DB takes and what it ignores. -/
theorem doorbellTail : Obligations.DoorbellTail := by
  unfold Obligations.DoorbellTail
  refine ⟨fun s f c n g tail hup hreach hg hlow hhigh => ?_, fun s f c n tail hup hreach hbad => ?_⟩
  · have htake : (s.strm g).takes tail = true := (takes_iff ..).2 ⟨hlow, hhigh⟩
    rw [exec_doorbell hup hreach, exec_resume hup hreach, ring_taken hg htake, ring_taken hg htake]
    simp [State.updStrm]
  · have hno : ∀ g, s.openStream c n = some g → (s.strm g).takes tail = false := fun g hg => by
      rw [Bool.eq_false_iff, ne_eq, takes_iff, not_and_or, Nat.not_le, Nat.not_le]
      exact hbad g hg
    rw [exec_doorbell hup hreach, exec_resume hup hreach, ring_ignored hno, ring_ignored hno]
    exact ⟨rfl, rfl⟩

/-! ### Apertures (R278, R279) -/

/-- The parts of an aperture's address. -/
theorem aperture_addr {c r off : Nat} (hc : c < 256) (hr : r < 64) (hoff : off < 2 ^ 42) :
    aperture (2 ^ 63 + c * 2 ^ 48 + r * 2 ^ 42 + off) = some (c, { region := r, off := off }) := by
  have htop : (2 ^ 63 + c * 2 ^ 48 + r * 2 ^ 42 + off) / 2 ^ 56 = 128 := by omega
  have hctx : bits (2 ^ 63 + c * 2 ^ 48 + r * 2 ^ 42 + off) 48 8 = c := by rw [bits]; omega
  have hreg : bits (2 ^ 63 + c * 2 ^ 48 + r * 2 ^ 42 + off) 42 6 = r := by rw [bits]; omega
  have hlow : bits (2 ^ 63 + c * 2 ^ 48 + r * 2 ^ 42 + off) 0 42 = off := by rw [bits]; omega
  rw [aperture, if_pos htop, hctx, hreg, hlow]

section
variable {s : State} {f a c : Nat} {r : Ref} (hup : s.hostUp = true) (hmem : s.bist.memUp = true) (ha : aperture a = some (c, r))
  (hreach : s.reaches f c = true)
include hup hmem ha hreach

theorem exec_apertureWrite_dropped {data : List Byte} (hno : s.allows c r data.length .hostWr true = false) :
    exec (.apertureWrite f a data) s = .next (s.apertureDrop c r true).settle := by
  simp [exec, execApertureWrite, hup, hmem, State.apWrite, ha, hreach, hno]

theorem exec_apertureRead_dropped {n : Nat} (hno : s.allows c r n .hostRd false = false) :
    exec (.apertureRead f a n) s = .next ((s.apertureDrop c r false).send (.readData (zeros n))).settle := by
  simp [exec, execApertureRead, hup, hmem, State.apRead, ha, hreach, hno]

theorem exec_apertureRead_allowed {n : Nat} (hyes : s.allows c r n .hostRd false = true) :
    exec (.apertureRead f a n) s = .next (s.send (.readData (s.readRef c r n))).settle := by
  simp [exec, execApertureRead, hup, hmem, State.apRead, ha, hreach, hyes]

end

/-- A dropped access shows in the context's HOST_FAULT, the recorder and the pending bits. -/
theorem apertureDrop_eq (s : State) (c : Nat) (r : Ref) (write : Bool) : ∃ q i, s.apertureDrop c r write =
    { s with ctxs := Tab.set s.ctxs c { s.ctx c with hostFault := true }, cairn := q, irq := i } := ⟨_, _, rfl⟩

/-- Settles O21: dropped accesses leave every byte, an allowed read answers with the region's. -/
theorem apertureReads : Obligations.ApertureReads := by
  unfold Obligations.ApertureReads
  refine ⟨fun s f c r off data hup hmem hc hr hoff hreach hw hrd => ?_, fun s f c r off n hup hmem hc hr hoff hreach hyes => ?_⟩
  · refine ⟨_, _, exec_apertureWrite_dropped hup hmem (aperture_addr hc hr hoff) hreach hw,
      exec_apertureRead_dropped hup hmem (aperture_addr hc hr hoff) hreach hrd, ?_⟩
    obtain ⟨q, i, hwrite⟩ := apertureDrop_eq s c { region := r, off := off } true
    obtain ⟨q', i', hread⟩ := apertureDrop_eq s c { region := r, off := off } false
    have hfault : (Tab.get {} (Tab.set s.ctxs c { s.ctx c with hostFault := true }) c).hostFault = true := by
      rw [Tab.get_set_same]
    rw [hwrite, hread]
    refine ⟨rfl, rfl, hfault, hfault, fun d hd => ⟨Tab.get_set_ne _ _ _ hd, Tab.get_set_ne _ _ _ hd⟩, rfl, rfl, ?_⟩
    exact List.mem_append_left _ (List.mem_append_right _ (List.mem_singleton.2 rfl))
  · rw [exec_apertureRead_allowed hup hmem (aperture_addr hc hr hoff) hreach hyes]
    rfl

end Sys2Proof.Proofs
end

section
/-! SUPPORT. The management ports' checks, and what is read over them: O22, O26 and O27 (R394, R418, R426 to R429, R452, R454). -/
namespace Sys2Proof.Proofs
open Sys2Proof Sys2Proof.Machine

/-! ### The two ports' registers -/

section
variable (f : Fence) (p : Nat) (m : Mgmt)

@[simp] theorem mgmt_setMgmt : (f.setMgmt p m).mgmt p = m := by
  unfold Fence.setMgmt Fence.mgmt
  split <;> rfl

@[simp] theorem setMgmt_cause : (f.setMgmt p m).cause = f.cause := by
  unfold Fence.setMgmt
  split <;> rfl

@[simp] theorem setMgmt_leaseOk : (f.setMgmt p m).leaseOk = f.leaseOk := by
  unfold Fence.setMgmt
  split <;> rfl

end

/-! ### The recorder's queue -/

section
variable (q : Cairn) (e : Event)

@[simp] theorem push_ring : (q.push e).ring = q.ring := by
  unfold Cairn.push
  split <;> rfl

@[simp] theorem push_seq : (q.push e).seq = q.seq := by
  unfold Cairn.push
  split <;> rfl

@[simp] theorem push_cleared : (q.push e).cleared = q.cleared := by
  unfold Cairn.push
  split <;> rfl

end

/-! ### The checks of R426 -/

/-- Every type is heard by a powered device that is neither tripped, in hold, in base camp nor in reset. -/
theorem listens_inService {s : State} {m : Stobin} (hpow : s.crest.powered = true) (hport : m.port < 2) (htrip : s.crest.tripped = false)
    (hhold : s.bist.inHold = false) (hcamp : s.bist.mode ≠ 2) (hphase : s.phase ≠ .reset) (ty : Nat) : s.listens m ty = true := by
  have hphase' : (s.phase != .reset) = true := bne_iff_ne.2 hphase
  simp only [State.listens, State.tripHold, hpow, hport, htrip, hhold, hphase', decide_true, Bool.not_false, Bool.and_true, Bool.true_or, Bool.false_eq_true,
    if_false, beq_iff_eq, if_neg hcamp]

/-- What a device that listens at all must be. -/
theorem listens_powered {s : State} {m : Stobin} {ty : Nat} (h : s.listens m ty = true) :
    s.crest.powered = true ∧ m.port < 2 ∧ s.tripHold = false := by
  simp only [State.listens, Bool.and_eq_true, decide_eq_true_eq, Bool.not_eq_true'] at h
  obtain ⟨⟨⟨hpow, hport⟩, htrip⟩, -⟩ := h
  exact ⟨hpow, hport, htrip⟩

section
variable {s : State} {m : Stobin} {ty : Nat} {body : List Byte} {ok : Bool} {x : Exempt} {f : State → State}

theorem stobin_dropped {k : Nat} (hl : s.listens m ty = true) (hk : s.stobinFails m ty body ok x = some k) :
    s.stobin m ty body ok x f = (s.stobinDrop m ty k).settle := by
  rw [State.stobin, if_pos hl, hk]

theorem stobin_accepted (hl : s.listens m ty = true) (hk : s.stobinFails m ty body ok x = none) :
    s.stobin m ty body ok x f = (f (s.stobinAccept m x)).settle := by
  rw [State.stobin, if_pos hl, hk]

/-- A message without exemptions that is not for this device, nonce and SEQ fails one of the first three checks. -/
theorem stobinFails_unaddressed (h : m.deviceId ≠ Config.deviceId ∨ m.nonce ≠ s.bist.nonce ∨ m.seq ≤ (s.fence.mgmt m.port).lastSeq) :
    ∃ k, s.stobinFails m ty body ok .none = some k := by
  unfold State.stobinFails
  by_cases hdev : m.deviceId = Config.deviceId
  · by_cases hnonce : m.nonce = s.bist.nonce
    · have hseq : m.seq ≤ (s.fence.mgmt m.port).lastSeq := by simpa [hdev, hnonce] using h
      exact ⟨3, by simp [hdev, hnonce, hseq]⟩
    · exact ⟨2, by simp [hdev, hnonce]⟩
  · exact ⟨1, by simp [hdev]⟩

section
variable (hdev : m.deviceId = Config.deviceId) (hnonce : m.nonce = s.bist.nonce) (hseq : (s.fence.mgmt m.port).lastSeq < m.seq)
include hdev hnonce hseq

theorem stobinFails_unsigned (hsig : s.signedBy m ty body = false) : s.stobinFails m ty body ok .none = some 4 := by
  simp [State.stobinFails, hdev, hnonce, Nat.not_le.2 hseq, hsig]

theorem stobinFails_signed (hsig : s.signedBy m ty body = true) : s.stobinFails m ty body true .none = none := by
  simp [State.stobinFails, hdev, hnonce, Nat.not_le.2 hseq, hsig]

end

theorem stobinFails_all : s.stobinFails m ty body true .all = none := rfl

theorem stobinFails_read (hdev : m.deviceId = Config.deviceId) : s.stobinFails m ty body true .read = none := by
  simp [State.stobinFails, hdev]

theorem stobinFails_wake (hdev : m.deviceId = Config.deviceId) (hseq : (s.fence.mgmt m.port).lastSeq < m.seq) :
    s.stobinFails m ty body true .wake = none := by
  simp [State.stobinFails, hdev, Nat.not_le.2 hseq]

end

/-- A dropped message goes to the recorder alone. -/
theorem stobinDrop_eq (s : State) (m : Stobin) (ty k : Nat) :
    ∃ c : Cairn, s.stobinDrop m ty k = { s with cairn := c, fresh := s.fresh + 1 } ∧ c.ring = s.cairn.ring ∧ c.seq = s.cairn.seq ∧
      c.cleared = s.cairn.cleared := ⟨_, rfl, push_ring _ _, push_seq _ _, push_cleared _ _⟩

/-- An accepted message leaves everything but its port's registers. -/
theorem stobinAccept_eq (s : State) (m : Stobin) (x : Exempt) :
    ∃ f : Fence, s.stobinAccept m x = { s with fence := f } ∧ f.cause = s.fence.cause ∧ f.leaseOk = s.fence.leaseOk :=
  ⟨_, rfl, setMgmt_cause _ _ _, setMgmt_leaseOk _ _ _⟩

/-- An answer goes out on its port, under the port's next number. -/
theorem tell_eq (s : State) (p ty : Nat) (body : List Byte) :
    s.tell p ty body = { s with fence := s.fence.setMgmt p { s.fence.mgmt p with sendSeq := (s.fence.mgmt p).sendSeq + 1 },
                                out := s.out ++ [.stobin p ty (s.fence.mgmt p).sendSeq body] } := rfl

theorem tell_mem (s : State) (p ty : Nat) (body : List Byte) : ∃ k, Out.stobin p ty k body ∈ (s.tell p ty body).out :=
  ⟨_, List.mem_append_right _ (List.mem_singleton.2 rfl)⟩

/-- Settles O22: each of these messages stands behind the same checks, of which one of the first three fails. -/
theorem stobinDropsUnaddressed : Obligations.StobinDropsUnaddressed := by
  unfold Obligations.StobinDropsUnaddressed
  intro s m i hpow hport htrip hhold hcamp hphase hbad hi
  have hdrop (ty : Nat) (body : List Byte) (ok : Bool) (f : State → State) : ∃ c : Cairn,
      s.stobin m ty body ok .none f = ({ s with cairn := c, fresh := s.fresh + 1 } : State).settle ∧ c.ring = s.cairn.ring ∧ c.seq = s.cairn.seq := by
    obtain ⟨k, hk⟩ := stobinFails_unaddressed (ty := ty) (body := body) (ok := ok) hbad
    obtain ⟨c, hc, hring, hseq, -⟩ := stobinDrop_eq s m ty k
    exact ⟨c, by rw [stobin_dropped (listens_inService hpow hport htrip hhold hcamp hphase ty) hk, hc], hring, hseq⟩
  have hnext {t : State} (h : ∃ c : Cairn, t = ({ s with cairn := c, fresh := s.fresh + 1 } : State).settle ∧ c.ring = s.cairn.ring ∧
      c.seq = s.cairn.seq) : ∃ c : Cairn, Host.Outcome.next t = (.next ({ s with cairn := c, fresh := s.fresh + 1 } : State).settle :
        Host.Outcome State Fault Refusal) ∧ c.ring = s.cairn.ring ∧ c.seq = s.cairn.seq := by
    obtain ⟨c, rfl, hring, hseq⟩ := h
    exact ⟨c, rfl, hring, hseq⟩
  rcases hi with ⟨n, v, rfl⟩ | ⟨n, d, rfl⟩ | rfl | ⟨k, rfl⟩ | ⟨a, n, c, rfl⟩ | ⟨a, n, rfl⟩ | ⟨l, rfl⟩ | ⟨b, rfl⟩ | ⟨b, o, rfl⟩
  · exact hnext (hdrop ..)
  · exact hnext (hdrop ..)
  · exact hnext (hdrop ..)
  · have hreset : exec (.reset m k) s = .next (s.stobin m 0x30 (leBytes 1 k ++ zeros 7) (decide (k ≤ 1)) .none (fun s =>
        if k = 0 then s.warmReset 1 else s.coldReset .boot)) := by
      simp [exec, execReset, State.tripHold, htrip]
    rw [hreset]
    exact hnext (hdrop ..)
  · exact hnext (hdrop ..)
  · exact hnext (hdrop ..)
  · exact hnext (hdrop ..)
  · exact hnext (hdrop ..)
  · exact hnext (hdrop ..)

/-! ### Open reads (R418, R427 to R429, R454) -/

/-- An accepted message that is only answered. -/
theorem answered_eq (s : State) (m : Stobin) (x : Exempt) (ty : Nat) (body : List Byte) : ∃ f k,
    (s.stobinAccept m x).tell m.port ty body = { s with fence := f, out := s.out ++ [.stobin m.port ty k body] } ∧
      f.cause = s.fence.cause ∧ f.leaseOk = s.fence.leaseOk ∧
      (f.mgmt m.port).lastSeq = (if x = .none ∨ x = .wake then m.seq else (s.fence.mgmt m.port).lastSeq) := by
  refine ⟨_, _, rfl, ?_, ?_, ?_⟩ <;> simp [State.stobinAccept]

/-- The report speaks of the fence's cause alone. -/
theorem attestBody_fence (s : State) {f : Fence} (h : f.cause = s.fence.cause) (nonce : List Byte) :
    ({ s with fence := f } : State).attestBody nonce = s.attestBody nonce := by
  simp only [State.attestBody, State.fenced, h]
  rfl

theorem takeRecords_length (n : Nat) : ∀ (room : Nat) (l : List LogRec), (takeRecords n room l).length ≤ n := by
  induction n with
  | zero => intro room l; exact Nat.le_refl 0
  | succ n ih =>
    intro room l
    cases l with
    | nil => exact Nat.zero_le _
    | cons r l =>
      rw [takeRecords]
      split
      · exact Nat.succ_le_succ (ih ..)
      · exact Nat.zero_le _

theorem takeRecords_bytes (n : Nat) : ∀ (room : Nat) (l : List LogRec), ((takeRecords n room l).map List.length).sum ≤ room := by
  induction n with
  | zero => intro room l; exact Nat.zero_le _
  | succ n ih =>
    intro room l
    cases l with
    | nil => exact Nat.zero_le _
    | cons r l =>
      rw [takeRecords]
      split
      · next hfit =>
        rw [List.map_cons, List.sum_cons]
        have := ih (room - r.bytes.length) l
        omega
      · exact Nat.zero_le _

/-- Settles O27: each answer, with what it is an answer to. -/
theorem openReadsAnswered : Obligations.OpenReadsAnswered := by
  unfold Obligations.OpenReadsAnswered
  refine ⟨fun s p hp hpow hheard hdue => ?_, fun s m nonce hl hlen => ?_, fun s m hl => ?_, fun s m a n hl hdev hlow hhigh => ?_⟩
  · have hgate : (decide (p < 2) && s.crest.powered && !(s.fence.mgmt p).heard && (s.bist.ready || s.bist.mode == 2)) = true := by
      rcases hdue with h | h <;> simp [hp, hpow, hheard, h]
    exact congrArg Host.Outcome.next ((if_pos hgate).trans (tell_eq ..))
  · have hlen' : (nonce.length == 32) = true := beq_iff_eq.2 hlen
    obtain ⟨f, k, htell, hcause, hok, hseq⟩ := answered_eq s m .all 0x71 (s.attestBody nonce)
    refine ⟨f, k, ?_, hcause, hok, hseq⟩
    have hbody : (s.stobinAccept m .all).attestBody nonce = s.attestBody nonce := attestBody_fence s (setMgmt_cause ..) nonce
    simp only [exec, execAttest, hlen', stobin_accepted hl stobinFails_all, hbody, htell]
  · obtain ⟨f, k, htell, hcause, hok, -⟩ := answered_eq s m .all 0x73 certBytes
    exact ⟨f, k, by simp only [exec, execCertRead, stobin_accepted hl stobinFails_all, htell], hcause, hok⟩
  · have hcount : (decide (1 ≤ n) && decide (n ≤ 256)) = true := by simp [hlow, hhigh]
    obtain ⟨f, k, htell, hcause, -⟩ := answered_eq s m .read 0x81
      (leBytes 8 a ++ leBytes 2 (s.cairn.readFrom a n).length ++ zeros 6 ++ (s.cairn.readFrom a n).flatten)
    refine ⟨f, k, _, ?_, rfl, takeRecords_length .., takeRecords_bytes .., hcause⟩
    simp only [exec, execCairnRead, hcount, stobin_accepted hl (stobinFails_read hdev)]
    exact congrArg (fun t : State => (Host.Outcome.next t.settle : Host.Outcome State Fault Refusal)) htell

/-! ### Signed reads (R394, R400, R428, R452, R454) -/

/-- A die without the counts of its bins. -/
def dieBinless (k : Die) : Die := { k with ckChecked := [], echoChecked := [] }

/-- A block without the counts of its bins. -/
def blockBinless (b : Block) : Block := { b with ckFail := [], echoFail := [] }

/-- The dies in a list lose their bins. -/
def clearDies (l : List Nat) (s : State) : State := l.foldl (fun (s : State) d => s.updDie d dieBinless) s

/-- The blocks from a first one lose their bins. -/
def clearBlocks (a : Nat) (l : List Nat) (s : State) : State := l.foldl (fun (s : State) i => s.updBlock (a + i) blockBinless) s

theorem clearBins_steps (s : State) (a n : Nat) : s.clearBins a n = clearBlocks a (List.range n) (clearDies (List.range 8) s) := rfl

theorem clearDies_eq (l : List Nat) (s : State) : ∃ d, clearDies l s = { s with dies := d } :=
  foldl_rel (r := fun s t => ∃ d, t = { s with dies := d }) (fun s => ⟨s.dies, rfl⟩) (by rintro _ _ _ ⟨_, rfl⟩ ⟨d, rfl⟩; exact ⟨d, rfl⟩)
    (fun _ _ => ⟨_, rfl⟩) l s

theorem clearBlocks_eq (a : Nat) (l : List Nat) (s : State) : ∃ b, clearBlocks a l s = { s with blocks := b } :=
  foldl_rel (r := fun s t => ∃ b, t = { s with blocks := b }) (fun s => ⟨s.blocks, rfl⟩) (by rintro _ _ _ ⟨_, rfl⟩ ⟨d, rfl⟩; exact ⟨d, rfl⟩)
    (fun _ _ => ⟨_, rfl⟩) l s

theorem clearDies_die {d : Nat} (l : List Nat) (s : State) (h : d ∈ l ∨ (s.die d).ckChecked = [] ∧ (s.die d).echoChecked = []) :
    ((clearDies l s).die d).ckChecked = [] ∧ ((clearDies l s).die d).echoChecked = [] := by
  induction l generalizing s with
  | nil => exact h.resolve_left List.not_mem_nil
  | cons e l ih =>
    refine ih _ ?_
    by_cases he : d = e
    · subst he
      exact .inr (by simp [dieBinless])
    · rw [State.die_updDie_ne _ _ he]
      exact h.imp_left fun hm => (List.mem_cons.1 hm).resolve_left he

theorem clearBlocks_block {a i : Nat} (l : List Nat) (s : State)
    (h : i ∈ l ∨ (s.block (a + i)).ckFail = [] ∧ (s.block (a + i)).echoFail = []) :
    ((clearBlocks a l s).block (a + i)).ckFail = [] ∧ ((clearBlocks a l s).block (a + i)).echoFail = [] := by
  induction l generalizing s with
  | nil => exact h.resolve_left List.not_mem_nil
  | cons e l ih =>
    refine ih _ ?_
    by_cases he : i = e
    · subst he
      exact .inr (by simp [blockBinless])
    · rw [State.block_updBlock_ne _ _ (by omega)]
      exact h.imp_left fun hm => (List.mem_cons.1 hm).resolve_left he

/-- CLEAR touches the bins of the blocks named and of the dies. -/
theorem clearBins_eq (s : State) (a n : Nat) : ∃ b d, s.clearBins a n = { s with blocks := b, dies := d } := by
  rw [clearBins_steps]
  obtain ⟨d, hd⟩ := clearDies_eq (List.range 8) s
  obtain ⟨b, hb⟩ := clearBlocks_eq a (List.range n) (clearDies (List.range 8) s)
  exact ⟨b, d, by rw [hb, hd]⟩

theorem clearBins_die (s : State) (a n : Nat) {d : Nat} (h : d < 8) :
    ((s.clearBins a n).die d).ckChecked = [] ∧ ((s.clearBins a n).die d).echoChecked = [] := by
  rw [clearBins_steps]
  obtain ⟨b, hb⟩ := clearBlocks_eq a (List.range n) (clearDies (List.range 8) s)
  rw [hb]
  exact clearDies_die (List.range 8) s (.inl (List.mem_range.2 h))

theorem clearBins_block (s : State) (a n : Nat) {b : Nat} (hlow : a ≤ b) (hhigh : b < a + n) :
    ((s.clearBins a n).block b).ckFail = [] ∧ ((s.clearBins a n).block b).echoFail = [] := by
  obtain ⟨i, rfl⟩ := Nat.exists_eq_add_of_le hlow
  exact clearBlocks_block (List.range n) _ (.inl (List.mem_range.2 (by omega)))

/-- The body of BIST_DATA (R428). -/
def bistBody (s : State) (a n : Nat) : List Byte :=
  leBytes 8 s.bist.statWord.toNat ++ (List.range n).flatMap (fun i =>
    leBytes 8 (s.bist.result (a + i)).1.toNat ++ leBytes 8 (s.bist.result (a + i)).2.toNat)

/-- A clear record of a wrong magic is refused as MALFORMED: a record says so, and nothing is cleared (R452). -/
theorem submitClear_malformed (s : State) (path : Nat) {r : List Byte} (h : sub8 r 0 8 ≠ clearMagic) : ∃ q f i o,
    s.submitClear path r = ({ s with cairn := q, fence := f, irq := i, out := o }, 1) ∧ q.seq = s.cairn.seq + 1 ∧ q.cleared = s.cairn.cleared := by
  have hst : s.clearState r = 1 := if_pos (.inr (.inl h))
  simp only [State.submitClear, hst]
  obtain ⟨f, i, o, heq⟩ := recordSelf_eq s { code := 0x002, payload := leBytes 1 1 ++ leBytes 1 path ++ zeros 6 ++ clearKey r }
  exact ⟨_, f, i, o, congrArg (fun t => (t, 1)) heq, rfl, rfl⟩

/-- Settles O26: by the signature, and then by what was asked. -/
theorem signedReadsAnswered : Obligations.SignedReadsAnswered := by
  unfold Obligations.SignedReadsAnswered
  refine ⟨fun s m a n clear h1 h16 hrange hl hdev hnonce hseq => ?_, fun s m a n h1 h64 hl hdev hnonce hseq => ?_,
    fun s m l hlen hmagic hl hdev hnonce hseq => ?_⟩
  · have hbody : (decide (1 ≤ n) && decide (n ≤ 16) && decide (a + n ≤ 5120)) = true := by simp [h1, h16, hrange]
    by_cases hsig : s.signedBy m 0x40 (leBytes 2 a ++ leBytes 1 n ++ leBytes 1 (if clear then 1 else 0)) = true
    · simp only [if_pos hsig]
      obtain ⟨f, k, htell, -⟩ := answered_eq s m .none 0x41 (s.binsBody a n)
      have hexec : exec (.binsRead m a n clear) s = .next (if clear then ((s.stobinAccept m .none).tell m.port 0x41 (s.binsBody a n)).clearBins a n
          else (s.stobinAccept m .none).tell m.port 0x41 (s.binsBody a n)).settle := by
        simp only [exec, execBinsRead, hbody, stobin_accepted hl (stobinFails_signed hdev hnonce hseq hsig)]
        rfl
      refine ⟨_, hexec, ?_⟩
      rw [htell]
      have hmem : Out.stobin m.port 0x41 k (s.binsBody a n) ∈ s.out ++ [.stobin m.port 0x41 k (s.binsBody a n)] :=
        List.mem_append_right _ (List.mem_singleton.2 rfl)
      cases clear with
      | false => exact ⟨rfl, rfl, rfl, ⟨k, List.mem_append_left _ hmem⟩, fun _ => ⟨rfl, rfl⟩, fun h => absurd h Bool.false_ne_true⟩
      | true =>
        have hdie (t : State) (d : Nat) (hd : d < 8) : ((t.clearBins a n).settle.die d).ckChecked = [] ∧
            ((t.clearBins a n).settle.die d).echoChecked = [] := clearBins_die t a n hd
        have hblock (t : State) (b : Nat) (hlow : a ≤ b) (hhigh : b < a + n) : ((t.clearBins a n).settle.block b).ckFail = [] ∧
            ((t.clearBins a n).settle.block b).echoFail = [] := clearBins_block t a n hlow hhigh
        obtain ⟨bl, di, heq⟩ := clearBins_eq { s with fence := f, out := s.out ++ [.stobin m.port 0x41 k (s.binsBody a n)] } a n
        simp only [if_true]
        refine ⟨?_, ?_, ?_, ⟨k, ?_⟩, fun h => absurd h.symm Bool.false_ne_true, fun _ => ⟨hdie _, hblock _⟩⟩ <;> rw [heq]
        · rfl
        · rfl
        · rfl
        · exact List.mem_append_left _ hmem
    · simp only [if_neg hsig]
      obtain ⟨c, hdrop, -⟩ := stobinDrop_eq s m 0x40 4
      refine ⟨_, congrArg Host.Outcome.next (stobin_dropped hl (stobinFails_unsigned hdev hnonce hseq (Bool.eq_false_iff.2 hsig))), ?_⟩
      rw [hdrop]
      exact ⟨rfl, rfl, rfl, rfl, rfl⟩
  · have hbody : (decide (1 ≤ n) && decide (n ≤ 64)) = true := by simp [h1, h64]
    by_cases hsig : s.signedBy m 0x74 (leBytes 2 a ++ leBytes 2 n ++ zeros 4) = true
    · obtain ⟨f, k, htell, -⟩ := answered_eq s m .none 0x75 (bistBody s a n)
      have hexec : exec (.bistRead m a n) s = .next ((s.stobinAccept m .none).tell m.port 0x75 (bistBody s a n)).settle := by
        simp only [exec, execBistRead, hbody, stobin_accepted hl (stobinFails_signed hdev hnonce hseq hsig)]
        rfl
      refine ⟨_, hexec, ?_⟩
      rw [htell]
      exact ⟨rfl, rfl, rfl, fun _ => ⟨k, List.mem_append_left _ (List.mem_append_right _ (List.mem_singleton.2 rfl))⟩⟩
    · obtain ⟨c, hdrop, -⟩ := stobinDrop_eq s m 0x74 4
      refine ⟨_, congrArg Host.Outcome.next (stobin_dropped hl (stobinFails_unsigned hdev hnonce hseq (Bool.eq_false_iff.2 hsig))), ?_⟩
      rw [hdrop]
      exact ⟨rfl, rfl, rfl, fun h => absurd h hsig⟩
  · have hbody : (l.length == 3392) = true := beq_iff_eq.2 hlen
    by_cases hsig : s.signedBy m 0x82 l = true
    · have hexec : exec (.cairnClear m l) s = .next (((s.stobinAccept m .none).submitClear (m.port + 1) l).1.tell m.port 0x83
          (leBytes 1 ((s.stobinAccept m .none).submitClear (m.port + 1) l).2 ++ zeros 7 ++ leBytes 8 (clearUpto l))).settle := by
        simp only [exec, execCairnClear, hbody, stobin_accepted hl (stobinFails_signed hdev hnonce hseq hsig)]
      obtain ⟨q, f, i, o, heq, hq, hclear⟩ := submitClear_malformed (s.stobinAccept m .none) (m.port + 1) hmagic
      refine ⟨_, hexec, ?_⟩
      rw [heq]
      exact ⟨rfl, hclear, fun _ => ⟨hq, _, List.mem_append_left _ (List.mem_append_right _ (List.mem_singleton.2 rfl))⟩⟩
    · obtain ⟨c, hdrop, hring, hq, hclear⟩ := stobinDrop_eq s m 0x82 4
      refine ⟨_, congrArg Host.Outcome.next (stobin_dropped hl (stobinFails_unsigned hdev hnonce hseq (Bool.eq_false_iff.2 hsig))), ?_⟩
      rw [hdrop]
      exact ⟨rfl, hclear, fun h => absurd h hsig⟩

end Sys2Proof.Proofs
end

section
/-! SUPPORT. What sending touches (R346, R352, R372). -/
namespace Sys2Proof.Proofs
open Sys2Proof Sys2Proof.Machine

/-- Two states that differ in ports, peers, kept frames, rotations, the count of the unreachable, and in what the device has sent. -/
def SendsOnly (s t : State) : Prop := ∃ pt pe un ro ur o,
  t = { s with lnk := { s.lnk with ports := pt, peers := pe, unacked := un, rotation := ro, unreach := ur }, out := o }

namespace SendsOnly

theorem refl (s : State) : SendsOnly s s := ⟨s.lnk.ports, s.lnk.peers, s.lnk.unacked, s.lnk.rotation, s.lnk.unreach, s.out, rfl⟩

theorem trans {a b c : State} : SendsOnly a b → SendsOnly b c → SendsOnly a c := by
  rintro ⟨_, _, _, _, _, _, rfl⟩ ⟨pt, pe, un, ro, ur, o, rfl⟩
  exact ⟨pt, pe, un, ro, ur, o, rfl⟩

theorem fold {α : Type} {f : State → α → State} (h : ∀ s a, SendsOnly s (f s a)) (l : List α) (s : State) : SendsOnly s (l.foldl f s) :=
  foldl_rel refl trans h l s

/-- The rest of the links stands. -/
theorem linksOnly {s t : State} : SendsOnly s t → LinksOnly s t := by
  rintro ⟨_, _, _, _, _, _, rfl⟩
  exact ⟨_, _, rfl⟩

end SendsOnly

section
variable (s : State)

theorem send_sendsOnly (o : Out) : SendsOnly s (s.send o) :=
  ⟨s.lnk.ports, s.lnk.peers, s.lnk.unacked, s.lnk.rotation, s.lnk.unreach, _, rfl⟩

theorem updPort_sendsOnly (p : Nat) (f : Port → Port) : SendsOnly s (s.updPort p f) :=
  ⟨_, s.lnk.peers, s.lnk.unacked, s.lnk.rotation, s.lnk.unreach, s.out, rfl⟩

theorem meet_sendsOnly (p d : Nat) : SendsOnly s (s.meet p d) :=
  ⟨s.lnk.ports, _, s.lnk.unacked, s.lnk.rotation, s.lnk.unreach, s.out, rfl⟩

theorem remember_sendsOnly (u : Unacked) : SendsOnly s (s.remember u) :=
  ⟨s.lnk.ports, s.lnk.peers, _, s.lnk.rotation, s.lnk.unreach, s.out, rfl⟩

theorem rotate_sendsOnly (ty d : Nat) : SendsOnly s (s.rotate ty d) := by
  unfold State.rotate
  split
  · exact .refl s
  · exact ⟨s.lnk.ports, s.lnk.peers, s.lnk.unacked, _, s.lnk.unreach, s.out, rfl⟩

theorem putOnPort_sendsOnly (p ty : Nat) (fr : Frame) : SendsOnly s (s.putOnPort p ty fr) := by
  unfold State.putOnPort
  dsimp only
  split
  · exact (updPort_sendsOnly ..).trans (send_sendsOnly ..)
  · exact ((updPort_sendsOnly ..).trans (send_sendsOnly ..)).trans (meet_sendsOnly ..)

theorem portSend_sendsOnly (p ty : Nat) (fr : Frame) : SendsOnly s (s.portSend p ty fr) := by
  unfold State.portSend
  split
  · exact putOnPort_sendsOnly ..
  · exact updPort_sendsOnly ..

theorem giveCredit_sendsOnly (p : Nat) : SendsOnly s (s.giveCredit p) := by
  unfold State.giveCredit
  dsimp only
  split
  · exact (updPort_sendsOnly ..).trans (putOnPort_sendsOnly ..)
  · exact .refl s

theorem oweCredit_sendsOnly (p ty n : Nat) : SendsOnly s (s.oweCredit p ty n) := updPort_sendsOnly ..

theorem flushPort_sendsOnly (p : Nat) : SendsOnly s (s.flushPort p) := by
  unfold State.flushPort
  refine (SendsOnly.fold (fun t w => ?_) _ s).trans (giveCredit_sendsOnly ..)
  split
  · exact .refl t
  · split
    · exact (updPort_sendsOnly ..).trans (putOnPort_sendsOnly ..)
    · exact .refl t

theorem sendFrame_sendsOnly (cmd ty : Nat) (fr : Frame) : SendsOnly s (s.sendFrame cmd ty fr) := by
  unfold State.sendFrame
  dsimp only
  split
  · exact .refl s
  · split
    · split
      · exact (send_sendsOnly ..).trans (remember_sendsOnly ..)
      · exact send_sendsOnly ..
    · split
      · exact ⟨s.lnk.ports, s.lnk.peers, _, s.lnk.rotation, _, s.out, rfl⟩
      · split
        · exact (rotate_sendsOnly ..).trans (remember_sendsOnly ..)
        · split
          · exact ((rotate_sendsOnly ..).trans (putOnPort_sendsOnly ..)).trans (remember_sendsOnly ..)
          · exact (rotate_sendsOnly ..).trans (putOnPort_sendsOnly ..)

theorem sendFrames_sendsOnly (cmd ty : Nat) (l : List Frame) : SendsOnly s (s.sendFrames cmd ty l) :=
  .fold (fun t fr => sendFrame_sendsOnly t cmd ty fr) l s

theorem announce_sendsOnly (e : BitVec 16) (fenced : Bool) : SendsOnly s (s.announce e fenced) := by
  refine SendsOnly.fold (fun t d => ?_) _ s
  split
  · split
    · exact putOnPort_sendsOnly ..
    · exact .refl t
  · exact ⟨t.lnk.ports, t.lnk.peers, t.lnk.unacked, t.lnk.rotation, _, t.out, rfl⟩

end

end Sys2Proof.Proofs
end

section
/-! SUPPORT. Leases, derating and stand-down: O23, O24 and O28 (R394 to R397, R403, R431). -/
namespace Sys2Proof.Proofs
open Sys2Proof Sys2Proof.Machine

/-- A fence comes down: the announcement, the fence's registers, and the record of it. -/
theorem enterFence_eq (s : State) (cause : Nat) : ∃ k o q,
    s.enterFence cause = { s with lnk := k, out := o, cairn := q, fence := { s.fence with cause := cause, lift := false, atWindow := true } } := by
  obtain ⟨k, o, h⟩ := (announce_sendsOnly s s.lnk.devEpoch true).linksOnly
  simp only [State.enterFence]
  rw [h]
  exact ⟨k, o, _, rfl⟩

/-- LEASE_OK follows the timers, by the fence's register and source 5. -/
theorem leaseLine_eq (s : State) : ∃ i, s.leaseLine =
    { s with fence := { s.fence with leaseOk := s.fence.portA.running || s.fence.portB.running }, irq := i } := by
  unfold State.leaseLine
  dsimp only
  split
  · next h => exact ⟨s.irq, by rw [h]⟩
  · exact ⟨_, rfl⟩

theorem verdict_live {s : State} (hready : s.bist.ready = true) (hmode : s.bist.mode = 1) : ∃ l, s.verdict 0 =
    { s with fence := { s.fence with lift := l } } ∧ (s.fence.cause ≠ 0 → l = true) := by
  have hgate : (!s.bist.ready || s.bist.mode == 3) = false := by rw [hready, hmode]; rfl
  by_cases hfence : s.fenced = true
  · exact ⟨true, by simp only [State.verdict, hgate, hfence, Bool.false_eq_true, if_false, if_true], fun _ => rfl⟩
  · have hcause : s.fence.cause = 0 := by simpa [State.fenced] using hfence
    exact ⟨s.fence.lift, by simp only [State.verdict, hgate, hfence, Bool.false_eq_true, if_false, if_true], fun h => absurd hcause h⟩

/-- A lease that is accepted on port 0: the timer and its line. -/
theorem loadLease_eq {s : State} {m : Stobin} (hport : m.port = 0) (ms : Nat) : ∃ i, ((s.stobinAccept m .none).loadLease m.port ms).leaseLine =
    { s with irq := i, fence := { s.fence with leaseOk := true, portA :=
      { s.fence.portA with heard := true, lastSeq := m.seq, running := true, leaseMs := ms } } } := by
  obtain ⟨i, h⟩ := leaseLine_eq ((s.stobinAccept m .none).loadLease m.port ms)
  refine ⟨i, h.trans ?_⟩
  simp [State.stobinAccept, State.loadLease, hport, Fence.setMgmt, Fence.mgmt]

/-- LEASE_ACK goes out on port 0 under its next number. -/
theorem leaseAck_eq {s : State} {m : Stobin} (hport : m.port = 0) : ∃ n b, s.leaseAck m =
    { s with fence := { s.fence with portA := { s.fence.portA with sendSeq := s.fence.portA.sendSeq + 1 } },
             out := s.out ++ [.stobin 0 0x11 n b], fresh := s.fresh + 1 } := by
  rw [State.leaseAck, hport]
  exact ⟨_, _, rfl⟩

/-- Settles O23: the signature, then the timer, the line and the verdict; and the fence that a lapse brings down. -/
theorem leaseLoadsAndLapses : Obligations.LeaseLoadsAndLapses := by
  unfold Obligations.LeaseLoadsAndLapses
  refine ⟨fun s m ms hpow hport htrip hhold hmode hready hphase hdev hnonce hseq hlow hhigh => ?_, fun s hrun hready hcause => ?_⟩
  · have hl : s.listens m 0x10 = true :=
      listens_inService hpow (by omega) htrip hhold (by rw [hmode]; decide) (by rw [hphase]; decide) 0x10
    have hseq' : (s.fence.mgmt m.port).lastSeq < m.seq := by rw [hport]; exact hseq
    have hok : (decide (1000 ≤ ms) && decide (ms ≤ 60000) && decide (0 ≤ 1)) = true := by simp [hlow, hhigh]
    by_cases hsig : s.signedBy m 0x10 (leBytes 4 ms ++ leBytes 1 0 ++ zeros 3) = true
    · simp only [if_pos hsig]
      have hexec : exec (.lease m ms 0) s =
          .next ((((s.stobinAccept m .none).loadLease m.port ms).leaseLine.verdict 0).leaseAck m).settle := by
        simp only [exec, execLease, hok, stobin_accepted hl (stobinFails_signed hdev hnonce hseq' hsig)]
      obtain ⟨i, hload⟩ := loadLease_eq (s := s) hport ms
      obtain ⟨l, hlive, hlift⟩ := verdict_live (s := ((s.stobinAccept m .none).loadLease m.port ms).leaseLine) (by rw [hload]; exact hready)
        (by rw [hload]; exact hmode)
      obtain ⟨n, b, hack⟩ := leaseAck_eq (s := ((s.stobinAccept m .none).loadLease m.port ms).leaseLine.verdict 0) hport
      refine ⟨_, hexec, ?_⟩
      rw [hack, hlive]
      rw [hload] at hlift ⊢
      exact ⟨rfl, rfl, rfl, rfl, rfl, rfl, hlift, ⟨n, b, List.mem_append_left _ (List.mem_append_right _ (List.mem_singleton.2 rfl))⟩, rfl, rfl, rfl, rfl⟩
    · simp only [if_neg hsig]
      obtain ⟨c, hdrop, -⟩ := stobinDrop_eq s m 0x10 4
      refine ⟨_, congrArg Host.Outcome.next (stobin_dropped hl (stobinFails_unsigned hdev hnonce hseq' (Bool.eq_false_iff.2 hsig))), ?_⟩
      rw [hdrop]
      exact ⟨rfl, rfl, rfl⟩
  · let dark : State := { s with fence := { s.fence with portA := { s.fence.portA with running := false }, portB := { s.fence.portB with running := false } } }
    obtain ⟨i, hline⟩ := leaseLine_eq dark
    obtain ⟨k, o, q, hfence⟩ := enterFence_eq dark.leaseLine 2
    have hrun' : (s.fence.portA.running || s.fence.portB.running) = true := Bool.or_eq_true_iff.2 hrun
    have hgate : (dark.leaseLine.bist.ready && (!dark.leaseLine.fenced || dark.leaseLine.fence.lift)) = true := by
      rw [hline]
      simp [dark, State.fenced, hready, hcause]
    have hexec : exec .leaseLapse s = .next (dark.leaseLine.enterFence 2).settle := by
      refine congrArg Host.Outcome.next ((if_pos hrun').trans (congrArg State.settle (if_pos hgate)))
    refine ⟨_, hexec, ?_⟩
    rw [hfence, hline]
    exact ⟨rfl, rfl, rfl, rfl, rfl, rfl, rfl, rfl, rfl, rfl⟩

/-! ### Derating (R403) -/

/-- Settles O24: the signature, then the pending table and the answer. -/
theorem derateStaged : Obligations.DerateStaged := by
  unfold Obligations.DerateStaged
  refine ⟨fun s m n d hl hdev hnonce hseq hal hpend htarget htab => ?_, fun s m n d hl hdev hnonce hseq hpend htarget => ?_⟩
  · by_cases hsig : s.signedBy m 0x20 (leBytes 1 0 ++ zeros 7 ++ leBytes 8 n ++ tableImage d) = true
    · simp only [if_pos hsig]
      have hcause : (s.stobinAccept m .none).derateCause n = 0 := by
        have hnear : ¬ n < (s.stobinAccept m .none).now + 2 := Nat.not_lt.2 htarget
        simp only [State.derateCause, if_neg hnear]
        simp [State.stobinAccept, hal, hpend]
      have hexec : exec (.derateArm m n d) s = .next (({ s.stobinAccept m .none with
          derate := { s.derate with pending := some (n, d), state := 1, port := m.port } } : State).derateAck m.port 1 0).settle := by
        simp only [exec, execDerateArm, htab, stobin_accepted hl (stobinFails_signed hdev hnonce hseq hsig), hcause]
        rfl
      refine ⟨_, hexec, rfl, rfl, rfl, rfl, rfl, _, List.mem_append_left _ (List.mem_append_right _ (List.mem_singleton.2 rfl))⟩
    · simp only [if_neg hsig]
      obtain ⟨c, hdrop, -⟩ := stobinDrop_eq s m 0x20 4
      refine ⟨_, congrArg Host.Outcome.next (stobin_dropped hl (stobinFails_unsigned hdev hnonce hseq (Bool.eq_false_iff.2 hsig))), ?_⟩
      rw [hdrop]
      exact ⟨rfl, rfl, rfl, rfl⟩
  · by_cases hsig : s.signedBy m 0x20 (leBytes 1 1 ++ zeros 799) = true
    · simp only [if_pos hsig]
      have hlate : ¬ n < (s.stobinAccept m .none).now + 2 := Nat.not_lt.2 htarget
      have hpend' : (s.stobinAccept m .none).derate.pending = some (n, d) := hpend
      have hexec : exec (.derateCancel m) s = .next (({ s.stobinAccept m .none with
          derate := { s.derate with pending := none, state := 0 } } : State).derateAck m.port 0 0).settle := by
        simp only [exec, execDerateCancel, stobin_accepted hl (stobinFails_signed hdev hnonce hseq hsig), hpend', if_neg hlate]
        rfl
      exact ⟨_, hexec, rfl, rfl, rfl, rfl, rfl⟩
    · simp only [if_neg hsig]
      obtain ⟨c, hdrop, -⟩ := stobinDrop_eq s m 0x20 4
      refine ⟨_, congrArg Host.Outcome.next (stobin_dropped hl (stobinFails_unsigned hdev hnonce hseq (Bool.eq_false_iff.2 hsig))), ?_⟩
      rw [hdrop]
      exact ⟨rfl, rfl, rfl, rfl⟩

/-! ### Stand-down (R431) -/

/-- STANDDOWN of a word of BIST_CTRL that does not abort: the word is written, then the stand-down decided. -/
theorem exec_standdown {s : State} {v : W64} (hup : s.hostUp = true) (h2 : v.getLsbD 2 = false) : exec (.standdown (.host 0 v)) s =
    .next (({ s with bist := s.bist.writeCtrl (v ||| 1) } : State).standDown false).settle := by
  refine congrArg Host.Outcome.next ((mgmtWrite_host hup ..).trans ?_)
  have hstop : (v ||| 1).getLsbD 2 = false := by rw [BitVec.getLsbD_or, h2]; rfl
  have hgo : (v ||| 1).getLsbD 0 = true := by rw [BitVec.getLsbD_or]; exact Bool.or_true _
  simp only [State.writeBistCtrl, hstop, hgo, if_true, Bool.false_eq_true, if_false]

theorem standDown_refused {s : State} {k : Nat} (hk : s.sdFails = k) (hne : k ≠ 0) (skip : Bool) :
    s.standDown skip = { s with bist := { s.bist with sdRefuse := BitVec.ofNat 2 k } } := by
  rw [State.standDown, hk]
  exact if_neg hne

theorem sdFails_notReady {s : State} (h : s.bist.ready = false ∨ s.bist.mode = 3) : s.sdFails = 3 := by
  have hgate : (!s.bist.ready || s.bist.mode == 3) = true := by
    rcases h with h | h
    · rw [h]; rfl
    · rw [h]; exact Bool.or_true _
  rw [State.sdFails, if_pos hgate]

section
variable {s : State} (hready : s.bist.ready = true) (hmode : s.bist.mode = 1)
include hready hmode

theorem sdFails_context {c : Nat × Ctx} (hc : c ∈ s.ctxs) (hstate : c.2.state ≠ 0) : s.sdFails = 1 := by
  have hgate : ¬ (!s.bist.ready || s.bist.mode == 3) = true := by rw [hready, hmode]; decide
  have hany : s.anyCtx = true := List.any_eq_true.2 ⟨c, hc, bne_iff_ne.2 hstate⟩
  rw [State.sdFails, if_neg hgate, if_pos hany]

theorem sdFails_none (hctx : ∀ c ∈ s.ctxs, c.2.state = 0) (harm : s.pt.armed = none) : s.sdFails = 0 := by
  have hgate : ¬ (!s.bist.ready || s.bist.mode == 3) = true := by rw [hready, hmode]; decide
  have hany : ¬ s.anyCtx = true := fun h => by
    obtain ⟨c, hc, hstate⟩ := List.any_eq_true.1 h
    exact bne_iff_ne.1 hstate (hctx c hc)
  rw [State.sdFails, if_neg hgate, if_neg hany, harm]
  rfl

end

/-- Settles O28: the refusals in their order, and the fence that a stand-down begins with. -/
theorem standDownBegins : Obligations.StandDownBegins := by
  unfold Obligations.StandDownBegins
  refine ⟨fun s v hup h2 h1 hready hmode hctx harm => ?_, fun s v hup h2 hno => ?_, fun s v c hup h2 hready hmode hc hstate => ?_⟩
  · have hbist : (false || (s.bist.writeCtrl (v ||| 1)).noBist) = false := by
      change (v ||| 1).getLsbD 1 = false
      rw [BitVec.getLsbD_or, h1]
      rfl
    have hnone := sdFails_none (s := { s with bist := s.bist.writeCtrl (v ||| 1) }) hready hmode hctx harm
    have hbegin : ({ s with bist := s.bist.writeCtrl (v ||| 1) } : State).standDown false =
        ({ s with bist := { s.bist.writeCtrl (v ||| 1) with sdRefuse := 0 } } : State).beginStandDown false := by
      rw [State.standDown, hnone]
      exact (if_pos rfl).trans (congrArg (State.beginStandDown _) hbist)
    obtain ⟨k, o, q, hfence⟩ := enterFence_eq ({ s with bist := { s.bist.writeCtrl (v ||| 1) with sdRefuse := 0 } } : State) 4
    refine ⟨_, exec_standdown hup h2, ?_⟩
    rw [hbegin, State.beginStandDown, hfence]
    exact ⟨rfl, rfl, rfl, rfl, rfl, rfl, rfl, rfl, rfl, rfl⟩
  · have hfails := sdFails_notReady (s := { s with bist := s.bist.writeCtrl (v ||| 1) }) hno
    exact ⟨{ s.bist.writeCtrl (v ||| 1) with sdRefuse := 3 }, (exec_standdown hup h2).trans
      (congrArg (fun t : State => Host.Outcome.next t.settle) (standDown_refused hfails (by decide) false)), rfl, rfl⟩
  · have hfails := sdFails_context (s := { s with bist := s.bist.writeCtrl (v ||| 1) }) hready hmode hc hstate
    exact ⟨{ s.bist.writeCtrl (v ||| 1) with sdRefuse := 1 }, (exec_standdown hup h2).trans
      (congrArg (fun t : State => Host.Outcome.next t.settle) (standDown_refused hfails (by decide) false)), rfl, hmode⟩

end Sys2Proof.Proofs
end

section
/-! SUPPORT. The work and the device: what becomes of commands leaves the device's own registers (10 R285 to R332, 13 R383). -/
namespace Sys2Proof.Proofs
open Sys2Proof Sys2Proof.Machine

/-! ### The device -/

/-- A state without the work in it: commands, contexts, streams, blocks, partitions, weight versions, memory, the recorder, the interrupt
bits, and what is sent and waits on the links. What two states with the same device share are the registers of the device itself. -/
def device (s : State) : State :=
  { s with out := [], fresh := 0, nextId := 0, census := [], blocks := [], parts := [], wver := [], holds := [], xtable := [], ctxs := [], strms := [],
           cmds := [], hbm := {}, permIn := [], permSeen := [], hbmOwed := [], cairn := {}, irq := {}, purges := [], passRegs := {}, spillJobs := [],
           lnk := { s.lnk with ports := [], peers := [], unacked := [], rotation := [], late := 0, epochDrop := 0, stray := 0, failover := 0, retx := 0,
                               dup := 0, unreach := 0, misroute := 0, badType := 0, up := 0 } }

section
variable {s t : State} (h : device t = device s)
include h

theorem beat_of_device : t.beat = s.beat := (congrArg State.beat h :)
theorem bist_of_device : t.bist = s.bist := (congrArg State.bist h :)
theorem fence_of_device : t.fence = s.fence := (congrArg State.fence h :)
theorem crest_of_device : t.crest = s.crest := (congrArg State.crest h :)
theorem phase_of_device : t.phase = s.phase := (congrArg State.phase h :)
theorem rlLanes_of_device : t.rlLanes = s.rlLanes := (congrArg State.rlLanes h :)
theorem dies_of_device : t.dies = s.dies := (congrArg State.dies h :)
theorem pt_of_device : t.pt = s.pt := (congrArg State.pt h :)
theorem devEpoch_of_device : t.lnk.devEpoch = s.lnk.devEpoch := (congrArg (fun s : State => s.lnk.devEpoch) h :)
theorem addr_of_device : t.lnk.addr = s.lnk.addr := (congrArg (fun s : State => s.lnk.addr) h :)

end

/-! ### Folds and branches -/

/-- A fold of steps that leave the device leaves it. -/
theorem foldl_device {α : Type} {f : State → α → State} (h : ∀ s a, device (f s a) = device s) (l : List α) (s : State) :
    device (l.foldl f s) = device s :=
  foldl_rel (r := fun s t => device t = device s) (fun _ => rfl) (fun h h' => h'.trans h) h l s

@[simp] theorem ite_device (c : Prop) [Decidable c] (s t : State) :
    device (if c then s else t) = if c then device s else device t := by
  split <;> rfl

theorem device_of_sendsOnly {s t : State} (h : SendsOnly s t) : device t = device s := by
  obtain ⟨_, _, _, _, _, _, rfl⟩ := h
  rfl

section
variable (s : State)

/-! ### The state's operations -/

@[simp] theorem device_blocks (b : Tab Block) : device { s with blocks := b } = device s := rfl
@[simp] theorem device_updCmd (id : Nat) (f : Cmd → Cmd) : device (s.updCmd id f) = device s := rfl
@[simp] theorem device_dropCmd (id : Nat) : device (s.dropCmd id) = device s := rfl
@[simp] theorem device_updCtx (c : Nat) (f : Ctx → Ctx) : device (s.updCtx c f) = device s := rfl
@[simp] theorem device_updStrm (g : Nat) (f : Strm → Strm) : device (s.updStrm g f) = device s := rfl
@[simp] theorem device_updBlock (b : Nat) (f : Block → Block) : device (s.updBlock b f) = device s := rfl
@[simp] theorem device_updPart (p : Nat) (f : Part → Part) : device (s.updPart p f) = device s := rfl
@[simp] theorem device_updWeight (w : Nat) (f : WVer → WVer) : device (s.updWeight w f) = device s := rfl
@[simp] theorem device_updPort (p : Nat) (f : Port → Port) : device (s.updPort p f) = device s := rfl
@[simp] theorem device_updCq (c q : Nat) (f : Cq → Cq) : device (s.updCq c q f) = device s := rfl
@[simp] theorem device_send (o : Out) : device (s.send o) = device s := rfl
@[simp] theorem device_burn : device s.burn = device s := rfl
@[simp] theorem device_note (e : Event) : device (s.note e) = device s := rfl
@[simp] theorem device_noteDev (code : Nat) (l : List Byte) : device (s.noteDev code l) = device s := rfl
@[simp] theorem device_raise (n : Nat) : device (s.raise n) = device s := rfl
@[simp] theorem device_settle : device s.settle = device s := rfl
@[simp] theorem device_regWrite (e : RegEntry) (b o : Nat) (l : List Byte) : device (s.regWrite e b o l) = device s := rfl
@[simp] theorem device_regUndef (e : RegEntry) (b o n : Nat) : device (s.regUndef e b o n) = device s := rfl
@[simp] theorem device_regZero (e : RegEntry) (b o n : Nat) : device (s.regZero e b o n) = device s := rfl
@[simp] theorem device_sendFrame (cmd ty : Nat) (fr : Frame) : device (s.sendFrame cmd ty fr) = device s :=
  device_of_sendsOnly (sendFrame_sendsOnly ..)
@[simp] theorem device_sendFrames (cmd ty : Nat) (l : List Frame) : device (s.sendFrames cmd ty l) = device s :=
  device_of_sendsOnly (sendFrames_sendsOnly ..)
@[simp] theorem device_announce (e : BitVec 16) (b : Bool) : device (s.announce e b) = device s := device_of_sendsOnly (announce_sendsOnly ..)
@[simp] theorem device_purge (c i : Option Nat) (n : Nat) (l : List Nat) : device (s.purge c i n l).1 = device s := rfl

/-! ### The end of a command (10, 11) -/

@[simp] theorem device_freeBlocks (x : Cmd) : device (s.freeBlocks x) = device s := by
  obtain ⟨_, _, h⟩ := freeBlocks_blocksOnly s x
  rw [h]
  rfl

@[simp] theorem device_unbind (x : Cmd) : device (s.unbind x) = device s := by
  refine foldl_device (fun t b => ?_) _ _
  rfl

@[simp] theorem device_forgetFrames (cmd : Nat) : device (s.forgetFrames cmd) = device s := rfl
@[simp] theorem device_restartSeq (c g : Nat) : device (s.restartSeq c g) = device s := rfl
@[simp] theorem device_unplace (c : Nat) : device (s.unplace c) = device s := by
  unfold State.unplace
  dsimp only
  split <;> split <;> rfl

@[simp] theorem device_endOptstep (x : Cmd) (p : OptP) : device (s.endOptstep x p) = device s := by simp [State.endOptstep]
@[simp] theorem device_collUndef (x : Cmd) : device (s.collUndef x) = device s := by
  refine foldl_device (fun t q => ?_) _ _
  rfl

@[simp] theorem device_undo (x : Cmd) : device (s.undo x) = device s := by
  unfold State.undo
  split
  · split
    · rfl
    · rfl
  · exact device_unplace ..
  · exact device_endOptstep ..
  · simp
  · simp
  · simp
  · simp
  · simp
  · rfl
  · rfl
  · rfl

@[simp] theorem device_cutLoad (x : Cmd) (st : Nat) : device (s.cutLoad x st) = device s := by simp [State.cutLoad]

@[simp] theorem device_dropHeld (g : Nat) : device (s.dropHeld g) = device s := by
  simp only [State.dropHeld]
  split <;> rfl

@[simp] theorem device_halt (g st : Nat) : device (s.halt g st) = device s := by simp [State.halt]

@[simp] theorem device_endWith (id st kind ix : Nat) : device (s.endWith id st kind ix) = device s := by
  unfold State.endWith
  split <;> simp

@[simp] theorem device_endAll (ids : List Nat) (st kind ix : Nat) : device (s.endAll ids st kind ix) = device s :=
  foldl_device (fun t i => device_endWith t i st kind ix) ids s

/-! ### Resets of contexts (R383) -/

@[simp] theorem device_sendPass (cmd ty : Nat) (fr : Frame) (a : PassArgs) (l : List Nat) : device (s.sendPass cmd ty fr a l) = device s := by
  simp [State.sendPass]

@[simp] theorem device_sendMark (dev dstCtx srcCtx : Nat) (a : PassArgs) (kind count : Nat) :
    device (s.sendMark dev dstCtx srcCtx a kind count) = device s := device_sendPass ..

@[simp] theorem device_tellSources (pt slot ph kind c : Nat) (b : BitVec 16) (who : List (Nat × Nat × Nat)) :
    device (s.tellSources pt slot ph kind c b who) = device s :=
  foldl_device (fun t _ => device_sendMark t ..) who s

@[simp] theorem device_releaseSlots (hit : Nat → SlotSt → Bool) : device (s.releaseSlots hit) = device s :=
  foldl_device (fun t _ => device_tellSources t ..) _ s

@[simp] theorem device_dropHolds (c : Nat) : device (s.dropHolds c) = device s := by
  have hfold (l : List Hold) (t : State) : device (l.foldl (fun (t : State) h => t.updWeight h.wreg (fun w =>
      if w.v = h.version then { w with countCur := w.countCur - h.n } else { w with countStash := w.countStash - h.n })) t) = device t := by
    refine foldl_device (fun t h => ?_) l t
    rfl
  exact hfold _ s

@[simp] theorem device_haltCtx (c st : Nat) : device (s.haltCtx c st) = device s := by
  refine foldl_device (fun t g => ?_) _ _
  exact device_halt t g.1 st

@[simp] theorem device_takeReset (c : Nat) (r : ResetSt) : device (s.takeReset c r) = device s := by
  simp only [State.takeReset, device_haltCtx, device_updCtx, device_dropHolds, device_blocks, device_releaseSlots, device_endAll]

@[simp] theorem device_absorb (x : Cmd) : device (s.absorb x) = device s := rfl

@[simp] theorem device_resetCtxs : device s.resetCtxs = device s := by
  refine (foldl_device (fun t c => ?_) _ _).trans (foldl_device (fun t x => device_absorb t x) _ s)
  simp

end

end Sys2Proof.Proofs
end

section
/-! SUPPORT. Resets of the device, power and temperature: O25, O29, O33 and O34 (R389, R390, R431, R432, R466, R475, R476). -/
namespace Sys2Proof.Proofs
open Sys2Proof Sys2Proof.Machine

/-! ### The masks stand when the lines settle -/

theorem setPending_mask (q : Irq) (n : Nat) (v : Bool) : (q.setPending n v).mask = q.mask := by
  unfold Irq.setPending
  split
  · split <;> rfl
  · rfl

theorem latch_mask (q : Irq) (lv : Nat → Bool) : (q.latch lv).mask = q.mask := by
  refine foldl_rel (r := fun a b : Irq => b.mask = a.mask) (fun _ => rfl) (fun {a b c} h h' => h'.trans h) (fun q n => ?_) levelSources q
  split
  · exact setPending_mask ..
  · rfl

@[simp] theorem settle_mask (s : State) : s.settle.irq.mask = s.irq.mask := by
  rw [settle_irq, ← latch_mask s.irq s.level]
  refine foldl_rel (r := fun a b : Irq => b.mask = a.mask) (fun _ => rfl) (fun {a b c} h h' => h'.trans h) (fun q n => ?_) _ _
  obtain ⟨-, hmask, -⟩ := Irq.follow_rest q n
  exact hmask

/-! ### Warm resets (R389) -/

theorem cutRecord_eq (s : State) : ∃ q f, s.cutRecord = { s with cairn := q, fresh := f } := by
  unfold State.cutRecord
  split
  · exact ⟨_, _, rfl⟩
  · split <;> exact ⟨_, _, rfl⟩

/-- Self-test that is stopped shows in STATE and the abort code. -/
theorem stopBist_eq (s : State) (code : Nat) : ∃ st k, s.stopBist code = { s with bist := { s.bist with state := st, abortCode := k } } := by
  unfold State.stopBist
  split <;> exact ⟨_, _, rfl⟩

/-- What a warm reset makes of the device: the contexts' resets, the stop of all work, and the start that it orders. -/
theorem warmReset_eq {s : State} (htrip : s.tripHold = false) (hpow : s.crest.powered = true) (cause : Nat) : ∃ r : State,
    s.warmReset cause = r.stopWork.cutRecord.toStart true ∧ r.beat = s.beat ∧ r.lnk.devEpoch = s.lnk.devEpoch + 1 ∧ r.crest = s.crest ∧
      ∃ st k, r.bist = { s.bist with state := st, abortCode := k } := by
  have hgate : ¬ (s.tripHold || !s.crest.powered) = true := by rw [htrip, hpow]; decide
  have hann := device_announce (s.noteDev 0x702 (leBytes 1 cause ++ zeros 7)) ((s.noteDev 0x702 (leBytes 1 cause ++ zeros 7)).lnk.devEpoch + 1)
    (s.noteDev 0x702 (leBytes 1 cause ++ zeros 7)).fenced
  simp only [State.warmReset, if_neg hgate]
  generalize (s.noteDev 0x702 (leBytes 1 cause ++ zeros 7)).announce ((s.noteDev 0x702 (leBytes 1 cause ++ zeros 7)).lnk.devEpoch + 1)
    (s.noteDev 0x702 (leBytes 1 cause ++ zeros 7)).fenced = u at hann ⊢
  obtain ⟨st, k, hstop⟩ := stopBist_eq { u with lnk := { u.lnk with devEpoch := u.lnk.devEpoch + 1 }, fence := { u.fence with cause := 1 } } 5
  have hctxs := device_resetCtxs (({ u with lnk := { u.lnk with devEpoch := u.lnk.devEpoch + 1 }, fence := { u.fence with cause := 1 } } : State).stopBist 5)
  refine ⟨_, rfl, ?_, ?_, ?_, st, k, ?_⟩
  · rw [beat_of_device hctxs, hstop]
    exact (beat_of_device hann :)
  · rw [devEpoch_of_device hctxs, hstop]
    exact (congrArg (· + 1) (devEpoch_of_device hann) :)
  · rw [crest_of_device hctxs, hstop]
    exact (crest_of_device hann :)
  · rw [bist_of_device hctxs, hstop]
    exact (congrArg (fun b : Bist => { b with state := st, abortCode := k }) (bist_of_device hann) :)

/-- What stands and what is cleared after a warm reset. -/
structure WarmStart (s t : State) : Prop where
  lanes : t.rlLanes = 0
  phase : t.phase = .boot
  cause : t.fence.cause = 1
  beat : t.beat = s.beat
  epoch : t.lnk.devEpoch = s.lnk.devEpoch + 1
  purges : t.purges = []
  crest : t.crest.powered = s.crest.powered
  tripped : t.crest.tripped = s.crest.tripped
  ready : t.bist.ready = false
  started : t.bist.started = false
  mode : t.bist.mode = 0
  kind : t.bist.kind = true
  hold : t.bist.inHold = false
  attempts : t.bist.attempts = s.bist.attempts
  failure : t.bist.cause = s.bist.cause
  step : t.bist.step = s.bist.step

theorem warmReset_start {s : State} (htrip : s.tripHold = false) (hpow : s.crest.powered = true) (cause : Nat) :
    WarmStart s (s.warmReset cause) := by
  obtain ⟨r, heq, hbeat, hepoch, hcrest, st, k, hbist⟩ := warmReset_eq htrip hpow cause
  obtain ⟨q, f, hcut⟩ := cutRecord_eq r.stopWork
  rw [heq, hcut]
  exact ⟨rfl, rfl, rfl, hbeat, hepoch, rfl, (congrArg Crest.powered hcrest :), (congrArg Crest.tripped hcrest :), rfl, rfl, rfl, rfl, rfl,
    (congrArg Bist.attempts hbist :), (congrArg Bist.cause hbist :), (congrArg Bist.step hbist :)⟩

/-! ### Cold resets (R390) -/

/-- What stands and what is lost after a cold reset. -/
structure ColdStart (s t : State) : Prop where
  lanes : t.rlLanes = 0
  cause : t.fence.cause = 1
  count : t.beat.count = s.beat.count
  epoch : t.lnk.devEpoch = s.lnk.devEpoch + 1
  purges : t.purges = []
  ctxs : t.ctxs = []
  parts : t.parts = []
  blocks : t.blocks = []
  strms : t.strms = []
  cmds : t.cmds = []
  census : t.census = []
  mask : t.irq.mask = []
  ready : t.bist.ready = false
  started : t.bist.started = false
  kind : t.bist.kind = false
  attempts : t.bist.attempts = s.bist.attempts
  failure : t.bist.cause = s.bist.cause

theorem coldReset_start {s : State} (htrip : s.tripHold = false) (hpow : s.crest.powered = true) (ph : PinPhase) :
    ColdStart s (s.coldReset ph) ∧ (s.coldReset ph).phase = ph := by
  have hgate : ¬ (!s.crest.powered || (s.tripHold && s.crest.temps.any (fun t => decide (720 ≤ t)))) = true := by simp [htrip, hpow]
  have hann := device_announce s (s.lnk.devEpoch + 1) s.fenced
  simp only [State.coldReset, if_neg hgate]
  generalize s.announce (s.lnk.devEpoch + 1) s.fenced = u at hann ⊢
  obtain ⟨st, k, hstop⟩ := stopBist_eq u 5
  obtain ⟨q, f, hcut⟩ := cutRecord_eq (u.stopBist 5)
  rw [hcut, hstop]
  have hbeat := beat_of_device hann
  have hbist := bist_of_device hann
  exact ⟨⟨rfl, rfl, (congrArg Beat.count hbeat :), (congrArg (· + 1) (devEpoch_of_device hann) :), rfl, rfl, rfl, rfl, rfl, rfl, rfl, rfl, rfl, rfl, rfl,
    (congrArg Bist.attempts hbist :), (congrArg Bist.cause hbist :)⟩, trivial⟩

/-- Settles O25: by the signature, and then by the reset's kind. -/
theorem resetOrdersStart : Obligations.ResetOrdersStart := by
  unfold Obligations.ResetOrdersStart
  intro s m kind hkind hl hdev hnonce hseq
  obtain ⟨hpow, hport, htrip⟩ := listens_powered hl
  have hbody : decide (kind ≤ 1) = true := decide_eq_true hkind
  have hgate : ¬ (s.tripHold && kind == 1 && s.crest.powered && decide (m.port < 2)) = true := by simp [htrip]
  by_cases hsig : s.signedBy m 0x30 (leBytes 1 kind ++ zeros 7) = true
  · simp only [if_pos hsig]
    have hexec : exec (.reset m kind) s =
        .next (if kind = 0 then (s.stobinAccept m .none).warmReset 1 else (s.stobinAccept m .none).coldReset .boot).settle := by
      simp only [exec, execReset, if_neg hgate, hbody, stobin_accepted hl (stobinFails_signed hdev hnonce hseq hsig)]
    refine ⟨_, hexec, ?_⟩
    rcases Nat.le_one_iff_eq_zero_or_eq_one.1 hkind with rfl | rfl
    · have h := warmReset_start (s := s.stobinAccept m .none) htrip hpow 1
      exact ⟨h.lanes, h.ready, h.started, h.cause, h.epoch, congrArg Beat.count h.beat, h.purges, h.kind, fun h => absurd h (by decide)⟩
    · obtain ⟨h, -⟩ := coldReset_start (s := s.stobinAccept m .none) htrip hpow .boot
      exact ⟨h.lanes, h.ready, h.started, h.cause, h.epoch, h.count, h.purges, h.kind,
        fun _ => ⟨h.ctxs, h.parts, h.blocks, h.cmds, (settle_mask _).trans h.mask⟩⟩
  · simp only [if_neg hsig]
    obtain ⟨c, hdrop, -⟩ := stobinDrop_eq s m 0x30 4
    have hexec : exec (.reset m kind) s = .next (s.stobinDrop m 0x30 4).settle := by
      simp only [exec, execReset, if_neg hgate,
        stobin_dropped hl (stobinFails_unsigned hdev hnonce hseq (Bool.eq_false_iff.2 hsig))]
    refine ⟨_, hexec, ?_⟩
    rw [hdrop]
    exact ⟨rfl, rfl, rfl, rfl⟩

/-! ### Hold and wake (R431, R432) -/

/-- Settles O29: the end of self-test enters hold, and WAKE leaves it by a start. -/
theorem holdAndWake : Obligations.HoldAndWake := by
  unfold Obligations.HoldAndWake
  refine ⟨fun s hactive hphase hwake => ?_, fun s m hpow htrip hport hhold hdev hseq => ?_⟩
  · have hgate : (s.bist.sdActive && s.bist.sdPhase == 6) = true := by rw [hactive, hphase]; rfl
    have hexec : exec .bistEnd s = .next s.bistOver.settle := congrArg Host.Outcome.next (if_pos hgate)
    have hover : s.bistOver = ((({ s with bist := { s.bist with state := if s.bist.abortCode = 0 then 3 else 4 } } : State).noteDev 0x802
        (leBytes 8 ({ s.bist with state := if s.bist.abortCode = 0 then 3 else 4 } : Bist).statWord.toNat)).raise 7).enterHold := by
      simp only [State.bistOver]
      exact if_neg (Bool.eq_false_iff.1 hwake)
    refine ⟨_, hexec, ?_⟩
    rw [hover]
    exact ⟨rfl, rfl, rfl, rfl, rfl, rfl, rfl, rfl, rfl, rfl, rfl⟩
  · have hl : s.listens m 0x63 = true := by simp [State.listens, State.tripHold, hpow, hport, htrip, hhold]
    have hwake : (s.stobinAccept m .wake).wake = (s.stobinAccept m .wake).wakeUp := if_pos hhold
    have hexec : exec (.wake m) s = .next (s.stobinAccept m .wake).wakeUp.settle := by
      simp only [exec, execWake, stobin_accepted hl (stobinFails_wake hdev hseq), hwake]
    refine ⟨_, hexec, rfl, rfl, rfl, rfl, rfl, rfl, fun q hq => ?_, rfl⟩
    obtain ⟨p, -, rfl⟩ := List.mem_map.1 hq
    exact ⟨rfl, rfl⟩

/-! ### The bus (R466, R467) -/

theorem vinKind_low {mv : Nat} (h : 36000 ≤ mv) (h' : mv < 38000) : vinKind mv = some 0 := if_pos ⟨h, h'⟩

theorem vinKind_high {mv : Nat} (h : 48000 < mv) (h' : mv ≤ 52000) : vinKind mv = some 1 := by
  rw [vinKind, if_neg (by omega), if_pos ⟨h, h'⟩]

/-- An excursion that begins is counted and recorded. -/
theorem exec_inputExcursion {s : State} {mv k : Nat} (hk : vinKind mv = some k) (hpow : s.crest.powered = true)
    (hnew : (if k = 0 then s.crest.vinLow else s.crest.vinHigh) = false) {lo hi : Bool} (hlo : (k == 0) = lo) (hhi : (k == 1) = hi) :
    ∃ c : Cairn, exec (.inputExcursion mv) s =
      .next ({ s with cairn := c, crest := { s.crest with vinLow := lo, vinHigh := hi, vinExc := sat32 s.crest.vinExc 1 } } : State).settle ∧
        c.ring = s.cairn.ring := by
  have hgate : ¬ (!s.crest.powered || (if k = 0 then s.crest.vinLow else s.crest.vinHigh)) = true := by rw [hpow, hnew]; decide
  refine ⟨s.cairn.push { code := 0x901, payload := leBytes 4 mv ++ leBytes 1 k ++ zeros 3, beat := s.beat.count }, ?_, push_ring ..⟩
  subst hlo hhi
  simp only [exec, execInputExcursion, hk]
  exact congrArg Host.Outcome.next (if_neg hgate)

/-- Settles O33: power, and the two kinds of excursion. -/
theorem busPowerAndExcursions : Obligations.BusPowerAndExcursions := by
  unfold Obligations.BusPowerAndExcursions
  refine ⟨fun s hpow => ?_, fun s hpow => ?_, fun s mv hpow hlow hhigh hvin => ?_, fun s mv hpow hlow hhigh hvin => ?_, fun s mv hpow hlow hhigh => ?_⟩
  · exact ⟨s.unpower, congrArg Host.Outcome.next (if_pos hpow), rfl, rfl, rfl, rfl, rfl, rfl, rfl, rfl, rfl, rfl, rfl, rfl⟩
  · exact congrArg Host.Outcome.next (if_neg (Bool.eq_false_iff.1 hpow))
  · exact exec_inputExcursion (vinKind_low hlow hhigh) hpow hvin rfl rfl
  · exact exec_inputExcursion (vinKind_high hlow hhigh) hpow hvin rfl rfl
  · have hgate : (s.crest.powered && decide (38000 ≤ mv) && decide (mv ≤ 48000)) = true := by simp [hpow, hlow, hhigh]
    exact congrArg Host.Outcome.next (if_pos hgate)

/-! ### Temperatures and coolant (R475, R476) -/

theorem setTemp_get (l : List Int) {i : Nat} (hi : i < 512) (v : Int) : (setTemp l i v)[i]? = some v := by
  simp [setTemp, sensors, hi]

/-- A die is told that it is hot: the reading, the die, and the recorder when it was not. -/
theorem exec_thermalThrottle {s : State} {d k : Nat} {x : Int} (hpow : s.crest.powered = true) (hd : d < 8) (hk : k / 60 = d) (hx : 840 ≤ x) :
    ∃ q : Cairn, exec (.thermalThrottle d k x) s = .next ({ s with
      crest := { s.crest with temps := setTemp s.crest.temps k x }, cairn := q,
      dies := Tab.set s.dies d { s.die d with hot := true, hotInBeat := true } } : State).settle ∧ ((s.die d).hot = true → q = s.cairn) := by
  have hgate : (s.crest.powered && decide (d < 8) && k / 60 == d && decide (hot105 ≤ x)) = true := by
    simp [hpow, hd, hk, hot105, hx]
  by_cases hwas : (s.die d).hot = true
  · refine ⟨s.cairn, ?_, fun _ => rfl⟩
    simp only [exec, execThermalThrottle]
    rw [if_pos hgate, if_pos hwas]
    generalize setTemp s.crest.temps k x = ts
    rfl
  · refine ⟨s.cairn.push { code := 0x902, payload := leBytes 1 d ++ leBytes 2 k ++ tempBytes x ++ zeros 3, beat := s.beat.count }, ?_,
      fun h => absurd h hwas⟩
    simp only [exec, execThermalThrottle]
    rw [if_pos hgate, if_neg hwas]
    generalize setTemp s.crest.temps k x = ts
    rfl

/-- The readings of a die's sensors once they have come down: those at 100 °C or more take the reading given (R476). -/
def cooledTemps (l : List Int) (d : Nat) (x : Int) : List Int :=
  (List.range sensors).map (fun k => let v := (l[k]?).getD 0; if k / 60 = d ∧ hot100 ≤ v then x else v)

theorem cooledTemps_lt {l : List Int} {d : Nat} {x : Int} (hd : d < 8) (hx : x < 800) {k : Nat} (hk : k < 60) :
    ((cooledTemps l d x)[60 * d + k]?).getD 0 < 800 := by
  have hin : 60 * d + k < sensors := by rw [sensors]; omega
  have hdie : (60 * d + k) / 60 = d := by omega
  simp only [cooledTemps, List.getElem?_map, List.getElem?_range hin, Option.map_some, Option.getD_some, hdie, true_and]
  split
  · exact hx
  · next h => exact Int.not_le.1 h

/-- Settles O34: the sensors' readings, and what each crossing sets. -/
theorem thermalAndCoolantEvents : Obligations.ThermalAndCoolantEvents := by
  unfold Obligations.ThermalAndCoolantEvents
  refine ⟨fun s d k x hpow hd hk hx => ?_, fun s d x hpow hd hhot hx => ?_, fun s k x hpow htrip hk hx => ?_, fun s inlet flow hpow hcap hin => ?_,
    fun s inlet flow hpow hcap hflow => ?_, fun s => rfl, fun s a hpow => congrArg Host.Outcome.next (if_pos hpow)⟩
  · have hk' : k < 512 := by omega
    obtain ⟨q, hexec, hq⟩ := exec_thermalThrottle hpow hd hk hx
    have hdie : (Tab.get {} (Tab.set s.dies d { s.die d with hot := true, hotInBeat := true }) d) = { s.die d with hot := true, hotInBeat := true } :=
      Tab.get_set_same ..
    have htemp := setTemp_get s.crest.temps hk' x
    generalize setTemp s.crest.temps k x = ts at hexec htemp
    refine ⟨_, hexec, ?_, ?_, ?_, htemp, fun e he => Tab.get_set_ne _ _ _ he, hq, rfl, rfl, rfl⟩
    · exact (congrArg Die.hot hdie :)
    · exact (congrArg Die.hotInBeat hdie :)
    · exact (congrArg Die.step hdie :)
  · have hgate : (s.crest.powered && decide (d < 8) && (s.die d).hot && decide (x < hot100)) = true := by
      simp [hpow, hd, hhot, hot100, hx]
    have hexec : exec (.thermalThrottleEnd d x) s = .next (({ s with crest := { s.crest with temps := cooledTemps s.crest.temps d x } } : State).updDie d
        (fun k => { k with hot := false })).settle := by
      simp only [exec, execThermalThrottleEnd]
      rw [if_pos hgate]
      rfl
    have hcool := fun k hk => cooledTemps_lt (l := s.crest.temps) hd hx (k := k) hk
    generalize cooledTemps s.crest.temps d x = ts at hexec hcool
    refine ⟨_, hexec, ?_, ?_, hcool, rfl, rfl⟩
    · rw [State.die_settle, State.die_updDie_same]
    · rw [State.die_settle, State.die_updDie_same]
      rfl
  · have hgate : (s.crest.powered && !s.crest.tripped && decide (k < sensors) && decide (hot120 ≤ x)) = true := by
      simp [hpow, htrip, sensors, hk, hot120, hx]
    exact ⟨_, congrArg Host.Outcome.next (if_pos hgate), rfl, rfl, rfl, rfl, rfl, rfl, rfl, rfl, rfl⟩
  · have hgate : (s.crest.powered && decide (0 ≤ 1) && coolantBad 0 inlet flow && !s.crest.coolCap) = true := by
      simp [hpow, hcap, coolantBad, hin]
    exact ⟨s.cairn.push { code := 0x904, payload := tempBytes inlet ++ leBytes 2 flow ++ leBytes 1 0 ++ zeros 3, beat := s.beat.count },
      congrArg Host.Outcome.next (if_pos hgate)⟩
  · have hgate : (s.crest.powered && decide (1 ≤ 1) && coolantBad 1 inlet flow && !s.crest.coolCap) = true := by
      simp [hpow, hcap, coolantBad, minFlow, hflow]
    exact ⟨_, congrArg Host.Outcome.next (if_pos hgate), Nat.min_le_right .., rfl, rfl⟩

end Sys2Proof.Proofs
end

section
/-! SUPPORT. Starts: O15, O31 and O32 (R407, R409, R413, R417, R420, R479). -/
namespace Sys2Proof.Proofs
open Sys2Proof Sys2Proof.Machine

/-! ### Failed starts (R417) -/

/-- The report of a failure touches the report alone. -/
theorem report_eq (b : Bist) (o : Nat) (v : List Byte) : b.report o v = { b with rpt := patch b.rpt o v } := rfl

/-- The registers of a start that has failed at a step with a cause. -/
def failedBist (s : State) (step cause detail : Nat) : Bist :=
  { s.bist with
    cause := BitVec.ofNat 8 cause, step := BitVec.ofNat 8 step,
    rpt := patch (patch (patch s.bist.rpt 2 (leBytes 1 cause ++ leBytes 1 step)) 6 (leBytes 2 detail)) 16 (leBytes 8 s.now) }

theorem failStart_retries {s : State} (h : s.bist.attempts.toNat < 3) (step cause detail : Nat) :
    s.failStart step cause detail = ({ s with bist := failedBist s step cause detail } : State).warmReset 2 := if_pos h

theorem failStart_camps {s : State} (h : 3 ≤ s.bist.attempts.toNat) (step cause detail : Nat) :
    s.failStart step cause detail = ({ s with bist := failedBist s step cause detail } : State).enterCamp := if_neg (Nat.not_lt.2 h)

/-- A start that fails below three attempts: the registers of the failure, and the warm reset that is ordered. -/
structure RetryOrdered (s t : State) (step cause : Nat) : Prop where
  attempts : t.bist.attempts = s.bist.attempts
  ready : t.bist.ready = false
  started : t.bist.started = false
  beat : t.beat = s.beat
  failure : t.bist.cause = BitVec.ofNat 8 cause
  step : t.bist.step = BitVec.ofNat 8 step
  kind : t.bist.kind = true
  lanes : t.rlLanes = 0

theorem failStart_retry {s : State} (htrip : s.tripHold = false) (hpow : s.crest.powered = true) (hatt : s.bist.attempts.toNat < 3)
    (step cause detail : Nat) : RetryOrdered s (s.failStart step cause detail) step cause := by
  have h := warmReset_start (s := { s with bist := failedBist s step cause detail }) htrip hpow 2
  rw [failStart_retries hatt]
  exact ⟨h.attempts, h.ready, h.started, h.beat, h.failure, h.step, h.kind, h.lanes⟩

/-! ### Steps 1 and 2 (R407, R417, R479) -/

/-- Step 1 begins: the attempt, the registers of the start, and the records of it. -/
theorem beginStart_eq (s : State) : ∃ q f i o nonce rpt, s.beginStart =
    { s with phase := .boot, cairn := q, fence := f, irq := i, out := o, fresh := s.fresh + 1,
             bist := { s.bist with attempts := BitVec.ofNat 8 (Nat.min 255 (s.bist.attempts.toNat + 1)), step := 1, cause := 0, imgState := 0,
                                   img := [], started := true, mode := 0, nonce := nonce, rpt := rpt } } := by
  have hself (t : State) (e : Event) : ∃ q f i o, (t.recordSelf e).findTorn = { t with cairn := q, fence := f, irq := i, out := o } := by
    obtain ⟨f, i, o, h⟩ := recordSelf_eq t e
    rw [h, State.findTorn]
    split
    · exact ⟨_, f, i, o, rfl⟩
    · next n hcut =>
      obtain ⟨f', i', o', h'⟩ := recordSelf_eq
        { t with cairn := { (t.cairn.writeRec { e with beat := t.beat.count }).1 with
            cutOff := none, torn := (t.cairn.writeRec { e with beat := t.beat.count }).1.torn ++ [n], tornBit := true }, fence := f, irq := i, out := o }
        { code := 0x003, payload := leBytes 8 n }
      exact ⟨_, f', i', o', h'⟩
  obtain ⟨q, f, i, o, h⟩ := hself _ _
  simp only [State.beginStart]
  rw [h]
  exact ⟨q, f, i, o, _, _, rfl⟩

/-- The states that steps 1 and 2 go through hold the attempt, the kind and the empty delivery of the start. -/
structure Early (s t : State) : Prop where
  attempts : t.bist.attempts.toNat = s.bist.attempts.toNat + 1
  kind : t.bist.kind = s.bist.kind
  ready : t.bist.ready = s.bist.ready
  img : t.bist.img = []
  imgState : t.bist.imgState = 0
  count : t.beat.count = s.beat.count
  crest : t.crest = s.crest

theorem beginStart_early {s : State} (h : s.bist.attempts.toNat < 2) : Early s s.beginStart := by
  obtain ⟨q, f, i, o, nonce, rpt, heq⟩ := beginStart_eq s
  have hatt : (BitVec.ofNat 8 (Nat.min 255 (s.bist.attempts.toNat + 1))).toNat = s.bist.attempts.toNat + 1 := by
    have hmin : Nat.min 255 (s.bist.attempts.toNat + 1) = s.bist.attempts.toNat + 1 := Nat.min_eq_right (by omega)
    rw [hmin, BitVec.toNat_ofNat]
    omega
  rw [heq]
  exact ⟨hatt, rfl, rfl, rfl, rfl, rfl, rfl⟩

theorem Early.atStep {s t : State} (h : Early s t) (k : Nat) : Early s (t.atStep k) :=
  ⟨h.attempts, h.kind, h.ready, h.img, h.imgState, h.count, h.crest⟩

theorem Early.loadStraps {s t : State} (h : Early s t) (v : Nat) : Early s (t.loadStraps v) :=
  ⟨h.attempts, h.kind, h.ready, h.img, h.imgState, h.count, h.crest⟩

theorem Early.trained {s t : State} (h : Early s t) (n : Nat) : Early s (t.trained n) := by
  unfold State.trained
  dsimp only
  split
  · exact ⟨h.attempts, h.kind, h.ready, h.img, h.imgState, h.count, h.crest⟩
  · exact ⟨h.attempts, h.kind, h.ready, h.img, h.imgState, h.count, h.crest⟩

theorem trained_lanes (s : State) (n : Nat) : (s.trained n).rlLanes = n := by
  unfold State.trained
  dsimp only
  split <;> rfl

/-- What START promises of the state after it. -/
structure StartEnds (s t : State) (straps : Nat) (o : StartObs) : Prop where
  attempts : t.bist.attempts.toNat = s.bist.attempts.toNat + 1
  ready : t.bist.ready = false
  count : t.beat.count = s.beat.count
  strap : (s.bist.kind = false ∧ strapsBad straps = true) → t.bist.cause = 1 ∧ t.bist.step = 1 ∧ t.bist.kind = true ∧ t.rlLanes = 0
  waits : t.bist.step = 3 → t.rlLanes = o.lanes ∧ 4 ≤ o.lanes ∧ t.bist.img = [] ∧ t.bist.imgState = 0
  step : t.bist.step = 1 ∨ t.bist.step = 2 ∨ t.bist.step = 3

section
variable {s t : State} {straps : Nat} {o : StartObs} (h : Early s t) (hatt : s.bist.attempts.toNat < 2) (hpow : s.crest.powered = true)
  (htrip : s.crest.tripped = false)
include h hatt hpow htrip

theorem Early.fails (step cause detail : Nat) : RetryOrdered t (t.failStart step cause detail) step cause := by
  refine failStart_retry ?_ ?_ ?_ step cause detail
  · rw [State.tripHold, h.crest, htrip]
  · rw [h.crest, hpow]
  · rw [h.attempts]
    omega

/-- A start that fails at step 2 with allowed straps. -/
theorem Early.fails_two (hstrap : ¬ (s.bist.kind = false ∧ strapsBad straps = true)) (cause detail : Nat) :
    StartEnds s (t.failStart 2 cause detail) straps o := by
  have hf := h.fails hatt hpow htrip 2 cause detail
  have hstep : (t.failStart 2 cause detail).bist.step = 2 := hf.step
  exact ⟨(congrArg BitVec.toNat hf.attempts).trans h.attempts, hf.ready, (congrArg Beat.count hf.beat).trans h.count, fun hs => absurd hs hstrap,
    fun h3 => absurd (hstep.symm.trans h3) (by decide), .inr (.inl hstep)⟩

end

theorem firstSteps_ends {s : State} (straps : Nat) (o : StartObs) (hpow : s.crest.powered = true) (htrip : s.crest.tripped = false)
    (hatt : s.bist.attempts.toNat < 2) (hready : s.bist.ready = false) : StartEnds s (s.firstSteps straps o) straps o := by
  have h := beginStart_early hatt
  unfold State.firstSteps
  dsimp only
  split
  · have hf := h.fails hatt hpow htrip 1 0x01 straps
    have hstep : (s.beginStart.failStart 1 0x01 straps).bist.step = 1 := hf.step
    exact ⟨(congrArg BitVec.toNat hf.attempts).trans h.attempts, hf.ready, (congrArg Beat.count hf.beat).trans h.count,
      fun _ => ⟨hf.failure, hstep, hf.kind, hf.lanes⟩, fun h3 => absurd (hstep.symm.trans h3) (by decide), .inl hstep⟩
  · next hok =>
    have hstrap : ¬ (s.bist.kind = false ∧ strapsBad straps = true) := fun ⟨hkind, hbad⟩ => hok (by rw [h.kind, hkind, hbad]; rfl)
    have h2 : Early s ((if s.beginStart.bist.kind then s.beginStart else s.beginStart.loadStraps straps).atStep 2) := by
      split
      · exact h.atStep 2
      · exact (h.loadStraps straps).atStep 2
    split
    · exact h2.fails_two hatt hpow htrip hstrap _ _
    · next hlanes =>
      split
      · exact h2.fails_two hatt hpow htrip hstrap _ _
      · split
        · exact h2.fails_two hatt hpow htrip hstrap _ _
        · have h3 := (h2.trained o.lanes).atStep 3
          exact ⟨h3.attempts, h3.ready.trans hready, h3.count, fun hs => absurd hs hstrap,
            fun _ => ⟨trained_lanes .., Nat.not_lt.1 hlanes, h3.img, h3.imgState⟩, .inr (.inr rfl)⟩

/-- Settles O31: the attempt, and the places where steps 1 and 2 can end. -/
theorem startRuns : Obligations.StartRuns := by
  unfold Obligations.StartRuns
  intro s straps o hpow hstart hhold htrip hmode hatt hready
  have hgate : (s.crest.powered && !s.bist.started && !s.bist.inHold && !s.tripHold && s.bist.mode == 0) = true := by
    simp [hpow, hstart, hhold, State.tripHold, htrip, hmode]
  have h := firstSteps_ends straps o hpow htrip hatt hready
  exact ⟨_, congrArg Host.Outcome.next (if_pos hgate), h.attempts, h.ready, h.count, h.strap, h.waits, h.step⟩

/-! ### Bounds missed (R389, R407, R409, R420) -/

/-- Settles O32: base camp after a third attempt, and the cold starts of WARM_TIMEOUT and MOD_RST_N. -/
theorem startsCutShort : Obligations.StartsCutShort := by
  unfold Obligations.StartsCutShort
  refine ⟨fun s cause hstart hmode hstep hatt => ?_, fun s hkind hbound hready hmode hpow htrip => ?_, fun s hpow htrip => ?_⟩
  · have hgate : (s.bist.started && s.bist.mode == 0 && decide (s.bist.step.toNat = 3)) = true := by
      rw [hstart, hmode, hstep]
      rfl
    have hexec : exec (.startStepTimeout 3 cause) s = .next (s.failStart 3 0x05 0).settle := congrArg Host.Outcome.next (if_pos hgate)
    refine ⟨_, hexec, ?_⟩
    rw [failStart_camps hatt]
    exact ⟨rfl, rfl, rfl, rfl, rfl, rfl, rfl, rfl⟩
  · have hgate : (s.bist.kind && s.bist.warmBound && !s.bist.ready && s.bist.mode == 0) = true := by
      rw [hkind, hbound, hready, hmode]
      rfl
    obtain ⟨h, -⟩ := coldReset_start (s := { s with
      bist := (({ s.bist with cause := 0x0F } : Bist).report 2 (leBytes 1 0x0F ++ leBytes 1 s.bist.step.toNat)).report 6 (leBytes 2 s.bist.step.toNat) })
      htrip hpow .reset
    exact ⟨_, congrArg Host.Outcome.next (if_pos hgate), h.kind, h.failure, h.ctxs, h.parts, h.count, h.epoch⟩
  · obtain ⟨h, hphase⟩ := coldReset_start htrip hpow .reset
    exact ⟨_, rfl, h.kind, h.ready, hphase, h.lanes, h.cause, h.ctxs, h.strms, h.parts, h.blocks, h.cmds, h.census, h.count, h.epoch, h.attempts⟩

/-! ### The bundle and what follows (R413, R407 steps 4 to 9) -/

/-- The states that steps 4 to 8 go through: not ready, the bundle taken. -/
structure Late (s t : State) : Prop where
  ready : t.bist.ready = s.bist.ready
  imgState : t.bist.imgState = s.bist.imgState
  crest : t.crest = s.crest

theorem Late.trans {a b c : State} (h : Late a b) (h' : Late b c) : Late a c :=
  ⟨h'.ready.trans h.ready, h'.imgState.trans h.imgState, h'.crest.trans h.crest⟩

theorem loseRow_late (s : State) (e : W64) : Late s (s.loseRow e) := ⟨rfl, rfl, rfl⟩

theorem Late.refl (s : State) : Late s s := ⟨rfl, rfl, rfl⟩

theorem report_ready (b : Bist) (o : Nat) (v : List Byte) : (b.report o v).ready = b.ready := rfl
theorem report_imgState (b : Bist) (o : Nat) (v : List Byte) : (b.report o v).imgState = b.imgState := rfl

theorem repairMemory_late (s : State) (m : List W64) (o : StartObs) : Late s (s.repairMemory m o) := by
  unfold State.repairMemory
  extract_lets b had new rows unrep stale back lost units r jn t
  have hready : r.ready = b.ready := by simp only [r, report_ready]
  have himg : r.imgState = b.imgState := by simp only [r, report_imgState]
  clear_value r
  have hkeep : Late s t := ⟨hready, himg, rfl⟩
  exact hkeep.trans (foldl_rel (r := Late) Late.refl Late.trans loseRow_late lost t)

theorem repairBlocks_late (s : State) (m : List W64) : Late s (s.repairBlocks m) := by
  refine foldl_rel (r := Late) Late.refl Late.trans (fun t b => ?_) _ _
  dsimp only
  split
  · split
    · exact .refl t
    · exact ⟨rfl, rfl, rfl⟩
  · split
    · exact ⟨rfl, rfl, rfl⟩
    · exact .refl t

/-- How a start from its bundle ends: ready, or in base camp, or with a warm reset ordered. -/
def LastEnds (t : State) : Prop :=
  (t.bist.ready = true → t.bist.attempts = 0 ∧ t.bist.imgState = 3 ∧ t.phase = .run ∧ t.fence.cause = 1) ∧
    (t.bist.ready = false → t.bist.mode = 2 ∨ t.bist.started = false)

theorem failStart_ends {s : State} (hready : s.bist.ready = false) (hpow : s.crest.powered = true) (htrip : s.crest.tripped = false)
    (step cause detail : Nat) : LastEnds (s.failStart step cause detail) := by
  by_cases hatt : s.bist.attempts.toNat < 3
  · have h := failStart_retry (s := s) htrip hpow hatt step cause detail
    exact ⟨fun hr => absurd (hr.symm.trans h.ready) (by decide), fun _ => .inr h.started⟩
  · rw [failStart_camps (Nat.not_lt.1 hatt)]
    exact ⟨fun hr => absurd (hr.symm.trans hready) (by decide), fun _ => .inl rfl⟩

/-- Ports that begin to train leave the rest of the device. -/
theorem startPorts_eq (s : State) : ∃ k i, s.startPorts = { s with lnk := k, irq := i } := by
  refine foldl_rel (r := fun s t : State => ∃ k i, t = { s with lnk := k, irq := i }) (fun s => ⟨s.lnk, s.irq, rfl⟩) ?_ (fun t p => ?_) _ s
  · rintro _ _ _ ⟨_, _, rfl⟩ ⟨k, i, rfl⟩
    exact ⟨k, i, rfl⟩
  · split
    · exact ⟨_, _, rfl⟩
    · exact ⟨t.lnk, t.irq, rfl⟩

theorem becomeReady_ends {s : State} (himg : s.bist.imgState = 3) : LastEnds s.becomeReady := by
  have hready : s.becomeReady.bist.ready = true ∧ s.becomeReady.bist.attempts = 0 ∧ s.becomeReady.bist.imgState = s.bist.imgState ∧
      s.becomeReady.phase = .run ∧ s.becomeReady.fence.cause = 1 := by
    simp only [State.becomeReady]
    obtain ⟨k, i, h⟩ := startPorts_eq _
    rw [h]
    exact ⟨rfl, rfl, rfl, rfl, rfl⟩
  obtain ⟨hr, hatt, hi, hphase, hcause⟩ := hready
  exact ⟨fun _ => ⟨hatt, hi.trans himg, hphase, hcause⟩, fun h => absurd (h.symm.trans hr) (by decide)⟩

theorem lastSteps_ends {s : State} (hready : s.bist.ready = false) (hpow : s.crest.powered = true) (htrip : s.crest.tripped = false)
    (o : StartObs) : LastEnds (s.lastSteps o) := by
  have fails (t : State) (hr : t.bist.ready = s.bist.ready) (hc : t.crest = s.crest) (step cause detail : Nat) :
      LastEnds (t.failStart step cause detail) :=
    failStart_ends (hr.trans hready) (hc ▸ hpow) (hc ▸ htrip) step cause detail
  unfold State.lastSteps
  extract_lets l s4 no im ow re has od rd m bb b5 s5 s6 sm bm s7 s8
  have h4 : s4.bist.ready = s.bist.ready := rfl
  have hcrest4 : s4.crest = s.crest := rfl
  clear_value s4 l
  have h5 : s5.bist.ready = s.bist.ready := h4
  have hcrest5 : s5.crest = s.crest := hcrest4
  have himg5 : s5.bist.imgState = 3 := rfl
  clear_value s5 m
  have hlate : Late s6 sm := (repairMemory_late s6 m o).trans (repairBlocks_late _ m)
  have h7 : s7.bist.ready = s.bist.ready := hlate.ready.trans h5
  have hcrest7 : s7.crest = s.crest := hlate.crest.trans hcrest5
  have himg7 : s7.bist.imgState = 3 := hlate.imgState.trans himg5
  clear_value s7
  split
  · refine fails _ ?_ ?_ _ _ _
    · exact h4
    · exact hcrest4
  · split
    · exact fails _ h5 hcrest5 ..
    · split
      · exact fails _ h5 hcrest5 ..
      · split
        · exact fails _ h7 hcrest7 ..
        · split
          · exact fails _ h7 hcrest7 ..
          · split
            · refine fails _ ?_ ?_ _ _ _
              · exact h7
              · exact hcrest7
            · refine becomeReady_ends ?_
              exact himg7

/-- Settles O15: GO of a bad bundle by R413's first check, any other by the steps in turn. -/
theorem bundleGo : Obligations.BundleGo := by
  unfold Obligations.BundleGo
  refine ⟨fun s o k hup hwait hfail hbad => ?_, fun s o hup hwait hready htrip => ?_⟩
  · have hgo : s.imgGo o = s.lastSteps o := if_pos hwait
    have hat : failsAt o 4 = false := by rw [failsAt, hfail]; rfl
    have hfirst : bundleFail s.bist.img = some (0x06, k / 64) := by rw [bundleFail, hbad]
    have hexec : exec (.bistImgGo 0 o) s = .next (s.imgGo o).settle := congrArg Host.Outcome.next (mgmtWrite_host hup ..)
    rw [hexec, hgo]
    simp only [State.lastSteps, hat, hfirst]
    rfl
  · have hgo : s.imgGo o = s.lastSteps o := if_pos hwait
    have hexec : exec (.bistImgGo 0 o) s = .next (s.imgGo o).settle := congrArg Host.Outcome.next (mgmtWrite_host hup ..)
    have hpow : s.crest.powered = true := by
      simp only [State.hostUp, Bool.and_eq_true] at hup
      exact hup.2
    obtain ⟨hr, hn⟩ := lastSteps_ends hready hpow htrip o
    refine ⟨_, hexec, ?_⟩
    rw [hgo]
    exact ⟨hr, hn⟩

end Sys2Proof.Proofs
end

section
/-! SUPPORT. What the end of a command without a commit does (R298, R380), and the limits that run out: O55 (R55, R201, R268, R297, R332). -/
namespace Sys2Proof.Proofs
open Sys2Proof Sys2Proof.Machine

/-! ### A state apart from what a command's end undoes -/

/-- A state without its streams, contexts, partitions, weight versions, memory and the numbers of free values: what undoing a command and
halting its stream leave as they are. -/
def offUndo (s : State) : State := { s with strms := [], ctxs := [], parts := [], wver := [], hbm := {}, fresh := 0, irq := {} }

section
variable {s t : State} (h : offUndo t = offUndo s)
include h

theorem cmds_of_offUndo : t.cmds = s.cmds := (congrArg State.cmds h :)
theorem blocks_of_offUndo : t.blocks = s.blocks := (congrArg State.blocks h :)
theorem purges_of_offUndo : t.purges = s.purges := (congrArg State.purges h :)
theorem beat_of_offUndo : t.beat = s.beat := (congrArg State.beat h :)

end

section
variable (s : State)

theorem offUndo_unplace (c : Nat) : offUndo (s.unplace c) = offUndo s := by
  unfold State.unplace
  dsimp only
  split <;> split <;> rfl

theorem offUndo_endOptstep (x : Cmd) (p : OptP) : offUndo (s.endOptstep x p) = offUndo s := by
  unfold State.endOptstep
  dsimp only
  split
  · split <;> rfl
  · rfl

/-- What a collective's end makes undefined is memory alone. -/
theorem collUndef_eq (x : Cmd) : ∃ m n, s.collUndef x = { s with hbm := m, fresh := n } := by
  refine foldl_rel (r := fun s t : State => ∃ m n, t = { s with hbm := m, fresh := n }) (fun s => ⟨s.hbm, s.fresh, rfl⟩) ?_ (fun t q => ?_) _ s
  · rintro _ _ _ ⟨_, _, rfl⟩ ⟨m, n, rfl⟩
    exact ⟨m, n, rfl⟩
  · exact ⟨_, _, rfl⟩

theorem offUndo_undo (x : Cmd) : offUndo (s.undo x) = offUndo s := by
  unfold State.undo
  split
  · split
    · rfl
    · rfl
  · exact offUndo_unplace ..
  · exact offUndo_endOptstep ..
  · dsimp only
    split <;> rfl
  · obtain ⟨m, n, h⟩ := collUndef_eq (s.restartSeq x.ctx _) x
    rw [h]
    rfl
  · obtain ⟨m, n, h⟩ := collUndef_eq (s.restartSeq x.ctx _) x
    rw [h]
    rfl
  · obtain ⟨m, n, h⟩ := collUndef_eq (s.restartSeq x.ctx _) x
    rw [h]
    rfl
  · rfl
  · rfl
  · rfl
  · rfl

/-- A load that is cut changes the regions of its context alone. -/
theorem cutLoad_eq (x : Cmd) (st : Nat) : ∃ c, s.cutLoad x st = { s with ctxs := c } := by
  unfold State.cutLoad
  dsimp only
  (repeat' split) <;> exact ⟨_, rfl⟩

theorem offUndo_cutLoad (x : Cmd) (st : Nat) : offUndo (s.cutLoad x st) = offUndo s := by
  obtain ⟨c, h⟩ := cutLoad_eq s x st
  rw [h]
  rfl

/-- Giving back the counts of a command changes the weight versions alone. -/
theorem unbind_eq (x : Cmd) : ∃ w, s.unbind x = { s with wver := w } := by
  refine foldl_rel (r := fun s t : State => ∃ w, t = { s with wver := w }) (fun s => ⟨s.wver, rfl⟩) ?_ (fun t b => ?_) _ s
  · rintro _ _ _ ⟨_, rfl⟩ ⟨w, rfl⟩
    exact ⟨w, rfl⟩
  · exact ⟨_, rfl⟩

theorem offUndo_unbind (x : Cmd) : offUndo (s.unbind x) = offUndo s := by
  obtain ⟨w, h⟩ := unbind_eq s x
  rw [h]
  rfl

theorem dropHeld_eq (g : Nat) : ∃ a c, s.dropHeld g = { s with strms := a, ctxs := c } := by
  simp only [State.dropHeld]
  split
  · exact ⟨s.strms, s.ctxs, rfl⟩
  · exact ⟨_, _, rfl⟩

/-- A stream that is halted: the streams, the reservations of its context, and the source of its context. -/
theorem halt_eq (g st : Nat) : ∃ a c i, s.halt g st = { s with strms := a, ctxs := c, irq := i } := by
  obtain ⟨a, c, h⟩ := dropHeld_eq s g
  simp only [State.halt]
  rw [h]
  exact ⟨_, _, _, rfl⟩

theorem halt_halted (g st : Nat) : ((s.halt g st).strm g).halted = true := by
  simp [State.halt]

end

/-! ### endWith -/

/-- The command as its end without a result leaves it (R298). -/
def endedCmd (x : Cmd) (st kind ix : Nat) : Cmd :=
  { x with
    phase := .refused, status := st, dkind := kind, dindex := ix, writes := [], census := [], sigs := [], toks := [], pulls := [], blocks := [],
    binds := [], moved := 0, final := true }

/-- The state before a command that ends leaves its stream halted. -/
def endedState (s : State) (x : Cmd) (st kind ix : Nat) : State :=
  (((((s.freeBlocks x).undo x).cutLoad x st).unbind x).forgetFrames x.id).updCmd x.id (fun y => endedCmd y st kind ix)

theorem cmd_id {s : State} {id : Nat} {x : Cmd} (h : s.cmd id = some x) : x.id = id := by
  simpa using List.find?_some h

theorem endWith_eq {s : State} {id : Nat} {x : Cmd} (h : s.cmd id = some x) (st kind ix : Nat) : s.endWith id st kind ix =
    if x.h.flags.getLsbD 5 then endedState s x st kind ix else (endedState s x st kind ix).halt x.strm st := by
  have hid := cmd_id h
  subst hid
  rw [State.endWith, h]
  rfl

section
variable (s : State) (x : Cmd) (st kind ix : Nat)

/-- But for its frames and its own registers, a command's end changes what it undoes. -/
theorem offUndo_end : offUndo ((((s.freeBlocks x).undo x).cutLoad x st).unbind x) = offUndo (s.freeBlocks x) :=
  (offUndo_unbind ..).trans ((offUndo_cutLoad ..).trans (offUndo_undo ..))

theorem endedState_cmds : (endedState s x st kind ix).cmds = s.cmds.map (fun y => if y.id = x.id then endedCmd y st kind ix else y) := by
  obtain ⟨b, n, hfree⟩ := freeBlocks_blocksOnly s x
  have hcmds : (((((s.freeBlocks x).undo x).cutLoad x st).unbind x).forgetFrames x.id).cmds = s.cmds := by
    refine (cmds_of_offUndo (offUndo_end s x st)).trans ?_
    rw [hfree]
  rw [endedState, State.updCmd, hcmds]

theorem endedState_blocks : (endedState s x st kind ix).blocks = (s.freeBlocks x).blocks :=
  (blocks_of_offUndo (offUndo_end s x st) :)

theorem endedState_purges : (endedState s x st kind ix).purges = s.purges := by
  obtain ⟨b, n, hfree⟩ := freeBlocks_blocksOnly s x
  refine (purges_of_offUndo (offUndo_end s x st)).trans ?_
  rw [hfree]

theorem endedState_beat : (endedState s x st kind ix).beat = s.beat := by
  obtain ⟨b, n, hfree⟩ := freeBlocks_blocksOnly s x
  refine (beat_of_offUndo (offUndo_end s x st)).trans ?_
  rw [hfree]

/-- An operation that makes nothing undefined at its end keeps memory. -/
theorem undo_hbm (hopt : ∀ p, x.op ≠ .optstep p) (hcoll : ∀ p, x.op ≠ .reduce p ∧ x.op ≠ .gather p ∧ x.op ≠ .broadcast p) :
    (s.undo x).hbm = s.hbm := by
  unfold State.undo
  split
  · split <;> rfl
  · unfold State.unplace
    dsimp only
    split <;> split <;> rfl
  · next p h => exact absurd h (hopt p)
  · dsimp only
    split <;> rfl
  · next p h => exact absurd h (hcoll p).1
  · next p h => exact absurd h (hcoll p).2.1
  · next p h => exact absurd h (hcoll p).2.2
  · rfl
  · rfl
  · rfl
  · rfl

theorem endedState_hbm (hundo : ((s.freeBlocks x).undo x).hbm = (s.freeBlocks x).hbm) : (endedState s x st kind ix).hbm = s.hbm := by
  obtain ⟨b, n, hfree⟩ := freeBlocks_blocksOnly s x
  obtain ⟨c, hcut⟩ := cutLoad_eq ((s.freeBlocks x).undo x) x st
  obtain ⟨w, hw⟩ := unbind_eq (((s.freeBlocks x).undo x).cutLoad x st) x
  rw [endedState, hw, hcut]
  refine hundo.trans ?_
  rw [hfree]

end

/-! ### The blocks of a command that ends -/

theorem abandon_run (b : Block) (id seed : Nat) (p : Program) : (b.abandon id seed p).run ≠ some id := by
  unfold Block.abandon
  dsimp only
  split
  · exact (Option.some_ne_none id).symm
  · assumption

theorem freeBlocks_run (s : State) (x : Cmd) {b : Nat} (hb : b ∈ x.blocks) : ((s.freeBlocks x).block b).run ≠ some x.id := by
  have hfold (l : List Nat) (t : State) (h : b ∈ l ∨ (t.block b).run ≠ some x.id) (p : Program) :
      ((l.foldl (fun (t : State) b => t.updBlock b (fun k => k.abandon x.id t.fresh p)) t).block b).run ≠ some x.id := by
    induction l generalizing t with
    | nil => exact h.resolve_left List.not_mem_nil
    | cons a l ih =>
      refine ih _ ?_
      by_cases ha : b = a
      · subst ha
        rw [State.block_updBlock_same]
        exact .inr (abandon_run _ _ _ _)
      · rw [State.block_updBlock_ne _ _ ha]
        exact h.imp_left fun hm => (List.mem_cons.1 hm).resolve_left ha
  exact hfold x.blocks s (.inl hb) _

/-! ### No issue after the last command (R326) -/

/-- With no accepted command, and none whose collective has come to its head, an issue point changes nothing. -/
theorem issuePoint_idle {s : State} (h : ∀ y ∈ s.cmds, y.live = false) (pt : Nat) : s.issuePoint pt = s := by
  have hvoid : s.voidColls = s := by
    refine foldl_eq_self fun id _ => ?_
    unfold State.collVoid
    split
    · rfl
    · next x hx =>
      have hlive : x.live = false := h x (List.mem_of_find?_eq_some hx)
      exact if_neg (by simp [hlive])
  have hnone : s.issueOrder pt = [] := by
    have hempty : s.cmds.filter (fun x => x.phase == .accepted && s.ctxPart x.ctx == pt) = [] := by
      refine List.filter_eq_nil_iff.2 fun x hx => ?_
      have hlive := h x hx
      simp only [Cmd.live, Bool.or_eq_false_iff] at hlive
      simp [hlive.1.1]
    simp [State.issueOrder, hempty, sortCmds]
  have hpass : s.issuePass pt = s := by rw [State.issuePass, hnone]; rfl
  rw [State.issuePoint, hvoid, State.issuePasses, hpass]
  exact if_pos rfl

/-! ### A command alone -/

theorem cmd_alone {s : State} {x : Cmd} (h : s.cmds = [x]) : s.cmd x.id = some x := by
  rw [State.cmd, h]
  simp

theorem endedState_alone {s : State} {x : Cmd} (h : s.cmds = [x]) (st kind ix : Nat) :
    (endedState s x st kind ix).cmds = [endedCmd x st kind ix] := by
  rw [endedState_cmds, h]
  simp

theorem endWith_alone {s : State} {x : Cmd} (h : s.cmds = [x]) (st kind ix : Nat) : (s.endWith x.id st kind ix).cmds = [endedCmd x st kind ix] := by
  rw [endWith_eq (cmd_alone h)]
  split
  · exact endedState_alone h ..
  · obtain ⟨a, c, i, hhalt⟩ := halt_eq (endedState s x st kind ix) x.strm st
    rw [hhalt]
    exact endedState_alone h ..

/-- A command alone that ends at once leaves an issue point with nothing to issue. -/
theorem endNow_alone {s : State} {x : Cmd} (h : s.cmds = [x]) (st kind ix : Nat) : s.endNow x.id st kind ix = s.endWith x.id st kind ix := by
  rw [State.endNow, cmd_alone h]
  refine issuePoint_idle (fun y hy => ?_) _
  rw [endWith_alone h, List.mem_singleton] at hy
  rw [hy]
  rfl

theorem streamAllows_alone {s : State} {x : Cmd} (h : s.cmds = [x]) : s.streamAllows x = true := by
  simp [State.streamAllows, State.pred, h]

/-! ### What a halt and an end keep of contexts and weight versions -/

/-- A halt gives back a reservation of its stream's context, and nothing else of any context. -/
theorem halt_ctx (s : State) (g st c : Nat) : ∃ q, (s.halt g st).ctx c = { s.ctx c with cq := q } := by
  have hdrop : ∃ q, (s.dropHeld g).ctx c = { s.ctx c with cq := q } := by
    simp only [State.dropHeld]
    split
    · exact ⟨_, rfl⟩
    · by_cases hc : c = (s.strm g).ctx
      · subst hc
        exact ⟨_, State.ctx_updCtx_same ..⟩
      · exact ⟨_, State.ctx_updCtx_ne _ _ hc⟩
  exact hdrop

theorem halt_hbm (s : State) (g st : Nat) : (s.halt g st).hbm = s.hbm := by
  obtain ⟨a, c, i, h⟩ := halt_eq s g st
  rw [h]

theorem halt_beat (s : State) (g st : Nat) : (s.halt g st).beat = s.beat := by
  obtain ⟨a, c, i, h⟩ := halt_eq s g st
  rw [h]

/-- A step on a weight version that keeps its value keeps every value. -/
theorem updWeight_v (s : State) (w n : Nat) {f : WVer → WVer} (h : (f (s.weight w)).v = (s.weight w).v) :
    ((s.updWeight w f).weight n).v = (s.weight n).v := by
  by_cases hn : n = w
  · subst hn
    rw [State.weight_updWeight_same, h]
  · rw [State.weight_updWeight_ne _ _ hn]

theorem uncount_v (w : WVer) (v : BitVec 16) (n : Nat) : (w.uncount v n).v = w.v := by
  unfold WVer.uncount
  split <;> rfl

theorem unbind_v (s : State) (x : Cmd) (n : Nat) : ((s.unbind x).weight n).v = (s.weight n).v := by
  refine foldl_rel (r := fun s t : State => (t.weight n).v = (s.weight n).v) (fun _ => rfl) (fun h h' => h'.trans h) (fun t b => ?_) _ s
  exact updWeight_v t b.1 n (uncount_v ..)

theorem endOptstep_v (s : State) (x : Cmd) (p : OptP) (n : Nat) : ((s.endOptstep x p).weight n).v = (s.weight n).v := by
  have hclose : ((s.updWeight (bindWreg p.step) (fun k => { k with closing := 0, busyBy := none })).weight n).v = (s.weight n).v :=
    updWeight_v s _ n rfl
  unfold State.endOptstep
  dsimp only
  split
  · split
    · refine Eq.trans (updWeight_v _ _ n ?_) ?_
      · rfl
      · exact hclose
    · exact hclose
  · exact hclose

/-- A WAIT has nothing to undo: its end leaves streams, contexts, memory and the beat (R297). -/
theorem endedState_wait {s : State} {x : Cmd} {g limit : Nat} {v : W64} (hop : x.op = .wait g limit v) {st : Nat}
    (hst : (st == stTimeout || st == stPurged) = false) (kind ix : Nat) : ∃ b n w k q,
      endedState s x st kind ix = { s with blocks := b, fresh := n, wver := w, lnk := k, cmds := q } := by
  obtain ⟨b, n, hfree⟩ := freeBlocks_blocksOnly s x
  have hundo : (s.freeBlocks x).undo x = s.freeBlocks x := by rw [State.undo, hop]
  have hcut : (s.freeBlocks x).cutLoad x st = s.freeBlocks x := by rw [State.cutLoad, hst]; rfl
  obtain ⟨w, hw⟩ := unbind_eq (s.freeBlocks x) x
  rw [endedState, hundo, hcut, hw, hfree]
  exact ⟨b, n, w, _, _, rfl⟩

section
variable {s : State} {x : Cmd} (h : s.cmds = [x])
include h

theorem endWith_wait {g limit : Nat} {v : W64} (hop : x.op = .wait g limit v) (st : Nat) (hst : (st == stTimeout || st == stPurged) = false) :
    (s.endWith x.id st 0 0).cmds = [endedCmd x st 0 0] ∧ (s.endWith x.id st 0 0).hbm = s.hbm ∧
      (∀ c, ((s.endWith x.id st 0 0).ctx c).sig = (s.ctx c).sig ∧ ((s.endWith x.id st 0 0).ctx c).regions = (s.ctx c).regions ∧
        ((s.endWith x.id st 0 0).ctx c).state = (s.ctx c).state) ∧ (s.endWith x.id st 0 0).beat = s.beat ∧
      ((s.endWith x.id st 0 0).strm x.strm).halted = ((s.strm x.strm).halted || !x.h.flags.getLsbD 5) := by
  refine ⟨endWith_alone h .., ?_⟩
  obtain ⟨b, n, w, k, q, heq⟩ := endedState_wait (s := s) hop hst 0 0
  rw [endWith_eq (cmd_alone h)]
  cases hflag : x.h.flags.getLsbD 5 with
  | true =>
    rw [if_pos rfl, heq]
    exact ⟨rfl, fun c => ⟨rfl, rfl, rfl⟩, rfl, (Bool.or_false _).symm⟩
  | false =>
    rw [if_neg Bool.false_ne_true]
    refine ⟨?_, fun c => ?_, ?_, ?_⟩
    · rw [halt_hbm, heq]
    · obtain ⟨cq, hctx⟩ := halt_ctx (endedState s x st 0 0) x.strm st c
      rw [hctx, heq]
      exact ⟨rfl, rfl, rfl⟩
    · rw [halt_beat, heq]
    · rw [halt_halted]
      exact (Bool.or_true _).symm

section
variable {p : OptP} (hop : x.op = .optstep p) (st : Nat)
include hop

theorem endWith_optstep_hbm (hnot : x.issuedOnce = false) : (s.endWith x.id st 0 0).hbm = s.hbm := by
  have hundo : ((s.freeBlocks x).undo x).hbm = (s.freeBlocks x).hbm := by
    simp only [State.undo, hop, State.endOptstep, hnot]
    rfl
  rw [endWith_eq (cmd_alone h)]
  split
  · exact endedState_hbm s x st 0 0 hundo
  · rw [halt_hbm]
    exact endedState_hbm s x st 0 0 hundo

theorem endWith_optstep_v (n : Nat) : ((s.endWith x.id st 0 0).weight n).v = (s.weight n).v := by
  have hundo : (s.freeBlocks x).undo x = (s.freeBlocks x).endOptstep x p := by rw [State.undo, hop]
  obtain ⟨c, hcut⟩ := cutLoad_eq ((s.freeBlocks x).undo x) x st
  obtain ⟨b, f, hfree⟩ := freeBlocks_blocksOnly s x
  have hended : ((endedState s x st 0 0).weight n).v = (s.weight n).v := by
    refine (unbind_v _ x n).trans ?_
    rw [hcut, hundo]
    refine (endOptstep_v (s.freeBlocks x) x p n).trans ?_
    rw [hfree]
    rfl
  rw [endWith_eq (cmd_alone h)]
  split
  · exact hended
  · obtain ⟨a, c', i, hhalt⟩ := halt_eq (endedState s x st 0 0) x.strm st
    rw [hhalt]
    exact hended

end

end

/-! ### The limits -/

/-- The state in which a hung command ends: it is counted and recorded, and its engines have their purge order (R380). -/
def hungState (s : State) (x : Cmd) : State :=
  ((({ s with beat := { s.beat with hung := sat32 s.beat.hung 1 } } : State).note (x.lateEvent 0x105 x.ran)).purge none (some x.id) s.now (s.enginesOf x)).1

theorem hang_eq (s : State) {x : Cmd} (h : x.drains = false) : ∃ kind ix, s.hang x = (hungState s x).endWith x.id stTimeout kind ix :=
  ⟨_, _, if_neg (Bool.eq_false_iff.1 h)⟩

/-- Settles O55: each limit by its event, and the end that it makes. -/
theorem limitsRunOut : Obligations.LimitsRunOut := by
  unfold Obligations.LimitsRunOut
  refine ⟨fun s c n hheld hn hforever => ?_, fun s id x hx hhung hready => ?_, fun s x hcmds hdrain hflag => ?_,
    fun s x g limit v hcmds hop hphase hlimit hdue hsig => ?_, fun s x p hcmds hop hphase hheld hlimit hdue => ?_,
    fun s pt x hx hclosed hdrained hwin hdue => ?_⟩
  · simp only [exec, execHeldExpiry, hheld]
    exact congrArg Host.Outcome.next (if_pos ⟨hn, hforever⟩)
  · have hgate : (s.hung x && s.bist.ready) = true := by rw [hhung, hready]; rfl
    simp only [exec, execCommandHang, hx]
    exact congrArg Host.Outcome.next (if_pos hgate)
  · have hcmd : (hungState s x).cmd x.id = some x := cmd_alone (s := hungState s x) hcmds
    have hno : ¬ x.h.flags.getLsbD 5 = true := Bool.eq_false_iff.1 hflag
    obtain ⟨kind, ix, hhang⟩ := hang_eq s hdrain
    rw [endWith_eq hcmd, if_neg hno] at hhang
    have hhalted := halt_halted (endedState (hungState s x) x stTimeout kind ix) x.strm stTimeout
    obtain ⟨a, c, i, hhalt⟩ := halt_eq (endedState (hungState s x) x stTimeout kind ix) x.strm stTimeout
    refine ⟨endedCmd x stTimeout kind ix, ?_, rfl, rfl, rfl, rfl, rfl, ?_, ?_, fun hopt hcoll => ?_,
      ⟨{ id := s.nextId, ctx := none, cmd := some x.id, beat := s.now, owed := s.enginesOf x }, ?_, rfl, rfl, rfl⟩, fun b hb => ?_⟩ <;> rw [hhang]
    · rw [hhalt]
      exact endedState_alone (s := hungState s x) hcmds ..
    · rw [hhalt]
      exact congrArg Beat.hung (endedState_beat (hungState s x) x stTimeout kind ix)
    · exact hhalted
    · rw [hhalt]
      exact endedState_hbm (hungState s x) x stTimeout kind ix (undo_hbm _ x hopt hcoll)
    · rw [hhalt]
      exact (endedState_purges (hungState s x) x stTimeout kind ix).symm ▸ List.mem_append_right _ (List.mem_singleton.2 rfl)
    · rw [hhalt]
      have hblocks := endedState_blocks (hungState s x) x stTimeout kind ix
      exact fun hrun => freeBlocks_run (hungState s x) x hb ((congrArg (fun t => (Tab.get {} t b).run) hblocks).symm.trans hrun)
  · have hgate : x.phase = .accepted ∧ limit ≠ 0 ∧ x.acceptBeat + limit ≤ s.now ∧ s.streamAllows x = true ∧
        (Tab.get 0 (s.ctx x.ctx).sig g).toNat < v.toNat := ⟨hphase, hlimit, hdue, streamAllows_alone hcmds, hsig⟩
    have hexec : exec (.waitTimeout x.id) s = .next (s.endWith x.id stWaitTimeout 0 0).settle := by
      simp only [exec, execWaitTimeout, cmd_alone hcmds, hop, if_pos hgate, endNow_alone hcmds]
    obtain ⟨hcmds', hhbm, hctx, hbeat, hhalted⟩ := endWith_wait hcmds hop stWaitTimeout (by decide)
    exact ⟨_, _, hexec, hcmds', rfl, rfl, rfl, hhbm, hctx, hbeat, hhalted⟩
  · have hgate : x.phase = .accepted ∧ x.heldNow = true ∧ p.waitLimit ≠ 0 ∧ x.acceptBeat + p.waitLimit ≤ s.now := ⟨hphase, hheld, hlimit, hdue⟩
    have hexec : exec (.versionBusy x.id) s = .next (s.endWith x.id stVersionBusy 0 0).settle := by
      simp only [exec, execVersionBusy, cmd_alone hcmds, hop, if_pos hgate, endNow_alone hcmds]
    exact ⟨_, _, hexec, endWith_alone hcmds .., rfl, rfl, rfl, fun hnot => endWith_optstep_hbm hcmds hop _ hnot, endWith_optstep_v hcmds hop _ _⟩
  · have hgate : ((s.part pt).sw.closed && !(s.part pt).sw.drained && s.beat.windowOpen &&
        decide ((s.part pt).sw.beatA + (s.part pt).sw.limit ≤ s.now + 1) && (s.cmd (s.part pt).sw.cmd).isSome) = true := by
      simp [hclosed, hdrained, hwin, State.now, hdue, hx]
    rw [cmd_id hx]
    exact congrArg Host.Outcome.next (if_pos hgate)

end Sys2Proof.Proofs
end

section
/-! SUPPORT. What the loss of an engine leaves, and O56: purge acknowledgements, quarantine, missed edges and units (R322, R378, R381, R386
to R388). -/
namespace Sys2Proof.Proofs
open Sys2Proof Sys2Proof.Machine

/-! ### A window that is closed -/

/-- Records that complete while no window is open wait for the next one (R295). -/
theorem lateWindow_closed {s : State} (h : s.beat.windowOpen = false) : s.lateWindow = s := by
  have hgate : ¬ (s.beat.windowOpen && s.bist.ready) = true := by simp [h]
  exact if_neg hgate

/-! ### Purges and quarantines that a command's end keeps -/

/-- Two states with the same open purges and the same quarantined engines. -/
def SameLosses (s t : State) : Prop := t.purges = s.purges ∧ t.quarantined = s.quarantined

namespace SameLosses

theorem refl (s : State) : SameLosses s s := ⟨rfl, rfl⟩

theorem trans {a b c : State} (h : SameLosses a b) (h' : SameLosses b c) : SameLosses a c := ⟨h'.1.trans h.1, h'.2.trans h.2⟩

theorem fold {α : Type} {f : State → α → State} (h : ∀ s a, SameLosses s (f s a)) (l : List α) (s : State) : SameLosses s (l.foldl f s) :=
  foldl_rel refl trans h l s

theorem of_sendsOnly {s t : State} (h : SendsOnly s t) : SameLosses s t := by
  obtain ⟨_, _, _, _, _, _, rfl⟩ := h
  exact ⟨rfl, rfl⟩

end SameLosses

section
variable (s : State)

theorem endWith_purges (id st kind ix : Nat) : (s.endWith id st kind ix).purges = s.purges := by
  cases h : s.cmd id with
  | none => rw [State.endWith, h]
  | some x =>
    rw [endWith_eq h]
    split
    · exact endedState_purges ..
    · obtain ⟨a, c, i, hhalt⟩ := halt_eq (endedState s x st kind ix) x.strm st
      rw [hhalt]
      exact endedState_purges s x st kind ix

theorem endWith_losses (id st kind ix : Nat) : SameLosses s (s.endWith id st kind ix) :=
  ⟨endWith_purges .., (congrArg State.quarantined (device_endWith s id st kind ix) :)⟩

theorem endAll_losses (ids : List Nat) (st kind ix : Nat) : SameLosses s (s.endAll ids st kind ix) :=
  .fold (fun t i => endWith_losses t i st kind ix) ids s

/-! ### What a quarantine does to its engine (R387) -/

theorem sendPass_sendsOnly (cmd ty : Nat) (fr : Frame) (a : PassArgs) (l : List Nat) : SendsOnly s (s.sendPass cmd ty fr a l) := by
  unfold State.sendPass
  split
  · exact .refl s
  · exact (sendFrame_sendsOnly ..).trans (send_sendsOnly ..)

theorem tellSources_sendsOnly (pt slot ph kind c : Nat) (b : BitVec 16) (who : List (Nat × Nat × Nat)) :
    SendsOnly s (s.tellSources pt slot ph kind c b who) :=
  .fold (fun t _ => sendPass_sendsOnly t ..) who s

theorem releaseSlots_losses (hit : Nat → SlotSt → Bool) : SameLosses s (s.releaseSlots hit) := by
  unfold State.releaseSlots
  extract_lets todo t
  have htold : SameLosses s t := .fold (fun t w => .of_sendsOnly (tellSources_sendsOnly t ..)) todo s
  exact htold

theorem resendAt_losses (i : Nat) : SameLosses s (s.resendAt i) := by
  unfold State.resendAt
  split
  · exact .refl s
  · split
    · exact .refl s
    · split
      · exact ⟨rfl, rfl⟩
      · split
        · exact ⟨rfl, rfl⟩
        · next u _ _ _ _ p _ =>
          split
          · have hturn : SameLosses s (if u.plane = 32 then (if u.primary.isSome then s else s.rotate u.ty u.fr.dst)
                else { s with lnk := { s.lnk with retx := sat32 s.lnk.retx 1 } }) := by
              split
              · split
                · exact .refl s
                · exact .of_sendsOnly (rotate_sendsOnly ..)
              · exact ⟨rfl, rfl⟩
            have hput := hturn.trans (.of_sendsOnly (putOnPort_sendsOnly _ p u.ty u.fr))
            dsimp only
            split
            · exact hput
            · exact hput
          · exact .refl s

theorem resendFrom_losses (p : Nat) (k : Kept) : SameLosses s (s.resendFrom p k) := by
  unfold State.resendFrom
  split
  · exact resendAt_losses ..
  · split
    · split
      · exact .of_sendsOnly (putOnPort_sendsOnly ..)
      · exact ⟨rfl, rfl⟩
    · exact ⟨rfl, rfl⟩

theorem failPort_losses (p cause : Nat) : SameLosses s (s.failPort p cause) := by
  unfold State.failPort
  extract_lets lost down links counted noted
  have hcounted : SameLosses s counted := ⟨rfl, rfl⟩
  have hnoted : SameLosses s noted := hcounted.trans ⟨rfl, rfl⟩
  clear_value noted
  exact hnoted.trans (.fold (fun t k => resendFrom_losses t p k) lost noted)

theorem loseEngine_losses (e : Nat) : SameLosses s (s.loseEngine e) := by
  unfold State.loseEngine
  split
  · exact ⟨rfl, rfl⟩
  · split
    · exact releaseSlots_losses ..
    · split
      · exact failPort_losses ..
      · exact .refl s

/-- An engine of a stack's DMA has nothing of its own to lose. -/
theorem loseEngine_dma {e : Nat} (h : e < 0x200) : s.loseEngine e = s := by
  have hblock : ¬ 0x10000 ≤ e := by omega
  have hpass : ¬ (0x200 ≤ e ∧ e < 0x208) := by omega
  have hport : ¬ (0x300 ≤ e ∧ e < 0x320) := by omega
  rw [State.loseEngine, if_neg hblock, if_neg hpass, if_neg hport]

end

/-! ### Quarantine -/

/-- A purge that no longer waits for an engine that is lost (R387). -/
def purgeLost (e : Nat) (p : Purge) : Purge :=
  if p.owed.contains e then
    { p with owed := p.owed.filter (· != e), lostEngine := match p.lostEngine with | some k => some k | none => some e }
  else p

theorem notMem_owed_purgeLost (e : Nat) (p : Purge) : e ∉ (purgeLost e p).owed := by
  unfold purgeLost
  split
  · simp
  · next h => simpa using h

/-- The state in which an engine's loss takes its effect: it is recorded, and no purge waits for it. -/
def lossNoted (s : State) (e : Nat) : State :=
  { s.note { code := 0x701, kind := (engDetail e).1, index := (engDetail e).2,
             payload := leBytes 4 ((engDetail e).1 * 2 ^ 24 + (engDetail e).2) ++ zeros 4 } with
    faultQuarantine := true, quarantined := s.quarantined ++ [e], purges := s.purges.map (purgeLost e) }

theorem quarantine_eq (s : State) (e : Nat) : s.quarantine e =
    (((lossNoted s e).loseEngine e).endAll (s.onEngine e) stEngineLost (engDetail e).1 (engDetail e).2).pruneOwed := rfl

theorem quarantine_losses (s : State) (e : Nat) : SameLosses (lossNoted s e) (s.quarantine e) :=
  (loseEngine_losses (lossNoted s e) e).trans (endAll_losses ..)

/-! ### O56 -/

/-- Settles O56: each row by its gate; what a quarantine leaves of its engine follows from what the end of a command keeps. -/
theorem enginesAnswer : Obligations.EnginesAnswer := by
  unfold Obligations.EnginesAnswer
  refine ⟨fun s id e hclosed => ?_, fun s id e p hp hid he hwin hdue => ?_, fun s e => ⟨?_, fun p hp => ?_, fun hnone he => ?_⟩,
    fun s hready => ?_, fun s u hlag hu => ?_⟩
  · have hlate : ((s.dropOwed (some id) e).pruneOwed).lateWindow = (s.dropOwed (some id) e).pruneOwed := lateWindow_closed hclosed
    refine ⟨((s.dropOwed (some id) e).pruneOwed).settle, ?_, ?_, rfl, rfl, rfl, rfl⟩
    · simp only [exec, execPurgeAck, hlate]
    · refine List.map_congr_left fun p _ => ?_
      by_cases hid : p.id = id
      · have hnamed : ((some id).isNone || some id == some p.id) = true := by simp [hid]
        exact (if_pos hnamed).trans (if_pos hid).symm
      · have hother : ¬ ((some id).isNone || some id == some p.id) = true := by simpa using fun h => hid h.symm
        exact (if_neg hother).trans (if_neg hid).symm
  · have hover : s.overdue id e = true := by
      have hany : (s.purges.any fun p => p.id == id && p.owed.contains e && decide (p.beat + 2 ≤ s.now)) = true := by
        refine List.any_eq_true.2 ⟨p, hp, ?_⟩
        simp [hid, he, State.now, hdue]
      rw [State.overdue, hwin, hany]
      rfl
    simp only [exec, execQuarantine, if_pos hover]
    refine ⟨fun h => ?_, fun h => ?_⟩
    · simp [h]
    · simp [h]
  · rw [(quarantine_losses s e).2]
    simp [lossNoted]
  · rw [(quarantine_losses s e).1] at hp
    obtain ⟨q, _, rfl⟩ := List.mem_map.1 hp
    exact notMem_owed_purgeLost e q
  · rw [quarantine_eq, hnone, loseEngine_dma _ he]
    exact ⟨rfl, rfl⟩
  · have hnot : ¬ (!s.bist.ready) = true := by simp [hready]
    simp only [exec, execEdgeAckMiss, if_neg hnot]
    refine ⟨fun h => ?_, fun h0 h => ?_⟩
    · have hfirst : ¬ (s.missedEdge ≠ 0 ∧ s.missedEdge = s.now) := fun ⟨h0, h1⟩ => h.elim h0 (fun hne => hne h1)
      exact congrArg Host.Outcome.next (if_neg hfirst)
    · exact congrArg Host.Outcome.next (if_pos ⟨h0, h⟩)
  · have hgate : (s.pt.lag.getLsbD u && !s.pt.unitReady.contains u) = true := by
      rw [hlag]
      simp [hu]
    exact congrArg Host.Outcome.next (if_pos hgate)

end Sys2Proof.Proofs
end

section
/-! SUPPORT. The order of exact numbers, and O60: the codes of Q4 and Q8 (R61 to R63). -/
namespace Sys2Proof.Proofs
open Sys2Proof Sys2Proof.Machine

/-! ### The rational number that an exact number stands for -/

/-- The number `m × 2^e`. -/
def dyVal (d : Dy) : ℚ := (d.m : ℚ) * 2 ^ d.e

theorem dyVal_at (d : Dy) {q : Int} (h : q ≤ d.e) : (d.at q : ℚ) * 2 ^ q = dyVal d := by
  obtain ⟨k, hk⟩ := Int.le.dest h
  have hpow : (d.e - q).toNat = k := by omega
  rw [Dy.at, hpow, dyVal, ← hk, zpow_add₀ two_ne_zero, zpow_natCast]
  push_cast
  ring

theorem dyLt_iff (a b : Dy) : Dy.lt a b = true ↔ dyVal a < dyVal b := by
  have hpos : (0 : ℚ) < 2 ^ min a.e b.e := zpow_pos two_pos _
  rw [← dyVal_at a (min_le_left a.e b.e), ← dyVal_at b (min_le_right a.e b.e), mul_lt_mul_iff_left₀ hpos, Int.cast_lt]
  exact decide_eq_true_iff

theorem dyLe_iff (a b : Dy) : Dy.le a b = true ↔ dyVal a ≤ dyVal b := by
  rw [Dy.le, Bool.not_eq_true', ← Bool.not_eq_true, dyLt_iff, not_lt]

theorem dyEqv_iff (a b : Dy) : Dy.eqv a b = true ↔ dyVal a = dyVal b := by
  rw [Dy.eqv, Bool.and_eq_true, dyLe_iff, dyLe_iff, le_antisymm_iff]

/-- A magnitude in units of `2^l`, cut to a whole number. -/
theorem floorScale_eq (mag : Nat) (e l : Int) : floorScale mag e l = ⌊(mag : ℚ) * 2 ^ (e - l)⌋₊ := by
  unfold floorScale
  split
  · next h =>
    obtain ⟨k, hk⟩ := Int.le.dest h
    have hpow : e - l = (k : Int) := by omega
    rw [hpow, zpow_natCast, Int.toNat_natCast]
    exact_mod_cast (Nat.floor_natCast (R := ℚ) (mag * 2 ^ k)).symm
  · next h =>
    obtain ⟨k, hk⟩ := Int.le.dest (le_of_not_ge h)
    have hpow : e - l = -(k : Int) := by omega
    have hnat : (l - e).toNat = k := by omega
    have hdiv : (mag : ℚ) * 2 ^ (-(k : Int)) = ((mag : ℚ) / ((2 ^ k : Nat) : ℚ)) := by
      rw [zpow_neg, zpow_natCast]
      push_cast
      rfl
    rw [hpow, hnat, hdiv, Nat.floor_div_natCast, Nat.floor_natCast]

theorem le_floorScale_iff (t mag : Nat) (e l : Int) : t ≤ floorScale mag e l ↔ (t : ℚ) * 2 ^ l ≤ mag * 2 ^ e := by
  have hpos : (0 : ℚ) < 2 ^ l := zpow_pos two_pos _
  have hnonneg : (0 : ℚ) ≤ mag * 2 ^ (e - l) := by positivity
  rw [floorScale_eq, Nat.le_floor_iff hnonneg, zpow_sub₀ two_ne_zero, ← mul_div_assoc, le_div_iff₀ hpos]

theorem floorScale_le {t mag : Nat} {e l : Int} (h : (mag : ℚ) * 2 ^ e ≤ t * 2 ^ l) : floorScale mag e l ≤ t := by
  by_contra hn
  have hpos : (0 : ℚ) < 2 ^ l := zpow_pos two_pos _
  have hle := ((le_floorScale_iff (t + 1) mag e l).1 (by omega)).trans h
  rw [mul_le_mul_iff_left₀ hpos] at hle
  norm_cast at hle
  omega

/-! ### A rounded magnitude stays within its format (R77) -/

/-- A format whose magnitudes up to the largest one are floored to codes up to its own, which is reached by the largest one alone,
rounds into its codes. -/
theorem round_code_le {f : Fmt} (mag : Nat) (e : Int) (md : Rnd)
    (hle : (mag : ℚ) * 2 ^ e ≤ dyVal (f.mag f.top) → f.floorCode mag e ≤ f.top)
    (htop : f.floorCode mag e = f.top → dyVal (f.mag f.top) ≤ (mag : ℚ) * 2 ^ e) : (f.round md mag e).code ≤ f.top := by
  unfold Fmt.round
  dsimp only
  split
  · exact le_rfl
  · next hbeyond =>
    rw [dyLt_iff, not_lt] at hbeyond
    have hcode := hle hbeyond
    split
    · exact hcode
    · next hexact =>
      have hbelow : f.floorCode mag e < f.top := by
        refine lt_of_le_of_ne hcode fun heq => hexact ?_
        rw [heq, dyEqv_iff]
        exact le_antisymm (htop heq) hbeyond
      have hpick (q : Prop) [Decidable q] : (if q then f.floorCode mag e + 1 else f.floorCode mag e) ≤ f.top := by
        split
        · exact hbelow
        · exact hcode
      cases md with
      | sr r => exact hpick _
      | rne => exact hpick _

/-- The floored code of a Q4 magnitude, by its number of quarters (R62). -/
theorem q4_floorCode (mag : Nat) (e : Int) : Fmt.q4.floorCode mag e =
    if floorScale mag e (-2) < 3 then 0 else if floorScale mag e (-2) < 4 then 1 else if floorScale mag e (-2) < 6 then 2
    else if floorScale mag e (-2) < 8 then 3 else if floorScale mag e (-2) < 12 then 4 else if floorScale mag e (-2) < 16 then 5
    else if floorScale mag e (-2) < 24 then 6 else 7 := rfl

theorem q4_round_code_le (md : Rnd) (mag : Nat) (e : Int) : (Fmt.q4.round md mag e).code ≤ 7 := by
  refine round_code_le (f := .q4) mag e md (fun _ => ?_) fun h => ?_
  · rw [q4_floorCode]
    simp only [Fmt.top]
    split_ifs <;> omega
  · have hn : 24 ≤ floorScale mag e (-2) := by
      by_contra hn
      rw [q4_floorCode] at h
      simp only [Fmt.top] at h
      split_ifs at h <;> omega
    exact (le_floorScale_iff 24 mag e (-2)).1 hn

/-- The floored code of a Q8 magnitude, by its number of units (R63). -/
theorem q8_floorCode (mag : Nat) (e : Int) : Fmt.q8.floorCode mag e =
    if floorScale mag e (-9) < 16 then floorScale mag e (-9)
    else (Nat.log2 (floorScale mag e (-9)) - 3) * 8 + floorScale mag e (-9) / 2 ^ (Nat.log2 (floorScale mag e (-9)) - 3) := rfl

/-- The largest Q8 magnitude, 480, is 15 × 2^14 units. -/
theorem q8_top_val : dyVal (Fmt.q8.mag Fmt.q8.top) = ((15 * 2 ^ 14 : Nat) : ℚ) * 2 ^ (-9 : Int) := by
  have hmag : Fmt.q8.mag Fmt.q8.top = { m := 15, e := 5 } := by decide
  rw [hmag, dyVal]
  norm_num

/-- A number of at least 16 is `2^k` times a number from 8 to below 16, and less. -/
theorem log2_octave {n : Nat} (h : 16 ≤ n) : ∃ k, Nat.log2 n - 3 = k ∧ 8 * 2 ^ k ≤ n ∧ n < 16 * 2 ^ k := by
  have hne : n ≠ 0 := by omega
  have hlog : 4 ≤ Nat.log2 n := (Nat.le_log2 hne).2 h
  obtain ⟨k, hk⟩ := Nat.exists_eq_add_of_le (show 3 ≤ Nat.log2 n by omega)
  refine ⟨k, by omega, ?_, ?_⟩
  · have := (Nat.le_log2 hne).1 hk.ge
    rwa [pow_add] at this
  · have := (Nat.log2_lt hne).1 (show Nat.log2 n < 4 + k by omega)
    rwa [pow_add] at this

theorem q8_round_code_le (md : Rnd) (mag : Nat) (e : Int) : (Fmt.q8.round md mag e).code ≤ 127 := by
  refine round_code_le (f := .q8) mag e md (fun h => ?_) fun h => ?_
  · rw [q8_top_val] at h
    have hn := floorScale_le h
    rw [q8_floorCode]
    split
    · simp only [Fmt.top]; omega
    · next hbig =>
      obtain ⟨k, hk, hlo, hhi⟩ := log2_octave (le_of_not_gt hbig)
      rw [hk]
      have hpow : k ≤ 14 := by
        by_contra hgt
        have := Nat.pow_le_pow_right (show 0 < 2 by omega) (show 15 ≤ k by omega)
        omega
      have hdiv : floorScale mag e (-9) / 2 ^ k < 16 := Nat.div_lt_of_lt_mul (by rwa [Nat.mul_comm])
      simp only [Fmt.top]
      omega
  · rw [q8_top_val]
    refine (le_floorScale_iff _ mag e (-9)).1 ?_
    rw [q8_floorCode] at h
    split at h
    · simp only [Fmt.top] at h; omega
    · next hbig =>
      obtain ⟨k, hk, hlo, hhi⟩ := log2_octave (le_of_not_gt hbig)
      rw [hk] at h
      have hdiv : floorScale mag e (-9) / 2 ^ k < 16 := Nat.div_lt_of_lt_mul (by rwa [Nat.mul_comm])
      simp only [Fmt.top] at h
      obtain hk14 | hk14 := Nat.lt_or_ge 14 k
      · have := Nat.pow_le_pow_right (show 0 < 2 by omega) (show 15 ≤ k by omega)
        omega
      · have hfull : k = 14 ∧ floorScale mag e (-9) / 2 ^ k = 15 := by omega
        obtain ⟨rfl, hq⟩ := hfull
        exact ((Nat.le_div_iff_mul_le (by decide)).1 hq.ge)

/-! ### O60 -/

/-- A Q4 or Q8 result is written with a sign only where its magnitude is not zero (R62, R63). -/
theorem write_code_signed {f : Fmt} (hf : (f == .q4 || f == .q8) = true) (hinv : f.invalid = 0) (htop : f.top + 1 = 2 ^ f.signBit) (md : Rnd)
    (x : Exact) (hround : ∀ mag e, (f.round md mag e).code ≤ f.top) :
    (f.write md x).code < 2 ^ (f.signBit + 1) ∧ (f.write md x).code ≠ 2 ^ f.signBit := by
  unfold Fmt.write
  split
  · dsimp only
    rw [hinv]
    exact ⟨by positivity, by positivity⟩
  · next v _ =>
    have hc := hround v.mag v.e
    have hpow : 2 ^ (f.signBit + 1) = 2 * 2 ^ f.signBit := Nat.pow_succ'
    dsimp only
    rw [hf, Bool.true_and]
    by_cases hz : (f.round md v.mag v.e).code = 0
    · have hplain : (v.neg && !(f.round md v.mag v.e).code == 0) = false := by simp [hz]
      have hpos := Nat.two_pow_pos f.signBit
      rw [hplain, hz, if_neg Bool.false_ne_true]
      omega
    · split <;> omega

theorem q8_mag_small {c : Nat} (h : c < 16) : Fmt.q8.mag c = { m := c, e := -9 } := if_pos h

theorem q8_mag_big {c : Nat} (h : 16 ≤ c) : Fmt.q8.mag c = { m := (8 + c % 8 : Nat), e := ((c / 8 : Nat) : Int) - 10 } := by
  refine (if_neg (Nat.not_lt.2 h)).trans ?_
  rw [Dy.mk.injEq]
  simp only [Fmt.frac, Fmt.lsb]
  omega

/-- The value of a Q8 magnitude code, by its exponent field (R63). -/
theorem q8_mag_value (d : Nat) : ((Fmt.q8.mag d).m.natAbs : ℚ) * 2 ^ (Fmt.q8.mag d).e =
    if d / 8 = 0 then ((d % 8 : Nat) : ℚ) * 2 ^ (-9 : Int) else (1 + ((d % 8 : Nat) : ℚ) / 8) * 2 ^ (((d / 8 : Nat) : Int) - 7) := by
  obtain hsmall | hbig := Nat.lt_or_ge d 16
  · rw [q8_mag_small hsmall, Int.natAbs_natCast]
    split
    · next h0 => rw [Nat.mod_eq_of_lt (by omega)]
    · next h0 =>
      have h1 : d / 8 = 1 := by omega
      have hd8 : d = 8 + d % 8 := by omega
      rw [h1]
      conv_lhs => rw [hd8]
      push_cast
      norm_num
      ring
  · have h0 : ¬ d / 8 = 0 := by omega
    rw [q8_mag_big hbig, Int.natAbs_natCast, if_neg h0]
    have hsplit : (2 : ℚ) ^ (((d / 8 : Nat) : Int) - 7) = 8 * 2 ^ (((d / 8 : Nat) : Int) - 10) := by
      have h3 : ((d / 8 : Nat) : Int) - 7 = 3 + (((d / 8 : Nat) : Int) - 10) := by omega
      rw [h3, zpow_add₀ two_ne_zero]
      norm_num
    rw [hsplit]
    push_cast
    ring

/-- Settles O60: each code by its fields, and what is written by the bound on a rounded magnitude. -/
theorem q4Q8Codes : Obligations.Q4Q8Codes := by
  unfold Obligations.Q4Q8Codes
  refine ⟨fun c hc => ⟨_, rfl, ?_, ?_⟩, fun c hc => ⟨_, rfl, ?_, ?_⟩, fun md x => ?_⟩
  · interval_cases c <;> decide
  · interval_cases c <;> norm_num [Fmt.mag, q4Quarters, Fmt.signBit]
  · have hbit : bitOf c 7 = decide (128 ≤ c) := by
      rw [Bool.eq_iff_iff, bitOf, beq_iff_eq, decide_eq_true_iff, bits]
      omega
    have hnz : (c % 2 ^ Fmt.q8.signBit != 0) = decide (c % 128 ≠ 0) := by
      rw [Bool.eq_iff_iff, bne_iff_ne, decide_eq_true_iff]
      rfl
    exact congrArg₂ (· && ·) hbit hnz
  · have hexp : c / 8 % 16 = c % 128 / 8 := by omega
    have hfrac : c % 8 = c % 128 % 8 := by omega
    rw [hexp, hfrac]
    exact q8_mag_value _
  · obtain ⟨hlt4, hne4⟩ := write_code_signed (f := .q4) rfl rfl rfl md x (q4_round_code_le md)
    obtain ⟨hlt8, hne8⟩ := write_code_signed (f := .q8) rfl rfl rfl md x (q8_round_code_le md)
    exact ⟨hlt4, hne4, hlt8, hne8⟩

end Sys2Proof.Proofs
end

section
/-! SUPPORT. Where a block's issue goes on, and O51: the CTL instructions (R182, R183, R190). -/
namespace Sys2Proof.Proofs
open Sys2Proof Sys2Proof.Machine

/-! ### The end of a loop's pass -/

/-- A register that no open loop counts stands where issue goes on. -/
theorem loopBack_idx {l : List LoopSt} {dst : Nat} (h : ∀ x ∈ l, x.dst ≠ dst) (n : Nat) (ix : List (BitVec 32)) :
    (loopBack l n ix).2.2[dst]? = ix[dst]? := by
  induction l generalizing n ix with
  | nil => rfl
  | cons a l ih =>
    have hkeep : (setAt ix a.dst ((ix[a.dst]?).getD 0 + 1))[dst]? = ix[dst]? := setAt_ne _ _ (h a List.mem_cons_self).symm
    unfold loopBack
    dsimp only
    split
    · split
      · exact hkeep
      · exact (ih (fun x hx => h x (List.mem_cons_of_mem a hx)) _ _).trans hkeep
    · rfl

section
variable (k : Block)

theorem goto_idx {dst : Nat} (h : ∀ l ∈ k.loops, l.dst ≠ dst) (n : Nat) : (k.goto n).idx[dst]? = k.idx[dst]? := loopBack_idx h n k.idx

theorem next_no_loop (h : k.loops = []) : k.next = { k with pc := k.pc + 1 } := k.goto_no_loop _ h

/-- With no loop on it, a register takes what is written. -/
theorem setIx_eq (seed : Nat) {dst : Nat} (h : ∀ l ∈ k.loops, l.dst ≠ dst) (v : BitVec 32) : k.setIx seed dst v = { k with idx := setAt k.idx dst v } := by
  have hany : ¬ (k.loops.any fun l => l.dst == dst) = true := by simpa using h
  rw [Block.setIx]
  simp only [if_neg hany]

end

/-! ### A row that changes one block -/

/-- Issue that goes on changes the block alone, and the interrupt lines follow. -/
theorem updBlock_only (s : State) (b : Nat) (f : Block → Block) (n : Nat) : s.OnlyBlock ({ s.updBlock b f with fresh := n } : State).settle b :=
  ⟨fun _ hc => State.block_updBlock_ne s f hc, rfl, rfl, rfl, rfl, rfl, rfl, rfl, rfl, rfl, rfl, rfl, rfl, rfl, rfl, rfl⟩

theorem updBlock_block (s : State) (b : Nat) (f : Block → Block) : ((s.updBlock b f).burn.settle).block b = f (s.block b) :=
  State.block_updBlock_same s b f

section
variable {s : State} {b : Nat} {ti : TI} {x : Cmd} {p : Program} {w : Nat} (hat : s.Stands b ti x p w)
include hat

/-- What a row does at the instruction that it names. -/
theorem withTI_stands (f : Cmd → Program → Nat → State) : s.withTI b ti f = (f x p w).settle := State.withTI_next f hat.1 hat.2

/-- A CTL that writes a register which no open loop counts. -/
theorem ctlTI_writes {dst : Nat} (hloops : ∀ l ∈ (s.block b).loops, l.dst ≠ dst) (hdst : dst < (s.block b).idx.length)
    (f : (Nat → BitVec 32) → BitVec 32) :
    let t := s.ctlTI b ti dst f
    let v := f (fun n => ((s.block b).idx[n]?).getD 0)
    s.OnlyBlock t b ∧ (t.block b).idx[dst]? = some v ∧ (t.block b).bs = (s.block b).bs ∧ (t.block b).queue = (s.block b).queue ∧
      ((s.block b).loops = [] → (t.block b).pc = (s.block b).pc + 1 ∧ (t.block b).loops = [] ∧
        ∀ n, n ≠ dst → (t.block b).idx[n]? = (s.block b).idx[n]?) := by
  intro t v
  have ht : t = ((s.updBlock b fun k => (k.setIx s.fresh dst (f fun n => (k.idx[n]?).getD 0)).next).burn).settle := withTI_stands hat _
  have hb : t.block b = Block.next { s.block b with idx := setAt (s.block b).idx dst v } := by
    rw [ht, updBlock_block]
    exact congrArg Block.next (setIx_eq _ _ hloops v)
  refine ⟨?_, ?_, ?_, ?_, fun hnone => ?_⟩
  · rw [ht]
    exact updBlock_only ..
  · rw [hb]
    exact (goto_idx { s.block b with idx := setAt (s.block b).idx dst v } hloops _).trans (setAt_same _ _ _ hdst)
  · rw [hb]
    rfl
  · rw [hb]
    rfl
  · have hb' : t.block b = { s.block b with idx := setAt (s.block b).idx dst v, pc := (s.block b).pc + 1 } := hb.trans (next_no_loop _ hnone)
    rw [hb']
    exact ⟨rfl, hnone, fun n hn => setAt_ne _ _ hn⟩

/-- A LOOP in no other loop, by its count (R183). -/
theorem execLoop_eq {dst sa body : Nat} {imm : BitVec 32} (hti : ti = .ctl 2 dst sa 0 imm body) : exec (.loop b dst sa imm body) s =
    .next ((s.updBlock b (fun k => k.loop s.fresh dst sa imm body)).burn).settle := by
  subst hti
  exact congrArg Host.Outcome.next (withTI_stands hat _)

end

theorem loop_no_loop {k : Block} (h : k.loops = []) (seed dst sa : Nat) (imm : BitVec 32) (body : Nat) :
    k.loop seed dst sa imm body =
      if (imm + (k.idx[sa]?).getD 0).toInt.toNat = 0 then { k with idx := setAt k.idx dst 0, pc := k.pc + 1 + body }
      else { k with
        idx := setAt k.idx dst 0, pc := k.pc + 1,
        loops := [{ first := k.pc + 1, stop := k.pc + 1 + body, left := (imm + (k.idx[sa]?).getD 0).toInt.toNat - 1, dst := dst }] } := by
  have hset : k.setIx seed dst 0 = { k with idx := setAt k.idx dst 0 } := setIx_eq k seed (by simp [h]) 0
  unfold Block.loop
  dsimp only
  rw [hset, h]
  split
  · exact Block.goto_no_loop _ _ rfl
  · rfl

/-! ### O51 -/

/-- Settles O51: each CTL by the register it writes and where issue goes on. -/
theorem controlInstructions : Obligations.ControlInstructions := by
  unfold Obligations.ControlInstructions
  refine ⟨fun s i ti b dst sa sb imm v x p w hrow hat hloops hdst => ?_, fun s b imm x p w hat => ?_,
    fun s b dst sa body n imm x p w hat hcount hnone hdst => ?_, fun s b dst sa body imm x p w hat hcount hnone => ?_,
    fun k l hl hstop hdst => ?_, next_no_loop⟩
  · obtain ⟨rfl, rfl, rfl⟩ | ⟨rfl, rfl, rfl⟩ | ⟨rfl, rfl, rfl⟩ | ⟨rfl, rfl, rfl⟩ | ⟨rfl, rfl, himm, rfl⟩ | ⟨rfl, rfl, himm, rfl⟩ := hrow
    · exact ⟨_, rfl, ctlTI_writes hat hloops hdst _⟩
    · exact ⟨_, rfl, ctlTI_writes hat hloops hdst _⟩
    · exact ⟨_, rfl, ctlTI_writes hat hloops hdst _⟩
    · exact ⟨_, rfl, ctlTI_writes hat hloops hdst _⟩
    · rw [Int.fdiv_eq_ediv_of_nonneg _ (by omega)]
      exact ⟨_, rfl, ctlTI_writes hat hloops hdst _⟩
    · rw [Int.fdiv_eq_ediv_of_nonneg _ (by omega), ← Int.emod_def]
      exact ⟨_, rfl, ctlTI_writes hat hloops hdst _⟩
  · exact congrArg Host.Outcome.next (withTI_stands hat _)
  · refine ⟨_, execLoop_eq hat rfl, updBlock_only .., ?_⟩
    rw [updBlock_block, loop_no_loop hnone, hcount, Int.toNat_natCast]
    refine ⟨?_, fun h0 => ?_, fun h1 => ?_⟩
    · split <;> exact setAt_same _ _ _ hdst
    · rw [if_pos h0]
      exact ⟨rfl, hnone⟩
    · rw [if_neg (by omega)]
      exact ⟨rfl, rfl⟩
  · refine ⟨_, execLoop_eq hat rfl, updBlock_only .., ?_⟩
    have hzero : (imm + ((s.block b).idx[sa]?).getD 0).toInt.toNat = 0 := Int.toNat_of_nonpos hcount.le
    rw [updBlock_block, loop_no_loop hnone, if_pos hzero]
  · have hnext : k.next = k.goto l.stop := by rw [Block.next, hstop]
    have hgoto : k.goto l.stop = { k with
        idx := setAt k.idx l.dst ((k.idx[l.dst]?).getD 0 + 1), loops := if 0 < l.left then [{ l with left := l.left - 1 }] else [],
        pc := if 0 < l.left then l.first else l.stop } := by
      rw [Block.goto, hl]
      by_cases hleft : 0 < l.left
      · simp [loopBack, hleft]
      · simp [loopBack, hleft]
    rw [hnext, hgoto]
    refine ⟨setAt_same _ _ _ hdst, fun hleft => ?_, fun hleft => ?_⟩
    · simp [hleft]
    · simp [hleft]

end Sys2Proof.Proofs
end

section
/-! SUPPORT. O52: what TQWAIT, FENCE, BAR, LAND and END wait for and what they then do (R167, R177 to R179, R189). -/
namespace Sys2Proof.Proofs
open Sys2Proof Sys2Proof.Machine

section
variable {s : State} {b : Nat} {x : Cmd} {p : Program} {w : Nat}

/-! ### BAR -/

/-- What a barrier that the last block of a group reaches does to a block of the group (R178). -/
def barRelease (n : Nat) (y : Block) : Block := if y.barWait && y.bars == n then { y with barWait := false }.next else y

/-- What the release of a barrier lets every block of its RUN see (R167). -/
def barSeen (y : Cmd) : Cmd := { y with writes := y.writes.map (fun w => if w.lvl = 1 then { w with lvl := 2 } else w) }

theorem barSeen_writes (y : Cmd) : ∀ z ∈ (barSeen y).writes, z.lvl ≠ 1 := by
  intro z hz
  obtain ⟨u, _, rfl⟩ := List.mem_map.1 hz
  split
  · exact (by decide : (2 : Nat) ≠ 1)
  · assumption

/-- A block that waits at the barrier of its group goes on, outside a loop (R178). -/
theorem barRelease_waits {y : Block} {n : Nat} (hwait : y.barWait = true) (hbars : y.bars = n) (hloops : y.loops = []) :
    barRelease n y = { y with barWait := false, pc := y.pc + 1 } := by
  have hgate : (y.barWait && y.bars == n) = true := by simp [hwait, hbars]
  exact (if_pos hgate).trans (next_no_loop { y with barWait := false } hloops)

theorem barTI_eq (hat : s.Stands b (.sync 3 0 0) x p w) (hwait : (s.block b).barWait = false) : s.barTI b =
    (if x.blocks.all (fun c => decide ((s.block b).bars + 1 ≤
        ((s.setBlock b { s.block b with bars := (s.block b).bars + 1, barWait := true }).block c).bars)) then
      (x.blocks.foldl (fun (t : State) c => t.updBlock c (barRelease ((s.block b).bars + 1)))
        (s.setBlock b { s.block b with bars := (s.block b).bars + 1, barWait := true })).updCmd x.id barSeen
    else s.setBlock b { s.block b with bars := (s.block b).bars + 1, barWait := true }).settle := by
  have hno : ¬ (s.block b).barWait = true := Bool.eq_false_iff.1 hwait
  refine (withTI_stands hat _).trans (congrArg State.settle ?_)
  exact if_neg hno

/-! ### LAND -/

/-- The bytes of a landing area whose staged units are whole. -/
theorem area_bytes_length {a : Area} (h : ∀ u, (Tab.get (zeros 64) a.staged u).length = 64) : a.bytes.length = 64 * a.units := by
  simp [Area.bytes, List.length_flatMap, h, Nat.mul_comm]

/-- The landed block: the bytes of its area in the block store, the area consumed, and issue going on (R179). -/
theorem land_block (k id : Nat) (a : Area) : ∃ c, (((s.landArea b k id a).updBlock b Block.next).settle).block b =
    Block.next { s.block b with bs := (s.block b).bs.writeN a.addr a.bytes, chans := c } := by
  rw [State.block_settle, State.block_updBlock_same, State.landArea, State.updChan, State.block_updBlock_same, State.block_updBlock_same]
  exact ⟨_, rfl⟩

theorem land_only (k id : Nat) (a : Area) : s.OnlyBlock (((s.landArea b k id a).updBlock b Block.next).settle) b :=
  ⟨fun _ hc => (State.block_updBlock_ne _ _ hc).trans ((State.block_updBlock_ne _ _ hc).trans (State.block_updBlock_ne s _ hc)),
    rfl, rfl, rfl, rfl, rfl, rfl, rfl, rfl, rfl, rfl, rfl, rfl, rfl, rfl, rfl⟩

/-! ### END -/

theorem setBlock_setBlock (k l : Block) : (s.setBlock b k).setBlock b l = s.setBlock b l :=
  congrArg (fun t => { s with blocks := t }) (Tab.set_set_same ..)

/-- The block at its END: the entries of its tile queue are discarded once no vector instruction is left (R189). -/
def endTidied (s : State) (b : Nat) : State :=
  if (s.block b).queue.all (fun q => q.engine != 1) then s.setBlock b { s.block b with tq := [] } else s

theorem endTidied_block (s : State) (b : Nat) : ∃ l, (endTidied s b).block b = { s.block b with tq := l } := by
  unfold endTidied
  split
  · exact ⟨[], State.block_setBlock_same ..⟩
  · exact ⟨(s.block b).tq, rfl⟩

theorem ctlEndTI_eq (hat : s.Stands b (.ctl 0 0 0 0 0 0) x p w) : s.ctlEndTI b =
    (if ((endTidied s b).block b).queue.isEmpty && ((endTidied s b).block b).drain.isNone && x.passIdle b then
      (endTidied s b).setBlock b { (endTidied s b).block b with ended := true } else endTidied s b).settle :=
  withTI_stands hat _

end

/-! ### O52 -/

/-- Settles O52: each SYNC instruction, and END, by what it waits for. -/
theorem syncInstructions : Obligations.SyncInstructions := by
  unfold Obligations.SyncInstructions
  refine ⟨fun s b a x p w hat => ?_, fun s b mask x p w hat => ?_, fun s b c x p w hat hblocks hbc hwait hloops => ⟨fun hbars hcwait hcloops => ?_,
    fun hbars => ?_⟩, fun s b ch x p w hat => ?_, fun s b x p w hat => ?_⟩
  · have hgate : ((s.block b).queue.all (fun q => q.engine != 1) && decide (a + 1 ≤ (s.block b).tq.length)) = true ↔
        (∀ q ∈ (s.block b).queue, q.engine ≠ 1) ∧ a + 1 ≤ (s.block b).tq.length := by simp
    refine ⟨fun h => congrArg Host.Outcome.next ?_, fun h => congrArg Host.Outcome.next ?_⟩
    · exact (withTI_stands hat _).trans (congrArg State.settle (if_pos (hgate.2 h)))
    · exact (withTI_stands hat _).trans (congrArg State.settle (if_neg (mt hgate.1 h)))
  · have hgate : ((List.range 6).all fun i => !bitOf mask i || s.quiet x b i) = true ↔ ∀ n, n < 6 → bitOf mask n = true → s.quiet x b n = true := by
      simp only [List.all_eq_true, List.mem_range, Bool.or_eq_true, Bool.not_eq_true']
      exact forall₂_congr fun n _ => ⟨fun h hm => h.resolve_left (by simp [hm]), fun h => (Bool.eq_false_or_eq_true _).symm.imp_right h⟩
    refine ⟨fun h => congrArg Host.Outcome.next ?_, fun ⟨n, hn, hbit, hquiet⟩ => congrArg Host.Outcome.next ?_⟩
    · exact (withTI_stands hat _).trans (congrArg State.settle (if_pos (hgate.2 h)))
    · have hnot : ¬ ((List.range 6).all fun i => !bitOf mask i || s.quiet x b i) = true := fun h => by simpa [hquiet] using hgate.1 h n hn hbit
      exact (withTI_stands hat _).trans (congrArg State.settle (if_neg hnot))
  · have hgate : (x.blocks.all (fun c => decide ((s.block b).bars + 1 ≤
        ((s.setBlock b { s.block b with bars := (s.block b).bars + 1, barWait := true }).block c).bars))) = true := by
      rw [hblocks]
      simp [State.block_setBlock_ne s _ hbc.symm, hbars]
    refine ⟨_, congrArg Host.Outcome.next ((barTI_eq hat hwait).trans (congrArg State.settle (if_pos hgate))), ?_⟩
    rw [hblocks]
    generalize hu : s.setBlock b { s.block b with bars := (s.block b).bars + 1, barWait := true } = u
    have hub : u.block b = { s.block b with bars := (s.block b).bars + 1, barWait := true } := by rw [← hu]; exact State.block_setBlock_same ..
    have huo {d : Nat} (hd : d ≠ b) : u.block d = s.block d := by rw [← hu]; exact State.block_setBlock_ne s _ hd
    refine ⟨?_, ?_, fun d hdb hdc => ?_, fun y hy hid => ?_, ?_⟩
    · refine (State.block_updBlock_ne _ _ hbc).trans ((State.block_updBlock_same _ b _).trans ?_)
      rw [hub]
      refine (barRelease_waits (y := { s.block b with bars := (s.block b).bars + 1, barWait := true }) rfl rfl hloops).trans ?_
      exact congrArg (fun v => { s.block b with bars := (s.block b).bars + 1, pc := (s.block b).pc + 1, barWait := v }) hwait.symm
    · refine (State.block_updBlock_same _ c _).trans (congrArg _ (State.block_updBlock_ne _ _ hbc.symm) |>.trans ?_)
      rw [huo hbc.symm, barRelease_waits hcwait hbars hcloops]
    · exact (State.block_updBlock_ne _ _ hdc).trans ((State.block_updBlock_ne _ _ hdb).trans (huo hdb))
    · obtain ⟨v, _, rfl⟩ := List.mem_map.1 hy
      by_cases hv : v.id = x.id
      · rw [if_pos hv]
        exact barSeen_writes v
      · rw [if_neg hv] at hid
        exact absurd hid hv
    · rw [← hu]
      rfl
  · have hgate : ¬ (x.blocks.all (fun c => decide ((s.block b).bars + 1 ≤
        ((s.setBlock b { s.block b with bars := (s.block b).bars + 1, barWait := true }).block c).bars))) = true := by
      rw [hblocks]
      simp [State.block_setBlock_ne s _ hbc.symm, hbars]
    exact congrArg Host.Outcome.next ((barTI_eq hat hwait).trans (congrArg State.settle (if_neg hgate)))
  · have hland : s.landTI b ch = (match (s.chan b (x.ctx * 64 + ch)).oldest with
        | none => s
        | some a => if a.complete then (s.landArea b (x.ctx * 64 + ch) x.id a).updBlock b Block.next else s).settle := withTI_stands hat _
    refine ⟨fun h => congrArg Host.Outcome.next (hland.trans (congrArg State.settle ?_)), fun a ha hdone hstaged => ?_⟩
    · cases ha : (s.chan b (x.ctx * 64 + ch)).oldest with
      | none => rfl
      | some a => exact if_neg (Bool.eq_false_iff.1 (h a ha))
    · have hlanded : s.landTI b ch = ((s.landArea b (x.ctx * 64 + ch) x.id a).updBlock b Block.next).settle := by
        rw [hland, ha]
        exact congrArg State.settle (if_pos hdone)
      have hlen := area_bytes_length hstaged
      obtain ⟨c, hb⟩ := land_block (s := s) (b := b) (x.ctx * 64 + ch) x.id a
      refine ⟨_, congrArg Host.Outcome.next hlanded, land_only .., ?_, fun k hk => ?_, fun hloops => ?_⟩ <;> rw [hb]
      · rw [← hlen]
        exact Mem.readN_writeN ..
      · rw [← hlen] at hk
        exact hk.elim (Mem.read_writeN_before _ _) (Mem.read_writeN_after _ _)
      · exact congrArg Block.pc (next_no_loop _ hloops)
  · have hended : (s.block b).ended = false := (State.fetchTI_some hat.1).2.2.1
    refine ⟨fun hqueue hdrain hpass => congrArg Host.Outcome.next ?_, fun h => ⟨_, rfl, ?_⟩⟩
    · have htidy : endTidied s b = s.setBlock b { s.block b with tq := [] } := by
        rw [endTidied, hqueue]
        rfl
      rw [ctlEndTI_eq hat, htidy, State.block_setBlock_same, setBlock_setBlock]
      refine congrArg State.settle (if_pos ?_)
      simp [hqueue, hdrain, hpass]
    · obtain ⟨l, hl⟩ := endTidied_block s b
      have hnot : ¬ (((endTidied s b).block b).queue.isEmpty && ((endTidied s b).block b).drain.isNone && x.passIdle b) = true := by
        rw [hl]
        simp only [Bool.and_eq_true, List.isEmpty_iff, Option.isNone_iff_eq_none, not_and, Bool.not_eq_true]
        exact fun ⟨hqueue, hdrain⟩ => h.elim (fun hq => absurd hqueue hq) (fun h => h.elim (fun hd => absurd hdrain hd) id)
      rw [ctlEndTI_eq hat, if_neg hnot]
      exact (congrArg Block.ended hl).trans hended

end Sys2Proof.Proofs
end

section
/-! SUPPORT. O53: drains and done acknowledgements (R79, R111, R114, R116, R189). -/
namespace Sys2Proof.Proofs
open Sys2Proof Sys2Proof.Machine

/-! ### Empty queues -/

/-- A block with empty queues has nothing for its engines to run. -/
theorem pumpAll_idle {s : State} {b : Nat} (h : (s.block b).queue = []) : s.pumpAll b = s := by
  have hnone (x : Cmd) (p : Program) : s.eligible x p b = [] := by
    rw [State.eligible, h]
    rfl
  rw [State.pumpAll, h]
  unfold State.pump
  cases s.runOf b with
  | none => rfl
  | some r => simp [hnone]

/-! ### The end of a drain -/

/-- The values of a finished tile (R114). -/
def drainVals (d : Drain) : List Machine.Num := (List.range 4096).map (fun e => (w40At d.tile e).v)

section
variable (s : State) (b : Nat) (x : Cmd) {d : Drain} (hcks : d.cks = false)
include hcks

/-- A finished tile that goes to the tile queue: as its last entry, rounded to W40 (R114, R141). -/
theorem endDrain_queue (hfold : d.toFold = false) : ∃ c, s.endDrain b x d [] =
    { s.setBlock b { s.block b with
        drain := none, tq := (s.block b).tq ++ [tileMem ((drainVals d).map fun v => BitVec.ofNat 40 (Fmt.w40.write .rne { v := v }).code)] } with
      cmds := c } := by
  unfold State.endDrain
  simp only [hcks, hfold, List.find?_nil, if_neg Bool.false_ne_true, drainVals]
  generalize (List.range 4096).map (fun e => (w40At d.tile e).v) = vals
  exact ⟨_, rfl⟩

/-- A finished tile that goes to a fold slot: each value added with one rounding (R79, R111). -/
theorem endDrain_fold (hfold : d.toFold = true) : ∃ c n, s.endDrain b x d [] =
    { s.setBlock b (({ s.block b with drain := none } : Block).setSlot d.slot
        (tileMem ((foldValues d.rnd s.fresh d.init ((s.block b).slot d.slot).view d (drainVals d)).map (·.1)))) with
      cmds := c, fresh := n } := by
  unfold State.endDrain
  simp only [hcks, hfold, List.find?_nil, if_neg Bool.false_ne_true, if_pos, drainVals]
  generalize (List.range 4096).map (fun e => (w40At d.tile e).v) = vals
  generalize foldValues d.rnd s.fresh d.init ((s.block b).slot d.slot).view d vals = out
  exact ⟨_, _, rfl⟩

end

section
variable {s : State} {b : Nat} {x : Cmd} {p : Program} (hrun : s.runOf b = some (x, p))
include hrun

theorem drainOf_eq {d : Drain} (hd : (s.block b).drain = some d) (u : List (Nat × W40)) :
    s.drainOf b u = if (s.block b).drains p d then ((s.endDrain b x d u).pumpAll b).settle else s := by
  rw [State.drainOf, hrun]
  simp only [hd]

/-- A done acknowledgement of a block that has ended and has given none (R189). -/
theorem doneAck_eq (hended : (s.block b).ended = true) (hacked : (s.block b).acked = false) (n : Nat) : s.doneAck b n =
    let u := (s.updBlock b (fun k => { k with acked := true })).updCmd x.id (fun y => { y with cycles := Nat.max y.cycles n, acked := y.acked ++ [b] })
    if x.blocks.all (fun c => (u.block c).acked) then
      (((x.blocks.foldl (fun (t : State) c => t.updBlock c (fun k => k.park x.id t.fresh p)) u).updCmd x.id
        (fun y => { y with phase := .done, final := true })).burn).settle
    else u.settle := by
  have hgate : ((s.block b).ended && !(s.block b).acked) = true := by rw [hended, hacked]; rfl
  rw [State.doneAck, hrun]
  exact if_pos hgate

end

/-- A fold over blocks that gives each what holds of it leaves it so on each. -/
theorem foldl_updBlock_mem {P : Block → Prop} {f : State → Block → Block} (h : ∀ t k, P (f t k)) {l : List Nat} {c : Nat} (hc : c ∈ l) (s : State) :
    P ((l.foldl (fun (t : State) b => t.updBlock b (f t)) s).block c) := by
  have hkeep (l : List Nat) (t : State) (ht : c ∈ l ∨ P (t.block c)) : P ((l.foldl (fun (t : State) b => t.updBlock b (f t)) t).block c) := by
    induction l generalizing t with
    | nil => exact ht.resolve_left List.not_mem_nil
    | cons a l ih =>
      refine ih _ ?_
      by_cases ha : c = a
      · subst ha
        rw [State.block_updBlock_same]
        exact .inr (h _ _)
      · rw [State.block_updBlock_ne _ _ ha]
        exact ht.imp_left fun hm => (List.mem_cons.1 hm).resolve_left ha
  exact hkeep l s (.inl hc)

theorem setSlot_slot (k : Block) (n : Nat) (m : Mem) : (k.setSlot n m).slot n = { k.slot n with working := m, written := true } :=
  Tab.get_upd_same ({} : FoldSlot) k.fold n (fun f => { f with working := m, written := true })

/-- The blocks that a finished RUN leaves (R189). -/
theorem parkAll_blocksOnly (id : Nat) (p : Program) (l : List Nat) (s : State) :
    BlocksOnly s (l.foldl (fun (t : State) c => t.updBlock c (fun k => k.park id t.fresh p)) s) :=
  foldl_rel BlocksOnly.refl BlocksOnly.trans (fun t c => updBlock_blocksOnly t c _) l s

/-- Settles O53: a drain by where its tile goes, and an acknowledgement by whether it is the last of its group. -/
theorem drainsAndAcks : Obligations.DrainsAndAcks := by
  unfold Obligations.DrainsAndAcks
  refine ⟨fun s b x p d hrun hd hcks hqueue => ⟨fun hfold hroom => ?_, fun hfold hfull => congrArg Host.Outcome.next ?_, fun hfold => ?_⟩,
    fun s b n x p hrun hended hacked hcmds => ⟨fun hall hnodup hb => ?_, fun ⟨c, hc, hcb, hopen⟩ => ?_⟩,
    fun s b n x p hrun h => congrArg Host.Outcome.next ?_⟩
  · have hdrains : (s.block b).drains p d = true := by simp [Block.drains, hroom]
    obtain ⟨c, hend⟩ := endDrain_queue s b x hcks hfold
    have hidle : ((s.endDrain b x d []).block b).queue = [] := by
      rw [hend]
      exact (congrArg Block.queue (State.block_setBlock_same s b _)).trans hqueue
    have hexec : exec (.drainEnd b []) s = .next (s.endDrain b x d []).settle := by
      refine congrArg Host.Outcome.next ?_
      rw [drainOf_eq hrun hd, if_pos hdrains, pumpAll_idle hidle]
    refine ⟨_, hexec, ?_, fun c hc => ?_, ?_⟩ <;> rw [hend]
    · refine (State.block_setBlock_same s b _).trans ?_
      rw [drainVals, List.map_map]
      rfl
    · exact State.block_setBlock_ne s _ hc
    · rfl
  · have hdrains : ¬ (s.block b).drains p d = true := by simp [Block.drains, hfold, hfull]
    rw [drainOf_eq hrun hd, if_neg hdrains]
  · have hdrains : (s.block b).drains p d = true := by simp [Block.drains, hfold]
    obtain ⟨c, f, hend⟩ := endDrain_fold s b x hcks hfold
    have hidle : ((s.endDrain b x d []).block b).queue = [] := by
      rw [hend]
      exact (congrArg Block.queue (State.block_setBlock_same s b _)).trans hqueue
    have hexec : exec (.drainEnd b []) s = .next (s.endDrain b x d []).settle := by
      refine congrArg Host.Outcome.next ?_
      rw [drainOf_eq hrun hd, if_pos hdrains, pumpAll_idle hidle]
    have hvals : foldValues d.rnd s.fresh d.init ((s.block b).slot d.slot).view d ((List.range 4096).map fun e => (w40At d.tile e).v) =
        foldValues d.rnd s.fresh d.init ((s.block b).slot d.slot).view d (drainVals d) := rfl
    refine ⟨_, _, hexec, rfl, ?_⟩
    rw [hend, hvals]
    generalize foldValues d.rnd s.fresh d.init ((s.block b).slot d.slot).view d (drainVals d) = out
    have hb := State.block_setBlock_same s b (({ s.block b with drain := none } : Block).setSlot d.slot (tileMem (out.map (·.1))))
    have hslot := setSlot_slot ({ s.block b with drain := none } : Block) d.slot (tileMem (out.map (·.1)))
    refine ⟨?_, ?_, ?_, ?_, ?_, rfl⟩
    · exact (congrArg Block.drain hb :)
    · exact (congrArg (fun k => (k.slot d.slot).working) hb :).trans (congrArg FoldSlot.working hslot :)
    · exact (congrArg (fun k => (k.slot d.slot).written) hb :).trans (congrArg FoldSlot.written hslot :)
    · exact (congrArg (fun k => (k.slot d.slot).committed) hb :).trans (congrArg FoldSlot.committed hslot :)
    · exact (congrArg Block.tq hb :)
  · have hrel : ∀ c ∈ x.blocks, ((s.updBlock b (fun k => { k with acked := true })).block c).acked = true := fun c hc => by
      by_cases hcb : c = b
      · rw [hcb, State.block_updBlock_same]
      · rw [State.block_updBlock_ne _ _ hcb]
        exact hall c hc hcb
    have hgate : (x.blocks.all fun c => ((s.updBlock b (fun k => { k with acked := true })).block c).acked) = true := List.all_eq_true.2 hrel
    refine ⟨_, { x with cycles := Nat.max x.cycles n, acked := x.acked ++ [b], phase := .done, final := true },
      congrArg Host.Outcome.next ((doneAck_eq hrun hended hacked n).trans (if_pos hgate)), ?_, rfl, rfl, rfl, fun c hc => ?_, ?_⟩
    · obtain ⟨k, f, hpark⟩ := parkAll_blocksOnly x.id p x.blocks
        ((s.updBlock b (fun k => { k with acked := true })).updCmd x.id (fun y => { y with cycles := Nat.max y.cycles n, acked := y.acked ++ [b] }))
      rw [hpark]
      simp [State.updCmd, hcmds]
    · exact foldl_updBlock_mem (P := fun k => k.run = none ∧ k.queue = []) (f := fun t k => k.park x.id t.fresh p) (fun t k => ⟨rfl, rfl⟩) hc
        ((s.updBlock b (fun k => { k with acked := true })).updCmd x.id (fun y => { y with cycles := Nat.max y.cycles n, acked := y.acked ++ [b] }))
    · obtain ⟨k, f, hpark⟩ := parkAll_blocksOnly x.id p x.blocks
        ((s.updBlock b (fun k => { k with acked := true })).updCmd x.id (fun y => { y with cycles := Nat.max y.cycles n, acked := y.acked ++ [b] }))
      rw [hpark]
      rfl
  · have hgate : ¬ (x.blocks.all fun c => ((s.updBlock b (fun k => { k with acked := true })).block c).acked) = true := fun hall => by
      have hc' := List.all_eq_true.1 hall c hc
      rw [State.block_updBlock_ne _ _ hcb, hopen] at hc'
      exact absurd hc' Bool.false_ne_true
    refine ⟨_, { x with cycles := Nat.max x.cycles n, acked := x.acked ++ [b] },
      congrArg Host.Outcome.next ((doneAck_eq hrun hended hacked n).trans (if_neg hgate)), ?_, rfl, rfl, ?_, ?_⟩
    · simp [State.updCmd, hcmds]
    · exact (congrArg Block.acked (State.block_updBlock_same s b fun k => { k with acked := true }) :)
    · exact (congrArg Block.run (State.block_updBlock_same s b fun k => { k with acked := true }) :)
  · have hno : ¬ ((s.block b).ended && !(s.block b).acked) = true := by
      simp only [Bool.and_eq_true, not_and, Bool.not_eq_true', Bool.not_eq_false]
      exact fun hended => h.resolve_left (by simp [hended])
    rw [State.doneAck, hrun]
    exact if_neg hno

end Sys2Proof.Proofs
end

section
/-! SUPPORT. A transfer with HBM that a block's queues hold alone, and O49: what LDB and STB move (R167, R175, R188, R299). -/
namespace Sys2Proof.Proofs
open Sys2Proof Sys2Proof.Machine

/-! ### One instruction in a block's queues -/

section
variable {s : State} {b : Nat} {x : Cmd} {p : Program} {q : QI}

/-- The only instruction of a block's queues waits for no other. -/
theorem eligible_single (hq : (s.block b).queue = [q]) : s.eligible x p b = if s.tiReady x p b q then [0] else [] := by
  rw [State.eligible, hq]
  cases h : s.tiReady x p b q <;> simp [List.filter, List.range, List.range.loop, h]

/-- The only instruction of a block's queues, taken out to run. -/
theorem runAt_single (hq : (s.block b).queue = [q]) : s.runAt x p b 0 = (s.setBlock b { s.block b with queue := [] }).runTI x p b q := by
  rw [State.runAt, hq]
  dsimp only [List.getElem?_cons_zero]
  rw [State.updBlock, hq]
  rfl

section
variable {kind : Nat} {m : MovF} (hti : q.ti = some (.mov kind m)) (hkind : kind ≤ 3)
include hti hkind

theorem engine_transfer : q.engine = 2 := by
  rw [QI.engine, hti]
  exact if_pos hkind

theorem tiReady_transfer : s.tiReady x p b q = true := by
  rw [State.tiReady, hti]
  interval_cases kind <;> rfl

theorem runTI_transfer : s.runTI x p b q = s.moveEnd x p b q kind m := by
  rw [State.runTI, hti]
  interval_cases kind <;> rfl

/-- A transfer that its queues hold alone ends, and the engines go on, while its stacks have a DMA engine (R188, R382). -/
theorem transferEnd_single (hrun : s.runOf b = some (x, p)) (hq : (s.block b).queue = [q]) : s.transferEnd b =
    if s.dmaFree x q then ((((s.setBlock b { s.block b with queue := [] }).moveEnd x p b q kind m)).pumpAll b).settle else s := by
  have hengine := engine_transfer hti hkind
  have hready : s.eligible x p b = [0] := (eligible_single hq).trans (if_pos (tiReady_transfer hti hkind))
  rw [State.transferEnd, hrun]
  dsimp only
  rw [hready, hq]
  cases hfree : s.dmaFree x q with
  | true =>
    have hrunAt := (runAt_single (x := x) (p := p) hq).trans (runTI_transfer hti hkind)
    rw [if_pos rfl, ← hrunAt]
    simp only [List.filter, List.getElem?_cons_zero, hengine, hfree]
    rfl
  | false =>
    simp only [List.filter, List.getElem?_cons_zero, hengine, hfree]
    rfl

end
end

/-! ### What a transfer leaves -/

theorem put_frame (k : Block) (p : Program) (a : Int) (l : List Byte) : ∃ m sh la, k.put p a l = { k with bs := m, shadow := sh, land := la } := by
  unfold Block.put
  split
  · exact ⟨_, _, _, rfl⟩
  · exact ⟨k.bs, k.shadow, k.land, rfl⟩

theorem spoil_frame (k : Block) (p : Program) (a : Int) (n seed : Nat) : ∃ m sh la, k.spoil p a n seed = { k with bs := m, shadow := sh, land := la } := by
  unfold Block.spoil
  dsimp only
  split
  · exact ⟨_, _, _, rfl⟩
  · exact ⟨k.bs, k.shadow, k.land, rfl⟩

/-- A store to a region is staged: it changes the commands, memory's undefined bytes, and the numbers of free values. -/
theorem runStore_frame (s : State) (x : Cmd) (b r : Nat) (e : RegEntry) (o : Nat) (l : List Byte) :
    ∃ c m n, s.runStore x b r e o l = { s with cmds := c, hbm := m, fresh := n } := by
  refine foldl_rel (r := fun s t : State => ∃ c m n, t = { s with cmds := c, hbm := m, fresh := n }) (fun s => ⟨s.cmds, s.hbm, s.fresh, rfl⟩) ?_
    (fun t i => ?_) _ s
  · rintro _ _ _ ⟨_, _, _, rfl⟩ ⟨c, m, n, rfl⟩
    exact ⟨c, m, n, rfl⟩
  · dsimp only
    split
    · exact ⟨t.cmds, t.hbm, t.fresh, rfl⟩
    · exact ⟨_, _, _, rfl⟩

theorem moveEnd_queue (s : State) (x : Cmd) (p : Program) (b : Nat) (q : QI) (kind : Nat) (m : MovF) :
    ((s.moveEnd x p b q kind m).block b).queue = (s.block b).queue := by
  unfold State.moveEnd
  dsimp only
  split
  · split
    · rw [State.block_updBlock_same]
      obtain ⟨_, _, _, hput⟩ := put_frame (s.block b) p (movAddr m q)
        (if kind = 0 then s.runLoad x b ((s.ctx x.ctx).region m.aux) (movOffset m q).toNat (movBytes m kind)
         else (List.range (m.count + 1)).flatMap fun i => storeTile m.tkind
            (sub8 (s.runLoad x b ((s.ctx x.ctx).region m.aux) (movOffset m q).toNat (movBytes m kind)) (i * tileBytes m.tkind) (tileBytes m.tkind)))
      rw [hput]
    · rw [State.block_burn, State.block_updBlock_same]
      obtain ⟨_, _, _, hspoil⟩ := spoil_frame (s.block b) p (movAddr m q) (movBytes m kind) s.fresh
      rw [hspoil]
  · generalize (if kind = 1 then (s.block b).take64 p (movAligned m kind q) s.fresh (movAddr m q) (movBytes m kind) else _ : List Byte) = l
    obtain ⟨c, h, n, hstore⟩ := runStore_frame s x b m.aux ((s.ctx x.ctx).region m.aux) (movOffset m q).toNat l
    rw [hstore]
    rfl

/-- A transfer that its queues hold alone, while its stacks have a DMA engine (R188). -/
theorem exec_transferEnd {s : State} {b : Nat} {x : Cmd} {p : Program} {q : QI} {kind : Nat} {m : MovF} (hrun : s.runOf b = some (x, p))
    (hq : (s.block b).queue = [q]) (hti : q.ti = some (.mov kind m)) (hkind : kind ≤ 3) (hfree : s.dmaFree x q = true) :
    exec (.dmaTransferEnd b) s = .next ((s.setBlock b { s.block b with queue := [] }).moveEnd x p b q kind m).settle := by
  have hempty : (((s.setBlock b { s.block b with queue := [] }).moveEnd x p b q kind m).block b).queue = [] := by
    rw [moveEnd_queue, State.block_setBlock_same]
  refine congrArg Host.Outcome.next ?_
  rw [transferEnd_single hti hkind hrun hq, if_pos hfree, pumpAll_idle hempty]

/-! ### LDB (R175) -/

/-- The transfer of an LDB of bytes that lie in the block store. -/
theorem moveEnd_ldb {s : State} {x : Cmd} {p : Program} {b : Nat} {q : QI} {m : MovF} (hgood : movAligned m 0 q = true)
    (hin : p.inStore (movAddr m q) (64 * (m.count + 1)) = true) : ∃ sh la, s.moveEnd x p b q 0 m = s.updBlock b (fun k => { k with
      bs := k.bs.writeN (movAddr m q).toNat (s.runLoad x b ((s.ctx x.ctx).region m.aux) (movOffset m q).toNat (64 * (m.count + 1))),
      shadow := sh, land := la }) := by
  have hbytes : movBytes m 0 = 64 * (m.count + 1) := Nat.mul_comm ..
  have hlen : (s.runLoad x b ((s.ctx x.ctx).region m.aux) (movOffset m q).toNat (64 * (m.count + 1))).length = 64 * (m.count + 1) := by
    simp [State.runLoad]
  have hgate : (movAligned m 0 q && p.inStore (movAddr m q) (movBytes m 0)) = true := by rw [hgood, hbytes, hin]; rfl
  have hmove : s.moveEnd x p b q 0 m =
      s.updBlock b (fun k => k.put p (movAddr m q) (s.runLoad x b ((s.ctx x.ctx).region m.aux) (movOffset m q).toNat (movBytes m 0))) := by
    unfold State.moveEnd
    dsimp only
    rw [if_pos rfl, if_pos hgate, if_pos rfl]
  have hput : (s.block b).put p (movAddr m q) (s.runLoad x b ((s.ctx x.ctx).region m.aux) (movOffset m q).toNat (64 * (m.count + 1))) = _ :=
    if_pos (by rw [hlen]; exact hin)
  rw [hmove, hbytes, State.updBlock, hput]
  exact ⟨_, _, rfl⟩

/-! ### STB (R175, R299) -/

/-- Byte `k` of a store to a region, as it is staged unseen (R167). -/
def storeAt (e : RegEntry) (buf o b : Nat) (l : List Byte) (k : Nat) : Store :=
  { addr := e.key buf (o + k), val := (l[k]?).getD 0, blk := b, lvl := 0 }

/-- Two states of which the second has one command more staged bytes on, of those in `ws`, and undefined bytes of memory. -/
def Staged (s : State) (x : Cmd) (ws : Store → Prop) (t : State) : Prop := ∃ y m n,
  t = { s with cmds := [y], hbm := m, fresh := n } ∧ y.id = x.id ∧ y.phase = x.phase ∧ (∀ z ∈ x.writes, z ∈ y.writes) ∧ ∀ z, ws z → z ∈ y.writes

theorem staged_stage {s t : State} {x : Cmd} {ws : Store → Prop} (h : Staged s x ws t) (e : RegEntry) (buf o b : Nat) (l : List Byte) :
    Staged s x (fun z => ws z ∨ ∃ k, k < l.length ∧ z = storeAt e buf o b l k) (t.stage x.id e buf o b 0 l) := by
  obtain ⟨y, m, n, rfl, hid, hphase, hold, hnew⟩ := h
  have hy : (if y.id = x.id then { y with writes := y.writes ++ (List.range l.length).map (storeAt e buf o b l) } else y) =
      { y with writes := y.writes ++ (List.range l.length).map (storeAt e buf o b l) } := if_pos hid
  refine ⟨{ y with writes := y.writes ++ (List.range l.length).map (storeAt e buf o b l) },
    (({ s with cmds := [y], hbm := m, fresh := n } : State).stage x.id e buf o b 0 l).hbm, n + 1, ?_, hid, hphase, fun z hz => ?_, fun z hz => ?_⟩
  · rw [← hy]
    rfl
  · exact List.mem_append_left _ (hold z hz)
  · obtain hz | ⟨k, hk, rfl⟩ := hz
    · exact List.mem_append_left _ (hnew z hz)
    · exact List.mem_append_right _ (List.mem_map.2 ⟨k, List.mem_range.2 hk, rfl⟩)

/-- A store of whole units of 64 bytes, of a region no part of which is frozen, stages every byte. -/
theorem runStore_staged {s : State} {x : Cmd} {r o n : Nat} {l : List Byte} (hcmds : s.cmds = [x]) (ho : o % 64 = 0) (hl : l.length = 64 * n)
    (hopen : ∀ o, s.drops x r o = false) (b : Nat) (e : RegEntry) :
    Staged s x (fun z => ∃ k, k < 64 * n ∧ z = storeAt e (s.runBuf x e) o b l k) (s.runStore x b r e o l) := by
  have hunits : (o % 64 + l.length + 63) / 64 = n := by omega
  have hfold (i : Nat) (hi : i ≤ n) : Staged s x (fun z => ∃ k, k < 64 * i ∧ z = storeAt e (s.runBuf x e) o b l k)
      ((List.range i).foldl (fun (s : State) i =>
        let lo := Nat.max o ((o / 64 + i) * 64)
        let hi := Nat.min (o + l.length) ((o / 64 + i + 1) * 64)
        if s.drops x r lo then s else s.stage x.id e (s.runBuf x e) lo b 0 (sub8 l (lo - o) (hi - lo))) s) := by
    induction i with
    | zero => exact ⟨x, s.hbm, s.fresh, by rw [← hcmds]; rfl, rfl, rfl, fun _ hz => hz, fun z ⟨k, hk, _⟩ => absurd hk (by omega)⟩
    | succ i ih =>
      obtain ⟨y, m, f, ht, hid, hphase, hold, hnew⟩ := ih (by omega)
      rw [List.range_succ, List.foldl_append, ht]
      have hlo : Nat.max o ((o / 64 + i) * 64) = o + 64 * i := (Nat.max_eq_right (by omega)).trans (by omega)
      have hhi : Nat.min (o + l.length) ((o / 64 + i + 1) * 64) = o + 64 * i + 64 := (Nat.min_eq_right (by omega)).trans (by omega)
      have hdrops : ¬ ({ s with cmds := [y], hbm := m, fresh := f } : State).drops x r (o + 64 * i) = true := Bool.eq_false_iff.1 (hopen _)
      simp only [List.foldl_cons, List.foldl_nil, hlo, hhi, if_neg hdrops]
      have hstep := staged_stage (s := s) (x := x) ⟨y, m, f, rfl, hid, hphase, hold, hnew⟩ e (s.runBuf x e) (o + 64 * i) b
        (sub8 l (o + 64 * i - o) (o + 64 * i + 64 - (o + 64 * i)))
      have hsub : sub8 l (o + 64 * i - o) (o + 64 * i + 64 - (o + 64 * i)) = sub8 l (64 * i) 64 := by congr 1 <;> omega
      obtain ⟨y', m', f', heq, hid', hphase', hold', hnew'⟩ := hstep
      refine ⟨y', m', f', heq, hid', hphase', hold', fun z ⟨k, hk, hz⟩ => hnew' z ?_⟩
      obtain hk' | hk' := Nat.lt_or_ge k (64 * i)
      · exact .inl ⟨k, hk', hz⟩
      · refine .inr ⟨k - 64 * i, ?_, ?_⟩
        · rw [hsub]
          simp [sub8]
          omega
        · rw [hz, hsub]
          have hk64 : k - 64 * i < 64 := by omega
          have hadd : o + 64 * i + (k - 64 * i) = o + k := by omega
          have hix : 64 * i + (k - 64 * i) = k := by omega
          simp [storeAt, sub8, hk64, hadd, hix]
  rw [State.runStore, hunits]
  exact hfold n le_rfl

/-! ### O49 -/

/-- Settles O49: the load writes what it reads into the block store, the store stages what it reads from it. -/
theorem transfersMoveBytes : Obligations.TransfersMoveBytes := by
  unfold Obligations.TransfersMoveBytes
  refine ⟨fun b m s x p q hrun hq hti hfree hgood hin => ?_, fun b m s x p q hrun hcmds hq hti hfree hgood hin hoff hopen => ?_⟩
  · obtain ⟨sh, la, hmove⟩ := moveEnd_ldb (s := s.setBlock b { s.block b with queue := [] }) (x := x) (b := b) hgood hin
    have hat := (State.block_updBlock_same (s.setBlock b { s.block b with queue := [] }) b fun k => { k with
      bs := k.bs.writeN (movAddr m q).toNat (s.runLoad x b ((s.ctx x.ctx).region m.aux) (movOffset m q).toNat (64 * (m.count + 1))),
      shadow := sh, land := la })
    rw [State.block_setBlock_same] at hat
    have hlen : (s.runLoad x b ((s.ctx x.ctx).region m.aux) (movOffset m q).toNat (64 * (m.count + 1))).length = 64 * (m.count + 1) := by
      simp [State.runLoad]
    refine ⟨_, exec_transferEnd hrun hq hti (by omega) hfree, ?_, ?_, ?_, ?_, fun k hk => ?_, fun a ha => ?_⟩ <;> rw [hmove]
    · exact ⟨fun c hc => by rw [State.block_settle, State.block_updBlock_ne _ _ hc, State.block_setBlock_ne _ _ hc],
        rfl, rfl, rfl, rfl, rfl, rfl, rfl, rfl, rfl, rfl, rfl, rfl, rfl, rfl, rfl⟩
    · exact (congrArg Block.queue hat :)
    · exact (congrArg Block.pc hat :)
    · exact (congrArg Block.idx hat :)
    · refine (congrArg (fun y => y.bs.read ((movAddr m q).toNat + k)) hat : _).trans ?_
      refine (Mem.read_writeN_in _ _ (by rw [hlen]; exact hk)).trans ?_
      simp [State.runLoad]
    · refine (congrArg (fun y => y.bs.read a) hat : _).trans ?_
      rw [← hlen] at ha
      exact ha.elim (Mem.read_writeN_before _ _) (Mem.read_writeN_after _ _)
  · have hoffset : (movOffset m q).toNat % 64 = 0 := by
      have hal := hgood
      simp only [movAligned, Bool.and_eq_true, Bool.or_eq_true, decide_eq_true_eq, beq_iff_eq] at hal
      have hmod : movOffset m q % 64 = 0 := hal.2.resolve_left (by omega)
      omega
    have htake : (s.block b).take64 p (movAligned m 1 q) s.fresh (movAddr m q) (movBytes m 1) =
        (s.block b).bs.readN (movAddr m q).toNat (64 * (m.count + 1)) := by
      have hbytes : movBytes m 1 = 64 * (m.count + 1) := Nat.mul_comm ..
      have hgate : (movAligned m 1 q && p.inStore (movAddr m q) (64 * (m.count + 1))) = true := by rw [hgood, hin]; rfl
      rw [hbytes]
      exact if_pos hgate
    generalize hu : s.setBlock b { s.block b with queue := [] } = u
    have hub : u.block b = { s.block b with queue := [] } := by rw [← hu, State.block_setBlock_same]
    have hmove : u.moveEnd x p b q 1 m = (u.runStore x b m.aux ((s.ctx x.ctx).region m.aux) (movOffset m q).toNat
        ((s.block b).bs.readN (movAddr m q).toNat (64 * (m.count + 1)))).burn := by
      have hregion : (u.ctx x.ctx).region m.aux = (s.ctx x.ctx).region m.aux := by rw [← hu]; rfl
      have htake' : (u.block b).take64 p (movAligned m 1 q) u.fresh (movAddr m q) (movBytes m 1) =
          (s.block b).bs.readN (movAddr m q).toNat (64 * (m.count + 1)) := by
        rw [hub, ← htake, ← hu]
        rfl
      unfold State.moveEnd
      dsimp only
      rw [if_neg (by decide), if_pos rfl, htake', hregion]
    obtain ⟨y, hb, f, hstaged, hid, hphase, hold, hnew⟩ := runStore_staged (s := u) (x := x) (r := m.aux)
      (l := (s.block b).bs.readN (movAddr m q).toNat (64 * (m.count + 1))) (by rw [← hu]; exact hcmds) hoffset (Mem.readN_length ..)
      (by rw [← hu]; exact hopen) b ((s.ctx x.ctx).region m.aux)
    refine ⟨_, y, exec_transferEnd hrun hq hti (by omega) hfree, ?_, fun c hc => ?_, ?_, hid, hphase, ?_, ?_, hold, fun k hk => ⟨_, hnew _ ⟨k, hk, rfl⟩, ?_, rfl, rfl, ?_⟩⟩
    · rw [hu, hmove, hstaged]
      exact hub
    · rw [hu, hmove, hstaged, ← hu]
      exact State.block_setBlock_ne s _ hc
    · rw [hu, hmove, hstaged]
      rfl
    · rw [hu, hmove, hstaged, ← hu]
      rfl
    · rw [hu, hmove, hstaged, ← hu]
      rfl
    · simp [storeAt, Mem.readN, hk]
    · rw [← hu]
      rfl

end Sys2Proof.Proofs
end

section
/-! SUPPORT. The blocks: what issues nothing leaves the queues of a block that has none to issue (R184, R325 to R328). Legs within the device
leave every block; an issue point starts, frees and marks blocks, and none of these puts an instruction into a queue. -/
namespace Sys2Proof.Proofs
open Sys2Proof Sys2Proof.Machine

/-! ### Folds and branches -/

/-- The fold's step leaves every block as it was. A definition of its own, so that `simp` proves it where the rule of the fold asks for it. -/
def KeepsBlocks {α : Type} (f : State → α → State) : Prop := ∀ s a, (f s a).blocks = s.blocks

@[simp] theorem keepsBlocks_iff {α : Type} {f : State → α → State} : KeepsBlocks f ↔ ∀ s a, (f s a).blocks = s.blocks := Iff.rfl

@[simp] theorem foldl_blocks {α : Type} {f : State → α → State} (h : KeepsBlocks f) (l : List α) (s : State) : (l.foldl f s).blocks = s.blocks :=
  foldl_rel (r := fun s t : State => t.blocks = s.blocks) (fun _ => rfl) (fun h h' => h'.trans h) h l s

/-- The same of a fold that carries a second value. -/
theorem foldl_fst_blocks {α β : Type} {f : State × β → α → State × β} (h : ∀ r a, (f r a).1.blocks = r.1.blocks) (l : List α) (r : State × β) :
    (l.foldl f r).1.blocks = r.1.blocks :=
  foldl_rel (r := fun r u : State × β => u.1.blocks = r.1.blocks) (fun _ => rfl) (fun h h' => h'.trans h) h l r

@[simp] theorem ite_blocks (c : Prop) [Decidable c] (s t : State) : (if c then s else t).blocks = if c then s.blocks else t.blocks := by
  split <;> rfl

theorem blocks_of_sendsOnly {s t : State} (h : SendsOnly s t) : t.blocks = s.blocks := by
  obtain ⟨_, _, _, _, _, _, rfl⟩ := h
  rfl

section
variable (s : State)

/-! ### Legs within the device (10, 09, 07) -/

@[simp] theorem stageTrained_blocks (x : Cmd) (ref : Ref) (l : List Byte) : (s.stageTrained x ref l).blocks = s.blocks := by
  refine foldl_blocks (fun t q => ?_) _ _
  rfl

@[simp] theorem touch_blocks (c region off n : Nat) : (s.touch c region off n).blocks = s.blocks := by simp [State.touch]
@[simp] theorem copyGroup_blocks (x : Cmd) (p : CopyP) (k : Nat) : (s.copyGroup x p k).blocks = s.blocks := by simp [State.copyGroup]
@[simp] theorem copyLeg_blocks (x : Cmd) (p : CopyP) (i n : Nat) : (s.copyLeg x p i n).blocks = s.blocks := by simp [State.copyLeg]
@[simp] theorem fillLeg_blocks (x : Cmd) (p : FillP) (i n : Nat) : (s.fillLeg x p i n).blocks = s.blocks := by simp [State.fillLeg]
@[simp] theorem verifyLeg_blocks (x : Cmd) : (s.verifyLeg x).blocks = s.blocks := rfl
@[simp] theorem normLocal_blocks (x : Cmd) (p : NormP) : (s.normLocal x p).blocks = s.blocks := rfl
@[simp] theorem packTileAt_blocks (x : Cmd) (p : OptP) (k : Nat) : (s.packTileAt x p k).blocks = s.blocks := rfl

@[simp] theorem localLeg_blocks (x : Cmd) : (s.localLeg x).blocks = s.blocks := by
  unfold State.localLeg
  split <;> simp

/-! ### Legs of the Pass unit (08) -/

@[simp] theorem sendPass_blocks (cmd ty : Nat) (fr : Frame) (a : PassArgs) (l : List Nat) : (s.sendPass cmd ty fr a l).blocks = s.blocks :=
  blocks_of_sendsOnly (sendPass_sendsOnly ..)

@[simp] theorem offer_blocks (x : Cmd) (k : Tok) (i : Nat) : (s.offer x k i).1.blocks = s.blocks := by
  unfold State.offer
  split
  · rfl
  · split <;> simp

@[simp] theorem offerSpare_blocks (n : Nat) (s : State) (x : Cmd) (k : Tok) : (State.offerSpare n s x k).1.blocks = s.blocks := by
  induction n generalizing s k with
  | zero => rfl
  | succ n ih =>
    unfold State.offerSpare
    split
    · rfl
    · dsimp only
      split <;> simp [ih]

@[simp] theorem holdEntry_blocks (x : Cmd) (k : Tok) (i : Nat) : (s.holdEntry x k i).1.blocks = s.blocks := by
  unfold State.holdEntry
  dsimp only
  split <;> rfl

@[simp] theorem settleRefused_blocks (x : Cmd) (k : Tok) : (s.settleRefused x k).1.blocks = s.blocks := by
  refine foldl_fst_blocks (fun r i => ?_) _ (s, k)
  (repeat' split) <;> simp

@[simp] theorem advance_blocks (x : Cmd) (k : Tok) : (s.advance x k).1.blocks = s.blocks := by
  simp only [State.advance]
  (repeat' split) <;> simp

@[simp] theorem dispatchTok_blocks (id : Nat) (k : Tok) (prims : List Nat) : (s.dispatchTok id k prims).blocks = s.blocks := by
  unfold State.dispatchTok
  split
  · rfl
  · simp only [State.updCmd_blocks, advance_blocks]
    exact foldl_fst_blocks (fun r i => offer_blocks ..) _ _

@[simp] theorem dispatchNew_blocks (id c table : Nat) (b : BitVec 16) (token : Nat) (origin : Option Nat) (row grec : List Byte) :
    (s.dispatchNew id c table b token origin row grec).blocks = s.blocks := by
  simp [State.dispatchNew]

@[simp] theorem settleTries_blocks (id : Nat) : (s.settleTries id).blocks = s.blocks := rfl
@[simp] theorem openIssue_blocks (x : Cmd) (p : RouteP) : (s.openIssue x p).blocks = s.blocks := by simp [State.openIssue]

@[simp] theorem dispatchLeg_blocks (x : Cmd) (p : RouteP) : (s.dispatchLeg x p).blocks = s.blocks := by
  simp only [State.dispatchLeg]
  split <;> simp

@[simp] theorem retraceLeg_blocks (x : Cmd) (p : RouteP) : (s.retraceLeg x p).blocks = s.blocks := by simp [State.retraceLeg]

@[simp] theorem saveRows_blocks (x : Cmd) (d : RouteTab) (b : BitVec 16) (tk : Nat) (rows : List (Nat × W40 × List Byte)) :
    (s.saveRows x d b tk rows).blocks = s.blocks := by
  refine foldl_blocks (fun t q => ?_) _ _
  rfl

@[simp] theorem combineTok_blocks (x : Cmd) (p : CombineP) (fwd : Bool) (tk : Nat) : (s.combineTok x p fwd tk).blocks = s.blocks := by
  simp only [State.combineTok]
  split
  · simp only [saveRows_blocks]
    rfl
  · rfl

@[simp] theorem combineLate_blocks (x : Cmd) (p : CombineP) (tk : Nat) : (s.combineLate x p tk).blocks = s.blocks := by
  simp only [State.combineLate]
  split
  · rfl
  · split
    · simp only [saveRows_blocks]
      rfl
    · rfl

@[simp] theorem slotLost_blocks (id table : Nat) : (s.slotLost id table).blocks = s.blocks := rfl

@[simp] theorem combineEnd_blocks (id : Nat) (p : CombineP) (fwd : Bool) : (s.combineEnd id p fwd).blocks = s.blocks := by
  simp only [State.combineEnd]
  (repeat' split) <;> simp

@[simp] theorem combineLeg_blocks (x : Cmd) (p : CombineP) (fwd : Bool) : (s.combineLeg x p fwd).blocks = s.blocks := by
  unfold State.combineLeg
  split <;> simp

@[simp] theorem collUndef_blocks (x : Cmd) : (s.collUndef x).blocks = s.blocks := by
  obtain ⟨m, n, h⟩ := collUndef_eq s x
  rw [h]

@[simp] theorem collVoid_blocks (id : Nat) : (s.collVoid id).blocks = s.blocks := by
  unfold State.collVoid
  split <;> simp

@[simp] theorem voidColls_blocks : s.voidColls.blocks = s.blocks := foldl_blocks (fun t id => collVoid_blocks t id) _ _

@[simp] theorem markIssued_blocks (x : Cmd) : (s.markIssued x).blocks = s.blocks := by
  unfold State.markIssued
  split <;> rfl

@[simp] theorem unitRefusal_blocks (x : Cmd) : (s.unitRefusal x).blocks = s.blocks := rfl
@[simp] theorem openSpill_blocks (c : Nat) (l : List Nat) (killed : Bool) : (s.openSpill c l killed).blocks = s.blocks := rfl

end

/-! ### A block with empty queues -/

/-- Block `b` has no instruction in its queues. -/
def NoQueue (b : Nat) (t : Tab Block) : Prop := (Tab.get {} t b).queue = []

/-- A step on a block that leaves an empty queue empty. -/
def KeepsEmpty (f : Block → Block) : Prop := ∀ k, k.queue = [] → (f k).queue = []

section
variable {b : Nat} {s : State}

theorem noQueue_updBlock (h : NoQueue b s.blocks) (c : Nat) {f : Block → Block} (hf : KeepsEmpty f) : NoQueue b (s.updBlock c f).blocks := by
  by_cases hc : b = c
  · subst hc
    exact (congrArg Block.queue (State.block_updBlock_same s b f)).trans (hf _ h)
  · exact (congrArg Block.queue (State.block_updBlock_ne s f hc)).trans h

theorem noQueue_setBlock (h : NoQueue b s.blocks) (c : Nat) {k : Block} (hk : (s.block c).queue = [] → k.queue = []) :
    NoQueue b (s.setBlock c k).blocks := by
  by_cases hc : b = c
  · subst hc
    exact (congrArg Block.queue (State.block_setBlock_same s b k)).trans (hk h)
  · exact (congrArg Block.queue (State.block_setBlock_ne s k hc)).trans h

theorem noQueue_foldl {α : Type} {f : State → α → State} (hf : ∀ s a, NoQueue b s.blocks → NoQueue b (f s a).blocks) (l : List α)
    (h : NoQueue b s.blocks) : NoQueue b (l.foldl f s).blocks :=
  foldl_rel (r := fun s t : State => NoQueue b s.blocks → NoQueue b t.blocks) (fun _ => id) (fun h h' => h' ∘ h) hf l s h

/-! ### What frees, marks and starts blocks -/

theorem abandon_empty (id seed : Nat) (p : Program) : KeepsEmpty (fun k => k.abandon id seed p) := by
  intro k hk
  unfold Block.abandon
  dsimp only
  split
  · rfl
  · exact hk

theorem governed_empty (now : Nat) : KeepsEmpty (fun k => k.governed now) := by
  intro k hk
  unfold Block.governed
  dsimp only
  split
  · exact hk
  · exact hk

theorem preempted_empty (now : Nat) : KeepsEmpty (fun k => k.preempted now) := fun _ hk => hk

/-- A program starts on a block with empty queues (R163). -/
theorem start_empty (now c seed id seed' ord size global first : Nat) (args : List (BitVec 32)) (p : Program) :
    KeepsEmpty (fun k => ((k.taken now).take c seed).start id seed' ord size global first args p) := fun _ _ => rfl

theorem freeBlocks_noQueue (h : NoQueue b s.blocks) (x : Cmd) : NoQueue b (s.freeBlocks x).blocks :=
  noQueue_foldl (fun _ c ht => noQueue_updBlock ht c (abandon_empty _ _ _)) x.blocks h

theorem endWith_noQueue (h : NoQueue b s.blocks) (id st kind ix : Nat) : NoQueue b (s.endWith id st kind ix).blocks := by
  cases hx : s.cmd id with
  | none =>
    rw [State.endWith, hx]
    exact h
  | some x =>
    have hended : NoQueue b (endedState s x st kind ix).blocks := by
      rw [endedState_blocks]
      exact freeBlocks_noQueue h x
    rw [endWith_eq hx]
    split
    · exact hended
    · obtain ⟨a, c, i, hhalt⟩ := halt_eq (endedState s x st kind ix) x.strm st
      rw [hhalt]
      exact hended

theorem kill_noQueue (h : NoQueue b s.blocks) (id : Nat) : NoQueue b (s.kill id).blocks := by
  unfold State.kill
  split
  · exact h
  · next x _ =>
    split
    · extract_lets lost marked requeued forgotten counted
      have hmarked : NoQueue b marked.blocks :=
        noQueue_foldl (fun t c ht => noQueue_updBlock ht c (preempted_empty _)) x.blocks (freeBlocks_noQueue h x)
      have hcounted : counted.blocks = marked.blocks := rfl
      rw [← hcounted] at hmarked
      clear_value counted
      exact hmarked
    · exact h

theorem hold_noQueue (h : NoQueue b s.blocks) (x : Cmd) (group : List Nat) : NoQueue b (s.hold x group).blocks := by
  unfold State.hold
  refine noQueue_foldl (fun t c ht => noQueue_updBlock ht c (governed_empty _)) group ?_
  have hcount (n : Nat) (l : List Nat) : NoQueue b (l.foldl (fun (s : State) d => s.updDie d (fun k => { k with heldInBeat := true }))
      (if s.crest.heldCmds.contains x.id then s
       else { s with crest := { s.crest with heldCmds := s.crest.heldCmds ++ [x.id], holdCnt := sat32 s.crest.holdCnt n } })).blocks := by
    rw [foldl_blocks]
    · split <;> exact h
    · exact fun _ _ => rfl
  exact hcount _ _

theorem startRun_noQueue (h : NoQueue b s.blocks) (x : Cmd) (group : List Nat) (p : Program) : NoQueue b (s.startRun x group p).blocks := by
  unfold State.startRun
  dsimp only
  refine noQueue_foldl (fun t i ht => ?_) _ ?_
  · exact noQueue_updBlock (s := t) ht _ (start_empty _ _ _ _ _ _ _ _ _ _ _)
  exact (congrArg (NoQueue b) (markIssued_blocks s x)).mpr h

theorem runReady_noQueue (h : NoQueue b s.blocks) (x : Cmd) (group : List Nat) (p : Program) (killed : Bool) :
    NoQueue b (s.runReady x group p killed).blocks := by
  unfold State.runReady
  dsimp only
  split
  · exact h
  · split
    · exact h
    · split
      · exact hold_noQueue h ..
      · exact startRun_noQueue h ..

theorem runClaims_noQueue (h : NoQueue b s.blocks) (x : Cmd) (group : List Nat) (p : Program) (ids : List Nat) :
    NoQueue b (s.runClaims x group p ids).blocks := by
  unfold State.runClaims
  dsimp only
  split
  · exact h
  · split
    · exact hold_noQueue h ..
    · exact runReady_noQueue (noQueue_foldl (fun t i ht => kill_noQueue ht i) ids h) ..

theorem tryRun_noQueue (h : NoQueue b s.blocks) (pt : Nat) (x : Cmd) : NoQueue b (s.tryRun pt x).blocks := by
  unfold State.tryRun
  split
  · exact h
  · dsimp only
    split
    · exact endWith_noQueue h ..
    · split
      · exact h
      · split
        · exact h
        · split
          · exact h
          · split
            · exact h
            · split
              · exact endWith_noQueue h ..
              · split
                · exact noQueue_foldl (fun t c ht => noQueue_updBlock ht c (governed_empty _)) _ h
                · split
                  · exact h
                  · split
                    · exact runReady_noQueue h ..
                    · split
                      · exact runClaims_noQueue h ..
                      · exact h

/-! ### Issue points (R325 to R328) -/

theorem tryLeg_noQueue (h : NoQueue b s.blocks) (x : Cmd) {f : State → Cmd → State} (hf : ∀ s y, (f s y).blocks = s.blocks) :
    NoQueue b (s.tryLeg x f).blocks := by
  have hblocks : (s.tryLeg x f).blocks = s.blocks := by
    unfold State.tryLeg
    split
    · rfl
    · split
      · rfl
      · dsimp only
        split
        · rw [hf, markIssued_blocks]
        · exact markIssued_blocks s x
  rw [hblocks]
  exact h

theorem tryCombine_noQueue (h : NoQueue b s.blocks) (x : Cmd) (p : CombineP) (fwd : Bool) : NoQueue b (s.tryCombine x p fwd).blocks := by
  unfold State.tryCombine
  split
  · exact tryLeg_noQueue h x fun t y => combineLeg_blocks ..
  · split <;> exact h

theorem doneNow_noQueue (h : NoQueue b s.blocks) (x : Cmd) : NoQueue b (s.doneNow x).blocks :=
  (congrArg (NoQueue b) (markIssued_blocks s x)).mpr h

theorem tryIssue_noQueue (h : NoQueue b s.blocks) (pt id : Nat) : NoQueue b (s.tryIssue pt id).blocks := by
  have hlocal (x : Cmd) : NoQueue b (s.tryLeg x (fun s y => s.localLeg y)).blocks := tryLeg_noQueue h x fun t y => localLeg_blocks ..
  unfold State.tryIssue
  split
  · exact h
  · next x _ =>
    split
    · exact h
    · split
      · exact tryRun_noQueue h ..
      · split
        · exact hlocal x
        · exact tryRun_noQueue h ..
      · exact hlocal x
      · exact hlocal x
      · exact hlocal x
      · exact hlocal x
      · exact hlocal x
      · exact hlocal x
      · split
        · exact h
        · exact hlocal x
      · exact tryLeg_noQueue h x fun t y => dispatchLeg_blocks ..
      · exact tryLeg_noQueue h x fun t y => retraceLeg_blocks ..
      · exact tryCombine_noQueue h ..
      · exact tryCombine_noQueue h ..
      · exact tryLeg_noQueue h x fun t y => openIssue_blocks ..
      · exact h
      · exact h
      · exact h
      · exact h
      · exact h
      · exact h
      · exact h
      · split
        · exact doneNow_noQueue h x
        · exact h
      · split
        · exact doneNow_noQueue h x
        · exact h
      · exact doneNow_noQueue h x

theorem issuePass_noQueue (h : NoQueue b s.blocks) (pt : Nat) : NoQueue b (s.issuePass pt).blocks :=
  noQueue_foldl (fun _ i ht => tryIssue_noQueue ht pt i) _ h

theorem issuePasses_noQueue (pt n : Nat) (h : NoQueue b s.blocks) : NoQueue b (State.issuePasses pt n s).blocks := by
  induction n generalizing s with
  | zero => exact h
  | succ n ih =>
    have hpass := issuePass_noQueue h pt
    simp only [State.issuePasses]
    split
    · exact hpass
    · exact ih hpass

theorem issuePoint_noQueue (h : NoQueue b s.blocks) (pt : Nat) : NoQueue b (s.issuePoint pt).blocks :=
  issuePasses_noQueue _ _ ((congrArg (NoQueue b) (voidColls_blocks s)).mpr h)

theorem endNow_noQueue (h : NoQueue b s.blocks) (id st kind ix : Nat) : NoQueue b (s.endNow id st kind ix).blocks := by
  unfold State.endNow
  split
  · exact h
  · exact issuePoint_noQueue (endWith_noQueue h ..) _

end

end Sys2Proof.Proofs
end

section
/-! SUPPORT. What an instruction that runs leaves of its block's queues, and O48: the rows that issue to an engine (R163, R176, R184 to R188). -/
namespace Sys2Proof.Proofs
open Sys2Proof Sys2Proof.Machine

/-! ### The engines of a block (04, 05) -/

section
variable (k : Block) (p : Program)

theorem put_queue (a : Int) (l : List Byte) : (k.put p a l).queue = k.queue := by
  obtain ⟨_, _, _, h⟩ := put_frame k p a l
  rw [h]

theorem spoil_queue (a : Int) (n seed : Nat) : (k.spoil p a n seed).queue = k.queue := by
  obtain ⟨_, _, _, h⟩ := spoil_frame k p a n seed
  rw [h]

theorem putHeld_queue (h a : Nat) (l : List Byte) : (k.putHeld p h a l).queue = k.queue := by
  unfold Block.putHeld
  split
  · exact put_queue ..
  · split
    · rfl
    · split <;> rfl

theorem spoilHeld_queue (o : VOp) (seed : Nat) : (k.spoilHeld p o seed).queue = k.queue := by
  unfold Block.spoilHeld
  split
  · exact spoil_queue ..
  · split
    · rfl
    · split
      · rfl
      · split <;> rfl

/-- A fold that carries a count keeps what each of its steps keeps of the block. -/
theorem foldl_block_queue {α : Type} {f : Block × Tally → α → Block × Tally} (h : ∀ r a, (f r a).1.queue = r.1.queue) (l : List α)
    (r : Block × Tally) : (l.foldl f r).1.queue = r.1.queue :=
  foldl_rel (r := fun r u : Block × Tally => u.1.queue = r.1.queue) (fun _ => rfl) (fun h h' => h'.trans h) h l r

theorem writeOut_queue (dst : VOp) (md : Nat → Rnd) (x : Nat → Nat → Exact) : (k.writeOut p dst md x).1.queue = k.queue := by
  unfold Block.writeOut
  dsimp only
  split
  · exact put_queue ..
  · exact foldl_block_queue (fun r e => putHeld_queue ..) _ (k, {})

theorem vec_queue (seed : Nat) (q : QI) (op : Nat) (v : VecF) : (k.vec p seed q op v).1.queue = k.queue := by
  unfold Block.vec
  dsimp only
  split
  · split
    · exact put_queue ..
    · exact spoil_queue ..
  · split
    · exact writeOut_queue ..
    · exact spoilHeld_queue ..

theorem gateRow_queue (seed : Nat) (sc : VOp) (g : GateF) (out r : Nat) : (k.gateRow p seed sc g out r).1.queue = k.queue := by
  unfold Block.gateRow
  dsimp only
  split
  · exact spoil_queue ..
  · exact put_queue ..

theorem pop_queue (seed n : Nat) : (k.pop p seed n).queue = k.queue := by
  unfold Block.pop
  split <;> rfl

theorem capture_queue (o : Opnd) (id seed : Nat) : (o.capture k id seed).queue = k.queue := by
  unfold Opnd.capture
  split <;> rfl

theorem mm_queue (id seed pos : Nat) (q : QI) (f : MmF) : (k.mm p id seed pos q f).queue = k.queue := by
  have hcapture (oa ob : Opnd) (i j : Nat) : (ob.capture (oa.capture k id i) id j).queue = k.queue :=
    (capture_queue ..).trans (capture_queue ..)
  unfold Block.mm
  extract_lets oa ob good read sl chunks start out sums lane captured summed
  have hcaptured : captured.queue = k.queue := hcapture ..
  clear_value captured lane out sums
  have hsummed : summed.queue = k.queue := hcaptured
  split
  · exact hsummed
  · exact hsummed

end

/-! ### An instruction that runs -/

section
variable {b : Nat} {s : State} (h : NoQueue b s.blocks) (x : Cmd) (p : Program) (c : Nat) (q : QI)
include h

theorem noQueue_ite {t : State} (ht : NoQueue b t.blocks) {a : Prop} {inst : Decidable a} : NoQueue b (if a then s else t).blocks := by
  split
  · exact h
  · exact ht

theorem echo_noQueue (op : Nat) (v : VecF) : NoQueue b (s.echo x p c q op v).blocks := by
  unfold State.echo
  extract_lets ops e lanes groups n bin counted
  split
  · exact h
  · have hcounted : NoQueue b counted.blocks :=
      noQueue_updBlock h c (f := fun k => { k with echoRun := k.echoRun + groups }) fun _ hk => hk
    clear_value counted
    split
    · exact hcounted
    · extract_lets noted failed
      exact noQueue_updBlock (s := noted) hcounted c (f := fun k => { k with echoFail := Tab.upd 0 k.echoFail bin (fun c => sat32 c 1) })
        fun _ hk => hk

theorem runVec_noQueue (op : Nat) (v : VecF) : NoQueue b (s.runVec x p c q op v).blocks := by
  have hset : NoQueue b (s.setBlock c ((s.block c).vec p s.fresh q op v).1).blocks :=
    noQueue_setBlock h c fun hk => (vec_queue ..).trans hk
  exact echo_noQueue (s := ({ s.setBlock c ((s.block c).vec p s.fresh q op v).1 with fresh := s.fresh + vecSeeds }).updCmd x.id
    (fun y => y.tally v.cls (p.vop q v.dd v.dix).d.fmt ((s.block c).vec p s.fresh q op v).2)) hset ..

theorem runGate_noQueue (g : GateF) : NoQueue b (s.runGate x p c q g).blocks := by
  unfold State.runGate
  extract_lets ops sc n clash r
  have hr : r.1.queue = (s.block c).queue := by
    unfold r
    split
    · refine foldl_block_queue (fun r t => ?_) _ (s.block c, {})
      exact gateRow_queue ..
    · exact spoil_queue ..
  exact noQueue_setBlock h c fun hk => hr.trans hk

theorem updChan_noQueue (k : Nat) (f : Chan → Chan) : NoQueue b (s.updChan c k f).blocks := noQueue_updBlock h c fun _ hk => hk

theorem useChan_noQueue (k : Nat) (e : ChanEnt) : NoQueue b (s.useChan c k e).blocks := by
  unfold State.useChan
  split
  · split
    · exact h
    · exact updChan_noQueue h ..
  · exact updChan_noQueue h ..

theorem sendUnits_noQueue (ch pair : Nat) (l : List Byte) : NoQueue b (s.sendUnits x c ch pair l).blocks := by
  refine updChan_noQueue ?_ ..
  rw [blocks_of_sendsOnly (sendFrames_sendsOnly ..)]
  exact h

theorem armArea_noQueue (ch pair addr units : Nat) : NoQueue b (s.armArea x c ch pair addr units).blocks := by
  unfold State.armArea
  dsimp only
  split
  · exact h
  · rw [blocks_of_sendsOnly (sendFrame_sendsOnly ..)]
    refine updChan_noQueue (noQueue_updBlock (s := s.burn) h c ?_) ..
    exact fun _ hk => hk

theorem moveEnd_noQueue (kind : Nat) (m : MovF) : NoQueue b (s.moveEnd x p c q kind m).blocks := by
  unfold State.moveEnd
  dsimp only
  split
  · split
    · exact noQueue_updBlock h c fun k hk => (put_queue k p _ _).trans hk
    · exact noQueue_updBlock h c fun k hk => (spoil_queue k p _ _ _).trans hk
  · generalize (if kind = 1 then (s.block c).take64 p (movAligned m kind q) s.fresh (movAddr m q) (movBytes m kind) else _ : List Byte) = l
    obtain ⟨_, _, _, hstore⟩ := runStore_frame s x c m.aux ((s.ctx x.ctx).region m.aux) (movOffset m q).toNat l
    rw [hstore]
    exact h

theorem runSend_noQueue (m : MovF) : NoQueue b (s.runSend x p c q m).blocks := by
  unfold State.runSend
  split
  · exact endNow_noQueue h ..
  · exact sendUnits_noQueue (useChan_noQueue h ..) ..

theorem runRecv_noQueue (m : MovF) : NoQueue b (s.runRecv x p c q m).blocks := by
  unfold State.runRecv
  split
  · exact endNow_noQueue h ..
  · dsimp only
    split
    · exact armArea_noQueue (useChan_noQueue h ..) ..
    · exact noQueue_updBlock h c fun k hk => (spoil_queue k p _ _ _).trans hk

theorem runPdisp_noQueue (m : MovF) : NoQueue b (s.runPdisp x p c q m).blocks := by
  unfold State.runPdisp
  dsimp only
  split
  · exact endNow_noQueue h ..
  · split
    · exact endNow_noQueue h ..
    · split
      · exact endNow_noQueue h ..
      · split
        · exact endNow_noQueue h ..
        · split
          · exact endNow_noQueue h ..
          · rw [foldl_blocks]
            · exact h
            · exact fun t i => dispatchNew_blocks ..

theorem runPtake_noQueue (m : MovF) : NoQueue b (s.runPtake x p c q m).blocks := by
  unfold State.runPtake
  dsimp only
  split
  · exact endNow_noQueue h ..
  · split
    · exact endNow_noQueue h ..
    · split
      · exact endNow_noQueue h ..
      · refine noQueue_ite (endNow_noQueue h ..) (noQueue_ite (endNow_noQueue h ..) (noQueue_ite ?_ ?_))
        · exact noQueue_updBlock h c fun k hk => (put_queue k p _ _).trans hk
        · rw [State.burn_blocks]
          exact noQueue_updBlock h c fun k hk => (spoil_queue k p _ _ _).trans hk

/-- An instruction that runs puts nothing into a queue. -/
theorem runTI_noQueue : NoQueue b (s.runTI x p c q).blocks := by
  unfold State.runTI
  split
  · exact noQueue_setBlock h c fun hk => (mm_queue ..).trans hk
  · exact runVec_noQueue h ..
  · exact runGate_noQueue h ..
  · exact noQueue_updBlock h c fun k hk => (pop_queue k p _ _).trans hk
  · exact runSend_noQueue h ..
  · exact runRecv_noQueue h ..
  · exact runPdisp_noQueue h ..
  · exact runPtake_noQueue h ..
  · exact moveEnd_noQueue h ..
  · exact h

end

end Sys2Proof.Proofs
end

section
/-! SUPPORT. O48: the rows that issue to an engine (R163, R176, R184 to R188). -/
namespace Sys2Proof.Proofs
open Sys2Proof Sys2Proof.Machine

/-- A row that issues to an engine's queue issues the instruction that it names. -/
theorem exec_engineRow {i : Instr} {b : Nat} {ti : TI} {echo : Option Nat} (h : i.engineRow = some (b, ti, echo)) (s : State) :
    exec i s = .next (s.issueTI b ti echo) := by
  cases i with
  | mm | gate | tqpop | cvt | add | sub | mul | fma | min | max | cmp | sel | abs | neg | exp2 | log2 | recip | rsqrt | sqrt | sigmoid | tanh
  | relu | softplus | dsig | dtanh | drelu | dexp | drecip | drsqrt | dsoftmax | rsum | rmax | rssq | randu | randn | occ | ldb | stb | ldt
  | stt | send | recv | pdisp | ptake =>
    cases h
    rfl
  | _ => nomatch h

section
variable {s : State} {b : Nat} {ti : TI} {x : Cmd} {p : Program} {w : Nat} (hat : s.Stands b ti x p w)
include hat

/-- What the issue of the instruction at which a block stands does (R176, R184, R186). -/
theorem issueTI_eq (echo : Option Nat) : s.issueTI b ti echo =
    (if (s.block b).room ((s.block b).item w echo) && (s.block b).tracks p ((s.block b).item w echo) then
      match s.movFaults x ((s.block b).item w echo) with
      | some r => s.endNow x.id stRegionFault 1 r
      | none => (s.setBlock b { (s.block b).next with queue := (s.block b).queue ++ [(s.block b).item w echo] }).pumpAll b
    else s).settle := by
  refine (withTI_stands hat _).trans ?_
  rfl

theorem runOf_of_stands : s.runOf b = some (x, p) := (State.fetchTI_some hat.1).1

end

section
variable {s : State} {b : Nat} {x : Cmd} {p : Program} {q : QI}

/-- An empty queue has room (R184). -/
theorem room_of_empty {k : Block} (h : k.queue = []) (q : QI) : k.room q = true := by
  unfold Block.room
  rw [h]
  dsimp only [List.filter_nil, List.length_nil]
  split <;> rfl

/-- An instruction that is no transfer with HBM is not held to the rights of a region (R176). -/
theorem movFaults_of_engine (hq : q.engine ≠ 2) : s.movFaults x q = none := by
  unfold State.movFaults
  split
  · next k m hti =>
    have hkind : ¬ k ≤ 3 := fun hk => hq (by rw [QI.engine, hti]; exact if_pos hk)
    simp [hkind]
  · rfl

theorem runOf_setBlock (s : State) {b : Nat} {k : Block} (h : k.run = (s.block b).run) : (s.setBlock b k).runOf b = s.runOf b := by
  unfold State.runOf
  rw [State.block_setBlock_same, h]
  rfl

/-- An instruction that its queues hold alone, that is no transfer with HBM and needs nothing more, runs, and the engines have no more to
run. -/
theorem pump_single (hrun : s.runOf b = some (x, p)) (hq : (s.block b).queue = [q]) (hengine : q.engine ≠ 2) (hready : s.tiReady x p b q = true) :
    s.pumpAll b = (s.setBlock b { s.block b with queue := [] }).runTI x p b q := by
  have hempty : NoQueue b (s.setBlock b { s.block b with queue := [] }).blocks := congrArg Block.queue (State.block_setBlock_same ..)
  have hafter : (((s.setBlock b { s.block b with queue := [] }).runTI x p b q).block b).queue = [] := runTI_noQueue hempty x p b q
  have hrest := pumpAll_idle hafter
  have heligible : s.eligible x p b = [0] := (eligible_single hq).trans (if_pos hready)
  rw [State.pumpAll, hq]
  rw [State.pumpAll, hafter] at hrest
  unfold State.pump
  rw [hrun]
  dsimp only
  rw [heligible, List.filter_cons_of_pos (by simp [hq, hengine])]
  dsimp only
  rw [runAt_single hq]
  exact hrest

end

theorem next_queue (k : Block) : k.next.queue = k.queue := rfl

/-- Settles O48: an engine row issues through the shared `issueTI`, and an instruction that its queue holds alone runs at once. -/
theorem engineRowsIssue : Obligations.EngineRowsIssue := by
  unfold Obligations.EngineRowsIssue
  refine ⟨fun i b ti echo s x p w hrow hat => ?_, fun i b ti echo s x p w hrow hat hq htracks hengine hready => ?_,
    fun b kind m s x p q hrun hq hti hkind => ⟨fun hfree => ?_, fun hheld => ?_⟩, fun i b ti echo s hrow hnone => ?_⟩
  · rw [exec_engineRow hrow, issueTI_eq hat, ← Bool.and_eq_true]
    refine ⟨fun hgate hfaults => ?_, fun hgate r hfaults => ?_, fun hgate => ?_⟩
    · rw [if_pos hgate, hfaults]
    · rw [if_pos hgate, hfaults]
      rfl
    · rw [if_neg hgate]
  · have hgate : ((s.block b).room ((s.block b).item w echo) && (s.block b).tracks p ((s.block b).item w echo)) = true := by
      rw [room_of_empty hq, htracks]
      rfl
    rw [exec_engineRow hrow, issueTI_eq hat, if_pos hgate, movFaults_of_engine hengine, hq]
    generalize (s.block b).item w echo = q at hengine hready ⊢
    have hblock := State.block_setBlock_same s b { (s.block b).next with queue := [q] }
    have hrun : (s.setBlock b { (s.block b).next with queue := [q] }).runOf b = some (x, p) :=
      (runOf_setBlock s (by rfl)).trans (runOf_of_stands hat)
    have hcleared : { { (s.block b).next with queue := [q] } with queue := [] } = (s.block b).next := by
      rw [← hq]
      rfl
    dsimp only [List.nil_append]
    rw [pump_single hrun (congrArg Block.queue hblock) hengine hready, hblock, setBlock_setBlock, hcleared]
  · exact exec_transferEnd hrun hq hti hkind hfree
  · exact congrArg Host.Outcome.next ((transferEnd_single hti hkind hrun hq).trans (if_neg (by rw [hheld]; decide)))
  · rw [exec_engineRow hrow]
    exact congrArg Host.Outcome.next (State.withTI_none _ _ hnone)

end Sys2Proof.Proofs
end

section
/-! SUPPORT. O54: the timer and the phase over a beat edge. What the steps of an edge do with the work, the layouts, the dies and the ports
leaves both; the counter (R33, R38) and the shape (R56) are the edge's own. -/
namespace Sys2Proof.Proofs
open Sys2Proof Sys2Proof.Machine

/-! ### Folds -/

/-- The fold's step leaves the timer and the phase. A definition of its own, so that `simp` can prove it of the step. -/
def KeepsPace {α : Type} (f : State → α → State) : Prop := ∀ s a, (f s a).beat = s.beat ∧ (f s a).phase = s.phase

@[simp] theorem keepsPace_iff {α : Type} {f : State → α → State} :
    KeepsPace f ↔ ∀ s a, (f s a).beat = s.beat ∧ (f s a).phase = s.phase := Iff.rfl

@[simp] theorem foldl_pace {α : Type} {f : State → α → State} (h : KeepsPace f) (l : List α) (s : State) :
    (l.foldl f s).beat = s.beat ∧ (l.foldl f s).phase = s.phase :=
  foldl_rel (r := fun s t : State => t.beat = s.beat ∧ t.phase = s.phase) (fun _ => ⟨rfl, rfl⟩)
    (fun h g => ⟨g.1.trans h.1, g.2.trans h.2⟩) h l s

@[simp] theorem ite_pace (c : Prop) [Decidable c] (s t : State) :
    (if c then s else t).beat = (if c then s.beat else t.beat) ∧ (if c then s else t).phase = if c then s.phase else t.phase := by
  split <;> exact ⟨rfl, rfl⟩

variable (s : State)

theorem pace_of_sendsOnly {s t : State} (h : SendsOnly s t) : t.beat = s.beat ∧ t.phase = s.phase := by
  obtain ⟨_, _, _, _, _, _, rfl⟩ := h
  exact ⟨rfl, rfl⟩

/-! ### The work -/

@[simp] theorem noteDev_pace (code : Nat) (l : List Byte) : (s.noteDev code l).beat = s.beat ∧ (s.noteDev code l).phase = s.phase := ⟨rfl, rfl⟩
@[simp] theorem account_pace (g c i n : Nat) : (s.account g c i n).beat = s.beat ∧ (s.account g c i n).phase = s.phase := ⟨rfl, rfl⟩
@[simp] theorem freeBlocks_pace (x : Cmd) : (s.freeBlocks x).beat = s.beat ∧ (s.freeBlocks x).phase = s.phase := by
  simp [State.freeBlocks]
@[simp] theorem forgetFrames_pace (n : Nat) : (s.forgetFrames n).beat = s.beat ∧ (s.forgetFrames n).phase = s.phase := ⟨rfl, rfl⟩
@[simp] theorem kill_pace (id : Nat) : (s.kill id).beat = s.beat ∧ (s.kill id).phase = s.phase := by
  unfold State.kill
  split <;> simp
@[simp] theorem dropHolds_pace (c : Nat) : (s.dropHolds c).beat = s.beat ∧ (s.dropHolds c).phase = s.phase := by simp [State.dropHolds]
@[simp] theorem unload_pace (c : Nat) : (s.unload c).beat = s.beat ∧ (s.unload c).phase = s.phase := by simp [State.unload]
@[simp] theorem owe_pace (c : Nat) (l : List Extent) : (s.owe c l).beat = s.beat ∧ (s.owe c l).phase = s.phase := by simp [State.owe]
@[simp] theorem freeCtx_pace (c : Nat) : (s.freeCtx c).beat = s.beat ∧ (s.freeCtx c).phase = s.phase := by simp [State.freeCtx]
@[simp] theorem freeCtxs_pace : s.freeCtxs.beat = s.beat ∧ s.freeCtxs.phase = s.phase := by
  refine foldl_pace (fun s c => ?_) _ _
  split <;> simp

/-! ### Counters, layouts, deratings -/

@[simp] theorem countIdle_pace (l : List (Nat × Nat × Nat)) : (s.countIdle l).beat = s.beat ∧ (s.countIdle l).phase = s.phase := by
  simp [State.countIdle]
@[simp] theorem countFec_pace (l : List (Nat × Nat × Nat)) : (s.countFec l).beat = s.beat ∧ (s.countFec l).phase = s.phase := by
  simp [State.countFec]
@[simp] theorem heldBeats_pace : s.heldBeats.beat = s.beat ∧ s.heldBeats.phase = s.phase := ⟨rfl, rfl⟩
@[simp] theorem bistEdge_pace (o : EdgeObs) : (s.bistEdge o).beat = s.beat ∧ (s.bistEdge o).phase = s.phase := by simp [State.bistEdge]
@[simp] theorem setNext_pace (l : List Layout) : (s.setNext l).beat = s.beat ∧ (s.setNext l).phase = s.phase := by simp [State.setNext]
@[simp] theorem rebuildPart_pace (n : Nat) (l : Layout) : (s.rebuildPart n l).beat = s.beat ∧ (s.rebuildPart n l).phase = s.phase := by
  simp [State.rebuildPart]
@[simp] theorem latchLayout_pace : s.latchLayout.beat = s.beat ∧ s.latchLayout.phase = s.phase := by simp [State.latchLayout]
@[simp] theorem killMoved_pace : s.killMoved.beat = s.beat ∧ s.killMoved.phase = s.phase := by simp [State.killMoved]
@[simp] theorem markLag_pace : s.markLag.beat = s.beat ∧ s.markLag.phase = s.phase := ⟨rfl, rfl⟩
@[simp] theorem mapAgain_pace (g : BitVec 16) : (s.mapAgain g).beat = s.beat ∧ (s.mapAgain g).phase = s.phase := ⟨rfl, rfl⟩
@[simp] theorem latchMode_pace (n : Nat) : (s.latchMode n).beat = s.beat ∧ (s.latchMode n).phase = s.phase := by
  unfold State.latchMode
  split <;> simp
@[simp] theorem latchUnits_pace : s.latchUnits.beat = s.beat ∧ s.latchUnits.phase = s.phase := ⟨rfl, rfl⟩
@[simp] theorem derateAck_pace (p st c : Nat) : (s.derateAck p st c).beat = s.beat ∧ (s.derateAck p st c).phase = s.phase := ⟨rfl, rfl⟩
@[simp] theorem applyRetire_pace (l : List Nat) : (s.applyRetire l).beat = s.beat ∧ (s.applyRetire l).phase = s.phase := by
  simp [State.applyRetire]
@[simp] theorem latchDerate_pace (n : Nat) : (s.latchDerate n).beat = s.beat ∧ (s.latchDerate n).phase = s.phase := by
  unfold State.latchDerate
  split <;> simp
@[simp] theorem liftFence_pace : s.liftFence.beat = s.beat ∧ s.liftFence.phase = s.phase := by simp [State.liftFence]
@[simp] theorem prunePeers_pace : s.prunePeers.beat = s.beat ∧ s.prunePeers.phase = s.phase := ⟨rfl, rfl⟩

/-! ### The governor -/

@[simp] theorem stepDies_pace (g : Nat) : (s.stepDies g).beat = s.beat ∧ (s.stepDies g).phase = s.phase := ⟨rfl, rfl⟩
@[simp] theorem takeReadings_pace (o : EdgeObs) : (s.takeReadings o).beat = s.beat ∧ (s.takeReadings o).phase = s.phase := by
  simp [State.takeReadings]
@[simp] theorem clampCheck_pace (o : EdgeObs) : (s.clampCheck o).beat = s.beat ∧ (s.clampCheck o).phase = s.phase := by
  simp [State.clampCheck]
@[simp] theorem ceilCheck_pace : s.ceilCheck.beat = s.beat ∧ s.ceilCheck.phase = s.phase := by simp [State.ceilCheck]
@[simp] theorem governor_pace (o : EdgeObs) : (s.governor o).beat = s.beat ∧ (s.governor o).phase = s.phase := by
  simp [State.governor]

/-! ### The counter and the shape -/

/-- The timer with the number of the beat that begins (R33, R38). -/
def counted (b : Beat) : Beat :=
  let c : Beat := { b with srcAct := b.src, alignTo := none }
  if b.src = 2 then { c with count := b.count + 1, aligned := true }
  else if b.srcAct = 2 then { c with count := b.count + 1, aligned := false }
  else
    match b.alignTo with
    | none => { c with count := b.count + 1 }
    | some n => if n.toNat < b.count.toNat then { c with count := b.count + 1, aligned := false } else { c with count := n, aligned := true }

/-- The timer with a staged shape whose target has come in force (R56). -/
def reshaped (b : Beat) (n : Nat) : Beat :=
  match b.staged with
  | some g => if g.target ≤ n then
      { b with periodCur := BitVec.ofNat 10 g.period, saddleCur := BitVec.ofNat 4 g.saddle, staged := none, stageState := 2 } else b
  | none => b

theorem countOn_pace : s.countOn.beat = counted s.beat ∧ s.countOn.phase = s.phase := by
  unfold State.countOn counted State.now
  by_cases hlocal : s.beat.src = 2
  · simp only [if_pos hlocal, and_self]
  · by_cases hfrom : s.beat.srcAct = 2
    · simp only [if_neg hlocal, if_pos hfrom, and_self]
    · cases halign : s.beat.alignTo with
      | none => simp only [if_neg hlocal, if_neg hfrom, and_self]
      | some n => by_cases hback : n.toNat < s.beat.count.toNat <;> simp [hback]

theorem latchShape_pace (n : Nat) : (s.latchShape n).beat = reshaped s.beat n ∧ (s.latchShape n).phase = s.phase := by
  unfold State.latchShape reshaped
  cases hstaged : s.beat.staged with
  | none => exact ⟨rfl, rfl⟩
  | some g => by_cases hdue : g.target ≤ n <;> simp [hdue]

theorem reshaped_count (b : Beat) (n : Nat) : (reshaped b n).count = b.count := by
  unfold reshaped
  split
  · split <;> rfl
  · rfl

/-! ### The edge -/

/-- The timer of a beat that has just begun. -/
def stepped (b : Beat) (leg : Option Nat) (holdover : Bool) : Beat :=
  { reshaped (counted b) (counted b).count.toNat with
    windowOpen := false, winDone := [], winLeft := 0, at_ := 0, legCap := leg, clock := b.clock + b.periodCur.toNat * 1000, markSeen := [],
    holdover := holdover }

/-- The edge of a device that is not in hold, but for the Dispatcher's part (R49). -/
theorem liveEdge_eq (o : EdgeObs) (holdover : Bool) : ∃ (u : State) (leg : Option Nat), s.liveEdge o holdover = u.begun ∧ u.beat = stepped s.beat leg holdover ∧
    (s.phase = .run → Out.beatOut u.beat.count.toNat ∈ u.out) := by
  unfold State.liveEdge
  extract_lets leg clock closed opened tested counting n latched timer begun governed u
  have hclosed : closed.beat = s.beat ∧ closed.phase = s.phase := by simp [closed]
  have htested : tested.beat = s.beat ∧ tested.phase = s.phase := by simp [tested, opened, hclosed]
  have hcounting : counting.beat = counted s.beat ∧ counting.phase = s.phase := by simp [counting, countOn_pace, htested]
  have hlatched : latched.beat = reshaped (counted s.beat) n ∧ latched.phase = s.phase := by
    simp [latched, latchShape_pace, hcounting]
  have hbegun : begun.beat = stepped s.beat leg holdover ∧ begun.phase = s.phase := by
    simp only [begun, timer, hlatched, stepped, n, State.now, hcounting, clock, and_self]
  have hcount : (stepped s.beat leg holdover).count.toNat = n := by
    simp only [n, State.now, hcounting, stepped, reshaped_count]
  have hgoverned : governed.beat = stepped s.beat leg holdover ∧ governed.phase = s.phase := by
    simp only [governed, prunePeers_pace, governor_pace, liftFence_pace, hbegun, and_self]
  refine ⟨u, leg, rfl, ?_, fun hrun => ?_⟩
  · simp [u, hgoverned]
  · have hbeat : u.beat = stepped s.beat leg holdover := by simp [u, hgoverned]
    rw [hbeat, hcount]
    simp [u, hgoverned, hrun]

end Sys2Proof.Proofs
end

section
/-! SUPPORT. O54: which edges begin a beat, and what they count (R30, R32 to R41, R49, R56). -/
namespace Sys2Proof.Proofs
open Sys2Proof Sys2Proof.Machine

/-! ### What a beat begins with -/

section
variable (b : Beat)

theorem counted_srcAct : (counted b).srcAct = b.src := by
  unfold counted
  dsimp only
  split
  · rfl
  · split
    · rfl
    · split
      · rfl
      · split <;> rfl

/-- The shape and its staged change stand while the counter steps. -/
theorem counted_shape : (counted b).staged = b.staged ∧ (counted b).periodCur = b.periodCur ∧ (counted b).saddleCur = b.saddleCur := by
  unfold counted
  dsimp only
  split
  · exact ⟨rfl, rfl, rfl⟩
  · split
    · exact ⟨rfl, rfl, rfl⟩
    · split
      · exact ⟨rfl, rfl, rfl⟩
      · split <;> exact ⟨rfl, rfl, rfl⟩

/-- A shape that comes into force leaves the number and its source. -/
theorem reshaped_number (n : Nat) :
    (reshaped b n).count = b.count ∧ (reshaped b n).aligned = b.aligned ∧ (reshaped b n).srcAct = b.srcAct ∧ (reshaped b n).miss = b.miss ∧
    (reshaped b n).holdoverRun = b.holdoverRun ∧ (reshaped b n).lost = b.lost := by
  unfold reshaped
  split
  · split <;> exact ⟨rfl, rfl, rfl, rfl, rfl, rfl⟩
  · exact ⟨rfl, rfl, rfl, rfl, rfl, rfl⟩

/-- What an edge counts of the source stands while the counter steps. -/
theorem counted_source : (counted b).miss = b.miss ∧ (counted b).holdoverRun = b.holdoverRun ∧ (counted b).lost = b.lost := by
  unfold counted
  dsimp only
  split
  · exact ⟨rfl, rfl, rfl⟩
  · split
    · exact ⟨rfl, rfl, rfl⟩
    · split
      · exact ⟨rfl, rfl, rfl⟩
      · split <;> exact ⟨rfl, rfl, rfl⟩

theorem reshaped_due {g : Machine.Staged} {n : Nat} (hstaged : b.staged = some g) (hdue : g.target ≤ n) :
    reshaped b n = { b with periodCur := BitVec.ofNat 10 g.period, saddleCur := BitVec.ofNat 4 g.saddle, staged := none, stageState := 2 } := by
  rw [reshaped, hstaged]
  exact if_pos hdue

theorem reshaped_waits {n : Nat} (h : ∀ g, b.staged = some g → n < g.target) : reshaped b n = b := by
  unfold reshaped
  split
  · next g hstaged => exact if_neg (by have := h g hstaged; omega)
  · rfl

end

/-- An edge's timer begins the beat. -/
theorem begins_of_stepped {s u : State} {leg : Option Nat} {holdover : Bool} (hbeat : u.beat = stepped s.beat leg holdover)
    (hout : s.phase = .run → Out.beatOut u.beat.count.toNat ∈ u.out) : s.Begins u s.beat.alignTo holdover := by
  obtain ⟨hcount, haligned, hact, -, -, -⟩ := reshaped_number (counted s.beat) (counted s.beat).count.toNat
  obtain ⟨hstaged, hperiod, hsaddle⟩ := counted_shape s.beat
  have ucount : u.beat.count = (counted s.beat).count := (congrArg Beat.count hbeat).trans hcount
  have ualigned : u.beat.aligned = (counted s.beat).aligned := (congrArg Beat.aligned hbeat).trans haligned
  have uact : u.beat.srcAct = s.beat.src := (congrArg Beat.srcAct hbeat).trans (hact.trans (counted_srcAct s.beat))
  refine ⟨congrArg Beat.windowOpen hbeat, congrArg Beat.at_ hbeat, congrArg Beat.markSeen hbeat, congrArg Beat.holdover hbeat, uact,
    fun hlocal => ?_, fun hsrc hfrom => ?_, fun hsrc hfrom hnone => ?_, fun hsrc hfrom k hsome => ?_, fun g hg hdue => ?_, fun hwait => ?_, hout⟩
  · rw [ucount, ualigned, counted, if_pos hlocal]
    exact ⟨rfl, rfl⟩
  · rw [ucount, ualigned, counted, if_neg hsrc, if_pos hfrom]
    exact ⟨rfl, rfl⟩
  · rw [ucount, ualigned, counted, if_neg hsrc, if_neg hfrom, hnone]
    exact ⟨rfl, rfl⟩
  · rw [ucount, ualigned, counted, if_neg hsrc, if_neg hfrom, hsome]
    by_cases hback : k.toNat < s.beat.count.toNat
    · simp only [if_pos hback, and_self]
    · simp only [if_neg hback, and_self]
  · rw [hbeat, stepped, reshaped_due _ (hstaged.trans hg) (ucount ▸ hdue)]
    exact ⟨rfl, rfl, rfl, rfl⟩
  · have hsame : reshaped (counted s.beat) (counted s.beat).count.toNat = counted s.beat :=
      reshaped_waits _ fun g hg => ucount ▸ hwait g (hstaged.symm.trans hg)
    rw [hbeat, stepped, hsame]
    exact ⟨hperiod, hsaddle, hstaged⟩

/-- What a beat's beginning is told from. -/
def ground (s : State) : BitVec 2 × BitVec 2 × W64 × Bool × Option Machine.Staged × BitVec 10 × BitVec 4 × PinPhase :=
  (s.beat.src, s.beat.srcAct, s.beat.count, s.beat.aligned, s.beat.staged, s.beat.periodCur, s.beat.saddleCur, s.phase)

theorem begins_of_ground {s t u : State} {n : Option W64} {holdover : Bool} (hground : ground t = ground s) (h : t.Begins u n holdover) :
    s.Begins u n holdover := by
  simp only [ground, Prod.mk.injEq] at hground
  obtain ⟨hsrc, hact, hcount, haligned, hstaged, hperiod, hsaddle, hphase⟩ := hground
  unfold State.Begins at h ⊢
  rw [hsrc, hact, hcount, haligned, hstaged, hperiod, hsaddle, hphase] at h
  exact h

/-- The edge of a device that is not in hold begins the beat. -/
theorem edge_begins {s : State} (o : EdgeObs) (holdover : Bool) (hphase : s.phase ≠ .hold) :
    ∃ (u : State) (leg : Option Nat), s.edge o holdover = u.begun ∧ u.beat = stepped s.beat leg holdover ∧ s.Begins u s.beat.alignTo holdover := by
  obtain ⟨u, leg, hedge, hbeat, hout⟩ := liveEdge_eq s o holdover
  exact ⟨u, leg, (if_neg hphase).trans hedge, hbeat, begins_of_stepped hbeat hout⟩

/-- An edge that counts as the source's own begins the beat, and ends what was missed in a row. -/
theorem edge_settled {s : State} (o : EdgeObs) (hphase : s.phase ≠ .hold) : ∃ u, s.Begins u s.beat.alignTo false ∧ u.beat.miss = s.beat.miss ∧
    s.edge o false = u.begun := by
  obtain ⟨u, leg, hedge, hbeat, hbegins⟩ := edge_begins o false hphase
  obtain ⟨-, -, -, hmiss, -, -⟩ := reshaped_number (counted s.beat) (counted s.beat).count.toNat
  exact ⟨u, hbegins, (congrArg Beat.miss hbeat).trans (hmiss.trans (counted_source s.beat).1), hedge⟩

/-! ### The edge in hold -/

/-- The counter's step is the timer's and the recorder's alone. -/
theorem countOn_eq (s : State) : ∃ c, s.countOn = { s with beat := counted s.beat, cairn := c } := by
  unfold State.countOn counted State.now
  by_cases hlocal : s.beat.src = 2
  · simp only [if_pos hlocal]
    exact ⟨_, rfl⟩
  · by_cases hfrom : s.beat.srcAct = 2
    · simp only [if_neg hlocal, if_pos hfrom]
      exact ⟨_, rfl⟩
    · cases halign : s.beat.alignTo with
      | none =>
        simp only [if_neg hlocal, if_neg hfrom]
        exact ⟨_, rfl⟩
      | some n =>
        by_cases hback : n.toNat < s.beat.count.toNat
        · simp only [if_neg hlocal, if_neg hfrom, if_pos hback]
          exact ⟨_, rfl⟩
        · simp only [if_neg hlocal, if_neg hfrom, if_neg hback]
          exact ⟨_, rfl⟩

/-- The beat that no number is reported for is one on. -/
theorem counted_on {b : Beat} (h : b.alignTo = none) : (counted b).count = b.count + 1 := by
  unfold counted
  rw [h]
  dsimp only
  split
  · rfl
  · split <;> rfl

/-- An edge in hold is the timer's and the recorder's alone (R30). -/
theorem heldEdge_eq (s : State) (holdover : Bool) : ∃ b c, s.heldEdge holdover = { s with beat := b, cairn := c } ∧ b.windowOpen = false ∧
    b.count = (counted s.beat).count := by
  obtain ⟨c, hcount⟩ := countOn_eq s
  unfold State.heldEdge
  rw [hcount]
  exact ⟨_, _, rfl, rfl, rfl⟩

/-! ### Markers (R38, R41) -/

/-- The second state differs from the first in what the timer and the recorder have counted of markers. -/
def MarksOnly (s t : State) : Prop := ∃ me ce mp ms c,
  t = { s with beat := { s.beat with markErr := me, cntErr := ce, markPort := mp, markSeen := ms }, cairn := c }

theorem MarksOnly.refl (s : State) : MarksOnly s s := ⟨_, _, _, _, _, rfl⟩

theorem MarksOnly.trans {s t u : State} (h : MarksOnly s t) (g : MarksOnly t u) : MarksOnly s u := by
  obtain ⟨_, _, _, _, _, rfl⟩ := h
  obtain ⟨_, _, _, _, _, rfl⟩ := g
  exact ⟨_, _, _, _, _, rfl⟩

theorem markError_marksOnly (s : State) (p kind : Nat) (off : Int) : MarksOnly s (s.markError p kind off) := by
  unfold State.markError
  dsimp only
  split <;> exact ⟨_, _, _, _, _, rfl⟩

/-- What a marker's error counts. -/
theorem markError_counts (s : State) (p kind : Nat) (off : Int) :
    (s.markError p kind off).beat.markErr = (if kind = 0 then sat32 s.beat.markErr 1 else s.beat.markErr) ∧
    (s.markError p kind off).beat.cntErr = (if kind = 1 then sat32 s.beat.cntErr 1 else s.beat.cntErr) ∧
    p ∈ (s.markError p kind off).beat.markSeen := by
  have hseen : p ∈ if (!s.beat.markSeen.contains p) = true then s.beat.markSeen ++ [p] else s.beat.markSeen := by
    by_cases h : p ∈ s.beat.markSeen <;> simp [h]
  unfold State.markError
  dsimp only
  by_cases hfirst : (!s.beat.markSeen.contains p) = true
  · rw [if_pos hfirst] at hseen ⊢
    rw [if_pos hfirst]
    exact ⟨rfl, rfl, hseen⟩
  · rw [if_neg hfirst] at hseen ⊢
    rw [if_neg hfirst]
    exact ⟨rfl, rfl, hseen⟩

/-- The errors that a marker shows (R41): its offset, then its number. -/
def marked (s : State) (p : Nat) (off : Int) (num : W64) : State :=
  let t := if off < -(s.beat.markTol.toNat * 10 : Int) ∨ (s.beat.markTol.toNat * 10 : Int) < off then s.markError p 0 off else s
  if num.toNat ≠ t.edgeNumber (s.makesEdge p off || decide (off < 0)) then t.markError p 1 off else t

theorem marked_marksOnly (s : State) (p : Nat) (off : Int) (num : W64) : MarksOnly s (marked s p off num) := by
  unfold marked
  extract_lets t
  have hoffset : MarksOnly s t := by
    unfold t
    split
    · exact markError_marksOnly ..
    · exact .refl s
  split
  · exact hoffset.trans (markError_marksOnly ..)
  · exact hoffset

/-- A marker that makes the edge brings its number. -/
theorem marker_makes {s : State} {p : Nat} {off : Int} (h : s.makesEdge p off = true) (num : W64) (o : EdgeObs) : ∃ t : State,
    ground t = ground s ∧ t.beat.alignTo = some num ∧
    s.marker p off num o = { t.edge o false with beat := { (t.edge o false).beat with holdoverRun := 0 } } := by
  obtain ⟨_, _, _, _, _, hmarked⟩ := marked_marksOnly s p off num
  refine ⟨{ marked s p off num with beat := { (marked s p off num).beat with alignTo := some num, phaseErr := off } }, ?_, rfl, ?_⟩
  · rw [hmarked]
    rfl
  · exact if_pos h

/-- A marker that paces the beat and comes before the tolerance only counts. -/
theorem marker_early {s : State} {p : Nat} {off : Int} (h : s.makesEdge p off = false) (num : W64) (o : EdgeObs)
    (hearly : (s.paces p && decide (off < -(s.beat.tolIn.toNat * 10 : Int))) = true) : s.marker p off num o =
    { marked s p off num with beat := { (marked s p off num).beat with early := sat32 (marked s p off num).beat.early 1 } } :=
  (if_neg (by rw [h]; decide) : _).trans (if_pos hearly)

/-- A marker that does not pace the beat shows its errors alone. -/
theorem marker_other {s : State} {p : Nat} {off : Int} (h : s.paces p = false) (num : W64) (o : EdgeObs) :
    s.marker p off num o = marked s p off num :=
  (if_neg (by simp [State.makesEdge, h] : ¬ s.makesEdge p off = true) : _).trans (if_neg (by simp [h]))

/-- The errors of a marker that does not pace the beat. -/
theorem marked_other {s : State} {p : Nat} {off : Int} {num : W64} (h : s.paces p = false) : marked s p off num =
    (let t := if off < -(s.beat.markTol.toNat * 10 : Int) ∨ (s.beat.markTol.toNat * 10 : Int) < off then s.markError p 0 off else s
     if num.toNat ≠ (if off < 0 then s.beat.count.toNat + 1 else s.beat.count.toNat) then t.markError p 1 off else t) := by
  unfold marked
  extract_lets t
  have hcount : t.beat.count = s.beat.count := by
    unfold t
    split
    · obtain ⟨_, _, _, _, _, hmark⟩ := markError_marksOnly s p 0 off
      rw [hmark]
    · rfl
  have hmakes : s.makesEdge p off = false := by rw [State.makesEdge, h]; rfl
  rw [hmakes, State.edgeNumber, State.now, hcount]
  simp only [Bool.false_or, decide_eq_true_eq]

theorem hopTake_sendsOnly (s : State) (p ty lseq units : Nat) : SendsOnly s (s.hopTake p ty lseq units) := by
  unfold State.hopTake
  dsimp only
  split
  · exact (updPort_sendsOnly ..).trans (oweCredit_sendsOnly ..)
  · exact ((updPort_sendsOnly ..).trans (oweCredit_sendsOnly ..)).trans ((portSend_sendsOnly ..).trans (giveCredit_sendsOnly ..))

/-- A marker on a port that is UP, answered: what its errors and its edge are told from is as it was. -/
theorem exec_beatMarker {s : State} {p : Nat} (hpower : s.crest.powered = true) (hup : (s.port p).state = 3) (off : Int) (num : W64) (o : EdgeObs) :
    ∃ t, t = s.hopTake p 0x03 (s.port p).lseqRx 1 ∧ SendsOnly s t ∧ t.beat = s.beat ∧ t.phase = s.phase ∧
      exec (.beatMarker p off num o) s = .next (t.marker p off num o).settle := by
  have hsends := hopTake_sendsOnly s p 0x03 (s.port p).lseqRx 1
  obtain ⟨hbeat, hphase⟩ := pace_of_sendsOnly hsends
  exact ⟨_, rfl, hsends, hbeat, hphase, congrArg Host.Outcome.next (if_pos (by rw [hpower, hup]; rfl))⟩

theorem paces_of {s t : State} (hbeat : t.beat = s.beat) (hphase : t.phase = s.phase) (p : Nat) : t.paces p = s.paces p := by
  unfold State.paces
  rw [hbeat, hphase]

/-- A port that is not SRC_PORT under LINK does not pace the beat. -/
theorem paces_other {s : State} {p : Nat} (h : s.beat.srcAct ≠ 1 ∨ s.beat.srcPort.toNat ≠ p) : s.paces p = false := by
  cases h with
  | inl h =>
    rw [State.paces, beq_false_of_ne h]
    rfl
  | inr h => simp [State.paces, h]

/-- SRC_PORT paces the beat under LINK in the run phase, while no change of source is due. -/
theorem paces_source {s : State} {p : Nat} (hact : s.beat.srcAct = 1) (hsrc : s.beat.src = 1) (hport : s.beat.srcPort.toNat = p)
    (hrun : s.phase = .run) : s.paces p = true := by
  simp [State.paces, Beat.sourceDue, hact, hsrc, hport, hrun]

/-! ### Holdover (R35, R36) -/

/-- The source is lost or not: the timer and the recorder show it. -/
theorem loseBeat_eq (s : State) : ∃ l c, s.loseBeat = { s with beat := { s.beat with lost := l }, cairn := c } ∧
    (l = true ↔ s.beat.lost = true ∨ s.beat.lostAfter ≤ s.beat.holdoverRun) := by
  unfold State.loseBeat
  by_cases hlost : s.beat.lostAfter ≤ s.beat.holdoverRun ∧ s.beat.lost = false
  · rw [if_pos hlost]
    exact ⟨true, _, rfl, by simp [hlost.1]⟩
  · rw [if_neg hlost]
    refine ⟨s.beat.lost, s.cairn, rfl, ⟨.inl, fun h => h.elim id fun hafter => ?_⟩⟩
    cases hl : s.beat.lost with
    | true => rfl
    | false => exact absurd ⟨hafter, hl⟩ hlost

end Sys2Proof.Proofs
end

section
/-! SUPPORT. O54, settled. -/
namespace Sys2Proof.Proofs
open Sys2Proof Sys2Proof.Machine

/-- BEAT_EDGE and BEAT_IN_EDGE outside hold, and the timer's own edges that count as none. -/
theorem begins_edge {s : State} (o : EdgeObs) (hphase : s.phase ≠ .hold) : ∃ u, s.Begins u s.beat.alignTo false ∧ u.beat.miss = s.beat.miss ∧
    ({ s.edge o false with beat := { (s.edge o false).beat with holdoverRun := 0 } } : State) =
      { u.begun with beat := { u.begun.beat with holdoverRun := 0 } } := by
  obtain ⟨u, hbegins, hmiss, hedge⟩ := edge_settled o hphase
  exact ⟨u, hbegins, hmiss, by rw [hedge]⟩

theorem run_ne_hold {s : State} (h : s.phase = .run) : s.phase ≠ .hold := by
  rw [h]
  decide

/-- A timer's edge that counts (R35, R36). -/
theorem holdover_begins {s : State} (o : EdgeObs) (hrun : s.phase = .run) :
    ∃ u, s.Begins u s.beat.alignTo true ∧ u.beat.miss = sat32 s.beat.miss 1 ∧ u.beat.holdoverRun = s.beat.holdoverRun + 1 ∧
      (u.beat.lost = true ↔ s.beat.lost = true ∨ s.beat.lostAfter ≤ s.beat.holdoverRun + 1) ∧
      (({ s with beat := { s.beat with miss := sat32 s.beat.miss 1, holdoverRun := s.beat.holdoverRun + 1 } } : State).loseBeat).edge o true =
        u.begun := by
  obtain ⟨l, c, hlose, hlost⟩ := loseBeat_eq
    ({ s with beat := { s.beat with miss := sat32 s.beat.miss 1, holdoverRun := s.beat.holdoverRun + 1 } } : State)
  rw [hlose]
  generalize hv : ({ ({ s with beat := { s.beat with miss := sat32 s.beat.miss 1, holdoverRun := s.beat.holdoverRun + 1 } } : State) with
    beat := { ({ s.beat with miss := sat32 s.beat.miss 1, holdoverRun := s.beat.holdoverRun + 1 } : Beat) with lost := l }, cairn := c } : State) = v
  have hground : ground v = ground s := by
    rw [← hv]
    rfl
  have halign : v.beat.alignTo = s.beat.alignTo := by rw [← hv]
  obtain ⟨u, leg, hedge, hbeat, hbegins⟩ := edge_begins (s := v) o true (by rw [← hv]; exact run_ne_hold hrun)
  obtain ⟨-, -, -, hmiss, hrow, hl⟩ := reshaped_number (counted v.beat) (counted v.beat).count.toNat
  obtain ⟨cmiss, crow, cl⟩ := counted_source v.beat
  refine ⟨u, begins_of_ground hground (halign ▸ hbegins), ?_, ?_, ?_, hedge⟩
  · rw [hbeat, stepped, hmiss, cmiss, ← hv]
  · rw [hbeat, stepped, hrow, crow, ← hv]
  · rw [hbeat, stepped, hl, cl, ← hv]
    exact hlost

/-- Settles O54: every edge that begins a beat goes through the shared `State.edge`, whose timer is `stepped`. -/
theorem edgesBeginBeats : Obligations.EdgesBeginBeats := by
  unfold Obligations.EdgesBeginBeats
  refine ⟨fun s o hpower hphase => ?_, fun s o hpower hhold => ?_, fun s off o hpower hrun hact hsrc hlo hhi => ?_,
    fun s off o hpower hrun hact hsrc hearly => ?_, fun s off o hnone => ?_, fun s o hpower hphase hact hdue => ?_,
    fun s o hpower hrun hact hsrc => ?_, fun s p off num o hpower hup hact hsrc hport hrun hlo hhi => ?_,
    fun s p off num o hpower hup hact hsrc hport hrun hearly => ?_, fun s p off num o hpower hup hother hlo hhi hnum => ?_,
    fun s p off num o hpower hup hother hlo hhi hnum => ?_, fun s p off num o hpower hup hother hout => ?_⟩
  · obtain ⟨u, hbegins, -, hedge⟩ := begins_edge o hphase
    exact ⟨u, hbegins, congrArg Host.Outcome.next ((if_pos hpower).trans (congrArg State.settle hedge))⟩
  · obtain ⟨b, c, hedge, hwindow, hcount⟩ := heldEdge_eq s false
    refine ⟨_, congrArg Host.Outcome.next ((if_pos hpower).trans
      (congrArg (fun t : State => ({ t with beat := { t.beat with holdoverRun := 0 } } : State).settle) ((if_pos hhold).trans hedge))), ?_⟩
    exact ⟨hwindow, fun hnone => hcount.trans (counted_on hnone), rfl, rfl, rfl, rfl, rfl, rfl⟩
  · obtain ⟨u, hbegins, -, hedge⟩ := edge_settled o (run_ne_hold hrun)
    refine ⟨u, hbegins, congrArg Host.Outcome.next ((if_pos ?_).trans ((if_pos ⟨hlo, hhi⟩).trans ?_))⟩
    · simp [hpower, hrun, hact, hsrc, Beat.sourceDue]
    · dsimp only
      rw [hedge]
  · refine congrArg Host.Outcome.next ((if_pos ?_).trans ((if_neg (by omega)).trans (if_pos hearly)))
    simp [hpower, hrun, hact, hsrc, Beat.sourceDue]
  · refine congrArg Host.Outcome.next ?_
    by_cases hgate : (s.crest.powered && s.phase == .run && s.beat.srcAct == 0 && !s.beat.sourceDue) = true
    · refine (if_pos hgate).trans ?_
      simp only [Bool.and_eq_true, beq_iff_eq, Bool.not_eq_true', Beat.sourceDue, bne_eq_false_iff_eq] at hgate
      obtain ⟨⟨-, hact⟩, hsrc⟩ := hgate
      have hlate : (s.beat.tolIn.toNat * 10 : Int) < off := (hnone.resolve_left (· hsrc)).resolve_left (· hact)
      exact (if_neg (by omega)).trans (if_neg (by omega))
    · exact if_neg hgate
  · obtain ⟨u, hbegins, hmiss, hedge⟩ := begins_edge o hphase
    refine ⟨u, hbegins, congrArg Host.Outcome.next ((if_pos ?_).trans ((if_neg ?_).trans (congrArg State.settle hedge))), hmiss⟩
    · exact Bool.and_eq_true_iff.mpr ⟨hpower, bne_iff_ne.mpr hact⟩
    · rcases hdue with h | h <;> simp [h, Beat.sourceDue]
  · obtain ⟨u, hbegins, hmiss, hrow, hlost, hedge⟩ := holdover_begins o hrun
    refine ⟨u, hbegins, congrArg Host.Outcome.next ((if_pos ?_).trans ((if_pos ?_).trans (congrArg State.settle hedge))), hmiss, hrow, hlost⟩
    · exact Bool.and_eq_true_iff.mpr ⟨hpower, bne_iff_ne.mpr hact⟩
    · simp [hrun, hsrc, Beat.sourceDue]
  · obtain ⟨t, -, -, hbeat, hphase, hexec⟩ := exec_beatMarker hpower hup off num o
    have hmakes : t.makesEdge p off = true := by
      rw [State.makesEdge, paces_of hbeat hphase, paces_source hact hsrc hport hrun, hbeat]
      simp [hlo, hhi]
    obtain ⟨v, hground, halign, hmarker⟩ := marker_makes hmakes num o
    have hsame : ground v = ground s := by
      rw [hground, ground, hbeat, hphase]
      rfl
    have hvrun : v.phase = .run := (congrArg (fun g => g.2.2.2.2.2.2.2) hsame : _).trans hrun
    obtain ⟨u, hbegins, -, hedge⟩ := begins_edge (s := v) o (run_ne_hold hvrun)
    refine ⟨u, begins_of_ground hsame (halign ▸ hbegins), ?_⟩
    rw [hexec, hmarker, hedge]
  · obtain ⟨t, -, hsends, hbeat, hphase, hexec⟩ := exec_beatMarker hpower hup off num o
    have hmakes : t.makesEdge p off = false := by
      simp only [State.makesEdge, hbeat, Bool.and_eq_false_iff, decide_eq_false_iff_not]
      omega
    have hpaces : t.paces p = true := (paces_of hbeat hphase p).trans (paces_source hact hsrc hport hrun)
    obtain ⟨_, _, _, _, _, hmarked⟩ := marked_marksOnly t p off num
    obtain ⟨_, _, _, _, _, _, hsent⟩ := hsends
    refine ⟨_, hexec, ?_⟩
    rw [marker_early hmakes num o (by rw [hpaces, hbeat]; simpa using hearly), hmarked, hsent]
    exact ⟨rfl, rfl, rfl, rfl⟩
  · obtain ⟨t, ht, hsends, hbeat, hphase, hexec⟩ := exec_beatMarker hpower hup off num o
    have hpaces : t.paces p = false := (paces_of hbeat hphase p).trans (paces_other hother)
    have hclean : marked t p off num = t := by
      rw [marked_other hpaces, hbeat, if_neg (by omega : ¬ (off < -(s.beat.markTol.toNat * 10 : Int) ∨ (s.beat.markTol.toNat * 10 : Int) < off))]
      exact if_neg (not_not_intro hnum)
    rw [hexec, marker_other hpaces, hclean, ht]
  · obtain ⟨t, ht, hsends, hbeat, hphase, hexec⟩ := exec_beatMarker hpower hup off num o
    have hpaces : t.paces p = false := (paces_of hbeat hphase p).trans (paces_other hother)
    have hnumber : marked t p off num = t.markError p 1 off := by
      rw [marked_other hpaces, hbeat, if_neg (by omega : ¬ (off < -(s.beat.markTol.toNat * 10 : Int) ∨ (s.beat.markTol.toNat * 10 : Int) < off))]
      exact if_pos hnum
    obtain ⟨herr, hcnt, hseen⟩ := markError_counts t p 1 off
    obtain ⟨_, _, _, _, _, hmark⟩ := markError_marksOnly t p 1 off
    obtain ⟨_, _, _, _, _, _, hsent⟩ := hsends
    refine ⟨_, hexec, ?_⟩
    rw [marker_other hpaces, hnumber]
    refine ⟨hcnt.trans (by rw [hbeat]; rfl), herr.trans (by rw [hbeat]; rfl), ?_, hseen, ?_, ?_⟩ <;>
      (rw [hmark, hsent]; rfl)
  · obtain ⟨t, ht, hsends, hbeat, hphase, hexec⟩ := exec_beatMarker hpower hup off num o
    have hpaces : t.paces p = false := (paces_of hbeat hphase p).trans (paces_other hother)
    obtain ⟨_, _, _, _, _, hmark⟩ := marked_marksOnly t p off num
    obtain ⟨_, _, _, _, _, _, hsent⟩ := hsends
    have hcounts : (marked t p off num).beat.markErr = sat32 s.beat.markErr 1 ∧ p ∈ (marked t p off num).beat.markSeen := by
      obtain ⟨herr, -, hseen⟩ := markError_counts t p 0 off
      rw [marked_other hpaces, hbeat, if_pos hout]
      dsimp only
      by_cases hwrong : num.toNat ≠ (if off < 0 then s.beat.count.toNat + 1 else s.beat.count.toNat)
      · obtain ⟨herr', -, hseen'⟩ := markError_counts (t.markError p 0 off) p 1 off
        rw [if_pos hwrong]
        exact ⟨herr'.trans (herr.trans (by rw [hbeat]; rfl)), hseen'⟩
      · rw [if_neg hwrong]
        exact ⟨herr.trans (by rw [hbeat]; rfl), hseen⟩
    refine ⟨_, hexec, ?_⟩
    rw [marker_other hpaces]
    refine ⟨hcounts.1, ?_, hcounts.2, ?_, ?_⟩ <;> (rw [hmark, hsent]; rfl)

end Sys2Proof.Proofs
end

section
/-! SUPPORT. O44, O45: packets accepted and refused (R285, R287, R293, R300, R396). -/
namespace Sys2Proof.Proofs
open Sys2Proof Sys2Proof.Machine

/-! ### Packet rows -/

/-- A packet row presents its packet. -/
theorem exec_packet {i : Instr} {h : Hdr} {op : Op} (hrow : i.packet = some (h, op)) (s : State) : exec i s = .next (s.present h op) := by
  cases i with
  | streamOpen | streamClose | loadsetLoadPlace | loadsetLoadVerify | loadsetUnload | adapterAttachPlace | adapterAttachVerify | adapterDetach
  | run | copy | fill | reduce | gather | broadcast | normreduce | permute | routeOpen | routeDispatch | routeClose | routeRetrace | routeReturn
  | routeForceSeal | routeCounts | routeXset | combineForward | combineRetrace | weightSwitchStage | weightSwitchVerify | weightSwitchSwitch
  | weightSwitchAbort | optstep | fence | signalAdd | signalSet | wait | preempt | preemptResume | contextReset | partitionConfig | modeStageArm
  | modeStageCancel | censusRead | accountRead =>
    cases hrow
    rfl
  | _ => nomatch hrow

section
variable {s : State} {g : Nat}

/-- What a stream that may be fetched from holds (R285, R287). -/
theorem fetchable_held (h : s.fetchable g = true) : (s.strm g).held = none ∧ ((s.strm g).head == (s.strm g).tail) = false := by
  simp only [State.fetchable, Bool.and_eq_true, Option.isNone_iff_eq_none, bne_iff_ne] at h
  obtain ⟨⟨⟨⟨-, hheld⟩, hhead⟩, -⟩, -⟩ := h
  exact ⟨hheld, beq_false_of_ne hhead⟩

/-- A packet of a stream that may be fetched from comes to its checks. -/
theorem fetchOp_fetchable (h : s.fetchable g = true) (hd : Hdr) (op : Op) : s.fetchOp g hd op = s.checkPacket g hd op := by
  unfold State.fetchOp
  rw [(fetchable_held h).1]
  exact if_pos h

variable {hd : Hdr} {op : Op} (hwaits : s.packetWaits g hd op = false)
include hwaits

theorem checkPacket_accept (hfail : s.packetFail g hd op = none) : s.checkPacket g hd op = s.accept g hd op := by
  unfold State.checkPacket
  rw [hwaits, hfail]
  rfl

theorem checkPacket_refuse {f : Nat × Nat × Nat} (hfail : s.packetFail g hd op = some f) : s.checkPacket g hd op = s.refuse g hd op f := by
  unfold State.checkPacket
  rw [hwaits, hfail]
  rfl

end

/-- A packet row on an open stream. -/
theorem exec_packet_open {i : Instr} {h : Hdr} {op : Op} {s : State} {g : Nat} (hrow : i.packet = some (h, op))
    (hopen : s.openStream h.ctx h.stream = some g) (hfetch : s.fetchable g = true) :
    exec i s = .next (((s.checkPacket g h op).recordNow).issuePoint (s.ctxPart h.ctx)).settle := by
  rw [exec_packet hrow, State.present, hopen]
  dsimp only
  rw [fetchOp_fetchable hfetch]

/-! ### HEAD and the reservation (R285, R287) -/

section
variable (s : State) (g : Nat)

theorem takePacket_head : ((s.takePacket g).strm g).head = (s.strm g).head + 1 := by
  simp [State.takePacket]

theorem takePacket_reserved : (Tab.get {} ((s.takePacket g).ctx (s.strm g).ctx).cq (s.strm g).cq).reserved =
    (Tab.get {} (s.ctx (s.strm g).ctx).cq (s.strm g).cq).reserved + 1 := by
  simp [State.takePacket, Tab.upd]

/-- Taking a packet moves the head of its stream, not what else the stream holds. -/
theorem takePacket_strm : ∃ a b, (s.takePacket g).strm g = { s.strm g with head := a, tail := b } :=
  ⟨_, _, Tab.get_set_same ..⟩

theorem takePacket_strm_ne {k : Nat} (hk : k ≠ g) : (s.takePacket g).strm k = s.strm k := Tab.get_set_ne _ _ _ hk

theorem takePacket_ctx_ne {c : Nat} (hc : c ≠ (s.strm g).ctx) : (s.takePacket g).ctx c = s.ctx c := Tab.get_set_ne _ _ _ hc

end

/-! ### Refusals -/

section
variable {s : State} {g : Nat}

/-- A stream whose head holds no copy halts by itself alone (R286). -/
theorem halt_of_held (hheld : (s.strm g).held = none) (st : Nat) :
    s.halt g st = (s.updStrm g (fun x => { x with halted := true, lastStatus := BitVec.ofNat 8 st })).raise (64 + (s.strm g).ctx) := by
  unfold State.halt State.dropHeld
  dsimp only
  rw [hheld]

variable (hd : Hdr) (op : Op) {f : Nat × Nat × Nat} (hstage : f.1 ≠ 0x3A)
include hstage

/-- The state that a refusal leaves, before the halt. -/
theorem refuse_eq : s.refuse g hd op f =
    (if contOnErr hd then id else fun t : State => t.halt g f.1)
      { s.takePacket g with
        cmds := s.cmds ++ [{ s.newCmd g hd op with phase := .refused, atFetch := true, status := f.1, dkind := f.2.1, dindex := f.2.2 }],
        nextId := s.nextId + 1 } := by
  unfold State.refuse
  dsimp only
  rw [if_neg (show ¬ f.1 = stStageRefused from hstage)]
  by_cases hcont : contOnErr hd = true
  · rw [if_pos hcont, if_pos hcont]
    rfl
  · rw [if_neg hcont, if_neg hcont]

end

/-- A check after others that fails makes the whole fail. -/
theorem andThen_ne_none {f : Fail} {k : Unit → Fail} (h : k () ≠ none) : f.andThen k ≠ none := by
  cases f with
  | none => exact h
  | some x => exact Option.some_ne_none x

theorem chk_then_ne_none {c : Bool} (h : c = false) (st dk di : Nat) (k : Unit → Fail) : (chk c st dk di).andThen k ≠ none := by
  rw [h]
  exact Option.some_ne_none _

section
variable {s : State} {g : Nat} {hd : Hdr} {op : Op}

theorem headFail_fenced (h : s.fenced = true) : s.headFail hd op ≠ none := by
  unfold State.headFail
  iterate 5 refine andThen_ne_none ?_
  exact chk_then_ne_none (by rw [h]; rfl) _ _ _ _

theorem headFail_right (h : (s.ctx hd.ctx).mayIssue hd.ctx op = false) : s.headFail hd op ≠ none := by
  unfold State.headFail
  iterate 6 refine andThen_ne_none ?_
  exact chk_then_ne_none h _ _ _ _

/-- A packet that fails one of the first seven checks is refused, and does not wait. -/
theorem turned_away (h : s.headFail hd op ≠ none) : s.packetFail g hd op ≠ none ∧ s.packetWaits g hd op = false := by
  obtain ⟨x, hx⟩ := Option.ne_none_iff_exists'.mp h
  have hfail : s.packetFail g hd op = some x := by
    unfold State.packetFail
    rw [hx]
    rfl
  refine ⟨by rw [hfail]; exact Option.some_ne_none x, ?_⟩
  unfold State.packetWaits
  rw [hx, hfail]
  rfl

end

/-- Settles O45: a refusal is HEAD, the record's command and the halt; every other packet that is not accepted is held or left. -/
theorem packetsRefused : Obligations.PacketsRefused := by
  unfold Obligations.PacketsRefused
  refine ⟨fun i h op s g f hrow hopen hfetch hwaits hfail => ?_, fun s g h op f hfetch hstage => ?_, fun s g b h hfetch hbytes => ?_,
    fun s g h op hheld hbytes => ?_, fun s g q hheld => ⟨?_, fun hwaits => ?_, fun htakes hwaits => ?_⟩, fun s g h op hfetch hwaits => ?_,
    fun i h op s hrow hclosed => ?_, fun s g h op hfenced => ?_, fun s g h op hright => ?_⟩
  · rw [exec_packet_open hrow hopen hfetch, checkPacket_refuse hwaits hfail]
  · rw [refuse_eq h op hstage]
    generalize hbase : ({ s.takePacket g with
      cmds := s.cmds ++ [{ s.newCmd g h op with phase := .refused, atFetch := true, status := f.1, dkind := f.2.1, dindex := f.2.2 }],
      nextId := s.nextId + 1 } : State) = base
    have hstrm (k : Nat) : base.strm k = (s.takePacket g).strm k := by
      rw [← hbase]
      rfl
    have hctx (c : Nat) : base.ctx c = (s.takePacket g).ctx c := by
      rw [← hbase]
      rfl
    obtain ⟨a, b, htaken⟩ := takePacket_strm s g
    have hheld : (base.strm g).held = none := by
      rw [hstrm, htaken]
      exact (fetchable_held hfetch).1
    have hhead : (base.strm g).head = (s.strm g).head + 1 := (congrArg Strm.head (hstrm g)).trans (takePacket_head s g)
    have hframe : base.hbm = s.hbm ∧ base.parts = s.parts ∧ base.blocks = s.blocks ∧ base.pt = s.pt ∧ base.beat = s.beat := by
      rw [← hbase]
      exact ⟨rfl, rfl, rfl, rfl, rfl⟩
    obtain ⟨hhbm, hparts, hblocks, hpt, hbeat⟩ := hframe
    have hcmds : base.cmds = s.cmds ++
        [{ s.newCmd g h op with phase := .refused, atFetch := true, status := f.1, dkind := f.2.1, dindex := f.2.2 }] := by
      rw [← hbase]
    have hothers (c : Nat) (hc : c ≠ (s.strm g).ctx) : base.ctx c = s.ctx c := (hctx c).trans (takePacket_ctx_ne s g hc)
    cases hflag : h.flags.getLsbD 5 with
    | true =>
      rw [contOnErr, hflag, if_pos rfl, if_pos rfl]
      refine ⟨hhead, hcmds, ?_, nofun, fun k hk => (hstrm k).trans (takePacket_strm_ne s g hk), hhbm, hparts, hblocks, hpt, hbeat, hothers⟩
      exact (congrArg Strm.halted ((hstrm g).trans htaken) :)
    | false =>
      rw [contOnErr, hflag, if_neg (by decide), if_neg (by decide)]
      dsimp only
      rw [halt_of_held hheld]
      have hown := State.strm_updStrm_same base g fun x => { x with halted := true, lastStatus := BitVec.ofNat 8 f.1 }
      exact ⟨(congrArg Strm.head hown).trans hhead, hcmds, (congrArg Strm.halted hown :), fun _ => (congrArg Strm.lastStatus hown :),
        fun k hk => (State.strm_updStrm_ne (s := base) (fun x => { x with halted := true, lastStatus := BitVec.ofNat 8 f.1 }) hk :).trans ((hstrm k).trans (takePacket_strm_ne s g hk)), hhbm, hparts, hblocks, hpt, hbeat, hothers⟩
  · have hheld := (fetchable_held hfetch).1
    unfold exec execPacketFetch
    dsimp only
    rw [hheld, hbytes]
    dsimp only
    rw [if_pos hfetch]
    rfl
  · unfold exec execPacketFetch
    dsimp only
    rw [hheld, hbytes]
    rfl
  · unfold exec execPacketFetch
    dsimp only
    rw [hheld]
    rfl
  · unfold State.retryHeld
    rw [hheld]
    dsimp only
    rw [hwaits]
    simp
  · unfold State.retryHeld
    rw [hheld]
    dsimp only
    rw [hwaits, htakes]
    rfl
  · rw [fetchOp_fetchable hfetch, State.checkPacket, if_pos hwaits]
    unfold State.holdPacket
    refine ⟨?_, ?_, ?_, rfl, rfl⟩ <;> simp [Tab.upd]
  · rw [exec_packet hrow, State.present, hclosed]
  · exact turned_away (headFail_fenced hfenced)
  · exact turned_away (headFail_right hright)

end Sys2Proof.Proofs
end

section
/-! SUPPORT. O44: what the acceptance of an operation leaves (R285, R287, R295). -/
namespace Sys2Proof.Proofs
open Sys2Proof Sys2Proof.Machine

/-! ### The packet in the queue -/

/-- What a packet gives its command for good. -/
def packetPart (x : Cmd) : Nat × Nat × Nat × Op × Hdr × BitVec 32 × Nat := (x.id, x.ctx, x.strm, x.op, x.h, x.index, x.timeout)

/-- The second state holds every packet that the first one had accepted, and HBM, the beat, the heads and the completion rings are as
they were. -/
structure Keeps (s t : State) : Prop where
  hbm : t.hbm = s.hbm
  beat : t.beat = s.beat
  nextId : s.nextId ≤ t.nextId
  head : ∀ g, (t.strm g).head = (s.strm g).head
  ring : ∀ c, (t.ctx c).cq = (s.ctx c).cq
  cmds : ∀ x ∈ s.cmds, ∃ y ∈ t.cmds, packetPart y = packetPart x

namespace Keeps

theorem refl (s : State) : Keeps s s := ⟨rfl, rfl, Nat.le_refl _, fun _ => rfl, fun _ => rfl, fun x hx => ⟨x, hx, rfl⟩⟩

theorem trans {s t u : State} (h : Keeps s t) (k : Keeps t u) : Keeps s u where
  hbm := k.hbm.trans h.hbm
  beat := k.beat.trans h.beat
  nextId := Nat.le_trans h.nextId k.nextId
  head g := (k.head g).trans (h.head g)
  ring c := (k.ring c).trans (h.ring c)
  cmds x hx := by
    obtain ⟨y, hy, hxy⟩ := h.cmds x hx
    obtain ⟨z, hz, hyz⟩ := k.cmds y hy
    exact ⟨z, hz, hyz.trans hxy⟩

/-- A step that leaves those parts of the state alone. -/
theorem of_same {s t : State} (hhbm : t.hbm = s.hbm) (hbeat : t.beat = s.beat) (hnext : t.nextId = s.nextId) (hstrms : t.strms = s.strms)
    (hctxs : t.ctxs = s.ctxs) (hcmds : t.cmds = s.cmds) : Keeps s t where
  hbm := hhbm
  beat := hbeat
  nextId := Nat.le_of_eq hnext.symm
  head g := by rw [State.strm, hstrms]; rfl
  ring c := by rw [State.ctx, hctxs]; rfl
  cmds x hx := ⟨x, hcmds ▸ hx, rfl⟩

theorem fold {α : Type} {f : State → α → State} (h : ∀ s a, Keeps s (f s a)) (l : List α) (s : State) : Keeps s (l.foldl f s) :=
  foldl_rel refl trans h l s

end Keeps

section
variable (s : State)

theorem Keeps.updCtx {s t : State} (k : Keeps s t) (c : Nat) {f : Ctx → Ctx} (h : ∀ x, (f x).cq = x.cq := by intro _; rfl) : Keeps s (t.updCtx c f) :=
  k.trans ⟨rfl, rfl, Nat.le_refl _, fun _ => rfl, fun d => by
    by_cases hd : d = c
    · rw [hd, State.ctx_updCtx_same, h]
    · rw [State.ctx_updCtx_ne _ _ hd], fun x hx => ⟨x, hx, rfl⟩⟩

theorem Keeps.updStrm {s t : State} (k : Keeps s t) (g : Nat) {f : Strm → Strm} (h : ∀ x, (f x).head = x.head := by intro _; rfl) : Keeps s (t.updStrm g f) :=
  k.trans ⟨rfl, rfl, Nat.le_refl _, fun n => by
    by_cases hn : n = g
    · rw [hn, State.strm_updStrm_same, h]
    · rw [State.strm_updStrm_ne _ _ hn], fun _ => rfl, fun x hx => ⟨x, hx, rfl⟩⟩

theorem Keeps.updCmd {s t : State} (k : Keeps s t) (id : Nat) {f : Cmd → Cmd} (h : ∀ x, packetPart (f x) = packetPart x := by intro _; simp only [packetPart]) :
    Keeps s (t.updCmd id f) :=
  k.trans ⟨rfl, rfl, Nat.le_refl _, fun _ => rfl, fun _ => rfl, fun x hx => by
    refine ⟨if x.id = id then f x else x, List.mem_map.mpr ⟨x, hx, rfl⟩, ?_⟩
    split
    · exact h x
    · rfl⟩

theorem Keeps.updPart {s t : State} (k : Keeps s t) (p : Nat) (f : Part → Part) : Keeps s (t.updPart p f) :=
  k.trans (.of_same rfl rfl rfl rfl rfl rfl)

theorem Keeps.updWeight {s t : State} (k : Keeps s t) (w : Nat) (f : WVer → WVer) : Keeps s (t.updWeight w f) :=
  k.trans (.of_same rfl rfl rfl rfl rfl rfl)

theorem Keeps.setPt {s t : State} (k : Keeps s t) (p : PtMod) : Keeps s { t with pt := p } :=
  k.trans (.of_same rfl rfl rfl rfl rfl rfl)

theorem keeps_of_blocksOnly {s t : State} (h : BlocksOnly s t) : Keeps s t := by
  obtain ⟨_, _, rfl⟩ := h
  exact .of_same rfl rfl rfl rfl rfl rfl

/-! ### What acceptance does beside queueing -/

theorem account_keeps (g c i n : Nat) : Keeps s (s.account g c i n) := by
  unfold State.account
  exact Keeps.updCtx (Keeps.updStrm (.refl s) g) c

/-- The command as a kill leaves it (R330). -/
theorem killed_keeps (x : Cmd) : Keeps s (x.blocks.foldl (fun (s : State) b => s.updBlock b (fun k => k.preempted s.beat.at_)) (s.freeBlocks x)) :=
  (keeps_of_blocksOnly (freeBlocks_blocksOnly s x)).trans (Keeps.fold (fun t b => keeps_of_blocksOnly (updBlock_blocksOnly t b _)) _ _)

theorem kill_keeps (id : Nat) : Keeps s (s.kill id) := by
  unfold State.kill
  split
  · exact .refl s
  · next x _ =>
    split
    · extract_lets lost freed requeued forgotten counted
      have hrequeued : Keeps s requeued := Keeps.updCmd (killed_keeps s x) id
      have hforgotten : Keeps requeued forgotten := .of_same rfl rfl rfl rfl rfl rfl
      exact ((hrequeued.trans hforgotten).trans (account_keeps forgotten ..)).trans (account_keeps counted ..)
    · exact .refl s

theorem killAll_keeps (t : Nat) : Keeps s (s.killAll t) :=
  Keeps.fold (f := fun (s : State) (x : Cmd) => s.kill x.id) (fun s x => kill_keeps s x.id) _ s

theorem startColl_keeps (id c g : Nat) (epoch : BitVec 32) (unit : Nat) : Keeps s (s.startColl id c g epoch unit) := by
  unfold State.startColl
  exact Keeps.updCmd (Keeps.updCtx (.refl s) c) id

theorem takeBinds_keeps (id : Nat) (op : Op) : Keeps s (s.takeBinds id op) := by
  unfold State.takeBinds
  exact Keeps.updCmd (Keeps.fold (fun t b => Keeps.updWeight (.refl t) _ _) _ s) id

theorem startReset_keeps (c : Nat) (cmd : Option Nat) (destroy : Bool) (beat : Nat) : Keeps s (s.startReset c cmd destroy beat) := by
  obtain ⟨b, n, k, o, h⟩ := startReset_eq s c cmd destroy beat
  rw [h]
  refine ⟨rfl, rfl, Nat.le_succ _, fun _ => rfl, fun d => ?_, fun x hx => ⟨x, hx, rfl⟩⟩
  by_cases hd : d = c
  · rw [hd]
    exact (congrArg Ctx.cq (Tab.get_set_same ..) :)
  · exact (congrArg Ctx.cq (Tab.get_set_ne _ _ _ hd) :)

theorem setNext_keeps (l : List Layout) : Keeps s (s.setNext l) := Keeps.fold (fun t n => Keeps.updPart (.refl t) n _) _ s

theorem placeAccept_keeps (id c : Nat) (l : LoadP) : Keeps s (placeAccept s id c l) := by
  unfold placeAccept
  extract_lets pt p m es att shared trains weights regions
  have hweights : Keeps s weights := .of_same rfl rfl rfl rfl rfl rfl
  have hregions : Keeps s regions := Keeps.updCtx hweights c
  exact Keeps.updPart hregions _ _

theorem disarmMode_keeps : Keeps s s.disarmMode := by
  unfold State.disarmMode
  dsimp only
  refine Keeps.setPt ?_ _
  split
  · exact .refl s
  · exact setNext_keeps s []

/-- The acceptance of an operation but STREAM_OPEN. -/
theorem onAccept_keeps (id c : Nat) (op : Op) (hop : ∀ p, op ≠ .streamOpen p) : Keeps s (s.onAccept id c op) := by
  cases op <;> dsimp only [State.onAccept]
  case streamOpen p => exact absurd rfl (hop p)
  case loadPlace p => exact Keeps.updCmd (placeAccept_keeps s id c p) id
  case adapterPlace p => exact Keeps.updCmd (.refl s) id
  case wsStage p => exact Keeps.updCmd (Keeps.updPart (.refl s) _ _) id
  case partitionConfig l => exact Keeps.updCmd (.refl s) id
  case run p => exact Keeps.updCmd (takeBinds_keeps s id _) id
  case optstep p => exact Keeps.updCmd (Keeps.updWeight (.refl s) _ _) id
  case reduce p => exact startColl_keeps s id c _ _ _
  case gather p => exact startColl_keeps s id c _ _ _
  case broadcast p => exact startColl_keeps s id c _ _ _
  case normreduce p => exact Keeps.updCtx (startColl_keeps s id c _ _ _) c
  case permute p =>
    have hstart := startColl_keeps s id c p.group p.toEpoch 64
    refine Keeps.updCmd ?_ id
    split
    · exact hstart
    · exact hstart.trans (Keeps.updWeight (takeBinds_keeps _ id _) _ _)
  case wsSwitch hold limit => exact Keeps.updPart (.refl s) _ _
  case preempt t hold =>
    generalize hfinished : s.updCmd id _ = finished
    have hkeeps : Keeps s finished := hfinished ▸ Keeps.updCmd (.refl s) id
    split
    · exact hkeeps
    · exact Keeps.updCtx (hkeeps.trans (killAll_keeps finished t)) t
  case preemptResume t => exact Keeps.updCtx (Keeps.updCmd (.refl s) id) t
  case contextReset t =>
    generalize hfinished : s.updCmd id _ = waiting
    have hkeeps : Keeps s waiting := hfinished ▸ Keeps.updCmd (.refl s) id
    exact hkeeps.trans (startReset_keeps ..)
  case modeArm e t => exact Keeps.setPt (setNext_keeps s _) _
  case modeCancel =>
    split
    · exact disarmMode_keeps s
    · exact .refl s
  all_goals exact .refl s

end

/-- The packet accepted: HEAD, the reservation and the command are there, whatever its operation then does. -/
theorem accept_keeps (s : State) (g : Nat) (h : Hdr) {op : Op} (hop : ∀ p, op ≠ .streamOpen p) :
    Keeps { s.takePacket g with cmds := s.cmds ++ [s.newCmd g h op], nextId := s.nextId + 1 } (s.accept g h op) := by
  unfold State.accept State.requestFlags
  exact Keeps.updStrm (onAccept_keeps _ _ _ op hop) g

/-- Settles O44: the acceptance queues the packet's command, and what its operation does beside keeps it (`Keeps`). -/
theorem packetsAccepted : Obligations.PacketsAccepted := by
  unfold Obligations.PacketsAccepted
  refine ⟨fun i h op s g hrow hopen hfetch hwaits hfail => ?_, fun s g h op hfetch hop => ?_, fun s g h op hop => ?_⟩
  · rw [exec_packet_open hrow hopen hfetch, checkPacket_accept hwaits hfail]
  · have hkeeps := accept_keeps s g h hop
    obtain ⟨y, hy, hpart⟩ := hkeeps.cmds (s.newCmd g h op) (by simp)
    simp only [packetPart, Prod.mk.injEq] at hpart
    obtain ⟨hid, hctx, hstrm, hopy, hh, hindex, htimeout⟩ := hpart
    refine ⟨(hkeeps.head g).trans (takePacket_head s g), hkeeps.hbm, hkeeps.beat, ?_, hkeeps.nextId, y, hy, hid, hctx, hstrm, hopy, hh, hindex, htimeout⟩
    rw [hkeeps.ring]
    exact takePacket_reserved s g
  · refine ⟨?_, rfl⟩
    rcases hop with ⟨_, rfl⟩ | ⟨_, rfl⟩ | rfl | ⟨_, _, rfl⟩ | ⟨_, _, rfl⟩ | ⟨_, _, _, rfl⟩ | ⟨_, _, rfl⟩ | ⟨_, rfl⟩ | ⟨_, rfl⟩ | rfl | ⟨_, rfl⟩ |
      ⟨_, rfl⟩ | ⟨_, rfl⟩ | ⟨_, rfl⟩ | rfl <;> rfl

end Sys2Proof.Proofs
end

section
/-! SUPPORT. O46: what STREAM_OPEN, PREEMPT, CONTEXT_RESET, SWITCH and MODE_STAGE do at their acceptance (R267, R291, R302, R305, R318,
R332). -/
namespace Sys2Proof.Proofs
open Sys2Proof Sys2Proof.Machine

section
variable {s : State} {x y : Cmd}

/-- A step of the command at the front of two. -/
theorem updCmd_front (hcmds : s.cmds = [x, y]) (hne : y.id ≠ x.id) (f : Cmd → Cmd) : (s.updCmd x.id f).cmds = [f x, y] := by
  rw [State.updCmd, hcmds]
  simp [hne]

/-- A running command that may be killed, at the front of the queue: it is requeued without its staging, and memory and the other
command are as they were (R330). -/
theorem kill_front (hcmds : s.cmds = [x, y]) (hne : y.id ≠ x.id) (hphase : x.phase = .issued) (hopen : x.shielded = false) :
    ∃ k, (s.kill x.id).cmds = [k, y] ∧ k.phase = .accepted ∧ k.writes = [] ∧ k.kills = x.kills + 1 ∧ k.blocks = [] := by
  have hfind : s.cmd x.id = some x := by
    unfold State.cmd
    rw [hcmds]
    simp
  unfold State.kill
  rw [hfind]
  dsimp -zeta only
  rw [if_pos (by rw [hphase, hopen]; rfl)]
  extract_lets lost freed requeued forgotten counted
  have hkept : freed.cmds = [x, y] := by
    obtain ⟨b, n, h⟩ := (freeBlocks_blocksOnly s x).trans
      (foldl_rel BlocksOnly.refl BlocksOnly.trans (fun t b => updBlock_blocksOnly t b _) x.blocks (s.freeBlocks x))
    unfold freed
    rw [h]
    exact hcmds
  have hrequeued := updCmd_front hkept hne fun y =>
    { y with
      phase := .accepted, writes := [], census := [], toks := [], pulls := [], sigs := [], blocks := [], acked := [], moved := 0,
      kills := y.kills + 1, queuedAt := freed.time, queued := true, fail := none, overrun := false, legOver := false, okSegs := [] }
  exact ⟨_, hrequeued, rfl, rfl, rfl, rfl⟩

/-- The context's only running command is killed when PREEMPT stops it. -/
theorem killAll_front {t : Nat} (hcmds : s.cmds = [x, y]) (hne : y.id ≠ x.id) (hctx : x.ctx = t) (hphase : x.phase = .issued)
    (hopen : x.shielded = false) (hy : y.phase = .done) :
    ∃ k, (s.killAll t).cmds = [k, y] ∧ k.phase = .accepted ∧ k.writes = [] ∧ k.kills = x.kills + 1 ∧ k.blocks = [] := by
  have hrunning : s.cmds.filter (fun x => x.ctx == t && x.phase == .issued) = [x] := by
    rw [hcmds]
    simp [hctx, hphase, hy]
  unfold State.killAll
  rw [hrunning]
  exact kill_front hcmds hne hphase hopen

end

/-- Arming sets the mode registers over the sixteen pending entries. -/
theorem armMode_pt (s : State) (target : Nat) (idle : Bool) : (s.armMode target idle).pt = { s.pt with
    armed := some target, idle := idle, state := 1, epochNext := s.pt.epoch + 1, target := if idle then s.pt.target else BitVec.ofNat 64 target,
    armedKept := s.keptSet s.layoutToArm } := rfl

/-- Settles O46: each operation's acceptance effect, read off `State.onAccept`. -/
theorem acceptanceActs : Obligations.AcceptanceActs := by
  unfold Obligations.AcceptanceActs
  refine ⟨fun s id c p => ?_, fun s id c t hold x y hcmds hy hx hctx hphase hopen hyphase hreset => ?_, fun s id c t => ?_, fun s id c t => ?_,
    fun s id c limit hold => ?_, fun s id c t e => ?_, fun s id c => ?_, fun s g h => ?_⟩
  · have hstrm : (s.onAccept id c (.streamOpen p)).strm s.freeStream =
        { reserved := true, cq := p.cq, prio := p.prio, pt := s.ctxPart c, lstream := p.lstream, ctx := c, log2 := p.ringLog2, off := p.ring } :=
      Tab.get_set_same ..
    refine ⟨?_, congrArg Strm.reserved hstrm, congrArg Strm.isOpen hstrm, congrArg Strm.prio hstrm, congrArg Strm.log2 hstrm, congrArg Strm.off hstrm,
      rfl, fun hdefine => ?_⟩
    · simp [State.onAccept, Tab.find_set_same]
    · simp [State.onAccept, hdefine, Tab.find_set_same]
  · generalize hv : s.updCmd id (fun x => { x with phase := .done, issueBeat := s.now }) = v
    have hvcmds : v.cmds = [x, { y with phase := .done, issueBeat := s.now }] := by
      rw [← hv, State.updCmd, hcmds]
      simp [hy, hx]
    have hcoming : v.resetComing t = false := by
      have hctxs : v.ctx t = s.ctx t := by
        rw [← hv]
        rfl
      rw [State.resetComing, hctxs, hreset]
    have hacts : s.onAccept id c (.preempt t hold) =
        (v.killAll t).updCtx t (fun x => { x with held := some (v.now + hold), heldForever := hold == 0 }) := by
      dsimp only [State.onAccept]
      rw [hv, hcoming]
      rfl
    obtain ⟨k, hkilled, hkphase, hkwrites, hkkills, hkblocks⟩ :=
      killAll_front hvcmds (by intro he; exact hx (he.symm.trans hy)) hctx hphase hopen rfl
    have hnow : v.now = s.now := by
      rw [← hv]
      rfl
    have hhbm : v.hbm = s.hbm := by
      rw [← hv]
      rfl
    rw [hacts]
    refine ⟨k, _, hkilled, hkphase, hkwrites, hkkills, hkblocks, rfl, (killAll_keeps v t).hbm.trans hhbm, ?_, ?_⟩
    · rw [State.ctx_updCtx_same, hnow]
    · rw [State.ctx_updCtx_same]
      exact Bool.beq_eq_decide_eq hold 0
  · exact ⟨by simp [State.onAccept], by simp [State.onAccept], fun d hd => State.ctx_updCtx_ne _ _ hd⟩
  · obtain ⟨b, n, k, o, heq⟩ := startReset_eq (s.updCmd id (fun x => { x with phase := .awaiting, issueBeat := s.now })) t (some id) false s.effectBeat
    have hacts : s.onAccept id c (.contextReset t) =
      (s.updCmd id (fun x => { x with phase := .awaiting, issueBeat := s.now })).startReset t (some id) false s.effectBeat := rfl
    have hctx : (s.onAccept id c (.contextReset t)).ctx t =
        { s.ctx t with reset := some { effectBeat := s.effectBeat, cmd := some id, purge := s.nextId, destroy := false } } := by
      rw [hacts, heq]
      exact Tab.get_set_same ..
    refine ⟨_, congrArg Ctx.reset hctx, rfl, rfl, rfl, rfl, ?_, ?_, (congrArg Ctx.gen hctx :)⟩
    · rw [hacts, heq]
      exact ⟨_, List.mem_append_right _ (List.mem_singleton.mpr rfl), rfl, rfl⟩
    · rw [hacts, heq]
      rfl
  · exact ⟨by simp [State.onAccept, State.now], fun n hn => State.part_updPart_ne _ _ hn⟩
  · exact ⟨rfl, rfl, rfl, rfl⟩
  · cases harmed : s.pt.armed with
    | none => simp [State.onAccept, harmed]
    | some t => simp [State.onAccept, harmed, State.disarmMode]
  · simp [State.requestFlags]

end Sys2Proof.Proofs
end

section
/-! SUPPORT. O47: one command at an issue point, and the window of a beat with one done command (R25, R49, R295, R298, R299, R326). -/
namespace Sys2Proof.Proofs
open Sys2Proof Sys2Proof.Machine

/-! ### One command at an issue point (R326) -/

section
variable {s : State} {x : Cmd} (hcmds : s.cmds = [x])
include hcmds

/-- A command that is no collective is not voided at an issue point. -/
theorem voidColls_alone (hkind : (geoOf x.op).kind = 0) : s.voidColls = s := by
  unfold State.voidColls
  rw [hcmds]
  dsimp only [List.map, List.foldl]
  unfold State.collVoid
  rw [cmd_alone hcmds]
  exact if_neg (by simp [hkind])

variable {pt : Nat} (hphase : x.phase = .accepted) (hpart : s.ctxPart x.ctx = pt)
include hphase hpart

theorem issueOrder_alone : s.issueOrder pt = [x.id] := by
  unfold State.issueOrder
  rw [hcmds]
  by_cases hclaim : (some x.ctx == s.claimant pt) = true <;> simp [hphase, hpart, hclaim, sortCmds, insertCmd, bne]

/-- An issue point tries the only command once, where it does not end it. -/
theorem issuePoint_alone (hkind : (geoOf x.op).kind = 0) {y : Cmd} (htried : (s.tryIssue pt x.id).cmds = [y]) (hlives : y.phase ≠ .refused) :
    s.issuePoint pt = s.tryIssue pt x.id := by
  have hpass : s.issuePass pt = s.tryIssue pt x.id := by
    rw [State.issuePass, issueOrder_alone hcmds hphase hpart]
    rfl
  have hended : (s.tryIssue pt x.id).endedCount = s.endedCount := by
    simp [State.endedCount, htried, hcmds, hlives, hphase]
  rw [State.issuePoint, voidColls_alone hcmds hkind, hcmds, List.length_singleton]
  unfold State.issuePasses
  dsimp only
  rw [hpass]
  exact if_pos hended

omit hpart in
/-- The only command of its context, tried. -/
theorem tryIssue_alone (hissues : s.ctxIssues x.ctx = true) : s.tryIssue pt x.id =
    (match x.op with
      | .run _ => s.tryRun pt x
      | .optstep _ => if x.packing then s.tryLeg x (fun s y => s.localLeg y) else s.tryRun pt x
      | .copy _ | .fill _ | .loadPlace _ | .loadVerify _ | .adapterVerify _ | .wsVerify _ =>
        s.tryLeg x (fun s y => s.localLeg y)
      | .normreduce _ => if x.coll.cross then s else s.tryLeg x (fun s y => s.localLeg y)
      | .routeDispatch p => s.tryLeg x (fun s y => s.dispatchLeg y p)
      | .routeRetrace p => s.tryLeg x (fun s y => s.retraceLeg y p)
      | .combineForward p => s.tryCombine x p true
      | .combineRetrace p => s.tryCombine x p false
      | .routeOpen p => s.tryLeg x (fun s y => s.openIssue y p)
      | .reduce _ | .gather _ | .broadcast _ | .permute _ | .wait _ _ _ | .fence | .wsSwitch _ _ => s
      | .streamClose _ | .unload => if s.alone x then s.doneNow x else s
      | _ => s.doneNow x) := by
  have hgate : (x.phase == .accepted && s.ctxIssues x.ctx && s.streamAllows x) = true := by
    rw [hphase, hissues, streamAllows_alone hcmds]
    rfl
  unfold State.tryIssue
  rw [cmd_alone hcmds]
  dsimp only
  rw [hgate]
  rfl

end

/-- The second state differs from the first in the counters of streams and contexts. -/
def CountersOnly (s t : State) : Prop :=
  (∃ st ct, t = { s with strms := st, ctxs := ct }) ∧ ∀ k, ∃ a, t.ctx k = { s.ctx k with acct := a }

theorem CountersOnly.refl (s : State) : CountersOnly s s := ⟨⟨_, _, rfl⟩, fun _ => ⟨_, rfl⟩⟩

theorem CountersOnly.trans {s t u : State} (h : CountersOnly s t) (g : CountersOnly t u) : CountersOnly s u := by
  obtain ⟨⟨_, _, ht⟩, hctx⟩ := h
  obtain ⟨⟨_, _, hu⟩, gctx⟩ := g
  refine ⟨⟨_, _, hu.trans (by rw [ht])⟩, fun k => ?_⟩
  obtain ⟨a, ha⟩ := hctx k
  obtain ⟨b, hb⟩ := gctx k
  exact ⟨b, hb.trans (by rw [ha])⟩

theorem CountersOnly.cmds {s t : State} (h : CountersOnly s t) : t.cmds = s.cmds := by
  obtain ⟨⟨_, _, rfl⟩, -⟩ := h
  rfl

theorem updStrm_countersOnly (s : State) (g : Nat) (f : Strm → Strm) : CountersOnly s (s.updStrm g f) := ⟨⟨_, _, rfl⟩, fun _ => ⟨_, rfl⟩⟩

theorem updAcct_countersOnly (s : State) (c : Nat) (f : List Cnt → List Cnt) : CountersOnly s (s.updCtx c fun x => { x with acct := f x.acct }) := by
  refine ⟨⟨_, _, rfl⟩, fun k => ?_⟩
  by_cases hk : k = c
  · rw [hk]
    exact ⟨_, Tab.get_set_same ..⟩
  · exact ⟨_, Tab.get_set_ne _ _ _ hk⟩

theorem account_countersOnly (s : State) (g c i n : Nat) : CountersOnly s (s.account g c i n) :=
  (updStrm_countersOnly s g _).trans (updAcct_countersOnly _ c fun a => bump a i n)

theorem accountWait_countersOnly (s : State) (g c n : Nat) : CountersOnly s (s.accountWait g c n) :=
  ((account_countersOnly s g c 0 n).trans (updStrm_countersOnly _ g _)).trans (updAcct_countersOnly _ c fun a => bumpMax a 1 n)

/-- A command as its issue leaves it. -/
def issuedCmd (x : Cmd) (beat time : Nat) (masks : Tab W64) : Cmd :=
  { x with phase := .issued, queued := false, issuedOnce := true, issueBeat := beat, issuedAt := time, acked := [], masks := masks }

section
variable {s : State} {x : Cmd} (hcmds : s.cmds = [x])
include hcmds

/-- A step of the only command. -/
theorem updCmd_alone (f : Cmd → Cmd) : s.updCmd x.id f = { s with cmds := [f x] } := by
  rw [State.updCmd, hcmds]
  simp

/-- The only command issues: its wait is accounted to its stream and context, and the rest is as it was (R336). -/
theorem markIssued_alone : ∃ t b i m, CountersOnly s t ∧ s.markIssued x = { t with cmds := [issuedCmd x b i m] } := by
  unfold State.markIssued
  extract_lets t
  have ht : CountersOnly s t := by
    unfold t
    split
    · exact accountWait_countersOnly ..
    · exact .refl s
  exact ⟨t, _, _, _, ht, updCmd_alone (ht.cmds.trans hcmds) _⟩

/-- The only command, done without an engine. -/
theorem doneNow_alone : ∃ t b i m, CountersOnly s t ∧ s.doneNow x =
    { t with cmds := [{ issuedCmd x b i m with phase := .done, final := true }] } := by
  obtain ⟨t, b, i, m, ht, h⟩ := markIssued_alone hcmds
  refine ⟨t, b, i, m, ht, ?_⟩
  unfold State.doneNow
  rw [h]
  exact updCmd_alone (x := issuedCmd x b i m) rfl _

end

/-! ### A RUN's start (R140, R163) -/

/-- A fold whose acts each change one block of their own: each block is as its act leaves it, and no other changes. -/
theorem foldl_blocks_at {ι : Type} {f : State → ι → State} {g : ι → Nat} {P : ι → Block → Prop}
    (hother : ∀ s i b, b ≠ g i → (f s i).block b = s.block b) (hown : ∀ s i, P i ((f s i).block (g i))) (l : List ι) (s : State)
    (hnodup : (l.map g).Nodup) :
    (∀ i ∈ l, P i ((l.foldl f s).block (g i))) ∧ ∀ b, b ∉ l.map g → (l.foldl f s).block b = s.block b := by
  induction l generalizing s with
  | nil => exact ⟨fun _ h => absurd h List.not_mem_nil, fun _ _ => rfl⟩
  | cons a l ih =>
    rw [List.map_cons, List.nodup_cons] at hnodup
    obtain ⟨hfresh, hrest⟩ := hnodup
    obtain ⟨hin, hout⟩ := ih (f s a) hrest
    refine ⟨fun i hi => ?_, fun b hb => ?_⟩
    · rcases List.mem_cons.mp hi with rfl | hi
      · rw [List.foldl_cons, hout _ hfresh]
        exact hown s i
      · exact hin i hi
    · rw [List.map_cons, List.mem_cons, not_or] at hb
      rw [List.foldl_cons, hout b hb.2, hother s a b hb.1]

/-- What a block holds when a RUN starts on it. -/
def startsAt (id : Nat) (k : Nat) (b : Block) : Prop :=
  b.run = some id ∧ b.pc = 0 ∧ b.ended = false ∧ b.queue = [] ∧ b.idx[0]? = some 0 ∧ b.idx[1]? = some (BitVec.ofNat 32 k)

theorem start_startsAt (b : Block) (id seed k size global first : Nat) (args : List (BitVec 32)) (p : Program) :
    startsAt id k (b.start id seed k size global first args p) := ⟨rfl, rfl, rfl, rfl, rfl, rfl⟩

/-- The members of a group, by their places in it. -/
theorem map_range_getD (l : List Nat) : (List.range l.length).map (fun i => (l[i]?).getD 0) = l := by
  refine List.ext_getElem (by simp) fun i h _ => ?_
  have hi : i < l.length := by simpa using h
  simp [hi]

/-- A RUN starts on the blocks of its group, each at its place, and on no other (R163). -/
theorem startRun_alone {s : State} {x : Cmd} {group : List Nat} (hcmds : s.cmds = [x]) (hnodup : group.Nodup) (p : Program) :
    (∃ y, (s.startRun x group p).cmds = [y] ∧ y.phase = .issued ∧ y.blocks = group) ∧ (s.startRun x group p).hbm = s.hbm ∧
    (∀ (k b : Nat), group[k]? = some b → startsAt x.id k ((s.startRun x group p).block b)) ∧
    ∀ b, b ∉ group → (s.startRun x group p).block b = s.block b := by
  obtain ⟨t, bt, i, m, ⟨⟨st, ct, ht⟩, -⟩, hissued⟩ := markIssued_alone hcmds
  unfold State.startRun
  rw [hissued, ht]
  extract_lets args first issued named crest charged
  have hnamed : named = { issued with cmds := [{ issuedCmd x bt i m with blocks := group }] } := updCmd_alone (x := issuedCmd x bt i m) rfl _
  generalize hstarted : (List.range group.length).foldl _ charged = started
  have hframe : BlocksOnly charged started := by
    rw [← hstarted]
    refine foldl_rel BlocksOnly.refl BlocksOnly.trans (fun t i => ?_) _ _
    exact ⟨_, _, rfl⟩
  obtain ⟨hin, hout⟩ := foldl_blocks_at (g := fun i => (group[i]?).getD 0) (P := startsAt x.id)
    (f := fun (s : State) i =>
      let b := (group[i]?).getD 0
      { (s.updBlock b (fun k => ((k.taken s.beat.at_).take x.ctx (s.fresh + startSeeds)).start x.id s.fresh i group.length b first args p)) with
        fresh := s.fresh + 2 * startSeeds })
    (fun s i b hb => Tab.get_set_ne _ _ _ hb)
    (fun s i => by
      have h := State.block_updBlock_same s ((group[i]?).getD 0)
        (fun k => ((k.taken s.beat.at_).take x.ctx (s.fresh + startSeeds)).start x.id s.fresh i group.length ((group[i]?).getD 0) first args p)
      exact h ▸ start_startsAt ..)
    (List.range group.length) charged (by rw [map_range_getD]; exact hnodup)
  rw [hstarted, map_range_getD] at hout
  rw [hstarted] at hin
  obtain ⟨bs, n, hsame⟩ := hframe
  refine ⟨⟨{ issuedCmd x bt i m with blocks := group }, ?_, rfl, rfl⟩, ?_, fun k b hb => ?_, fun b hb => hout b hb⟩
  · rw [hsame]
    exact congrArg State.cmds hnamed
  · rw [hsame]
    exact (congrArg State.hbm hnamed :)
  · have hk : k < group.length := by
      obtain ⟨h, -⟩ := List.getElem?_eq_some_iff.mp hb
      exact h
    have hplace := hin k (List.mem_range.mpr hk)
    rw [hb] at hplace
    exact hplace

end Sys2Proof.Proofs
end

section
/-! SUPPORT. O47: COMMAND_ISSUE, and the commit of one done command in the window of its beat (R49, R287, R298). -/
namespace Sys2Proof.Proofs
open Sys2Proof Sys2Proof.Machine

/-! ### COMMAND_ISSUE -/

/-- An issue point of one of the Dispatcher's own commands: it is done (R295). -/
theorem issueOwn {s : State} {x : Cmd} {pt : Nat} (hcmds : s.cmds = [x]) (hphase : x.phase = .accepted) (hpart : s.ctxPart x.ctx = pt)
    (hissues : s.ctxIssues x.ctx = true)
    (hop : (∃ n v, x.op = .signalAdd n v) ∨ (∃ n v, x.op = .signalSet n v) ∨ (∃ d c, x.op = .censusRead d c) ∨ (∃ p, x.op = .accountRead p)) :
    s.issuePoint pt = s.doneNow x := by
  have hown : s.tryIssue pt x.id = s.doneNow x ∧ (geoOf x.op).kind = 0 := by
    rw [tryIssue_alone hcmds hphase hissues]
    rcases hop with ⟨_, _, h⟩ | ⟨_, _, h⟩ | ⟨_, _, h⟩ | ⟨_, h⟩ <;> rw [h] <;> exact ⟨rfl, rfl⟩
  obtain ⟨htry, hkind⟩ := hown
  obtain ⟨t, b, i, m, -, hdone⟩ := doneNow_alone hcmds
  rw [← htry]
  refine issuePoint_alone (y := { issuedCmd x b i m with phase := .done, final := true }) hcmds hphase hpart hkind ?_ (by simp)
  rw [htry, hdone]

/-- A RUN that nothing holds up, with no block of its group to move, starts (R25, R326, R470). -/
theorem tryRun_starts {s : State} {x : Cmd} {r : RunP} {p : Program} {pt : Nat} (hop : x.op = .run r) (hprogram : s.programOf x = some p)
    (hlost : s.lostBlock (s.groupOf x) = none) (hlag : s.unitsLag x (s.groupOf x) = false) (hready : s.enginesReady x (s.groupOf x) = true)
    (hrefuses : s.unitRefuses x (s.groupOf x) = false) (hheld : x.heldNow = false)
    (hbudget : p.budget ≤ budgetOf s.beat.periodCur.toNat s.beat.saddleCur.toNat (s.slowest (s.groupOf x)))
    (hleft : p.budget ≤ s.cyclesLeft (s.slowest (s.groupOf x))) (hfree : ∀ b ∈ s.groupOf x, (s.block b).run = none ∧ (s.block b).owner = some x.ctx)
    (hjobs : s.spillJobs = []) (hpower : s.predicted (s.groupOf x) ≤ s.grantNow * 1000) :
    s.tryRun pt x = s.startRun x (s.groupOf x) p := by
  have hnorm : s.normState x = 1 := by rw [State.normState, hop]
  have hrunners : s.runners (s.groupOf x) = [] := by
    have hnone : (s.groupOf x).filterMap (fun b => (s.block b).run) = [] := List.filterMap_eq_nil_iff.mpr fun b hb => (hfree b hb).1
    rw [State.runners, hnone]
    rfl
  have hmove : (s.groupOf x).filter (fun b => s.needsSpill x.ctx b || s.needsFill x.ctx b) = [] := by
    refine List.filter_eq_nil_iff.mpr fun b hb => ?_
    simp [State.needsSpill, State.needsFill, (hfree b hb).2]
  have hrunReady : s.runReady x (s.groupOf x) p false = s.startRun x (s.groupOf x) p := by
    unfold State.runReady
    dsimp only
    rw [hjobs, hmove]
    exact (if_neg (by simp)).trans ((if_neg (by simp)).trans (if_neg (Nat.not_lt.mpr hpower)))
  unfold State.tryRun
  rw [hprogram]
  dsimp only
  rw [hlost]
  dsimp only
  rw [hlag, hready, hrefuses, hheld, hnorm, hrunners, if_neg (Nat.not_lt.mpr hbudget), if_neg (Nat.not_lt.mpr hleft)]
  exact hrunReady

/-! ### The commit of a command that ends (R49, R287) -/

/-- The operations of which a commit asks nothing beside their staging, or a signal. -/
def plainOp (op : Op) : Prop :=
  (∃ p, op = .copy p) ∨ (∃ p, op = .fill p) ∨ op = .fence ∨ (∃ n l v, op = .wait n l v) ∨ (∃ n v, op = .signalAdd n v) ∨ (∃ n v, op = .signalSet n v)

/-- The signals of a context after the commit of an operation (R298). -/
def signalsAfter (op : Op) (t : Tab W64) : Tab W64 :=
  match op with
  | .signalAdd n v => Tab.upd 0 t n (· + v)
  | .signalSet n v => Tab.set t n v
  | _ => t

/-- What the commit of such an operation does beside its staging. -/
theorem opCommit_plain {s : State} {x : Cmd} (hop : plainOp x.op) :
    ∃ ct, s.opCommit x = { s with ctxs := ct } ∧ (∀ k, k ≠ x.ctx → Tab.get {} ct k = s.ctx k) ∧
      Tab.get {} ct x.ctx = { s.ctx x.ctx with sig := signalsAfter x.op (s.ctx x.ctx).sig } := by
  unfold State.opCommit
  rcases hop with ⟨_, h⟩ | ⟨_, h⟩ | h | ⟨_, _, _, h⟩ | ⟨_, _, h⟩ | ⟨_, _, h⟩ <;> rw [h]
  · exact ⟨_, rfl, fun _ _ => rfl, rfl⟩
  · exact ⟨_, rfl, fun _ _ => rfl, rfl⟩
  · exact ⟨_, rfl, fun _ _ => rfl, rfl⟩
  · exact ⟨_, rfl, fun _ _ => rfl, rfl⟩
  · exact ⟨_, rfl, fun k hk => Tab.get_set_ne _ _ _ hk, Tab.get_set_same ..⟩
  · exact ⟨_, rfl, fun k hk => Tab.get_set_ne _ _ _ hk, Tab.get_set_same ..⟩

/-- A command that leaves no record: QUIET, and ended with OK (R287). -/
def leavesNoRecord (x : Cmd) : Bool := x.h.flags.getLsbD 1 && x.status == 0

/-- The record of a command that ends: the next slot of its ring (R287, R288). -/
def recorded (s : State) (x : Cmd) : Mem :=
  let q := Tab.get {} (s.ctx x.ctx).cq x.cq
  Mem.regWrite ((s.ctx x.ctx).region 0) 0 (q.slot q.prod.toNat) s.hbm
    (recordBytes x (x.opcode.getD x.op.code) (s.recordGen x) (q.phase q.prod.toNat) s.beat.count)

/-- From `s` to `t` the counters of streams and interrupt bits may change, and of contexts `c` alone: its counters, and its rings, which are `q`. -/
def RingStep (c : Nat) (q : Tab Cq) (s t : State) : Prop :=
  (∃ st ct i, t = { s with strms := st, ctxs := ct, irq := i }) ∧ (∀ k, k ≠ c → t.ctx k = s.ctx k) ∧ ∃ a, t.ctx c = { s.ctx c with acct := a, cq := q }

namespace RingStep
variable {c : Nat} {q r : Tab Cq} {s t u : State}

theorem refl (c : Nat) (s : State) : RingStep c (s.ctx c).cq s s := ⟨⟨_, _, _, rfl⟩, fun _ _ => rfl, _, rfl⟩

theorem trans (h : RingStep c q s t) (g : RingStep c r t u) : RingStep c r s u := by
  obtain ⟨⟨_, _, _, ht⟩, hother, a, hctx⟩ := h
  obtain ⟨⟨_, _, _, hu⟩, gother, b, gctx⟩ := g
  exact ⟨⟨_, _, _, hu.trans (by rw [ht])⟩, fun k hk => (gother k hk).trans (hother k hk), b, gctx.trans (by rw [hctx])⟩

theorem rings (h : RingStep c q s t) : (t.ctx c).cq = q := by
  obtain ⟨-, -, a, hctx⟩ := h
  rw [hctx]

theorem account (s : State) (g c i n : Nat) : RingStep c (s.ctx c).cq s (s.account g c i n) :=
  ⟨⟨_, _, _, rfl⟩, fun _ hk => Tab.get_set_ne _ _ _ hk, _, Tab.get_set_same ..⟩

theorem updCq (s : State) (c n : Nat) (f : Cq → Cq) : RingStep c (Tab.upd {} (s.ctx c).cq n f) s (s.updCq c n f) :=
  ⟨⟨_, _, _, rfl⟩, fun _ hk => Tab.get_set_ne _ _ _ hk, _, Tab.get_set_same ..⟩

theorem raised (h : RingStep c q s t) (n : Nat) : RingStep c q s (t.raise n) := by
  obtain ⟨⟨_, _, _, rfl⟩, hother, hctx⟩ := h
  exact ⟨⟨_, _, _, rfl⟩, hother, hctx⟩

theorem withHbm (h : RingStep c q s t) (m : Mem) : RingStep c q { s with hbm := m } { t with hbm := m } := by
  obtain ⟨⟨_, _, _, rfl⟩, hother, hctx⟩ := h
  exact ⟨⟨_, _, _, rfl⟩, hother, hctx⟩

end RingStep

/-- A record that is written changes HBM at its slot, the ring's place, and counters; without one the reservation alone ends. -/
theorem writeRecord_eq (s : State) (x : Cmd) (hgen : ∀ t : State, t.recordGen x = (t.ctx x.ctx).gen) : ∃ q,
    RingStep x.ctx q { s with hbm := if leavesNoRecord x then s.hbm else recorded s x } (s.writeRecord x) ∧
    (leavesNoRecord x = false → (Tab.get {} q x.cq).prod = (Tab.get {} (s.ctx x.ctx).cq x.cq).prod + 1) := by
  unfold State.writeRecord
  extract_lets q u v i l w z
  have hu : RingStep x.ctx (s.ctx x.ctx).cq s u := by
    unfold u
    split
    · exact .account ..
    · exact .refl _ s
  have hv : RingStep x.ctx (Tab.upd {} (s.ctx x.ctx).cq x.cq fun q => { q with reserved := q.reserved - 1 }) s v := by
    have hstep := RingStep.updCq u x.ctx x.cq fun q => { q with reserved := q.reserved - 1 }
    rw [hu.rings] at hstep
    exact hu.trans hstep
  rw [show (x.h.flags.getLsbD 1 && x.status == 0) = leavesNoRecord x from rfl]
  by_cases hquiet : leavesNoRecord x = true
  · rw [if_pos hquiet, if_pos hquiet]
    exact ⟨_, hv, fun h => absurd hquiet (by rw [h]; decide)⟩
  · have hbytes : w = { v with hbm := recorded s x } := by
      obtain ⟨⟨_, _, _, heq⟩, -, a, hctx⟩ := hv
      have hreg : (v.ctx x.ctx).region 0 = (s.ctx x.ctx).region 0 := (congrArg (fun c : Ctx => c.region 0) hctx :)
      have hg : v.recordGen x = s.recordGen x := ((hgen v).trans (congrArg Ctx.gen hctx :)).trans (hgen s).symm
      have hhbm : v.hbm = s.hbm := by rw [heq]
      have hbeat : v.beat = s.beat := by rw [heq]
      unfold w l recorded State.regWrite
      rw [hreg, hg, hhbm, hbeat]
    have hwritten : RingStep x.ctx (Tab.upd {} (s.ctx x.ctx).cq x.cq fun q => { q with reserved := q.reserved - 1 })
        { s with hbm := recorded s x } w := hbytes ▸ hv.withHbm (recorded s x)
    have hz := hwritten.trans (RingStep.updCq w x.ctx x.cq fun q => { q with prod := q.prod + 1 })
    rw [hwritten.rings] at hz
    rw [if_neg hquiet, if_neg hquiet]
    refine ⟨Tab.upd {} (Tab.upd {} (s.ctx x.ctx).cq x.cq fun q => { q with reserved := q.reserved - 1 }) x.cq fun q => { q with prod := q.prod + 1 },
      ?_, fun _ => by rw [Tab.get_upd_same, Tab.get_upd_same]⟩
    split
    · exact hz.raised _
    · exact hz

/-- The commit of such a command: its staging lands, its signal changes, its record is written, and it leaves the Dispatcher. -/
theorem commitCmd_plain (s : State) {x : Cmd} (hop : plainOp x.op) (hfinal : x.final = true) (hsigs : x.sigs = []) : ∃ w st ct i a q,
    s.commitCmd x = { s with
      cmds := s.cmds.filter (fun c => c.id != x.id), census := landCensus x.ctx x.census s.census, wver := w, strms := st, ctxs := ct, irq := i,
      hbm := if leavesNoRecord x then s.hbm.land x.writes else recorded { s with hbm := s.hbm.land x.writes } x } ∧
    (∀ k, k ≠ x.ctx → Tab.get {} ct k = s.ctx k) ∧
    Tab.get {} ct x.ctx = { s.ctx x.ctx with sig := signalsAfter x.op (s.ctx x.ctx).sig, acct := a, cq := q } ∧
    (leavesNoRecord x = false → (Tab.get {} q x.cq).prod = (Tab.get {} (s.ctx x.ctx).cq x.cq).prod + 1) := by
  have hends : x.ends = true := by
    rcases hop with ⟨_, h⟩ | ⟨_, h⟩ | h | ⟨_, _, _, h⟩ | ⟨_, _, h⟩ | ⟨_, _, h⟩ <;> simp [Cmd.ends, hfinal, h]
  have hgen (t : State) : t.recordGen x = (t.ctx x.ctx).gen := by
    rcases hop with ⟨_, h⟩ | ⟨_, h⟩ | h | ⟨_, _, _, h⟩ | ⟨_, _, h⟩ | ⟨_, _, h⟩ <;> simp [State.recordGen, h]
  obtain ⟨ct, hcommit, hother, hown⟩ := opCommit_plain
    (s := { s with hbm := s.hbm.land x.writes, census := landCensus x.ctx x.census s.census }) hop
  obtain ⟨w, hunbind⟩ := unbind_eq
    ({ s with hbm := s.hbm.land x.writes, census := landCensus x.ctx x.census s.census, ctxs := ct } : State) x
  generalize hlanded : ({ s with
    hbm := s.hbm.land x.writes, census := landCensus x.ctx x.census s.census, ctxs := ct, wver := w } : State) = landed
  have hctx : landed.ctx x.ctx = { s.ctx x.ctx with sig := signalsAfter x.op (s.ctx x.ctx).sig } := by
    rw [← hlanded]
    exact hown
  obtain ⟨q, ⟨⟨st, ct', i, hwritten⟩, gother, a, gown⟩, hprod⟩ := writeRecord_eq landed x hgen
  have hcmd : s.commitCmd x = (landed.writeRecord x).dropCmd x.id := by
    unfold State.commitCmd
    dsimp only
    rw [hsigs, List.foldl_nil, if_pos hends, hcommit, hunbind, ← hlanded]
    rfl
  have hrecord : recorded landed x = recorded { s with hbm := s.hbm.land x.writes } x := by
    unfold recorded
    rw [hgen, hgen, hctx, ← hlanded]
    rfl
  refine ⟨w, st, ct', i, a, q, ?_, fun k hk => ?_, ?_, fun h => (hprod h).trans ?_⟩
  · rw [hcmd, hwritten, hrecord, ← hlanded]
    rfl
  · have hsame := gother k hk
    rw [hwritten] at hsame
    refine hsame.trans ?_
    rw [← hlanded]
    exact hother k hk
  · rw [hwritten] at gown
    exact gown.trans (congrArg (fun c : Ctx => ({ c with acct := a, cq := q } : Ctx)) hctx)
  · rw [hctx]

/-! ### The window (R49) -/

/-- Without routing tables no returns are complete, and nothing changes. -/
theorem retSignals_of_noTabs {s : State} (h : NoTabs s) : s.retSignals = s := by
  have hparts : s.parts.map (fun q => (q.1, { q.2 with tabs := q.2.tabs.map (fun t =>
      (t.1, { t.2 with batches := t.2.batches.map (fun (b : BatchSt) => { b with sigF := b.doneF, sigB := b.doneB }) })) })) = s.parts := by
    refine (List.map_congr_left fun q hq => ?_).trans (List.map_id _)
    rw [h q hq, List.map_nil, ← h q hq]
    rfl
  unfold State.retSignals
  extract_lets todo u
  have hnone : todo = [] := List.flatMap_eq_nil_iff.mpr fun q hq => by rw [h q hq, List.flatMap_nil]
  rw [hnone, List.foldl_nil]
  unfold u
  rw [hparts]

/-- The rest of the window, once no command is left, finds nothing to do. -/
theorem afterCommits_idle {s : State} (hcmds : s.cmds = []) (hjobs : s.spillJobs = []) (hreset : ∀ k, (s.ctx k).reset = none) (htabs : NoTabs s)
    (hpurges : s.purges = []) (howed : s.hbmOwed = []) : (((s.permWindow).retSignals).commitSpills).finishResets = s := by
  rw [permWindow_of_noCmds hcmds, retSignals_of_noTabs htabs, commitSpills_of_noJobs hjobs, finishResets_of_noReset hreset]
  simp only [State.pruneOwed, hpurges, howed, List.filter_nil]
  simp only [← hpurges, ← howed]

/-- The timer with the window's own marks. -/
def winBeat (b : Beat) (done : List Nat) (left : Nat) : Beat := { b with winDone := done, winLeft := left }

/-- Steps 1 to 3 of the window of one done command, with the timer that they go by. -/
theorem window_alone {s : State} {x : Cmd} (h : Alone s x) (o : WindowObs) (hsaddle : 1 ≤ s.beat.saddleCur.toNat)
    (hclose : ∀ v : State, v.closeFail x = none) : ∃ (t : State) (d : List Nat) (n : Nat) (d' : List Nat) (n' : Nat),
    t = State.commitCmd { s with beat := winBeat s.beat d n } x ∧
    s.window o = (((({ t with beat := winBeat t.beat d' n' } : State).permWindow).retSignals).commitSpills).finishResets := by
  unfold State.window
  dsimp only
  rw [h.fixDone]
  have hv := h.withBeat { s.beat with
    winDone := [x.id], winLeft := Nat.max o.capacity ((s.beat.saddleCur.toNat * 1000 - 500) * 400 / 1000) }
  rw [hv.countOverruns, takeResets_of_noReset hv.reset, hv.finishResets, hv.takeFence, hv.takePeers, hv.takeLost, hv.takeClears,
    hv.sealReady, hv.commits rfl (capacity_pos o hsaddle) (hclose _)]
  exact ⟨_, _, _, _, _, rfl, rfl⟩

/-- The window of a beat with one done command of such an operation. -/
theorem window_plain {s : State} {x : Cmd} (h : Alone s x) (o : WindowObs) (hsaddle : 1 ≤ s.beat.saddleCur.toNat) (hop : plainOp x.op)
    (hfinal : x.final = true) (hsigs : x.sigs = []) : ∃ d n w st ct i a q,
    s.window o = { s with
      beat := winBeat s.beat d n, cmds := [], census := landCensus x.ctx x.census s.census, wver := w, strms := st, ctxs := ct, irq := i,
      hbm := if leavesNoRecord x then s.hbm.land x.writes else recorded { s with hbm := s.hbm.land x.writes } x } ∧
    (∀ k, k ≠ x.ctx → Tab.get {} ct k = s.ctx k) ∧
    Tab.get {} ct x.ctx = { s.ctx x.ctx with sig := signalsAfter x.op (s.ctx x.ctx).sig, acct := a, cq := q } ∧
    (leavesNoRecord x = false → (Tab.get {} q x.cq).prod = (Tab.get {} (s.ctx x.ctx).cq x.cq).prod + 1) := by
  have hclose (v : State) : v.closeFail x = none := by
    rcases hop with ⟨_, h⟩ | ⟨_, h⟩ | h | ⟨_, _, _, h⟩ | ⟨_, _, h⟩ | ⟨_, _, h⟩ <;> rw [State.closeFail, h]
  have hgen (t : State) : t.recordGen x = (t.ctx x.ctx).gen := by
    rcases hop with ⟨_, h⟩ | ⟨_, h⟩ | h | ⟨_, _, _, h⟩ | ⟨_, _, h⟩ | ⟨_, _, h⟩ <;> simp [State.recordGen, h]
  obtain ⟨t, d, n, d', n', ht, hwindow⟩ := window_alone h o hsaddle hclose
  obtain ⟨w, st, ct, i, a, q, hcommit, hother, hown, hprod⟩ := commitCmd_plain { s with beat := winBeat s.beat d n } hop hfinal hsigs
  have hnone : s.cmds.filter (fun c => c.id != x.id) = [] := by simp [h.cmds]
  have hrecorded : recorded { s with beat := winBeat s.beat d n, hbm := s.hbm.land x.writes } x = recorded { s with hbm := s.hbm.land x.writes } x := by
    unfold recorded
    rw [hgen, hgen]
    rfl
  dsimp only at hcommit
  rw [hnone, hrecorded] at hcommit
  refine ⟨d', n', w, st, ct, i, a, q, ?_, hother, hown, hprod⟩
  rw [hwindow, ht, hcommit]
  refine afterCommits_idle rfl h.spillJobs (fun k => ?_) h.tabs h.purges h.owed
  by_cases hk : k = x.ctx
  · rw [hk]
    exact (congrArg Ctx.reset hown : _).trans (h.reset x.ctx)
  · exact (congrArg Ctx.reset (hother k hk) : _).trans (h.reset k)

/-- SADDLE_WINDOW_OPEN in a device that is ready, before its window of the beat. -/
theorem openWindow_ready {s : State} {x : Cmd} (h : s.Lone x) (o : WindowObs) : ∃ a,
    s.openWindow o = (State.window { s with beat := { s.beat with windowOpen := true, at_ := a } } o).settle := by
  obtain ⟨hpower, hready, hclosed, -⟩ := h
  exact ⟨(s.beat.periodCur.toNat - s.beat.saddleCur.toNat) * 1000, by simp [State.openWindow, hpower, hready, hclosed]⟩

theorem get_signalsAfter (op : Op) (t : Tab W64) (n : Nat) : Tab.get 0 (signalsAfter op t) n = (match op with
    | .signalAdd m v => if n = m then Tab.get 0 t n + v else Tab.get 0 t n
    | .signalSet m v => if n = m then v else Tab.get 0 t n
    | _ => Tab.get 0 t n) := by
  unfold signalsAfter
  split
  · next m v =>
    by_cases hn : n = m
    · rw [if_pos hn, hn, Tab.get_upd_same]
    · rw [if_neg hn, Tab.get_upd_ne _ _ _ hn]
  · next m v =>
    by_cases hn : n = m
    · rw [if_pos hn, hn, Tab.get_set_same]
    · rw [if_neg hn, Tab.get_set_ne _ _ _ hn]
  · rfl

/-- Settles O47: the only command of an issue point is tried once, and the only done command of a window commits. -/
theorem issueAndWindow : Obligations.IssueAndWindow := by
  unfold Obligations.IssueAndWindow
  refine ⟨fun s pt t leg x hcmds hphase hpart hissues hop => ?_, ?_, fun s x o h hfinal hsaddle hop hsigs => ?_⟩
  · generalize hv : ({ s with beat := { s.beat with at_ := t, legCap := some leg } } : State) = v
    have hown := issueOwn (s := v) (x := x) (pt := pt) (by rw [← hv]; exact hcmds) hphase (by rw [← hv]; exact hpart) (by rw [← hv]; exact hissues) hop
    obtain ⟨u, b, i, m, ⟨⟨st, ct, hu⟩, hctx⟩, hdone⟩ := doneNow_alone (s := v) (x := x) (by rw [← hv]; exact hcmds)
    obtain ⟨a, hacct⟩ := hctx x.ctx
    refine ⟨({ u with cmds := [{ issuedCmd x b i m with phase := .done, final := true }] } : State).settle,
      { issuedCmd x b i m with phase := .done, final := true }, ?_, ?_, rfl, rfl, rfl, rfl, rfl, ?_, ?_, ?_, ?_, ?_⟩
    · exact congrArg (fun z : State => Host.Outcome.next z.settle) ((congrArg (fun z : State => z.issuePoint pt) hv).trans (hown.trans hdone))
    · rfl
    · rw [hu, ← hv]
      rfl
    · rw [hu, ← hv]
      rfl
    · rw [hu, ← hv]
      rfl
    · refine (congrArg Ctx.sig hacct : _).trans ?_
      rw [← hv]
      rfl
    · rw [hu, ← hv]
      rfl
  · intro s v pt t leg x r p hv hcmds hphase hpart hissues hop hprogram hlost hlag hready hrefuses hheld hbudget hleft hfree hjobs hnodup hpower
    have hstarts := tryRun_starts (pt := pt) hop hprogram hlost hlag hready hrefuses hheld hbudget hleft hfree hjobs hpower
    obtain ⟨⟨y, hy, hyphase, hyblocks⟩, hhbm, hin, hout⟩ := startRun_alone hcmds hnodup p
    have htry : v.tryIssue pt x.id = v.startRun x (v.groupOf x) p := by
      rw [tryIssue_alone hcmds hphase hissues, hop]
      exact hstarts
    have hissue : v.issuePoint pt = v.startRun x (v.groupOf x) p :=
      (issuePoint_alone hcmds hphase hpart (by rw [hop]; rfl) (by rw [htry]; exact hy) (by rw [hyphase]; decide)).trans htry
    refine ⟨(v.startRun x (v.groupOf x) p).settle, y, ?_, hy, hyphase, hyblocks, fun k b hb => hin k b hb, fun b hb => (hout b hb).trans (by rw [hv]; rfl), hhbm.trans (by rw [hv])⟩
    exact congrArg (fun z : State => Host.Outcome.next z.settle) ((congrArg (fun z : State => z.issuePoint pt) hv.symm).trans hissue)
  · obtain ⟨at_, hopen⟩ := openWindow_ready h o
    have halone := (alone_of_lone h).withBeat { s.beat with windowOpen := true, at_ := at_ }
    obtain ⟨d, n, w, st, ct, i, a, q, hwindow, hother, hown, hprod⟩ := window_plain halone o hsaddle hop hfinal hsigs
    refine ⟨_, congrArg Host.Outcome.next (hopen.trans (congrArg State.settle hwindow)), rfl, rfl, rfl, rfl, rfl, hother, ?_, fun k => ?_,
      fun hquiet hok => ?_, fun hnot => ?_⟩
    · exact (congrArg Ctx.regions hown :)
    · have hsig := congrArg (fun c : Ctx => Tab.get 0 c.sig k) hown
      exact hsig.trans (get_signalsAfter ..)
    · exact if_pos (by simp [leavesNoRecord, hquiet, hok])
    · have hquiet : leavesNoRecord x = false := by
        rcases hnot with h | h
        · rw [leavesNoRecord, h]
          rfl
        · rw [leavesNoRecord, beq_false_of_ne h, Bool.and_false]
      have hgen : ∀ t : State, t.recordGen x = (t.ctx x.ctx).gen := fun t => by
        rcases hop with ⟨_, h⟩ | ⟨_, h⟩ | h | ⟨_, _, _, h⟩ | ⟨_, _, h⟩ | ⟨_, _, h⟩ <;> simp [State.recordGen, h]
      refine ⟨?_, (congrArg (fun c : Ctx => (Tab.get {} c.cq x.cq).prod) hown : _).trans (hprod hquiet)⟩
      refine (if_neg (by rw [hquiet]; decide) : _).trans ?_
      unfold recorded
      rw [hgen]
      rfl

end Sys2Proof.Proofs
end

section
/-! SUPPORT. O35: what a port's own hop changes, and the checks of a frame's reception (R346, R348, R374, R397). -/
namespace Sys2Proof.Proofs
open Sys2Proof Sys2Proof.Machine

/-! ### A port's own hop (R346) -/

/-- Port `p` as it is after sending on its hop: its LSEQ, its buffers and its credits; what the replay buffer held is still there. -/
def PortSends (q r : Port) : Prop := ∃ a l c w o g,
  r = { q with lseqTx := a, replayBuf := q.replayBuf ++ l, credits := c, waiting := w, owed := o, owing := g }

theorem PortSends.refl (q : Port) : PortSends q q := ⟨_, [], _, _, _, _, by rw [List.append_nil]⟩

theorem PortSends.trans {q r u : Port} (h : PortSends q r) (k : PortSends r u) : PortSends q u := by
  obtain ⟨_, l, _, _, _, _, rfl⟩ := h
  obtain ⟨_, m, _, _, _, _, rfl⟩ := k
  exact ⟨_, l ++ m, _, _, _, _, by rw [List.append_assoc]⟩

/-- From `s` to `t` port `p` has sent on its hop, and nothing else has changed but what the device has sent, which has grown. -/
structure HopSends (p : Nat) (s t : State) : Prop where
  links : ∃ ps o, t = { s with lnk := { s.lnk with ports := ps }, out := s.out ++ o }
  other : ∀ q, q ≠ p → t.port q = s.port q
  own : PortSends (s.port p) (t.port p)

namespace HopSends
variable {p : Nat} {s t u : State}

theorem refl (p : Nat) (s : State) : HopSends p s s := ⟨⟨_, [], by rw [List.append_nil]⟩, fun _ _ => rfl, .refl _⟩

theorem trans (h : HopSends p s t) (k : HopSends p t u) : HopSends p s u := by
  refine ⟨?_, fun q hq => (k.other q hq).trans (h.other q hq), h.own.trans k.own⟩
  obtain ⟨_, o, ht⟩ := h.links
  obtain ⟨ps, m, hu⟩ := k.links
  exact ⟨ps, o ++ m, by rw [hu, ht, List.append_assoc]⟩

theorem out (h : HopSends p s t) : ∃ o, t.out = s.out ++ o := by
  obtain ⟨_, o, ht⟩ := h.links
  exact ⟨o, by rw [ht]⟩

/-- What the device had sent, it has sent. -/
theorem sent (h : HopSends p s t) {o : Out} (ho : o ∈ s.out) : o ∈ t.out := by
  obtain ⟨l, hl⟩ := h.out
  rw [hl]
  exact List.mem_append_left _ ho

theorem updPort (s : State) (p : Nat) {f : Port → Port} (h : PortSends (s.port p) (f (s.port p))) : HopSends p s (s.updPort p f) := by
  refine ⟨⟨_, [], by rw [List.append_nil]; rfl⟩, fun q hq => State.port_updPort_ne s f hq, ?_⟩
  rw [State.port_updPort_same]
  exact h

end HopSends

section
variable (s : State) (p : Nat)

theorem putOnPort_hopSends {ty : Nat} (hone : oneHop ty = true) (fr : Frame) : HopSends p s (s.putOnPort p ty fr) := by
  unfold State.putOnPort
  dsimp only
  rw [if_pos hone]
  exact ⟨⟨_, _, rfl⟩, fun q hq => Tab.get_set_ne _ _ _ hq, _, _, _, _, _, _, Tab.get_set_same ..⟩

theorem portSend_hopSends {ty : Nat} (hone : oneHop ty = true) (fr : Frame) : HopSends p s (s.portSend p ty fr) := by
  unfold State.portSend
  split
  · exact putOnPort_hopSends s p hone fr
  · exact .updPort s p ⟨_, [], _, _, _, _, by rw [List.append_nil]⟩

theorem giveCredit_hopSends : HopSends p s (s.giveCredit p) := by
  unfold State.giveCredit
  dsimp only
  split
  · exact (HopSends.updPort s p ⟨_, [], _, _, _, _, by rw [List.append_nil]⟩).trans (putOnPort_hopSends _ p rfl _)
  · exact .refl p s

theorem oweCredit_hopSends (ty n : Nat) : HopSends p s (s.oweCredit p ty n) :=
  .updPort s p ⟨_, [], _, _, _, _, by rw [List.append_nil]⟩

/-- A frame taken in on a port: the port's LSEQ, then what it sends in answer. -/
theorem hopTake_eq (ty lseq units : Nat) : HopSends p (s.updPort p fun q => { q with lseqRx := lseq + 1 }) (s.hopTake p ty lseq units) := by
  unfold State.hopTake
  dsimp only
  split
  · exact oweCredit_hopSends ..
  · exact (oweCredit_hopSends ..).trans ((portSend_hopSends _ p rfl _).trans (giveCredit_hopSends ..))

end

/-- A frame that is answered on its port changes ports alone, and what the device has sent. -/
theorem hopAnswer_eq (s : State) (ty : Nat) (fr : Frame) : ∃ ps o, s.hopAnswer ty fr = { s with lnk := { s.lnk with ports := ps }, out := s.out ++ o } := by
  unfold State.hopAnswer
  split
  · exact ⟨_, [], by rw [List.append_nil]⟩
  · obtain ⟨ps, o, h⟩ := (hopTake_eq s _ ty fr.lseq (frameUnits fr)).links
    exact ⟨ps, o, h⟩

/-! ### Frames that are not taken -/

/-- The first check of R348, R374 and R397 that a frame fails. -/
def turnedAway (s : State) (ty : Nat) (fr : Frame) : Prop :=
  (s.fenced = true ∧ laneOf ty ≠ 0) ∨ fr.dst ≠ s.lnk.addr.toNat ∨ s.stale fr = true ∨ s.fromFenced fr = true

/-- The three counters of frames that are turned away. -/
def countAway (s : State) (ty : Nat) (fr : Frame) (l : Lnk) : Lnk :=
  if s.fenced = true ∧ laneOf ty ≠ 0 then { l with stray := sat32 l.stray 1 }
  else if fr.dst ≠ s.lnk.addr.toNat then { l with misroute := sat32 l.misroute 1 }
  else if s.stale fr = true then { l with late := sat32 l.late 1 } else l

section
variable {s : State} {ty : Nat} {fr : Frame}

/-- A frame that fails a check of its reception is answered on its hop and counted, and nothing else. -/
theorem withFrame_turnedAway (hopen : s.portOpen fr = true) (haway : turnedAway s ty fr) (f : State → State) :
    ∃ ps o, s.withFrame ty fr f = { s with lnk := countAway s ty fr { s.lnk with ports := ps }, out := s.out ++ o } := by
  obtain ⟨ps, o, hanswer⟩ := hopAnswer_eq s ty fr
  refine ⟨ps, o, ?_⟩
  have hdropped : s.receive ty fr = none ∧
      s.dropFrame ty fr = { s with lnk := countAway s ty fr { s.lnk with ports := ps }, out := s.out ++ o } := by
    unfold State.receive State.dropFrame countAway
    rw [hanswer]
    dsimp only
    rw [show ({ s with lnk := { s.lnk with ports := ps }, out := s.out ++ o } : State).fenced = s.fenced from rfl,
      show ({ s with lnk := { s.lnk with ports := ps }, out := s.out ++ o } : State).stale fr = s.stale fr from rfl,
      show ({ s with lnk := { s.lnk with ports := ps }, out := s.out ++ o } : State).fromFenced fr = s.fromFenced fr from rfl]
    by_cases hfence : s.fenced = true ∧ laneOf ty ≠ 0
    · have hb : (s.fenced && laneOf ty != 0) = true := by simpa using hfence
      rw [if_pos hb, if_pos hb, if_pos hfence]
      exact ⟨rfl, rfl⟩
    · have hb : ¬ (s.fenced && laneOf ty != 0) = true := by simpa using hfence
      rw [if_neg hb, if_neg hb, if_neg hfence]
      by_cases hdst : fr.dst ≠ s.lnk.addr.toNat
      · have hd : (fr.dst != s.lnk.addr.toNat) = true := bne_iff_ne.mpr hdst
        rw [if_pos hd, if_pos hd, if_pos hdst]
        exact ⟨rfl, rfl⟩
      · have hd : ¬ (fr.dst != s.lnk.addr.toNat) = true := mt bne_iff_ne.mp hdst
        rw [if_neg hd, if_neg hd, if_neg hdst]
        have hold : s.stale fr = true ∨ s.fromFenced fr = true := (haway.resolve_left hfence).resolve_left hdst
        refine ⟨if_pos (by simpa using hold), ?_⟩
        by_cases hstale : s.stale fr = true
        · rw [if_pos hstale, if_pos hstale]
          rfl
        · rw [if_neg hstale, if_neg hstale]
  unfold State.withFrame
  rw [if_pos hopen, hdropped.1]
  exact hdropped.2

end

/-- The first check that fails counts, and no other. -/
theorem countAway_counts (s : State) (ty : Nat) (fr : Frame) (l : Lnk) :
    (countAway s ty fr l).peers = l.peers ∧ (countAway s ty fr l).unacked = l.unacked ∧
    (countAway s ty fr l).stray = (if s.fenced = true ∧ laneOf ty ≠ 0 then sat32 l.stray 1 else l.stray) ∧
    (countAway s ty fr l).misroute =
      (if ¬ (s.fenced = true ∧ laneOf ty ≠ 0) ∧ fr.dst ≠ s.lnk.addr.toNat then sat32 l.misroute 1 else l.misroute) ∧
    (countAway s ty fr l).late =
      (if ¬ (s.fenced = true ∧ laneOf ty ≠ 0) ∧ fr.dst = s.lnk.addr.toNat ∧ s.stale fr = true then sat32 l.late 1 else l.late) := by
  unfold countAway
  by_cases hfence : s.fenced = true ∧ laneOf ty ≠ 0
  · rw [if_pos hfence]
    exact ⟨rfl, rfl, (if_pos hfence).symm, (if_neg fun h => h.1 hfence).symm, (if_neg fun h => h.1 hfence).symm⟩
  · rw [if_neg hfence]
    by_cases hdst : fr.dst ≠ s.lnk.addr.toNat
    · rw [if_pos hdst]
      exact ⟨rfl, rfl, (if_neg hfence).symm, (if_pos ⟨hfence, hdst⟩).symm, (if_neg fun h => hdst h.2.1).symm⟩
    · rw [if_neg hdst]
      by_cases hstale : s.stale fr = true
      · rw [if_pos hstale]
        exact ⟨rfl, rfl, (if_neg hfence).symm, (if_neg fun h => hdst h.2).symm, (if_pos ⟨hfence, not_not.mp hdst, hstale⟩).symm⟩
      · rw [if_neg hstale]
        exact ⟨rfl, rfl, (if_neg hfence).symm, (if_neg fun h => hdst h.2).symm, (if_neg fun h => hstale h.2.2).symm⟩

/-- What a row that is a frame received does goes through the checks of R348; a frame of the Pass network that is late counts as such
as well. -/
theorem exec_frame {i : Instr} {ty : Nat} {fr : Frame} (hrow : i.frame = some (ty, fr)) (s : State) (hlive : s.linksLive = true) :
    ∃ f, exec i s = .next (s.withFrame ty fr f).settle ∨ exec i s = .next (s.withPass ty fr f).settle := by
  cases i with
  | e2eAck | e2eNotready | collData | collAbort | permData | permMark | chanData | chanCommit | chanCredit =>
    cases hrow
    exact ⟨_, .inl (congrArg Host.Outcome.next (if_pos hlive))⟩
  | passTry | passReply | passMark | passRow =>
    cases hrow
    exact ⟨_, .inr (congrArg Host.Outcome.next (if_pos hlive))⟩
  | _ => nomatch hrow

/-- A frame of the Pass network goes through the same checks; its own counter of late frames is the only difference. -/
theorem withPass_eq (s : State) (ty : Nat) (fr : Frame) (f : State → State) : ∃ r,
    s.withPass ty fr f = ({ s with passRegs := r } : State).withFrame ty fr f ∧ (s.portOpen fr = false → r = s.passRegs) := by
  unfold State.withPass
  dsimp only
  split
  · next h => exact ⟨_, rfl, fun hclosed => by simp [hclosed] at h⟩
  · exact ⟨_, rfl, fun _ => rfl⟩

/-- Settles O35: each row goes through `State.withFrame`, whose dropped frames only count. -/
theorem framesChecked : Obligations.FramesChecked := by
  unfold Obligations.FramesChecked
  refine ⟨fun i ty fr s hrow hlive hclosed => ?_, fun i ty fr s hrow hlive hopen haway => ?_⟩
  · have hstays (f : State → State) : s.withFrame ty fr f = s := if_neg (by rw [hclosed]; decide)
    obtain ⟨f, h | h⟩ := exec_frame hrow s hlive
    · rw [h, hstays]
    · obtain ⟨r, hpass, hr⟩ := withPass_eq s ty fr f
      rw [hr hclosed] at hpass
      rw [h, hpass]
      exact congrArg (fun t : State => Host.Outcome.next t.settle) (hstays f)
  · obtain ⟨r, ps, o, hexec⟩ : ∃ r ps o, exec i s = .next
        ({ s with passRegs := r, lnk := countAway s ty fr { s.lnk with ports := ps }, out := s.out ++ o } : State).settle := by
      obtain ⟨f, h | h⟩ := exec_frame hrow s hlive
      · obtain ⟨ps, o, hdrop⟩ := withFrame_turnedAway hopen haway f
        exact ⟨s.passRegs, ps, o, by rw [h, hdrop]⟩
      · obtain ⟨r, hpass, -⟩ := withPass_eq s ty fr f
        obtain ⟨ps, o, hdrop⟩ := withFrame_turnedAway (s := { s with passRegs := r }) hopen haway f
        exact ⟨r, ps, o, by rw [h, hpass, hdrop]; rfl⟩
    obtain ⟨hpeers, hunacked, hstray, hmisroute, hlate⟩ := countAway_counts s ty fr { s.lnk with ports := ps }
    exact ⟨_, hexec, rfl, rfl, rfl, rfl, rfl, rfl, rfl, hpeers, hunacked, hstray, hmisroute, hlate⟩

end Sys2Proof.Proofs
end

section
/-! SUPPORT. O36, O37: what sending on ports leaves, and the frames that go at once (R346, R350, R352 to R354). -/
namespace Sys2Proof.Proofs
open Sys2Proof Sys2Proof.Machine

/-! ### What sending leaves of every port -/

/-- From `s` to `t` frames have been sent, sent again or kept: every port stands but for its hop, and nothing else changes but the peers, the
frames that wait, the rotations, the counts of those unreachable and sent again, and what the device has sent, which has grown. -/
def LinkSends (s t : State) : Prop :=
  (∃ ps pe un ro ur rx o, t = { s with
    lnk := { s.lnk with ports := ps, peers := pe, unacked := un, rotation := ro, unreach := ur, retx := rx }, out := s.out ++ o }) ∧
  ∀ q, PortSends (s.port q) (t.port q)

namespace LinkSends
variable {s t u : State}

theorem refl (s : State) : LinkSends s s := ⟨⟨_, _, _, _, _, _, [], by rw [List.append_nil]⟩, fun _ => .refl _⟩

theorem trans (h : LinkSends s t) (k : LinkSends t u) : LinkSends s u := by
  obtain ⟨⟨_, _, _, _, _, _, o, ht⟩, hports⟩ := h
  obtain ⟨⟨ps, pe, un, ro, ur, rx, m, hu⟩, kports⟩ := k
  exact ⟨⟨ps, pe, un, ro, ur, rx, o ++ m, by rw [hu, ht, List.append_assoc]⟩, fun q => (hports q).trans (kports q)⟩

theorem fold {α : Type} {f : State → α → State} (h : ∀ s a, LinkSends s (f s a)) (l : List α) (s : State) : LinkSends s (l.foldl f s) :=
  foldl_rel refl trans h l s

theorem of_hopSends {p : Nat} (h : HopSends p s t) : LinkSends s t := by
  obtain ⟨ps, o, ht⟩ := h.links
  refine ⟨⟨ps, _, _, _, _, _, o, by rw [ht]⟩, fun q => ?_⟩
  by_cases hq : q = p
  · exact hq ▸ h.own
  · rw [h.other q hq]
    exact .refl _

/-- A step that leaves the ports, and sends nothing. -/
theorem of_tables (s : State) (pe : List Peer) (un : List Unacked) (ro : Tab Nat) (ur rx : BitVec 32) :
    LinkSends s { s with lnk := { s.lnk with peers := pe, unacked := un, rotation := ro, unreach := ur, retx := rx } } :=
  ⟨⟨_, _, _, _, _, _, [], by rw [List.append_nil]⟩, fun _ => .refl _⟩

end LinkSends

section
variable (s : State)

theorem meet_linkSends (p d : Nat) : LinkSends s (s.meet p d) := .of_tables s ..
theorem remember_linkSends (u : Unacked) : LinkSends s (s.remember u) := .of_tables s ..

theorem rotate_linkSends (ty d : Nat) : LinkSends s (s.rotate ty d) := by
  unfold State.rotate
  split
  · exact .refl s
  · exact .of_tables s ..

/-- The frame as it leaves on a port: the port's next LSEQ, and HOPS (R346, R355). -/
def sentFrame (s : State) (p : Nat) (fr : Frame) : Frame := { fr with lseq := (s.port p).lseqTx % 2 ^ 32, port := none, hops := s.hopsOut }

/-- The port that a frame has left on. -/
def portAfter (s : State) (p ty : Nat) (fr : Frame) : Port :=
  { s.port p with lseqTx := (s.port p).lseqTx + 1, replayBuf := (s.port p).replayBuf ++ [{ ty := ty, fr := sentFrame s p fr }],
                  credits := setAt (s.port p).credits (laneOf ty) (((s.port p).credits[laneOf ty]?).getD 0 - frameUnits (sentFrame s p fr)) }

/-- A frame of a port's own hop, sent. -/
theorem putOnPort_oneHop {p ty : Nat} (hone : oneHop ty = true) (fr : Frame) :
    s.putOnPort p ty fr = (s.updPort p fun _ => portAfter s p ty fr).send (.frame (some p) ty (sentFrame s p fr)) := by
  unfold State.putOnPort
  dsimp only
  rw [if_pos hone]
  rfl

theorem putOnPort_linkSends (p ty : Nat) (fr : Frame) : LinkSends s (s.putOnPort p ty fr) := by
  have hput : HopSends p s ((s.updPort p fun _ => portAfter s p ty fr).send (.frame (some p) ty (sentFrame s p fr))) :=
    ⟨⟨_, _, rfl⟩, fun q hq => Tab.get_set_ne _ _ _ hq, _, _, _, _, _, _, Tab.get_set_same ..⟩
  unfold State.putOnPort
  dsimp only
  split
  · exact .of_hopSends hput
  · exact (LinkSends.of_hopSends hput).trans (meet_linkSends ..)

theorem giveCredit_linkSends (p : Nat) : LinkSends s (s.giveCredit p) := .of_hopSends (giveCredit_hopSends s p)

theorem waiting_linkSends (p : Nat) (l : List (Nat × Frame)) : LinkSends s (s.updPort p fun q => { q with waiting := l }) :=
  .of_hopSends (.updPort s p ⟨_, [], _, _, _, _, by rw [List.append_nil]⟩)

theorem flushPort_linkSends (p : Nat) : LinkSends s (s.flushPort p) := by
  unfold State.flushPort
  refine (LinkSends.fold (fun t w => ?_) _ s).trans (giveCredit_linkSends ..)
  split
  · exact .refl t
  · split
    · exact (waiting_linkSends ..).trans (putOnPort_linkSends ..)
    · exact .refl t

theorem resendAt_linkSends (i : Nat) : LinkSends s (s.resendAt i) := by
  unfold State.resendAt
  split
  · exact .refl s
  · split
    · exact .refl s
    · split
      · exact ⟨⟨_, _, _, _, _, _, _, rfl⟩, fun _ => .refl _⟩
      · split
        · exact .of_tables s ..
        · next u _ _ _ _ p _ =>
          split
          · have hturn : LinkSends s (if u.plane = 32 then (if u.primary.isSome then s else s.rotate u.ty u.fr.dst)
                else { s with lnk := { s.lnk with retx := sat32 s.lnk.retx 1 } }) := by
              split
              · split
                · exact .refl s
                · exact rotate_linkSends ..
              · exact .of_tables s ..
            have hput := hturn.trans (putOnPort_linkSends _ p u.ty u.fr)
            dsimp only
            split
            · exact hput.trans (.of_tables ..)
            · exact hput.trans (.of_tables ..)
          · exact .refl s

theorem resendFrom_linkSends (p : Nat) (k : Kept) : LinkSends s (s.resendFrom p k) := by
  unfold State.resendFrom
  split
  · exact resendAt_linkSends ..
  · split
    · split
      · exact putOnPort_linkSends ..
      · exact remember_linkSends ..
    · exact .of_tables s ..

theorem flushWaiting_linkSends (n : Nat) (s : State) : LinkSends s (State.flushWaiting n s) := by
  induction n generalizing s with
  | zero => exact .refl s
  | succ n ih =>
    unfold State.flushWaiting
    split
    · exact .refl s
    · exact (resendAt_linkSends ..).trans (ih _)

theorem flush_linkSends (p : Nat) : LinkSends s (s.flush p) := (flushPort_linkSends s p).trans (flushWaiting_linkSends ..)

end

/-! ### A frame of a port's own hop, sent or held -/

section
variable (s : State) (p : Nat)

/-- A frame that a port sends goes at once, or waits behind those that wait (R346). -/
theorem portSend_goes {ty : Nat} (hone : oneHop ty = true) (fr : Frame) :
    (s.portSend p ty fr = (s.updPort p fun _ => portAfter s p ty fr).send (.frame (some p) ty (sentFrame s p fr))) ∨
    (s.portSend p ty fr = s.updPort p fun q => { q with waiting := q.waiting ++ [(ty, fr)] }) := by
  unfold State.portSend
  split
  · exact .inl (putOnPort_oneHop s hone fr)
  · exact .inr rfl

/-- With nothing waiting, room and credit it goes at once. -/
theorem portSend_now {ty : Nat} (hone : oneHop ty = true) (fr : Frame) (hwait : (s.port p).waiting = []) (hroom : (s.port p).replayBuf.length < 256)
    (hcredit : frameUnits fr ≤ ((s.port p).credits[laneOf ty]?).getD 0) :
    s.portSend p ty fr = (s.updPort p fun _ => portAfter s p ty fr).send (.frame (some p) ty (sentFrame s p fr)) := by
  unfold State.portSend
  rw [if_pos (by simp [hwait, State.canPut, State.hasCredit, hroom, hcredit])]
  exact putOnPort_oneHop s hone fr

/-- A frame that a port sends is out, or waits there. -/
theorem portSend_out_or_waits {ty : Nat} (hone : oneHop ty = true) (fr : Frame) : ∃ g, g.tag = fr.tag ∧ g.key = fr.key ∧ g.payload = fr.payload ∧
    (Out.frame (some p) ty g ∈ (s.portSend p ty fr).out ∨ (ty, g) ∈ ((s.portSend p ty fr).port p).waiting) := by
  rcases portSend_goes s p hone fr with h | h <;> rw [h]
  · exact ⟨sentFrame s p fr, rfl, rfl, rfl, .inl (List.mem_append_right _ (List.mem_singleton.mpr rfl))⟩
  · refine ⟨fr, rfl, rfl, rfl, .inr ?_⟩
    rw [State.port_updPort_same]
    exact List.mem_append_right _ (List.mem_singleton.mpr rfl)

end

/-- What the lines' settling leaves of what the device has sent. -/
theorem settle_sent {s : State} {o : Out} (h : o ∈ s.out) : o ∈ s.settle.out := List.mem_append_left _ h

end Sys2Proof.Proofs
end

section
/-! SUPPORT. O36: a port's training, discovery, failure and retraining, and Ramalink's (R343, R346, R350, R354, R377). -/
namespace Sys2Proof.Proofs
open Sys2Proof Sys2Proof.Machine

section
variable (s : State) (p : Nat)

/-! ### Its UP bit and its state -/

theorem bitMask32_at {n q : Nat} (hn : n < 32) : (bitMask32 n).getLsbD q = decide (q = n) := by
  unfold bitMask32
  rw [← BitVec.twoPow_eq, BitVec.getLsbD_twoPow]
  by_cases h : q = n <;> simp [h, hn]
  omega

/-- A port's UP bit cleared, and no other. -/
theorem setUp_clears {p : Nat} (hp : p < 32) (q : Nat) :
    (s.setUp p false).lnk.up.getLsbD q = (s.lnk.up.getLsbD q && !decide (q = p)) := by
  show (s.lnk.up &&& ~~~(bitMask32 p)).getLsbD q = _
  rw [BitVec.getLsbD_and, BitVec.getLsbD_not, bitMask32_at hp]
  by_cases hq : q < 32
  · simp [hq]
  · rw [BitVec.getLsbD_of_ge s.lnk.up q (by omega)]
    simp

theorem port_portTo (st : BitVec 3) (f : Port → Port) : (s.portTo p st f).port p = { f (s.port p) with state := st } :=
  Tab.get_set_same ..

theorem port_portTo_ne (st : BitVec 3) (f : Port → Port) {q : Nat} (hq : q ≠ p) : (s.portTo p st f).port q = s.port q :=
  Tab.get_set_ne _ _ _ hq

@[simp] theorem portTo_cmds (st : BitVec 3) (f : Port → Port) : (s.portTo p st f).cmds = s.cmds := rfl
@[simp] theorem portTo_hbm (st : BitVec 3) (f : Port → Port) : (s.portTo p st f).hbm = s.hbm := rfl
@[simp] theorem setUp_cmds (v : Bool) : (s.setUp p v).cmds = s.cmds := rfl
@[simp] theorem setUp_hbm (v : Bool) : (s.setUp p v).hbm = s.hbm := rfl

/-! ### Discovery -/

theorem portAfter_credits (ty : Nat) (fr : Frame) : (portAfter s p ty fr).credits =
    setAt (s.port p).credits (laneOf ty) (((s.port p).credits[laneOf ty]?).getD 0 - frameUnits fr) := rfl

/-- The DISCOVER that a port sends. -/
def discoverFrame : Frame :=
  s.stamp { dst := 0xFFFFFF, tag := if s.fenced then 1 else 0, key := BitVec.ofNat 64 s.time, payload := s.discoverPayload p }

theorem discoverFrame_units : frameUnits (discoverFrame s p) = 1 := by
  simp [discoverFrame, State.stamp, State.discoverPayload, frameUnits, beBytes, leBytes, zeros]

/-- DISCOVER goes at once, or waits for the port's credit. -/
theorem sendDiscover_goes : ∃ t fr, s.sendDiscover p = t ∧ fr.payload = s.discoverPayload p ∧
    (Out.frame (some p) 0x01 fr ∈ t.out ∨ (0x01, fr) ∈ (t.port p).waiting) ∧
    ((s.port p).waiting = [] → (s.port p).replayBuf.length < 256 → (∃ n l, (s.port p).credits = (n + 1) :: l) →
      Out.frame (some p) 0x01 fr ∈ t.out ∧ (t.port p).lseqTx = (s.port p).lseqTx + 1 ∧ (t.port p).waiting = []) := by
  by_cases hnow : ((s.port p).waiting.isEmpty && s.canPut p fDiscover (discoverFrame s p)) = true
  · have hsent : s.sendDiscover p = (s.updPort p fun _ => portAfter s p fDiscover (discoverFrame s p)).send
        (.frame (some p) 0x01 (sentFrame s p (discoverFrame s p))) := (if_pos hnow).trans (putOnPort_oneHop s rfl _)
    have hout : Out.frame (some p) 0x01 (sentFrame s p (discoverFrame s p)) ∈ (s.sendDiscover p).out := by
      rw [hsent]
      exact List.mem_append_right _ (List.mem_singleton.mpr rfl)
    refine ⟨_, _, rfl, rfl, .inl hout, fun hwait _ _ => ⟨hout, ?_⟩⟩
    have hport : (s.sendDiscover p).port p = portAfter s p fDiscover (discoverFrame s p) := by
      rw [hsent]
      exact Tab.get_set_same ..
    rw [hport]
    exact ⟨rfl, hwait⟩
  · have hheld : s.sendDiscover p = s.updPort p fun q => { q with waiting := q.waiting ++ [(fDiscover, discoverFrame s p)] } := if_neg hnow
    refine ⟨_, discoverFrame s p, rfl, rfl, .inr ?_, fun hwait hroom ⟨n, l, hcredit⟩ => absurd ?_ hnow⟩
    · rw [hheld, State.port_updPort_same]
      exact List.mem_append_right _ (List.mem_singleton.mpr rfl)
    · simp [hwait, State.canPut, hroom, State.hasCredit, discoverFrame_units, hcredit, laneOf, fDiscover, fCollData, fPermData, fPermMark,
        fChanData, fChanCommit]

/-- A port on which eight lanes have trained, as discovery finds it. -/
def trainedPort (q : Port) : Port := { q.quiet with lanes := 8, lseqTx := 1, lseqRx := 1, credits := [16, 0, 0, 0] }

/-- Such a port sends its DISCOVER at once: the far end holds VL0's 16 credits for it. -/
theorem trained_sends : (s.portTo p 2 trainedPort).sendDiscover p =
    ((s.portTo p 2 trainedPort).updPort p fun _ => portAfter (s.portTo p 2 trainedPort) p fDiscover (discoverFrame (s.portTo p 2 trainedPort) p)).send
      (.frame (some p) 0x01 (sentFrame (s.portTo p 2 trainedPort) p (discoverFrame (s.portTo p 2 trainedPort) p))) := by
  have hport := port_portTo s p 2 trainedPort
  refine portSend_now _ p rfl (discoverFrame (s.portTo p 2 trainedPort) p) (by rw [hport]; rfl) (by rw [hport]; exact Nat.zero_lt_succ _) ?_
  rw [discoverFrame_units, hport]
  exact Nat.le_of_ble_eq_true rfl

/-! ### Failure -/

/-- What a port holds when it has failed (R354). -/
def failedPort (cause : Nat) (q : Port) : Port := { q.quiet with cause := BitVec.ofNat 4 cause, rejoin := true }

/-- The device as a port has failed, before what its replay buffer held is sent again. -/
def failing (cause : Nat) : State :=
  ({ (s.setUp p false).portTo p 5 (failedPort cause) with
     lnk := { ((s.setUp p false).portTo p 5 (failedPort cause)).lnk with failover := sat32 s.lnk.failover 1 } } : State).note
    { code := 0x602, kind := 10, index := engPort p, payload := failoverPayload p cause }

theorem failing_port (cause : Nat) : (failing s p cause).port p = { failedPort cause (s.port p) with state := 5 } :=
  port_portTo (s.setUp p false) p 5 (failedPort cause)

theorem failing_port_ne (cause : Nat) {q : Nat} (hq : q ≠ p) : (failing s p cause).port q = s.port q :=
  port_portTo_ne (s.setUp p false) p 5 (failedPort cause) hq

theorem failing_rest (cause : Nat) : (failing s p cause).lnk.failover = sat32 s.lnk.failover 1 ∧ (failing s p cause).cmds = s.cmds ∧
    (failing s p cause).hbm = s.hbm ∧ (failing s p cause).beat = s.beat := by
  simp [failing, State.portTo, State.setUp]

theorem failPort_eq (cause : Nat) : LinkSends (failing s p cause) (s.failPort p cause) :=
  .fold (fun t k => resendFrom_linkSends t p k) _ _

theorem failPort_fails (cause : Nat) (hp : p < 32) : ((s.failPort p cause).port p).state = 5 ∧
    ((s.failPort p cause).port p).cause = BitVec.ofNat 4 cause ∧ (s.failPort p cause).lnk.up.getLsbD p = false ∧
    (∀ q, q ≠ p → (s.failPort p cause).lnk.up.getLsbD q = s.lnk.up.getLsbD q ∧ ((s.failPort p cause).port q).state = (s.port q).state) ∧
    (s.failPort p cause).lnk.failover = sat32 s.lnk.failover 1 ∧ (s.failPort p cause).cmds = s.cmds ∧ (s.failPort p cause).hbm = s.hbm ∧
    (s.failPort p cause).beat = s.beat := by
  obtain ⟨⟨ps, pe, un, ro, ur, rx, o, ht⟩, hports⟩ := failPort_eq s p cause
  have hup (q : Nat) : (s.failPort p cause).lnk.up.getLsbD q = (s.lnk.up.getLsbD q && !decide (q = p)) := by
    rw [ht]
    exact setUp_clears s hp q
  obtain ⟨_, _, _, _, _, _, hown⟩ := hports p
  refine ⟨?_, ?_, by rw [hup]; simp, fun q hq => ⟨by rw [hup]; simp [hq], ?_⟩, ?_⟩
  · rw [hown]
    exact (congrArg Port.state (failing_port s p cause) :)
  · rw [hown]
    exact (congrArg Port.cause (failing_port s p cause) :)
  · obtain ⟨_, _, _, _, _, _, hother⟩ := hports q
    rw [hother]
    exact (congrArg Port.state (failing_port_ne s p cause hq) :)
  · rw [ht]
    exact failing_rest s p cause

end

/-! ### The register of a port -/

/-- RETRAIN of an enabled port that is not quarantined. -/
theorem writePctrl_retrains {s : State} {n : Nat} {v : W64} (hen : v.getLsbD 0 = true) (hre : v.getLsbD 1 = true) (hlive : s.linksLive = true)
    (hquar : (s.port n).quarantined = false) :
    s.writePctrl n v = (s.updPort n fun q => { q with enable := true }).retrainPort n := by
  unfold State.writePctrl
  have hq : ((s.updPort n fun q => { q with enable := true }).port n).quarantined = false := by
    rw [State.port_updPort_same]
    exact hquar
  simp only [hen, hre, hq, show (s.updPort n fun q => { q with enable := true }).linksLive = true from hlive]
  simp

/-- ENABLE 0 on a port that is down already. -/
theorem writePctrl_disables_down {s : State} {n : Nat} {v : W64} (hen : v.getLsbD 0 = false) (hdown : (s.port n).state = 0) :
    s.writePctrl n v = s.updPort n fun q => { q with enable := false } := by
  unfold State.writePctrl
  simp only [hen, State.port_updPort_same, hdown]
  rfl

/-- ENABLE 0 on a port that is not down. -/
theorem writePctrl_disables {s : State} {n : Nat} {v : W64} (hen : v.getLsbD 0 = false) (hup : (s.port n).state ≠ 0) :
    s.writePctrl n v = ((s.updPort n fun q => { q with enable := false }).setUp n false).portTo n 0
      (fun q => { q.down with quarantined := q.quarantined }) := by
  unfold State.writePctrl
  simp only [hen, State.port_updPort_same, hup]
  rfl

theorem exec_retrain {s : State} {n : Nat} (v : W64) (hhost : s.hostUp = true) (hn : n < 32) :
    exec (.retrain 0 n v) s = .next (s.writePctrl n (v ||| 2)).settle := by
  refine congrArg Host.Outcome.next ((mgmtWrite_host hhost _ _).trans ?_)
  rw [if_pos hn]

/-- Settles O36, clause by clause: a port's training and its DISCOVER, its failure, its register, and Ramalink. -/
theorem portsTrainAndFail : Obligations.PortsTrainAndFail := by
  unfold Obligations.PortsTrainAndFail
  refine ⟨fun s p lanes hlive hp hen hquar hstate hlanes => ?_, fun s p lanes hlive hp hlanes => ?_, fun s p hlive hstate => ?_,
    fun s p cause hlive hp hstate => ?_, fun s n v hhost hlive hn hen hquar => ?_, fun s n v hhost hn hen => ?_, fun s lanes hhost hlanes => ?_⟩
  · have htrained : s.portTrained p lanes = (s.portTo p 2 trainedPort).sendDiscover p := by
      unfold State.portTrained
      dsimp only
      rw [if_pos (by rcases hstate with h | h | h <;> simp [hlive, hen, hquar, hp, h]), if_pos hlanes]
      rfl
    have hexec : exec (.portTrained p lanes) s = .next ((s.portTo p 2 trainedPort).sendDiscover p).settle :=
      (congrArg Host.Outcome.next (if_pos hlive)).trans (congrArg (fun t : State => Host.Outcome.next t.settle) htrained)
    rw [trained_sends] at hexec
    refine ⟨_, sentFrame (s.portTo p 2 trainedPort) p (discoverFrame (s.portTo p 2 trainedPort) p), hexec, ?_⟩
    have hport := port_portTo s p 2 trainedPort
    have hafter : Tab.get {} (Tab.set (s.portTo p 2 trainedPort).lnk.ports p
        (portAfter (s.portTo p 2 trainedPort) p fDiscover (discoverFrame (s.portTo p 2 trainedPort) p))) p =
        portAfter (s.portTo p 2 trainedPort) p fDiscover (discoverFrame (s.portTo p 2 trainedPort) p) := Tab.get_set_same ..
    refine ⟨(congrArg Port.state hafter).trans (congrArg Port.state hport), (congrArg Port.lanes hafter).trans (congrArg Port.lanes hport),
      settle_sent (List.mem_append_right _ (List.mem_singleton.mpr rfl)), rfl, rfl,
      (congrArg Port.lseqTx hafter).trans (congrArg (·.lseqTx + 1) hport), (congrArg Port.lseqRx hafter).trans (congrArg Port.lseqRx hport),
      (congrArg Port.credits hafter).trans ?_, fun q hq => ?_, rfl, rfl, rfl⟩
    · rw [portAfter_credits, discoverFrame_units, hport]
      rfl
    · exact (Tab.get_set_ne _ _ _ hq).trans (port_portTo_ne s p 2 trainedPort hq)
  · have hexec : exec (.portTrained p lanes) s = .next (s.portTrained p lanes).settle := congrArg Host.Outcome.next (if_pos hlive)
    have hleft : s.portTrained p lanes = s.updPort p (fun q => { q with lanes := BitVec.ofNat 8 lanes }) ∨ s.portTrained p lanes = s := by
      unfold State.portTrained
      dsimp only
      rw [if_neg (show ¬ 8 ≤ lanes by omega)]
      split
      · exact .inl rfl
      · exact .inr rfl
    refine ⟨_, hexec, ?_⟩
    rcases hleft with h | h <;> rw [h]
    · have hport : (s.updPort p fun q => { q with lanes := BitVec.ofNat 8 lanes }).port p = { s.port p with lanes := BitVec.ofNat 8 lanes } :=
        Tab.get_set_same ..
      exact ⟨(congrArg Port.state hport :), rfl, fun q hq => Tab.get_set_ne _ _ _ hq, rfl, rfl⟩
    · exact ⟨rfl, rfl, fun _ _ => rfl, rfl, rfl⟩
  · obtain ⟨t, fr, ht, hpay, hgoes, hnow⟩ := sendDiscover_goes s p
    have hsends : HopSends p s t := ht ▸ portSend_hopSends s p rfl _
    obtain ⟨ps, o, hlinks⟩ := hsends.links
    obtain ⟨_, _, _, _, _, _, hown⟩ := hsends.own
    have hexec : exec (.discoverSend p) s = .next t.settle := by
      exact (congrArg Host.Outcome.next (if_pos hlive)).trans (congrArg (fun t : State => Host.Outcome.next t.settle) ((if_pos hstate).trans ht))
    refine ⟨_, fr, hexec, hpay, hgoes.imp_left settle_sent, fun h1 h2 h3 => (hnow h1 h2 h3).imp_left settle_sent,
      (congrArg Port.state hown :), hsends.other, ?_, ?_⟩
    · exact (congrArg State.cmds hlinks :)
    · exact (congrArg State.hbm hlinks :)
  · have hfails : s.portFailure p cause = s.failPort p cause := if_pos (by rcases hstate with h | h | h <;> simp [h])
    have hexec : exec (.portFailure p cause) s = .next (s.failPort p cause).settle :=
      (congrArg Host.Outcome.next (if_pos hlive)).trans (congrArg (fun t : State => Host.Outcome.next t.settle) hfails)
    exact ⟨_, hexec, failPort_fails s p cause hp⟩
  · have hretrains := writePctrl_retrains (v := v ||| 2) (s := s) (n := n) (by rw [BitVec.getLsbD_or, hen]; rfl)
      (by rw [BitVec.getLsbD_or, Bool.or_eq_true]; exact .inr rfl) hlive hquar
    have hexec := exec_retrain v hhost hn
    rw [hretrains] at hexec
    have hown : (s.updPort n fun q => { q with enable := true }).port n = { s.port n with enable := true } := Tab.get_set_same ..
    have hport := port_portTo ((s.updPort n fun q => { q with enable := true }).setUp n false) n 1
      (fun q => { q.quiet with lanes := 0, rejoin := false })
    unfold State.retrainPort at hexec
    rw [hown] at hexec
    refine ⟨_, hexec, (congrArg Port.state hport :), ?_, (congrArg Port.lanes hport :), ?_, fun q hq => ⟨?_, ?_⟩, by simp, by simp⟩
    · exact (congrArg Port.enable hport :).trans (congrArg Port.enable hown)
    · exact (setUp_clears (s.updPort n fun q => { q with enable := true }) hn n).trans (by simp)
    · exact (Tab.get_set_ne _ _ _ hq).trans (Tab.get_set_ne _ _ _ hq)
    · exact (setUp_clears (s.updPort n fun q => { q with enable := true }) hn q).trans (by simp [hq]; rfl)
  · have hen' : (v ||| 2).getLsbD 0 = false := by rw [BitVec.getLsbD_or, hen]; rfl
    have hexec := exec_retrain v hhost hn
    by_cases hdown : (s.port n).state = 0
    · rw [writePctrl_disables_down hen' hdown] at hexec
      have hport : (s.updPort n fun q => { q with enable := false }).port n = { s.port n with enable := false } := Tab.get_set_same ..
      exact ⟨_, hexec, (congrArg Port.state hport).trans hdown, (congrArg Port.enable hport :), fun h => absurd hdown h,
        fun q hq => ⟨Tab.get_set_ne _ _ _ hq, rfl⟩, rfl, rfl⟩
    · rw [writePctrl_disables hen' hdown] at hexec
      have hown : (s.updPort n fun q => { q with enable := false }).port n = { s.port n with enable := false } := Tab.get_set_same ..
      have hport := port_portTo ((s.updPort n fun q => { q with enable := false }).setUp n false) n 0
        (fun q => { q.down with quarantined := q.quarantined })
      refine ⟨_, hexec, (congrArg Port.state hport :), ?_, fun _ => ?_, fun q hq => ⟨?_, ?_⟩, by simp, by simp⟩
      · exact (congrArg Port.enable hport :).trans (congrArg Port.enable hown)
      · exact (setUp_clears (s.updPort n fun q => { q with enable := false }) hn n).trans (by simp)
      · exact (Tab.get_set_ne _ _ _ hq).trans (Tab.get_set_ne _ _ _ hq)
      · exact (setUp_clears (s.updPort n fun q => { q with enable := false }) hn q).trans (by simp [hq]; rfl)
  · refine ⟨s.cairn.push { code := 0x502, payload := leBytes 1 lanes ++ zeros 7, beat := s.beat.count }, ?_, push_ring .., push_seq ..⟩
    exact congrArg Host.Outcome.next (if_pos (by rcases hlanes with rfl | rfl | rfl <;> simp [hhost]))

end Sys2Proof.Proofs
end

section
/-! SUPPORT. O37: the answers of a hop, the credit that it grants, and frames that are not good (R345, R346, R354). -/
namespace Sys2Proof.Proofs
open Sys2Proof Sys2Proof.Machine

section
variable (s : State) (p : Nat)

/-! ### An answer that is taken in -/

/-- A port that has taken an answer in: it answers nothing, and owes the answer's credit with that of the next frame (R346; log 44). -/
def tookAnswer (ty lseq units : Nat) (q : Port) : Port :=
  { q with lseqRx := lseq + 1, owed := setAt q.owed (laneOf ty) ((q.owed[laneOf ty]?).getD 0 + units),
           owing := q.owing || !(ty == fHopAck || ty == fHopCredit) }

/-- The port's own part of `State.hopTake`. -/
def taken (ty lseq units : Nat) : State := (s.updPort p fun q => { q with lseqRx := lseq + 1 }).oweCredit p ty units

theorem taken_port (ty lseq units : Nat) : (taken s p ty lseq units).port p = tookAnswer ty lseq units (s.port p) := by
  unfold taken State.oweCredit
  rw [State.port_updPort_same, State.port_updPort_same]
  rfl

theorem taken_port_ne (ty lseq units : Nat) {q : Nat} (hq : q ≠ p) : (taken s p ty lseq units).port q = s.port q :=
  (State.port_updPort_ne _ _ hq).trans (State.port_updPort_ne _ _ hq)

@[simp] theorem taken_cmds (ty lseq units : Nat) : (taken s p ty lseq units).cmds = s.cmds := rfl
@[simp] theorem taken_hbm (ty lseq units : Nat) : (taken s p ty lseq units).hbm = s.hbm := rfl
@[simp] theorem taken_up (ty lseq units : Nat) : (taken s p ty lseq units).lnk.up = s.lnk.up := rfl
@[simp] theorem taken_unacked (ty lseq units : Nat) : (taken s p ty lseq units).lnk.unacked = s.lnk.unacked := rfl

theorem hopTake_ack (lseq units : Nat) : s.hopTake p fHopAck lseq units = taken s p fHopAck lseq units := rfl

/-- The HOP_ACK for a frame. -/
def ackFrame (lseq : Nat) : Frame := s.stamp { dst := 0xFFFFFF, key := BitVec.ofNat 64 lseq }

theorem hopTake_answers {ty : Nat} (hty : ty ≠ fHopAck) (lseq units : Nat) :
    s.hopTake p ty lseq units = ((taken s p ty lseq units).portSend p fHopAck (ackFrame s lseq)).giveCredit p := if_neg hty

/-- Giving credit back leaves what waits on the port. -/
theorem giveCredit_waiting : ((s.giveCredit p).port p).waiting = (s.port p).waiting := by
  unfold State.giveCredit
  dsimp only
  split
  · rw [putOnPort_oneHop _ rfl]
    refine (congrArg Port.waiting (Tab.get_set_same ..) : _).trans ?_
    unfold portAfter
    rw [State.port_updPort_same]
  · rfl

theorem giveCredit_none (howing : (s.port p).owing = false) : s.giveCredit p = s := by
  unfold State.giveCredit
  simp [howing]

/-- A frame taken in is answered on its port, or its answer waits there. -/
theorem hopTake_answer {ty : Nat} (hty : ty ≠ fHopAck) (lseq units : Nat) : ∃ fr : Frame, fr.tag = 0 ∧ fr.key = BitVec.ofNat 64 lseq ∧
    (Out.frame (some p) 0x05 fr ∈ (s.hopTake p ty lseq units).out ∨ (0x05, fr) ∈ ((s.hopTake p ty lseq units).port p).waiting) := by
  obtain ⟨fr, htag, hkey, -, hgoes⟩ := portSend_out_or_waits (taken s p ty lseq units) p (ty := fHopAck) rfl (ackFrame s lseq)
  rw [hopTake_answers s p hty, giveCredit_waiting]
  exact ⟨fr, htag, hkey, hgoes.imp_left (giveCredit_hopSends _ p).sent⟩

/-- With nothing that waits or is owed, nothing goes. -/
theorem flush_idle (hwait : (s.port p).waiting = []) (howing : (s.port p).owing = false) (hun : s.lnk.unacked = []) : s.flush p = s := by
  unfold State.flush State.flushPort
  rw [hwait]
  dsimp only [List.foldl_nil]
  rw [giveCredit_none s p howing, hun]
  rfl

/-! ### HOP_ACK -/

/-- The frame that an answer names is in the replay buffer of a port that runs. -/
def Answers (lseq : Nat) : Prop :=
  ((s.port p).state = 2 ∨ (s.port p).state = 3) ∧ ∃ k ∈ (s.port p).replayBuf, k.fr.lseq = lseq

variable {s p} in
theorem hopAck_eq {lseq : Nat} (h : Answers s p lseq) (nack : Bool) : s.hopAck p nack lseq =
    if nack = false then ((taken s p fHopAck (s.port p).lseqRx 1).updPort p fun q => q.answered lseq).flush p
    else if (s.port p).spent lseq = true then (taken s p fHopAck (s.port p).lseqRx 1).failPort p 2
    else (taken s p fHopAck (s.port p).lseqRx 1).replay p lseq := by
  obtain ⟨hstate, k, hk, hlseq⟩ := h
  unfold State.hopAck
  dsimp only
  rw [if_neg (show ¬ (!((s.port p).state == 2 || (s.port p).state == 3) || !(s.port p).replayBuf.any fun k => k.fr.lseq == lseq) = true from by
    rw [show (s.port p).replayBuf.any (fun k => k.fr.lseq == lseq) = true from List.any_eq_true.mpr ⟨k, hk, beq_iff_eq.mpr hlseq⟩]
    rcases hstate with h | h <;> simp [h]), hopTake_ack]
  cases nack <;> rfl

theorem exec_hopAck {s : State} (hlive : s.linksLive = true) (p : Nat) (nack : Bool) (lseq : Nat) :
    exec (.hopAck p nack lseq) s = .next (s.hopAck p nack lseq).settle := congrArg Host.Outcome.next (if_pos hlive)

/-- The replay buffer after a replay: the frames are those that it held. -/
theorem replay_holds (lseq : Nat) : (((s.replay p lseq).port p).replayBuf.map fun k => (k.ty, k.fr)) = (s.port p).replayBuf.map fun k => (k.ty, k.fr) := by
  have hport : (s.replay p lseq).port p = _ := Tab.get_set_same ..
  rw [hport]
  simp only [List.map_append, List.map_map]
  rw [show ((fun k : Kept => (k.ty, k.fr)) ∘ fun k : Kept =>
      { k with again := true, failed := if k.again && k.fr.lseq == lseq then k.failed + 1 else k.failed }) = fun k => (k.ty, k.fr) from rfl,
    ← List.map_append, List.takeWhile_append_dropWhile]

@[simp] theorem replay_cmds (lseq : Nat) : (s.replay p lseq).cmds = s.cmds := rfl
@[simp] theorem replay_hbm (lseq : Nat) : (s.replay p lseq).hbm = s.hbm := rfl
@[simp] theorem replay_up (lseq : Nat) : (s.replay p lseq).lnk.up = s.lnk.up := rfl
@[simp] theorem replay_unacked (lseq : Nat) : (s.replay p lseq).lnk.unacked = s.lnk.unacked := rfl

/-- A replay sends every frame from the named one on. -/
theorem replay_sends (lseq : Nat) {k : Kept} (hk : k ∈ (s.port p).replayBuf.dropWhile fun k => k.fr.lseq != lseq) :
    Out.frame (some p) k.ty k.fr ∈ (s.replay p lseq).out :=
  List.mem_append_right _ (List.mem_map_of_mem hk)

end

/-! ### HOP_CREDIT -/

section
variable {s : State} {p a b c d w x y z : Nat}

/-- A port that has been granted credit. -/
def granted (g : List Nat) (q : Port) : Port := { q with credits := (List.range 4).map (fun v => (q.credits[v]?).getD 0 + (g[v]?).getD 0 % 65536) }

theorem exec_hopCredit (hlive : s.linksLive = true) (hstate : (s.port p).state = 2 ∨ (s.port p).state = 3) :
    exec (.hopCredit p a b c d) s =
      .next (((s.updPort p (granted [a, b, c, d])).hopTake p fHopCredit (s.port p).lseqRx 1).flush p).settle := by
  have hgate : s.hopCredit p [a, b, c, d] = ((s.updPort p (granted [a, b, c, d])).hopTake p fHopCredit (s.port p).lseqRx 1).flush p :=
    if_neg (by rcases hstate with h | h <;> simp [h])
  exact (congrArg Host.Outcome.next (if_pos hlive)).trans (congrArg (fun t : State => Host.Outcome.next t.settle) hgate)

/-- The port as a HOP_CREDIT has been taken in, before its answer. -/
theorem credited_port : (taken (s.updPort p (granted [a, b, c, d])) p fHopCredit (s.port p).lseqRx 1).port p =
    tookAnswer fHopCredit (s.port p).lseqRx 1 (granted [a, b, c, d] (s.port p)) := by
  rw [taken_port, State.port_updPort_same]

theorem credited_port_ne {q : Nat} (hq : q ≠ p) :
    (taken (s.updPort p (granted [a, b, c, d])) p fHopCredit (s.port p).lseqRx 1).port q = s.port q :=
  (taken_port_ne _ p _ _ _ hq).trans (State.port_updPort_ne s _ hq)

theorem granted_credits {q : Port} (ha : a < 65536) (hcr : q.credits = [w, x, y, z]) :
    (granted [a, b, c, d] q).credits = [w + a, x + b % 65536, y + c % 65536, z + d % 65536] := by
  simp [granted, hcr, List.range_succ, Nat.mod_eq_of_lt ha]

theorem ackFrame_units (s : State) (lseq : Nat) : frameUnits (ackFrame s lseq) = 1 := by
  simp [ackFrame, State.stamp, frameUnits]

/-- Credit granted to a port on which nothing waits: the answer goes with it, and nothing more. -/
theorem hopCredit_answers (hwait : (s.port p).waiting = []) (howing : (s.port p).owing = false) (hun : s.lnk.unacked = [])
    (hroom : (s.port p).replayBuf.length < 256) (ha : a < 65536) (hcr : (s.port p).credits = [w, x, y, z]) (hone : 1 ≤ w + a) :
    ((s.updPort p (granted [a, b, c, d])).hopTake p fHopCredit (s.port p).lseqRx 1).flush p =
      ((taken (s.updPort p (granted [a, b, c, d])) p fHopCredit (s.port p).lseqRx 1).updPort p fun _ =>
        portAfter (taken (s.updPort p (granted [a, b, c, d])) p fHopCredit (s.port p).lseqRx 1) p fHopAck
          (ackFrame (s.updPort p (granted [a, b, c, d])) (s.port p).lseqRx)).send
        (.frame (some p) 0x05 (sentFrame (taken (s.updPort p (granted [a, b, c, d])) p fHopCredit (s.port p).lseqRx 1) p
          (ackFrame (s.updPort p (granted [a, b, c, d])) (s.port p).lseqRx))) := by
  have hport := credited_port (s := s) (p := p) (a := a) (b := b) (c := c) (d := d)
  rw [hopTake_answers _ p (by decide), portSend_now _ p rfl _ (by rw [hport]; exact hwait) (by rw [hport]; exact hroom)
    (by rw [ackFrame_units, hport, tookAnswer, granted_credits ha hcr]; exact hone)]
  generalize hv : taken (s.updPort p (granted [a, b, c, d])) p fHopCredit (s.port p).lseqRx 1 = v at hport
  have hun' : v.lnk.unacked = [] := by rw [← hv]; exact hun
  have hafter (fr : Frame) : ((v.updPort p fun _ => portAfter v p fHopAck fr).send (.frame (some p) fHopAck (sentFrame v p fr))).port p =
      portAfter v p fHopAck fr := Tab.get_set_same ..
  have howed (fr : Frame) : (portAfter v p fHopAck fr).owing = false := by
    unfold portAfter
    rw [hport]
    simp [tookAnswer, granted, howing]
  rw [giveCredit_none _ p (by rw [hafter]; exact howed _)]
  refine flush_idle _ p ?_ (by rw [hafter]; exact howed _) hun'
  rw [hafter]
  unfold portAfter
  rw [hport]
  exact hwait

/-- Of two frames that wait on a port the first goes when it can, and the other may. -/
theorem flushPort_waits {r : State} {ty tz : Nat} {f g : Frame} (hwait : (r.port p).waiting = [(ty, f), (tz, g)]) (hput : r.canPut p ty f = true)
    (honz : oneHop tz = true) :
    HopSends p ((r.updPort p fun q => { q with waiting := [(tz, g)] }).putOnPort p ty f) (r.flushPort p) := by
  unfold State.flushPort
  rw [hwait]
  simp only [List.foldl_cons, List.foldl_nil, hwait, hput]
  rw [if_pos (show (decide True && true) = true from rfl)]
  refine HopSends.trans ?_ (giveCredit_hopSends _ p)
  split
  · exact .refl ..
  · split
    · exact (HopSends.updPort _ p ⟨_, [], _, _, _, _, by rw [List.append_nil]⟩).trans (putOnPort_hopSends _ p honz g)
    · exact .refl ..

/-- A frame that alone waits for credit goes when it is granted, ahead of the answer. -/
theorem hopCredit_frees {ty : Nat} {f : Frame} (hun : s.lnk.unacked = []) (hwait : (s.port p).waiting = [(ty, f)]) (howing : (s.port p).owing = false)
    (hroom : (s.port p).replayBuf.length < 256) (ha : a < 65536) (hcr : (s.port p).credits = [w, x, y, z]) (hlane : laneOf ty = 0)
    (hone : oneHop ty = true) (hunits : frameUnits f ≤ w + a) :
    ∃ u : State, u.port p = { tookAnswer fHopCredit (s.port p).lseqRx 1 (granted [a, b, c, d] (s.port p)) with
        waiting := [(fHopAck, ackFrame (s.updPort p (granted [a, b, c, d])) (s.port p).lseqRx)] } ∧
      (∀ q, q ≠ p → u.port q = s.port q) ∧ u.lnk.unacked = [] ∧ u.cmds = s.cmds ∧ u.hbm = s.hbm ∧
      HopSends p (u.putOnPort p ty f) (((s.updPort p (granted [a, b, c, d])).hopTake p fHopCredit (s.port p).lseqRx 1).flush p) := by
  have hport := credited_port (s := s) (p := p) (a := a) (b := b) (c := c) (d := d)
  have hother (q : Nat) (hq : q ≠ p) := credited_port_ne (s := s) (p := p) (a := a) (b := b) (c := c) (d := d) hq
  rw [hopTake_answers _ p (by decide)]
  generalize hv : taken (s.updPort p (granted [a, b, c, d])) p fHopCredit (s.port p).lseqRx 1 = v at hport hother
  have hkept : v.cmds = s.cmds ∧ v.hbm = s.hbm ∧ v.lnk.unacked = [] := by
    rw [← hv]
    exact ⟨rfl, rfl, hun⟩
  generalize ackFrame (s.updPort p (granted [a, b, c, d])) (s.port p).lseqRx = fr
  have hheld : v.portSend p fHopAck fr = v.updPort p fun q => { q with waiting := q.waiting ++ [(fHopAck, fr)] } :=
    if_neg (by rw [hport]; simp [tookAnswer, granted, hwait])
  have hqueue : (v.portSend p fHopAck fr).port p =
      { tookAnswer fHopCredit (s.port p).lseqRx 1 (granted [a, b, c, d] (s.port p)) with waiting := [(ty, f), (fHopAck, fr)] } := by
    rw [hheld, State.port_updPort_same, hport]
    simp [tookAnswer, granted, hwait]
  have hun' : (v.portSend p fHopAck fr).lnk.unacked = [] := by rw [hheld]; exact hkept.2.2
  have hsame : (v.portSend p fHopAck fr).cmds = s.cmds ∧ (v.portSend p fHopAck fr).hbm = s.hbm := by
    rw [hheld]
    exact ⟨hkept.1, hkept.2.1⟩
  have hrest (q : Nat) (hq : q ≠ p) : (v.portSend p fHopAck fr).port q = s.port q := by
    rw [hheld, State.port_updPort_ne _ _ hq, hother q hq]
  generalize v.portSend p fHopAck fr = r at hqueue hun' hsame hrest
  rw [giveCredit_none _ p (by rw [hqueue]; simp [tookAnswer, granted, howing])]
  have hput : r.canPut p ty f = true := by
    simp only [State.canPut, State.hasCredit, hqueue, hlane, tookAnswer, granted_credits ha hcr]
    simp [granted, hroom, hunits]
  refine ⟨r.updPort p fun q => { q with waiting := [(fHopAck, fr)] }, by rw [State.port_updPort_same, hqueue], fun q hq => ?_, hun', hsame.1, hsame.2, ?_⟩
  · rw [State.port_updPort_ne _ _ hq, hrest q hq]
  · have hflushed := flushPort_waits (by rw [hqueue]) hput rfl
    have hnone : (r.flushPort p).lnk.unacked = [] := by
      obtain ⟨ps, o, ht⟩ := hflushed.links
      rw [ht, putOnPort_oneHop _ hone]
      exact hun'
    unfold State.flush
    dsimp only
    rw [hnone]
    exact hflushed

end

/-- A good answer takes its frame out of the replay buffer (R346). -/
theorem hopAck_takes : ∀ (s : State) (p lseq : Nat), s.linksLive = true → ((s.port p).state = 2 ∨ (s.port p).state = 3) →
    (∃ k ∈ (s.port p).replayBuf, k.fr.lseq = lseq) →
    ∃ t, exec (.hopAck p false lseq) s = .next t ∧
    (s.port p).replayBuf.filter (fun k => k.fr.lseq != lseq && !(k.ty == 0x05 && decide (k.fr.lseq < lseq))) <+: (t.port p).replayBuf ∧
    ((s.port p).waiting = [] → (s.port p).owing = false → s.lnk.unacked = [] →
      (t.port p).replayBuf = (s.port p).replayBuf.filter (fun k => k.fr.lseq != lseq && !(k.ty == 0x05 && decide (k.fr.lseq < lseq))) ∧
      (∀ q, q ≠ p → t.port q = s.port q) ∧ t.lnk.unacked = []) ∧
    (t.port p).lseqRx = (s.port p).lseqRx + 1 ∧ (t.port p).state = (s.port p).state ∧ t.lnk.up = s.lnk.up ∧ t.cmds = s.cmds ∧ t.hbm = s.hbm := by
  intro s p lseq hlive hstate hk
  have hexec := exec_hopAck hlive p false lseq
  rw [hopAck_eq ⟨hstate, hk⟩, if_pos rfl] at hexec
  generalize hv : (taken s p fHopAck (s.port p).lseqRx 1).updPort p (fun q => q.answered lseq) = v at hexec
  have hport : v.port p = (tookAnswer fHopAck (s.port p).lseqRx 1 (s.port p)).answered lseq := by
    rw [← hv, State.port_updPort_same, taken_port]
  have hother (q : Nat) (hq : q ≠ p) : v.port q = s.port q := by
    rw [← hv, State.port_updPort_ne _ _ hq, taken_port_ne _ _ _ _ _ hq]
  obtain ⟨⟨ps, pe, un, ro, ur, rx, o, ht⟩, hports⟩ := flush_linkSends v p
  obtain ⟨_, l, _, _, _, _, hown⟩ := hports p
  have hunv : v.lnk.unacked = s.lnk.unacked := by rw [← hv]; rfl
  refine ⟨_, hexec, ?_, fun hwait howing hun => ?_, ?_, ?_, ?_, ?_, ?_⟩
  · exact ⟨l, (congrArg Port.replayBuf hown :).trans (by rw [hport]; rfl) |>.symm⟩
  · have hidle := flush_idle v p (by rw [hport]; exact hwait) (by rw [hport]; simp [tookAnswer, Port.answered, howing]) (hunv.trans hun)
    rw [hidle]
    exact ⟨(congrArg Port.replayBuf hport :), hother, hunv.trans hun⟩
  · exact (congrArg Port.lseqRx hown :).trans (congrArg Port.lseqRx hport :)
  · exact (congrArg Port.state hown :).trans (congrArg Port.state hport :)
  · exact (congrArg (·.lnk.up) ht :).trans (by rw [← hv]; rfl)
  · exact (congrArg State.cmds ht :).trans (by rw [← hv]; rfl)
  · exact (congrArg State.hbm ht :).trans (by rw [← hv]; rfl)

/-- A NACK sends its frame again, and all after it (R346). -/
theorem hopAck_replays : ∀ (s : State) (p lseq : Nat), s.linksLive = true → ((s.port p).state = 2 ∨ (s.port p).state = 3) →
    (∃ k ∈ (s.port p).replayBuf, k.fr.lseq = lseq) → (s.port p).spent lseq = false →
    ∃ t, exec (.hopAck p true lseq) s = .next t ∧ (t.port p).replay = sat32 (s.port p).replay 1 ∧ (t.port p).state = (s.port p).state ∧
    (∀ k ∈ (s.port p).replayBuf.dropWhile (fun k => k.fr.lseq != lseq), Out.frame (some p) k.ty k.fr ∈ t.out) ∧
    (t.port p).replayBuf.map (fun k => (k.ty, k.fr)) = (s.port p).replayBuf.map (fun k => (k.ty, k.fr)) ∧
    (∀ q, q ≠ p → t.port q = s.port q) ∧ t.lnk.up = s.lnk.up ∧ t.lnk.unacked = s.lnk.unacked ∧ t.cmds = s.cmds ∧ t.hbm = s.hbm := by
  intro s p lseq hlive hstate hk hspent
  have hexec := exec_hopAck hlive p true lseq
  rw [hopAck_eq ⟨hstate, hk⟩, if_neg (by decide), if_neg (by rw [hspent]; decide)] at hexec
  have htaken := taken_port s p fHopAck (s.port p).lseqRx 1
  have hport : ((taken s p fHopAck (s.port p).lseqRx 1).replay p lseq).port p = _ := Tab.get_set_same ..
  refine ⟨_, hexec, (congrArg Port.replay hport :).trans ?_, (congrArg Port.state hport :).trans ?_, fun k hk => settle_sent ?_, ?_, fun q hq => ?_, by simp, by simp, by simp, by simp⟩
  · rw [htaken]; rfl
  · rw [htaken]; rfl
  · exact replay_sends _ p lseq (by rw [htaken]; exact hk)
  · refine (replay_holds _ p lseq).trans ?_
    rw [htaken]; rfl
  · exact (Tab.get_set_ne _ _ _ hq).trans (taken_port_ne s p _ _ _ hq)

/-- The eighth failed replay of a frame fails the port (R354). -/
theorem hopAck_fails : ∀ (s : State) (p lseq : Nat), s.linksLive = true → p < 32 → ((s.port p).state = 2 ∨ (s.port p).state = 3) →
    (∃ k ∈ (s.port p).replayBuf, k.fr.lseq = lseq ∧ k.again = true ∧ 7 ≤ k.failed) →
    ∃ t, exec (.hopAck p true lseq) s = .next t ∧ (t.port p).state = 5 ∧ (t.port p).cause = 2 ∧ t.lnk.up.getLsbD p = false ∧
    t.lnk.failover = sat32 s.lnk.failover 1 ∧ t.cmds = s.cmds ∧ t.hbm = s.hbm := by
  intro s p lseq hlive hp hstate hk
  obtain ⟨k, hmem, hlseq, hagain, hfailed⟩ := hk
  have hspent : (s.port p).spent lseq = true := List.any_eq_true.mpr ⟨k, hmem, by simp [hlseq, hagain, hfailed]⟩
  have hexec := exec_hopAck hlive p true lseq
  rw [hopAck_eq ⟨hstate, k, hmem, hlseq⟩, if_neg (by decide), if_pos hspent] at hexec
  obtain ⟨h1, h2, h3, -, h4, h5, h6, -⟩ := failPort_fails (taken s p fHopAck (s.port p).lseqRx 1) p 2 hp
  exact ⟨_, hexec, h1, h2, h3, h4, h5, h6⟩

/-- An answer that names no frame of the replay buffer changes nothing. -/
theorem hopAck_unknown : ∀ (s : State) (p lseq : Nat) (nack : Bool), s.linksLive = true → (∀ k ∈ (s.port p).replayBuf, k.fr.lseq ≠ lseq) →
    exec (.hopAck p nack lseq) s = .next s.settle := by
  intro s p lseq nack hlive hnone
  have hgate : s.hopAck p nack lseq = s := if_pos (by
    rw [show (s.port p).replayBuf.any (fun k => k.fr.lseq == lseq) = false from List.any_eq_false.mpr fun k hk => by simpa using hnone k hk]
    simp)
  rw [exec_hopAck hlive, hgate]

/-- HOP_CREDIT adds its grants, and is answered (R346). -/
theorem hopCredit_grants : ∀ (s : State) (p a b c d w x y z : Nat), s.linksLive = true → ((s.port p).state = 2 ∨ (s.port p).state = 3) → s.lnk.unacked = [] →
    (s.port p).waiting = [] → (s.port p).owing = false → (s.port p).replayBuf.length < 256 →
    a < 65536 → b < 65536 → c < 65536 → d < 65536 → (s.port p).credits = [w, x, y, z] → 1 ≤ w + a →
    ∃ t fr, exec (.hopCredit p a b c d) s = .next t ∧ (t.port p).credits = [w + a - 1, x + b, y + c, z + d] ∧
    Out.frame (some p) 0x05 fr ∈ t.out ∧ fr.tag = 0 ∧ fr.key = BitVec.ofNat 64 (s.port p).lseqRx ∧
    (t.port p).state = (s.port p).state ∧ (∀ q, q ≠ p → t.port q = s.port q) ∧ t.lnk.up = s.lnk.up ∧ t.lnk.unacked = [] ∧
    t.cmds = s.cmds ∧ t.hbm = s.hbm := by
  intro s p a b c d w x y z hlive hstate hun hwait howing hroom ha hb hc hd hcr hone
  have hexec := exec_hopCredit (a := a) (b := b) (c := c) (d := d) hlive hstate
  rw [hopCredit_answers hwait howing hun hroom ha hcr hone] at hexec
  have hport := credited_port (s := s) (p := p) (a := a) (b := b) (c := c) (d := d)
  have hother (q : Nat) (hq : q ≠ p) := credited_port_ne (s := s) (p := p) (a := a) (b := b) (c := c) (d := d) hq
  generalize hv : taken (s.updPort p (granted [a, b, c, d])) p fHopCredit (s.port p).lseqRx 1 = v at hexec hport hother
  have hkept : v.cmds = s.cmds ∧ v.hbm = s.hbm ∧ v.lnk.up = s.lnk.up ∧ v.lnk.unacked = s.lnk.unacked := by
    rw [← hv]
    exact ⟨rfl, rfl, rfl, rfl⟩
  obtain ⟨hcmds, hhbm, hup, hunv⟩ := hkept
  generalize hfr : ackFrame (s.updPort p (granted [a, b, c, d])) (s.port p).lseqRx = fr at hexec
  have hunits : frameUnits fr = 1 := hfr ▸ ackFrame_units ..
  have hafter : Tab.get {} (Tab.set v.lnk.ports p (portAfter v p fHopAck fr)) p = portAfter v p fHopAck fr := Tab.get_set_same ..
  refine ⟨_, sentFrame v p fr, hexec, (congrArg Port.credits hafter).trans ?_, settle_sent (List.mem_append_right _ (List.mem_singleton.mpr rfl)),
    ?_, ?_, (congrArg Port.state hafter).trans (congrArg Port.state hport :), fun q hq => (Tab.get_set_ne _ _ _ hq).trans (hother q hq), hup,
    hunv.trans hun, hcmds, hhbm⟩
  · rw [portAfter_credits, hunits, hport, tookAnswer, granted_credits ha hcr, Nat.mod_eq_of_lt hb, Nat.mod_eq_of_lt hc, Nat.mod_eq_of_lt hd]
    rfl
  · rw [← hfr]
    rfl
  · rw [← hfr]
    rfl

/-- HOP_CREDIT frees the frame that waits for it (R346). -/
theorem hopCredit_sends : ∀ (s : State) (p a b c d w x y z ty : Nat) (f : Frame), s.linksLive = true → ((s.port p).state = 2 ∨ (s.port p).state = 3) →
    s.lnk.unacked = [] → (s.port p).waiting = [(ty, f)] → (s.port p).owing = false → (s.port p).replayBuf.length < 256 →
    a < 65536 → (s.port p).credits = [w, x, y, z] → laneOf ty = 0 → oneHop ty = true → frameUnits f ≤ w + a →
    ∃ t g, exec (.hopCredit p a b c d) s = .next t ∧ Out.frame (some p) ty g ∈ t.out ∧ g.payload = f.payload ∧ g.key = f.key ∧
    g.lseq = (s.port p).lseqTx % 2 ^ 32 ∧ (∀ q, q ≠ p → t.port q = s.port q) ∧ t.cmds = s.cmds ∧ t.hbm = s.hbm := by
  intro s p a b c d w x y z ty f hlive hstate hun hwait howing hroom ha hcr hlane hone hunits
  obtain ⟨u, hport, hother, hunu, hcmds, hhbm, hgone⟩ := hopCredit_frees (b := b) (c := c) (d := d) hun hwait howing hroom ha hcr hlane hone hunits
  have hexec := exec_hopCredit (a := a) (b := b) (c := c) (d := d) hlive hstate
  generalize ((s.updPort p (granted [a, b, c, d])).hopTake p fHopCredit (s.port p).lseqRx 1).flush p = t at hexec hgone
  rw [putOnPort_oneHop u hone] at hgone
  obtain ⟨ps, o, ht⟩ := hgone.links
  have hsent : Out.frame (some p) ty (sentFrame u p f) ∈ t.out := hgone.sent (List.mem_append_right _ (List.mem_singleton.mpr rfl))
  have hlseq : (u.port p).lseqTx = (s.port p).lseqTx := (congrArg Port.lseqTx hport :)
  have hrest (q : Nat) (hq : q ≠ p) : t.port q = s.port q := (hgone.other q hq).trans ((Tab.get_set_ne _ _ _ hq).trans (hother q hq))
  exact ⟨_, sentFrame u p f, hexec, settle_sent hsent, rfl, rfl, congrArg (· % 2 ^ 32) hlseq, hrest, (congrArg State.cmds ht :).trans hcmds,
    (congrArg State.hbm ht :).trans hhbm⟩

/-- A frame that fails its CRC is counted, and answered with a NACK (R346). -/
theorem crcError_answered : ∀ (s : State) (p lseq : Nat), s.linksLive = true → ((s.port p).state = 2 ∨ (s.port p).state = 3) →
    ∃ t fr, exec (.frameCrcError p lseq) s = .next t ∧ (t.port p).crcErr = sat32 (s.port p).crcErr 1 ∧
    (Out.frame (some p) 0x05 fr ∈ t.out ∨ (0x05, fr) ∈ (t.port p).waiting) ∧ fr.tag = 1 ∧ fr.key = BitVec.ofNat 64 lseq ∧
    (t.port p).state = (s.port p).state ∧ (∀ q, q ≠ p → t.port q = s.port q) ∧ t.lnk.unacked = s.lnk.unacked ∧ t.cmds = s.cmds ∧
    t.hbm = s.hbm := by
  intro s p lseq hlive hstate
  have hgate : s.crcError p lseq = (s.updPort p (fun q => { q with crcErr := sat32 q.crcErr 1 })).portSend p fHopAck
      (s.stamp { dst := 0xFFFFFF, tag := 1, key := BitVec.ofNat 64 lseq }) := if_neg (by rcases hstate with h | h <;> simp [h])
  have hexec : exec (.frameCrcError p lseq) s = .next (s.crcError p lseq).settle := congrArg Host.Outcome.next (if_pos hlive)
  rw [hgate] at hexec
  have hport : (s.updPort p fun q => { q with crcErr := sat32 q.crcErr 1 }).port p = _ := State.port_updPort_same ..
  have hother (q : Nat) (hq : q ≠ p) : (s.updPort p fun q => { q with crcErr := sat32 q.crcErr 1 }).port q = s.port q := State.port_updPort_ne _ _ hq
  obtain ⟨fr, htag, hkey, -, hgoes⟩ := portSend_out_or_waits (s.updPort p fun q => { q with crcErr := sat32 q.crcErr 1 }) p (ty := fHopAck) rfl
    (s.stamp { dst := 0xFFFFFF, tag := 1, key := BitVec.ofNat 64 lseq })
  obtain ⟨⟨ps, o, ht⟩, hrest, _, _, _, _, _, _, hown⟩ := portSend_hopSends (s.updPort p fun q => { q with crcErr := sat32 q.crcErr 1 }) p
    (ty := fHopAck) rfl (s.stamp { dst := 0xFFFFFF, tag := 1, key := BitVec.ofNat 64 lseq })
  exact ⟨_, fr, hexec, (congrArg Port.crcErr hown :).trans (congrArg Port.crcErr hport :), hgoes.imp_left settle_sent, htag, hkey,
    (congrArg Port.state hown :).trans (congrArg Port.state hport :), fun q hq => (hrest q hq).trans (hother q hq),
    (congrArg (·.lnk.unacked) ht :), (congrArg State.cmds ht :), (congrArg State.hbm ht :)⟩

/-- A frame of a reserved type is dropped, counted and answered (R345). -/
theorem reservedFrame_answered : ∀ (s : State) (p ty : Nat), s.linksLive = true → (s.port p).state = 3 → ty ∉ frameTypes →
    ∃ t fr, exec (.reservedFrame p ty) s = .next t ∧ t.lnk.badType = sat32 s.lnk.badType 1 ∧
    (Out.frame (some p) 0x05 fr ∈ t.out ∨ (0x05, fr) ∈ (t.port p).waiting) ∧ fr.tag = 0 ∧
    fr.key = BitVec.ofNat 64 (s.port p).lseqRx ∧ (t.port p).state = 3 ∧ t.lnk.up = s.lnk.up ∧ t.lnk.unacked = s.lnk.unacked ∧
    (∀ q, q ≠ p → t.port q = s.port q) ∧ t.cmds = s.cmds ∧ t.ctxs = s.ctxs ∧ t.parts = s.parts ∧ t.hbm = s.hbm := by
  intro s p ty hlive hstate hty
  have hgate : s.badType p ty = ({ s with lnk := { s.lnk with badType := sat32 s.lnk.badType 1 } } : State).hopTake p ty (s.port p).lseqRx 1 :=
    if_pos (by simp [hstate, hty])
  have hexec : exec (.reservedFrame p ty) s = .next (s.badType p ty).settle := congrArg Host.Outcome.next (if_pos hlive)
  rw [hgate] at hexec
  obtain ⟨fr, htag, hkey, hgoes⟩ := hopTake_answer ({ s with lnk := { s.lnk with badType := sat32 s.lnk.badType 1 } } : State) p
    (ty := ty) (by rintro rfl; exact hty (by decide)) (s.port p).lseqRx 1
  obtain ⟨⟨ps, o, ht⟩, hrest, _, _, _, _, _, _, hown⟩ := hopTake_eq ({ s with lnk := { s.lnk with badType := sat32 s.lnk.badType 1 } } : State) p ty
    (s.port p).lseqRx 1
  rw [State.port_updPort_same] at hown
  exact ⟨_, fr, hexec, (congrArg (·.lnk.badType) ht :), hgoes.imp_left settle_sent, htag, hkey, (congrArg Port.state hown :).trans hstate,
    (congrArg (·.lnk.up) ht :), (congrArg (·.lnk.unacked) ht :), fun q hq => (hrest q hq).trans (State.port_updPort_ne _ _ hq),
    (congrArg State.cmds ht :), (congrArg State.ctxs ht :), (congrArg State.parts ht :), (congrArg State.hbm ht :)⟩

/-- Settles O37, clause by clause. -/
theorem hopAnswers : Obligations.HopAnswers :=
  ⟨hopAck_takes, hopAck_replays, hopAck_fails, hopAck_unknown, hopCredit_grants, hopCredit_sends, crcError_answered, reservedFrame_answered⟩

end Sys2Proof.Proofs
end

section
/-! SUPPORT. O38: end-to-end answers, and frames sent again (R347, R352, R353, R359). -/
namespace Sys2Proof.Proofs
open Sys2Proof Sys2Proof.Machine

/-! ### A frame that is heard -/

/-- What a row does with a frame that passes the checks of its reception. -/
theorem hears_withFrame {s u : State} {ty : Nat} {fr : Frame} (h : s.Hears ty fr u) (f : State → State) : s.withFrame ty fr f = f u := by
  obtain ⟨-, hopen, hrec⟩ := h
  unfold State.withFrame
  rw [if_pos hopen, hrec]

/-- A row whose meaning is a frame's. -/
theorem hears_exec {s u : State} {ty : Nat} {fr : Frame} {g : State → State} (h : s.Hears ty fr u) {f : State → State}
    (hf : g s = s.withFrame ty fr f) : s.onLinks g = .next (f u).settle := by
  unfold State.onLinks
  rw [if_pos h.1, hf, hears_withFrame h]

/-! ### Frames sent again -/

section
variable (s : State)

/-- A frame that a port sends is out; the frames kept, the counts of those sent again, the commands and HBM stand. -/
theorem putOnPort_sends (p ty : Nat) (fr : Frame) : Out.frame (some p) ty (sentFrame s p fr) ∈ (s.putOnPort p ty fr).out ∧
    (s.putOnPort p ty fr).lnk.unacked = s.lnk.unacked ∧ (s.putOnPort p ty fr).lnk.retx = s.lnk.retx ∧
    (s.putOnPort p ty fr).cmds = s.cmds ∧ (s.putOnPort p ty fr).hbm = s.hbm := by
  unfold State.putOnPort
  dsimp only
  split <;> exact ⟨List.mem_append_right _ (List.mem_singleton.mpr rfl), rfl, rfl, rfl, rfl⟩

theorem exec_e2eResend {s : State} (hlive : s.linksLive = true) (ix : Nat) : exec (.e2eResend ix) s = .next (s.resendAt ix).settle :=
  congrArg Host.Outcome.next (if_pos hlive)

variable {s} {ix p : Nat} {k : Unacked}

/-- A kept frame of VL1 to VL3 that can go leaves on its next plane, and is kept with it; it counts as sent again unless it has waited. -/
theorem resendAt_goes (hk : s.lnk.unacked[ix]? = some k) (hplane : k.plane ≠ 33) (hfence : s.fenced = false) (hlane : laneOf k.ty ≠ 0)
    (hnext : s.nextPlane k = some p) (hput : s.canPut p k.ty k.fr = true) : ∃ fr : Frame,
    Out.frame (some p) k.ty fr ∈ (s.resendAt ix).out ∧ fr.payload = k.fr.payload ∧ fr.dst = k.fr.dst ∧
    (s.resendAt ix).lnk.unacked = setAt s.lnk.unacked ix { k with plane := p, primary := some (k.primary.getD p) } ∧
    (s.resendAt ix).lnk.retx = (if k.plane = 32 then s.lnk.retx else sat32 s.lnk.retx 1) ∧
    (s.resendAt ix).cmds = s.cmds ∧ (s.resendAt ix).hbm = s.hbm := by
  unfold State.resendAt
  rw [hk]
  dsimp only
  rw [if_neg (show ¬ (s.fenced && decide (6 < k.ty)) = true by simp [hfence]), if_neg hplane, hnext]
  dsimp only
  rw [if_pos hput, if_neg hlane]
  generalize hturn : (if k.plane = 32 then (if k.primary.isSome = true then s else s.rotate k.ty k.fr.dst)
      else { s with lnk := { s.lnk with retx := sat32 s.lnk.retx 1 } } : State) = t
  have hkept : t.lnk.unacked = s.lnk.unacked ∧ t.lnk.retx = (if k.plane = 32 then s.lnk.retx else sat32 s.lnk.retx 1) ∧
      t.cmds = s.cmds ∧ t.hbm = s.hbm := by
    rw [← hturn]
    split
    · split
      · exact ⟨rfl, rfl, rfl, rfl⟩
      · unfold State.rotate
        rw [if_neg hlane]
        exact ⟨rfl, rfl, rfl, rfl⟩
    · exact ⟨rfl, rfl, rfl, rfl⟩
  obtain ⟨hun, hretx, hcmds, hhbm⟩ := hkept
  obtain ⟨hout, hun', hretx', hcmds', hhbm'⟩ := putOnPort_sends t p k.ty k.fr
  exact ⟨_, hout, rfl, rfl, by rw [hun', hun], hretx'.trans hretx, hcmds'.trans hcmds, hhbm'.trans hhbm⟩

end

/-- A refused frame of a PERMUTE ends the command that sent it (R369). -/
theorem notReady_refuses {u : State} {fr : Frame} {k : Unacked} (hun : u.lnk.unacked = [k]) (hdst : k.fr.dst = fr.src)
    (htag : k.fr.tag = fr.tag) (hkey : k.fr.key = fr.key) (hoff : k.fr.off = fr.off &&& ~~~(1#64 <<< 63)) :
    u.lnk.unacked.find? (fun v => v.fr.dst == fr.src && v.fr.tag == fr.tag && v.fr.key == fr.key && v.fr.off == fr.off &&& ~~~(1#64 <<< 63)) = some k := by
  rw [hun]
  simp [hdst, htag, hkey, hoff]

/-- Settles O38: the answers by the checks of reception, the resends by `State.resendAt`. -/
theorem acksAndResends : Obligations.AcksAndResends := by
  unfold Obligations.AcksAndResends
  refine ⟨fun s u fr hears ⟨k, hk, hcov⟩ => ?_, fun s u fr hears hnone => ?_, fun s u fr k hears hk hdst htag hkey => ?_,
    fun s u fr refused hears hnone => ?_, fun s u fr k x hears hun hdst htag hkey hoff hcmds hid hlive => ?_,
    fun s ix k hlive hk hplane hfence => ?_, fun s ix p k hlive hk hplane hfence hlane hnext hput => ?_,
    fun s ix p k hlive hk hplane hprim hfence hlane hmem hput => ?_, fun s ix k hlive hk hplane hfence hnext => ?_,
    fun s ix k hlive hk hstays => ?_, fun s ix hlive hlen => ?_⟩
  · refine (hears_exec hears rfl).trans ?_
    dsimp only
    rw [if_neg (by simpa using ⟨k, hk, hcov⟩)]
  · refine (hears_exec hears rfl).trans ?_
    dsimp only
    rw [if_pos (by simpa using hnone)]
    rfl
  · refine (hears_exec hears rfl).trans ?_
    dsimp only
    rw [if_neg Bool.false_ne_true, if_pos (List.any_eq_true.mpr ⟨k, hk, by simp [hdst, htag, hkey]⟩)]
  · refine (hears_exec hears rfl).trans ?_
    dsimp only
    have hany : u.lnk.unacked.any (fun v => v.fr.dst == fr.src && v.fr.tag == fr.tag && v.fr.key == fr.key) = false :=
      List.any_eq_false.mpr fun v hv => by simpa [and_assoc] using hnone v hv
    cases refused with
    | false =>
      rw [if_neg Bool.false_ne_true, if_neg (by rw [hany]; decide)]
      rfl
    | true =>
      have hfind : u.lnk.unacked.find? (fun v => v.fr.dst == fr.src && v.fr.tag == fr.tag && v.fr.key == fr.key &&
          v.fr.off == fr.off &&& ~~~(1#64 <<< 63)) = none :=
        List.find?_eq_none.mpr fun v hv h => hnone v hv (by simpa [and_assoc] using (Bool.and_eq_true_iff.mp h).1)
      rw [if_pos rfl, hfind]
      rfl
  · have hexec : exec (.e2eNotready true fr) s = .next ((u.updCmd k.cmd (fun y =>
        if y.live then { y with phase := .done, fail := some (0x05, 1, bits k.fr.key.toNat 24 8) } else y)).forgetFrames k.cmd).settle := by
      refine (hears_exec hears rfl).trans ?_
      dsimp only
      rw [if_pos rfl, notReady_refuses hun hdst htag hkey hoff]
      rfl
    refine ⟨_, hexec, ?_, rfl, ?_⟩
    · show u.lnk.unacked.filter (fun v => v.cmd != k.cmd) = []
      simp [hun]
    · have hupd (f : Cmd → Cmd) : (u.updCmd k.cmd f).cmds = [f x] := by simp [State.updCmd, hcmds, hid]
      exact (hupd _).trans (by simp [hlive, bits])
  · rw [exec_e2eResend hlive]
    unfold State.resendAt
    rw [hk]
    dsimp only
    rw [if_neg (by simp [hfence]), if_pos hplane]
  · obtain ⟨fr, hout, hpay, hdst, hun, hretx, hcmds, hhbm⟩ := resendAt_goes (p := p) hk (by omega) hfence hlane (by rw [State.nextPlane, if_neg (by omega), hnext]) hput
    refine ⟨_, fr, exec_e2eResend hlive ix, hretx.trans (if_neg (by omega)), ?_, fun j hj => ?_, settle_sent hout, hpay, hdst, hcmds, hhbm⟩
    · exact (congrArg (·[ix]?) hun).trans (setAt_same _ _ _ (List.getElem?_eq_some_iff.mp hk).1)
    · exact (congrArg (·[j]?) hun).trans (setAt_ne _ _ hj)
  · have hnext : s.nextPlane k = some p := by
      rw [State.nextPlane, if_pos hplane, hprim]
      exact if_pos (List.contains_iff_mem.mpr hmem)
    obtain ⟨fr, hout, hpay, hdst, hun, hretx, hcmds, hhbm⟩ := resendAt_goes (p := p) hk (by omega) hfence hlane hnext hput
    rw [hprim] at hun
    refine ⟨_, fr, exec_e2eResend hlive ix, hretx.trans (if_pos hplane), ?_, fun j hj => ?_, settle_sent hout, hpay, hdst, hcmds, hhbm⟩
    · refine (congrArg (·[ix]?) hun).trans ((setAt_same _ _ _ (List.getElem?_eq_some_iff.mp hk).1).trans ?_)
      simp [hprim]
    · exact (congrArg (·[j]?) hun).trans (setAt_ne _ _ hj)
  · rw [exec_e2eResend hlive]
    unfold State.resendAt
    rw [hk]
    dsimp only
    rw [if_neg (by simp [hfence]), if_neg hplane, hnext]
  · rw [exec_e2eResend hlive]
    unfold State.resendAt
    rw [hk]
    dsimp only
    rcases hstays with ⟨hfence, hty⟩ | ⟨hplane, p, hnext, hput⟩
    · rw [if_pos (by simp [hfence, hty])]
    · rw [hnext]
      dsimp only
      rw [if_neg hplane, if_neg (show ¬ s.canPut p k.ty k.fr = true by rw [hput]; decide), ite_self]
  · rw [exec_e2eResend hlive]
    unfold State.resendAt
    rw [List.getElem?_eq_none hlen]

end Sys2Proof.Proofs
end

section
/-! SUPPORT. O39: the frames of collectives and of PERMUTE (R359, R362, R369, R374). -/
namespace Sys2Proof.Proofs
open Sys2Proof Sys2Proof.Machine

/-! ### Data of a collective -/

section
variable {s u : State} {fr : Frame} {x : Cmd} {pos : Nat}

/-- The phase and the leg that a data frame of a collective is for, as a leg's number (R345). -/
def legOf (fr : Frame) : Nat := bits fr.key.toNat 14 2 * 16384 + bits fr.key.toNat 0 14

theorem legOf_eq (fr : Frame) : legOf fr = fr.key.toNat / 2 ^ 14 % 4 * 16384 + fr.key.toNat % 2 ^ 14 := by
  simp [legOf, bits]

theorem legOf_lt (fr : Frame) : legOf fr < 32768 ↔ fr.key.toNat / 2 ^ 14 % 4 < 2 := by
  rw [legOf_eq]
  omega

/-- Whether a frame's piece has come before. -/
def sameData (fr : Frame) (pos : Nat) (x : Cmd) : Bool := x.coll.got.any fun q => q.1 == legOf fr && q.2.1 == pos && q.2.2.1 == fr.off.toNat

/-- What a new piece does to its command (R362). -/
def takeData (x : Cmd) (fr : Frame) (pos : Nat) (y : Cmd) : Cmd :=
  let g := geoOf x.op
  let y := { y with coll := { y.coll with got := y.coll.got ++ [(legOf fr, pos, fr.off.toNat, fr.payload.length)] } }
  if g.kind = 4 then { y with coll := { y.coll with values := Tab.set y.coll.values pos (leNat fr.payload) } }
  else if g.kind = 1 ∧ legOf fr < 32768 then
    let mine (q : Nat × Nat × Nat × Byte) : Bool := q.1 == legOf fr && q.2.1 == pos
    let r := combineInto g.fmt g.isMax y.coll.buf ((y.coll.part.filter mine).map (·.2.2)) fr.off.toNat fr.payload
    let rest := y.coll.part.filter (fun q => !mine q)
    ({ y with coll := { y.coll with buf := r.1, part := rest ++ r.2.2.map (fun q => (legOf fr, pos, q)) } } : Cmd).tally x.h.cls g.fmt r.2.1
  else { y with coll := { y.coll with buf := y.coll.buf.writeN fr.off.toNat fr.payload } }

/-- A piece that has come before is counted and acknowledged; one that is new goes to its command (R347, R362). -/
theorem collTake_eq : u.collTake x pos fr =
    if sameData fr pos x then u.countDup.ack fr else ((u.updCmd x.id (takeData x fr pos)).ack fr).settleColl x.id := rfl

/-- COLL_DATA for a command that has started. -/
theorem exec_collData_started (h : s.Hears 0x10 fr u) (hmatch : u.collMatch fr = some x) (hstarted : x.coll.started = true)
    (hpos : x.coll.grp.posOf fr = some pos) : exec (.collData fr) s = .next (u.collTake x pos fr).settle := by
  refine (hears_exec h rfl).trans ?_
  rw [hmatch]
  dsimp only
  rw [if_pos hstarted, hpos]
  rfl

/-- A partial sum of NORMREDUCE is its member's value. -/
theorem takeData_value (hkind : (geoOf x.op).kind = 4) : takeData x fr pos = fun y => { y with coll := { y.coll with
    got := y.coll.got ++ [(legOf fr, pos, fr.off.toNat, fr.payload.length)], values := Tab.set y.coll.values pos (leNat fr.payload) } } := by
  funext y
  exact if_pos hkind

/-- Data that is only moved is written at its offset. -/
theorem takeData_written (hkind : (geoOf x.op).kind ≠ 4) (hmoved : ¬ ((geoOf x.op).kind = 1 ∧ legOf fr < 32768)) :
    takeData x fr pos = fun y => { y with coll := { y.coll with
      got := y.coll.got ++ [(legOf fr, pos, fr.off.toNat, fr.payload.length)], buf := y.coll.buf.writeN fr.off.toNat fr.payload } } := by
  funext y
  exact (if_neg hkind).trans (if_neg hmoved)

theorem filterMap_getElem_range (l : List Byte) : (List.range l.length).filterMap (fun k => l[k]?) = l := by
  induction l using List.reverseRecOn with
  | nil => rfl
  | append_singleton l a ih =>
    have hfront : (List.range l.length).filterMap (fun k => (l ++ [a])[k]?) = (List.range l.length).filterMap (fun k => l[k]?) :=
      List.filterMap_congr fun k hk => List.getElem?_append_left (List.mem_range.mp hk)
    rw [List.length_append, List.length_singleton, List.range_succ, List.filterMap_append, hfront, ih]
    simp

/-- The bytes of a contribution that fills its element are the frame's. -/
theorem partByte_whole {l : List Byte} {k : Nat} (o : Nat) (hk : k < l.length) : partByte [] o l (o + k) = l[k]? := by
  simp [partByte, hk]

/-- A contribution of one element is combined at once, and nothing of it is left over (R362). -/
theorem combineInto_element {f : Fmt} {isMax : Bool} {buf : Mem} {o : Nat} {l : List Byte} (hlen : l.length = f.size) (hoff : o % f.size = 0) :
    combineInto f isMax buf [] o l = ((combineElem f isMax buf o l).1, ({} : Tally).add (combineElem f isMax buf o l).2, []) := by
  have hpos : 0 < f.size := by cases f <;> decide
  have hat : o / f.size * f.size = o := Nat.div_mul_cancel (Nat.dvd_of_mod_eq_zero hoff)
  have hone : (o + l.length + f.size - 1) / f.size - o / f.size = 1 := by
    have hlast : (f.size + f.size - 1) / f.size = 1 := Nat.div_eq_of_lt_le (by omega) (by omega)
    rw [← hat, hlen, show o / f.size * f.size + f.size + f.size - 1 = f.size * (o / f.size) + (f.size + f.size - 1) by
      rw [Nat.mul_comm f.size]; omega, Nat.mul_add_div hpos, hlast, Nat.mul_div_cancel _ hpos]
    omega
  have hbytes : (List.range f.size).map (fun k => (o + k, partByte [] o l (o + k))) = (List.range l.length).map (fun k => (o + k, l[k]?)) := by
    rw [← hlen]
    exact List.map_congr_left fun k hk => by rw [partByte_whole o (List.mem_range.mp hk)]
  have hall : ((List.range l.length).map (fun k => (o + k, l[k]?))).all (fun q => q.2.isSome) = true := by
    simp
  have hvalues : ((List.range l.length).map (fun k => (o + k, l[k]?))).filterMap (·.2) = l := by
    rw [List.filterMap_map]
    exact filterMap_getElem_range l
  unfold combineInto
  rw [hone]
  simp only [List.range_one, List.foldl_cons, List.foldl_nil, Nat.add_zero, hat, hbytes, hall, hvalues]
  rfl

/-- A contribution of REDUCE's first phase, of one element (R362). -/
theorem takeData_combined (hkind : (geoOf x.op).kind = 1) (hphase : legOf fr < 32768) (hpart : x.coll.part = [])
    (hlen : fr.payload.length = (geoOf x.op).fmt.size) (hoff : fr.off.toNat % (geoOf x.op).fmt.size = 0) :
    takeData x fr pos x =
      ({ x with coll := { x.coll with
           got := x.coll.got ++ [(legOf fr, pos, fr.off.toNat, fr.payload.length)]
           buf := (combineElem (geoOf x.op).fmt (geoOf x.op).isMax x.coll.buf fr.off.toNat fr.payload).1
           part := [] } } : Cmd).tally x.h.cls
        (geoOf x.op).fmt (({} : Tally).add (combineElem (geoOf x.op).fmt (geoOf x.op).isMax x.coll.buf fr.off.toNat fr.payload).2) := by
  unfold takeData
  dsimp only
  rw [if_neg (by omega), if_pos ⟨hkind, hphase⟩, hpart]
  simp only [List.filter_nil, List.map_nil]
  rw [combineInto_element hlen hoff]
  rfl

end

/-- The commands that a COLL_ABORT ends (R374). -/
def abortHits (fr : Frame) (x : Cmd) : Bool :=
  x.ctx == fr.dstCtx && x.live && (opGroup x.op).isSome && x.coll.grp.jobTag == fr.tag &&
    (opEpoch x.op).toNat == bits fr.key.toNat 32 32 && x.coll.seq % 65536 == bits fr.key.toNat 16 16 && (x.coll.grp.posOf fr).isSome

theorem abortHits_iff (fr : Frame) (x : Cmd) : abortHits fr x = true ↔
    (x.ctx = fr.dstCtx ∧ x.live = true ∧ (opGroup x.op).isSome = true ∧ x.coll.grp.jobTag = fr.tag ∧
      (opEpoch x.op).toNat = fr.key.toNat / 2 ^ 32 % 2 ^ 32 ∧ x.coll.seq % 65536 = fr.key.toNat / 2 ^ 16 % 2 ^ 16 ∧ (x.coll.grp.posOf fr).isSome = true) := by
  simp [abortHits, bits, and_assoc]

/-- COLL_ABORT marks the commands that it hits, and no other. -/
theorem collAbort_marks {s u : State} {fr : Frame} (hears : s.Hears 0x11 fr u) : ∃ t, exec (.collAbort fr) s = .next t ∧
    t.cmds.length = u.cmds.length ∧ ∀ (n : Nat) (x : Cmd), u.cmds[n]? = some x →
      t.cmds[n]? = some (if x.ctx = fr.dstCtx ∧ x.live = true ∧ (opGroup x.op).isSome = true ∧ x.coll.grp.jobTag = fr.tag ∧
        (opEpoch x.op).toNat = fr.key.toNat / 2 ^ 32 % 2 ^ 32 ∧ x.coll.seq % 65536 = fr.key.toNat / 2 ^ 16 % 2 ^ 16 ∧
        (x.coll.grp.posOf fr).isSome = true then { x with peerEpoch := some fr.src } else x) := by
  have hexec : exec (.collAbort fr) s = .next (if u.cmds.any (abortHits fr) then
      { u with cmds := u.cmds.map (fun (x : Cmd) => if abortHits fr x then { x with peerEpoch := some fr.src } else x) } else u.countStray : State).settle :=
    hears_exec hears rfl
  by_cases hany : u.cmds.any (abortHits fr) = true
  · rw [if_pos hany] at hexec
    refine ⟨_, hexec, List.length_map .., fun n x hx => ?_⟩
    simp only [State.settle_cmds, List.getElem?_map, hx, Option.map_some, abortHits_iff]
  · rw [if_neg hany] at hexec
    refine ⟨_, hexec, rfl, fun n x hx => ?_⟩
    have hmiss : abortHits fr x ≠ true := fun h => hany (List.any_eq_true.mpr ⟨x, List.mem_of_getElem? hx, h⟩)
    rw [if_neg (mt (abortHits_iff fr x).mpr hmiss)]
    exact hx

/-- A frame of PERMUTE that no command matches is not ready, or a stray (R348, R359). -/
theorem permLost_eq (u : State) (fr : Frame) : Host.Outcome.next (u.permLost fr).settle =
    (if u.permExpected fr then .next (u.notReady fr false).settle
      else .next ({ u with lnk := { u.lnk with stray := sat32 u.lnk.stray 1 } } : State).settle : Host.Outcome State Fault Refusal) := by
  unfold State.permLost
  split <;> rfl

/-- Settles O39. -/
theorem collectiveFrames : Obligations.CollectiveFrames := by
  unfold Obligations.CollectiveFrames
  refine ⟨fun s u fr x pos hears hmatch hstarted hpos hkind hlate => ?_, fun s u fr x pos hears hmatch hstarted hpos hkind hnew => ?_,
    fun s u fr x pos hears hmatch hstarted hpos hkind hphase hcmds hpart hlen hoff hnew => ?_, fun s u fr hears hnone => ?_,
    fun s u fr hears => ?_, fun s u fr x p pos hears hmatch => ?_, fun s u fr x p pos hears hmatch => ?_,
    fun s u fr hnone => ⟨fun hears => ?_, fun hears => ?_⟩⟩
  · rw [exec_collData_started hears hmatch hstarted hpos, collTake_eq]
    dsimp only
    rw [← legOf_eq]
    by_cases hseen : sameData fr pos x = true
    · rw [if_pos hseen]
      exact (if_pos hseen :).symm
    · rw [if_neg hseen, takeData_written hkind (by rw [legOf_lt]; omega)]
      exact (if_neg hseen :).symm
  · have hseen : sameData fr pos x = false := List.any_eq_false.mpr fun q hq => by simpa [legOf_eq, and_assoc] using hnew q hq
    rw [exec_collData_started hears hmatch hstarted hpos, collTake_eq, hseen, takeData_value hkind, ← legOf_eq]
    rfl
  · have hseen : sameData fr pos x = false := List.any_eq_false.mpr fun q hq => by simpa [legOf_eq, and_assoc] using hnew q hq
    rw [exec_collData_started hears hmatch hstarted hpos, collTake_eq, hseen, updCmd_alone hcmds,
      takeData_combined hkind ((legOf_lt fr).mpr hphase) hpart hlen hoff]
    dsimp only
    rw [updCmd_alone hcmds, ← legOf_eq]
    rfl
  · refine (hears_exec hears rfl).trans ?_
    cases hmatch : u.collMatch fr with
    | none => cases hexp : u.collExpected fr <;> rfl
    | some x =>
      dsimp only
      rw [if_neg (by rw [hnone x hmatch]; decide)]
      rfl
  · exact collAbort_marks hears
  · refine (hears_exec hears rfl).trans ?_
    rw [hmatch]
    dsimp only
    cases hstarted : x.coll.started with
    | false => rfl
    | true =>
      rw [if_neg (show ¬ true = false by decide)]
      show Host.Outcome.next (State.settle (if u.permOpen x.ctx (fr.key.toNat / 2 ^ 24 % 256) fr.off.toNat fr.payload.length p.bind then
        (if u.permSeen.contains (x.ctx, pos, fr.key.toNat / 2 ^ 24 % 256, fr.off.toNat) then u.countDup
          else u.permPut x.ctx pos (fr.key.toNat / 2 ^ 24 % 256) fr.off.toNat fr.payload).ack fr else u.notReady fr true)) = _
      simp only [List.contains_iff_mem]
      split
      · split <;> rfl
      · rfl
  · refine (hears_exec hears rfl).trans ?_
    rw [hmatch]
    dsimp only
    simp only [List.contains_iff_mem]
    split <;> rfl
  · refine (hears_exec hears rfl).trans ?_
    rw [hnone]
    exact permLost_eq u fr
  · refine (hears_exec hears rfl).trans ?_
    rw [hnone]
    exact permLost_eq u fr

end Sys2Proof.Proofs
end

section
/-! SUPPORT. O40: the frames of channels (R347, R348, R365, R366). -/
namespace Sys2Proof.Proofs
open Sys2Proof Sys2Proof.Machine

/-! ### A table's entries below a key -/

theorem find_below {α : Type} (t : Tab α) (n k : Nat) : Tab.find (t.filter fun q => decide (q.1 < n)) k = if k < n then Tab.find t k else none := by
  induction t with
  | nil => simp [Tab.find]
  | cons q t ih =>
    obtain ⟨j, v⟩ := q
    by_cases hj : j < n
    · rw [List.filter_cons_of_pos (by simpa using hj)]
      by_cases hk : j = k
      · simp [Tab.find, hk, hk ▸ hj]
      · simp [Tab.find, hk, ih]
    · rw [List.filter_cons_of_neg (by simpa using hj), ih]
      by_cases hk : k < n
      · rw [if_pos hk, if_pos hk]
        simp [Tab.find, show ¬ j = k by omega]
      · rw [if_neg hk, if_neg hk]

/-! ### Areas -/

section
variable (c : Chan)

/-- What a resent frame discards of an area: nothing of one that is complete (R366). -/
def discarded (n : Nat) (a : Area) : Area := if a.complete then a else { a with staged := a.staged.filter fun q => decide (q.1 < n) }

theorem discard_areas (n : Nat) : (c.discard n).areas = c.areas.map (discarded n) := rfl

theorem discarded_complete (n : Nat) (a : Area) : (discarded n a).complete = a.complete := by
  unfold discarded
  split <;> rfl

theorem discard_fits (n u : Nat) : (c.discard n).fits u = c.fits u := by
  unfold Chan.fits
  rw [discard_areas, List.any_map]
  refine congrArg c.areas.any (funext fun a => ?_)
  simp only [Function.comp_apply, discarded]
  split <;> rfl

/-- Discarding leaves nothing staged from its unit on, where no complete area has it. -/
theorem find_discarded {n : Nat} {a : Area} (h : a.complete = true → Tab.find a.staged n = none) : Tab.find (discarded n a).staged n = none := by
  unfold discarded
  split
  · next hc => exact h hc
  · exact (find_below ..).trans (if_neg (Nat.lt_irrefl n))

/-- Settling completes the areas whose units are all committed and staged (R353, R366). -/
theorem settle_area (i : Nat) {a : Area} (h : c.areas[i]? = some a) :
    c.settle.areas[i]? = some { a with complete := a.complete || (decide (a.base + a.units ≤ c.told) && a.full) } := by
  unfold Chan.settle
  rw [List.getElem?_map, h, Option.map_some]
  refine congrArg some ?_
  by_cases hc : (decide (a.base + a.units ≤ c.told) && a.full) = true
  · have hc' := hc
    rw [Bool.and_eq_true, decide_eq_true_iff] at hc'
    rw [if_pos (by simpa using hc'), hc, Bool.or_true]
  · have hc' := hc
    rw [Bool.and_eq_true, decide_eq_true_iff] at hc'
    rw [if_neg (by simpa using hc'), Bool.eq_false_of_not_eq_true hc, Bool.or_false]

end

/-- The one unit of a frame of 64 bytes. -/
theorem frameUnitList_one {fr : Frame} (hlen : fr.payload.length = 64) : frameUnitList fr = [(fr.off.toNat, fr.payload)] := by
  unfold frameUnitList
  rw [hlen]
  simp only [Nat.div_self (show 0 < 64 by decide), List.range_one, List.map_cons, List.map_nil, Nat.mul_zero, Nat.add_zero]
  refine congrArg (fun l => [(fr.off.toNat, l)]) (List.ext_getElem ?_ fun i h1 h2 => ?_)
  · simp [sub8, hlen]
  · simp [sub8, h2]

/-- A unit that no area has staged is not held. -/
theorem unstaged {c : Chan} {n : Nat} (hnew : ∀ a ∈ c.areas, Tab.find a.staged n = none) (l : List Byte) :
    c.holds (n, l) = false ∧ c.holdsOther (n, l) = false := by
  have hnone : c.holds (n, l) = false := List.any_eq_false.mpr fun a ha => by rw [hnew a ha]; simp
  refine ⟨hnone, ?_⟩
  unfold Chan.holdsOther
  rw [show (c.areas.any fun a => !a.complete && (Tab.find a.staged n).isSome) = false from
    List.any_eq_false.mpr fun a ha => by rw [hnew a ha]; simp]
  rfl

theorem discarded_open {a : Area} (hopen : a.complete = false) (n : Nat) :
    (∀ u, n ≤ u → Tab.find (discarded n a).staged u = none) ∧ (∀ u, u < n → Tab.find (discarded n a).staged u = Tab.find a.staged u) := by
  unfold discarded
  rw [if_neg (by rw [hopen]; decide)]
  exact ⟨fun u hu => (find_below ..).trans (if_neg (by omega)), fun u hu => (find_below ..).trans (if_pos hu)⟩

/-- A unit that has been put lies in every open area that has its place. -/
theorem put_open {c : Chan} {n : Nat} {l : List Byte} {a : Area} (hopen : a.complete = false) (hlo : a.base ≤ n) (hhi : n < a.base + a.units)
    (ha : a ∈ (c.put (n, l)).areas) : Tab.find a.staged n = some l := by
  obtain ⟨e, -, he⟩ := List.mem_map.mp ha
  by_cases hin : (!e.complete && decide (e.base ≤ n) && decide (n < e.base + e.units)) = true
  · rw [if_pos hin] at he
    rw [← he]
    exact Tab.find_set_same ..
  · rw [if_neg hin] at he
    subst he
    simp [hopen, hlo, hhi] at hin

/-- Settles O40, clause by clause. -/
theorem channelFrames : Obligations.ChannelFrames := by
  unfold Obligations.ChannelFrames
  refine ⟨fun s u fr b k hears hrecv hepoch hlen hfits hnew => ?_, fun c n i a ha hopen => ?_, fun c n l a ha hopen hlo hhi => ?_,
    fun s u fr b k hears hrecv hepoch => ?_, fun c i a ha => settle_area c i ha, fun s u fr b k c hears hk hat hactive hchan hdir hdev hctx hpair hepoch => ?_,
    fun s u fr hears hnone => ?_, fun s u fr hnone => ⟨fun hears => ?_, fun hears => ?_⟩, fun s u fr b k hrecv hepoch => ⟨fun hears => ?_, fun hears => ?_⟩⟩
  · refine (hears_exec hears rfl).trans ?_
    rw [hrecv]
    dsimp only
    generalize hc : (if fr.again = true then (u.chan b k).discard fr.off.toNat else u.chan b k) = c
    have hkept : c.ent.epoch = (u.chan b k).ent.epoch ∧ c.fits fr.off.toNat = true ∧ ∀ a ∈ c.areas, Tab.find a.staged fr.off.toNat = none := by
      rw [← hc]
      split
      · next hagain =>
        refine ⟨rfl, (discard_fits ..).trans hfits, fun a ha => ?_⟩
        obtain ⟨e, he, rfl⟩ := List.mem_map.mp (discard_areas _ _ ▸ ha)
        exact find_discarded fun hcomplete => hnew e he fun _ => hcomplete
      · next hagain => exact ⟨rfl, hfits, fun a ha => hnew a ha fun h => absurd h hagain⟩
    obtain ⟨hsame, hopen, hnone⟩ := hkept
    obtain ⟨hholds, hother⟩ := unstaged hnone fr.payload
    rw [frameUnitList_one hlen, if_neg (show ¬ (c.ent.epoch != bits fr.key.toNat 32 32) = true from by rw [hsame, hepoch]; simp [bits])]
    simp only [List.all_cons, List.all_nil, List.any_cons, List.any_nil, List.foldl_cons, List.foldl_nil, hholds, hother, hopen]
    simp
  · exact ⟨_, by rw [discard_areas, List.getElem?_map, ha]; rfl, discarded_open hopen n⟩
  · exact put_open hopen hlo hhi ha
  · refine (hears_exec hears rfl).trans ?_
    rw [hrecv]
    dsimp only
    rw [if_neg (by simp [hepoch, bits])]
    simp only [List.contains_iff_mem]
    split <;> rfl
  · have hget : u.chan b k = c := by rw [State.chan, Tab.get_eq_find, hchan]; rfl
    have hkey : chanKey fr.dstCtx (bits fr.tag.toNat 0 6) = k := by simp [hk, chanKey, bits]
    have hord : bits fr.key.toNat 0 16 = fr.key.toNat % 2 ^ 16 := by simp [bits]
    have hok : (c.ent.dir == 1 && c.ent.peerDev == fr.src && c.ent.peerCtx == fr.srcCtx &&
        c.ent.pairOf (fr.key.toNat % 2 ^ 16) == some (bits fr.key.toNat 16 16)) = true := by
      rw [hdir, hdev, hctx, hpair]
      simp [bits]
    refine (hears_exec hears rfl).trans ?_
    extract_lets ch k' ord ok
    have hk' : k' = k := hkey
    have hord' : ord = fr.key.toNat % 2 ^ 16 := hord
    rw [hord', hat]
    dsimp -zeta only
    rw [if_neg (by simp [hactive]), hk', hchan]
    have hok' : ok c.ent = true := by
      show (c.ent.dir == 1 && c.ent.peerDev == fr.src && c.ent.peerCtx == fr.srcCtx && c.ent.pairOf ord == some (bits fr.key.toNat 16 16)) = true
      rw [hord']
      exact hok
    dsimp only
    rw [if_pos hok', hget, if_neg (by rw [hok']; decide), if_neg (show ¬ (c.ent.epoch != bits fr.key.toNat 32 32) = true from by
      rw [hepoch]; simp [bits])]
  · refine (hears_exec hears rfl).trans ?_
    have hord : bits fr.key.toNat 0 16 = fr.key.toNat % 2 ^ 16 := by simp [bits]
    extract_lets ch k' ord ok
    have hord' : ord = fr.key.toNat % 2 ^ 16 := hord
    rw [hord', hnone]
    rfl
  · refine (hears_exec hears rfl).trans ?_
    rw [hnone]
    rfl
  · refine (hears_exec hears rfl).trans ?_
    rw [hnone]
    rfl
  · refine (hears_exec hears rfl).trans ?_
    rw [hrecv]
    have hent : (if fr.again = true then (u.chan b k).discard fr.off.toNat else u.chan b k).ent.epoch = (u.chan b k).ent.epoch := by
      split <;> rfl
    exact congrArg (fun t : State => Host.Outcome.next t.settle) (if_pos (bne_iff_ne.mpr (hent ▸ hepoch)) :)
  · refine (hears_exec hears rfl).trans ?_
    rw [hrecv]
    exact congrArg (fun t : State => Host.Outcome.next t.settle) (if_pos (bne_iff_ne.mpr hepoch) :)

end Sys2Proof.Proofs
end

section
/-! SUPPORT. O43: discovery, and what frames show of the devices at their other end (R349 to R351, R371 to R374). -/
namespace Sys2Proof.Proofs
open Sys2Proof Sys2Proof.Machine

/-! ### The peer tables -/

section
variable (s : State)

/-- The entry that a peer table has of a device names it. -/
theorem peer_device {d : Nat} {r : Peer} (h : s.peer d = some r) : r.device = d :=
  beq_iff_eq.mp (List.find?_some (p := fun q : Peer => q.device == d) h)

/-- The entries that stand in the tables when one is entered: those of the same device agree with it. -/
theorem setPeer_stands (p : Peer) : ∃ room : List Peer, s.setPeer p = { s with lnk := { s.lnk with peers := room ++ [p] } } ∧
    ∀ q ∈ room, q.device = p.device → q.epoch = p.epoch ∧ q.fenced = p.fenced := by
  have hrest : ∀ q ∈ (s.lnk.peers.filter (fun q => q.device != p.device || q.die != p.die)).map (fun (q : Peer) =>
      if q.device = p.device then { p with die := q.die, last := q.last } else q), q.device = p.device → q.epoch = p.epoch ∧ q.fenced = p.fenced := by
    intro q hq hdev
    obtain ⟨r, -, rfl⟩ := List.mem_map.mp hq
    by_cases hr : r.device = p.device
    · rw [if_pos hr]
      exact ⟨rfl, rfl⟩
    · rw [if_neg hr] at hdev
      exact absurd hdev hr
  refine ⟨_, rfl, fun q hq => ?_⟩
  split at hq
  · exact hrest q hq
  · split at hq
    · exact hrest q (List.mem_of_mem_eraseIdx hq)
    · exact hrest q hq

/-- The device that is entered is found, as it was entered. -/
theorem setPeer_peer (p : Peer) : ∃ r, (s.setPeer p).peer p.device = some r ∧ r.epoch = p.epoch ∧ r.fenced = p.fenced := by
  obtain ⟨room, hset, hroom⟩ := setPeer_stands s p
  rw [hset]
  obtain ⟨r, hr⟩ := Option.isSome_iff_exists.mp ((List.find?_isSome (p := fun q : Peer => q.device == p.device)).mpr ⟨p, List.mem_append_right room (List.mem_singleton.mpr rfl), beq_self_eq_true p.device⟩)
  refine ⟨r, hr, ?_⟩
  rcases List.mem_append.mp (List.mem_of_find?_eq_some hr) with hmem | hmem
  · exact hroom r hmem (beq_iff_eq.mp (List.find?_some (p := fun q : Peer => q.device == p.device) hr))
  · rw [List.mem_singleton.mp hmem]
    exact ⟨rfl, rfl⟩

/-- What a frame shows of its sender is found in the tables. -/
theorem notePeer_peer (p d : Nat) (epoch : BitVec 16) (fenced : Bool) :
    ∃ r, (s.notePeer p d epoch fenced).peer d = some r ∧ r.epoch = some epoch ∧ r.fenced = fenced := by
  have hdevice : ((s.peer d).getD { device := d }).device = d := by
    cases h : s.peer d with
    | none => rfl
    | some r => exact peer_device s h
  have hset := setPeer_peer s { (s.peer d).getD { device := d } with
    die := linkDie p, epoch := some epoch,
    gens := if ((s.peer d).getD { device := d }).epoch = some epoch then ((s.peer d).getD { device := d }).gens else [],
    fenced := fenced, last := s.now }
  rw [hdevice] at hset
  exact hset

/-- Entering a device changes the peer tables alone. -/
theorem notePeer_eq (p d : Nat) (epoch : BitVec 16) (fenced : Bool) :
    ∃ pe, s.notePeer p d epoch fenced = { s with lnk := { s.lnk with peers := pe } } := ⟨_, rfl⟩

/-- A device that is lost: its commands are to end, and its channels restart. -/
theorem losePeer_eq (d : Nat) : ∃ bs, s.losePeer d = { s.markPeer d with blocks := bs } := ⟨_, rfl⟩

theorem markPeer_marks {d n : Nat} {x : Cmd} (hx : s.cmds[n]? = some x) (hlive : x.live = true)
    (htalks : x.talksTo d = true ∨ s.routeNeeds x d = true) : ∃ y, (s.markPeer d).cmds[n]? = some y ∧ y.peerEpoch = some d := by
  unfold State.markPeer
  rw [List.getElem?_map, hx, Option.map_some, if_pos (by rcases htalks with h | h <;> simp [hlive, h])]
  exact ⟨_, rfl, rfl⟩

end

/-! ### DISCOVER_REPLY -/

section
variable (s : State) (p : Nat)

theorem firstCredit_hopSends : HopSends p s (s.firstCredit p) :=
  (HopSends.updPort s p ⟨_, [], _, _, _, _, by rw [List.append_nil]⟩).trans (giveCredit_hopSends ..)

/-- A port's UP bit set, and no other. -/
theorem setUp_sets {p : Nat} (hp : p < 32) (q : Nat) :
    (s.setUp p true).lnk.up.getLsbD q = (s.lnk.up.getLsbD q || decide (q = p)) := by
  show (s.lnk.up ||| bitMask32 p).getLsbD q = _
  rw [BitVec.getLsbD_or, bitMask32_at hp]

/-- What a port learns from a good reply (R351). -/
def replied (arr : Nat) (fr : Frame) (q : Port) : Port :=
  { q with lat := BitVec.ofNat 16 ((arr - fr.key.toNat - fr.tag.toNat) / 2), plane := BitVec.ofNat 16 (replyPlane fr) }

/-- The port's answer to a reply. -/
def replyTaken (fr : Frame) : State := s.hopAnswer fDiscoverReply { fr with port := some p }

/-- The device as a good reply has named it, the port UP. -/
def broughtUp (fr : Frame) : State :=
  ({ s with lnk := { s.lnk with addrValid := true, addr := BitVec.ofNat 24 (replyAddr fr) } } : State).setUp p true

variable {s p}

theorem exec_discoverReply (hlive : s.linksLive = true) (arr : Nat) (fr : Frame) :
    exec (.discoverReply p arr fr) s = .next (s.discoverReply p arr fr).settle := congrArg Host.Outcome.next (if_pos hlive)

/-- The answer to a reply changes the port alone. -/
theorem replyTaken_eq (fr : Frame) : ∃ ps o, replyTaken s p fr = { s with lnk := { s.lnk with ports := ps }, out := s.out ++ o } := hopAnswer_eq ..

theorem replyTaken_port_ne (fr : Frame) {q : Nat} (hq : q ≠ p) : (replyTaken s p fr).port q = s.port q :=
  ((hopTake_eq s p fDiscoverReply fr.lseq (frameUnits { fr with port := some p })).other q hq).trans (State.port_updPort_ne s _ hq)

/-- A good reply brings the port up (R350, R351). -/
theorem discoverReply_good {arr : Nat} {fr : Frame} (hstate : (s.port p).state = 2) (hjoin : (s.port p).rejoin = false)
    (hok : s.replyFails p fr = none) (hun : s.lnk.unacked = []) (hlocal : s.beat.srcAct = 2) :
    s.discoverReply p arr fr = broughtUp (((replyTaken s p fr).portTo p 3 (replied arr fr)).firstCredit p) p fr := by
  obtain ⟨ps, o, htaken⟩ := replyTaken_eq (s := s) (p := p) fr
  have hkept : (replyTaken s p fr).replyFails p fr = none ∧ (replyTaken s p fr).lnk.unacked = [] ∧ (replyTaken s p fr).beat.srcAct = 2 := by
    rw [htaken]
    exact ⟨hok, hun, hlocal⟩
  clear htaken
  unfold State.discoverReply
  rw [if_neg (show ¬ (!((s.port p).state == 2 || (s.port p).state == 3)) = true by simp [hstate]),
    show s.hopAnswer fDiscoverReply { fr with port := some p } = replyTaken s p fr from rfl]
  generalize replyTaken s p fr = v at hkept
  obtain ⟨hok', hun', hlocal'⟩ := hkept
  extract_lets _ _ _ _ f r _ u w
  have hnot : ¬ (s.port p).state = 3 := by rw [hstate]; decide
  have hr : r = (v.portTo p 3 (replied arr fr)).firstCredit p := if_neg hnot
  have hkeep : r.lnk.unacked = [] ∧ r.beat.srcAct = 2 := by
    obtain ⟨ps', o', h⟩ := (firstCredit_hopSends (v.portTo p 3 (replied arr fr)) p).links
    rw [hr, h]
    exact ⟨hun', hlocal'⟩
  clear_value r
  have hu : u = broughtUp r p fr := if_neg (by rw [hstate, hjoin]; decide)
  have hw : w = broughtUp r p fr := (if_pos (by rw [hu]; exact hkeep.2)).trans hu
  rw [hok']
  show State.flushWaiting w.lnk.unacked.length w = _
  rw [hw, show (broughtUp r p fr).lnk.unacked = [] from hkeep.1, hr]
  rfl

/-- A reply that names another slot, plane or address leaves the port miscabled, and recorded (R350). -/
theorem discoverReply_bad {arr k : Nat} {fr : Frame} (hstate : (s.port p).state = 2 ∨ (s.port p).state = 3) (hbad : s.replyFails p fr = some k) :
    ∃ c n, s.discoverReply p arr fr =
      { ((replyTaken s p fr).setUp p false).portTo p 4 (fun q => { q.quiet with cause := 4 }) with cairn := c, fresh := n } := by
  obtain ⟨ps, o, htaken⟩ := replyTaken_eq (s := s) (p := p) fr
  have hbad' : (replyTaken s p fr).replyFails p fr = some k := by rw [htaken]; exact hbad
  unfold State.discoverReply
  dsimp only
  rw [if_neg (show ¬ (!((s.port p).state == 2 || (s.port p).state == 3)) = true by rcases hstate with h | h <;> simp [h]),
    show (s.hopAnswer fDiscoverReply { fr with port := some p }).replyFails p fr = some k from hbad']
  exact ⟨_, _, rfl⟩

end

/-! ### What frames show of a device -/

section
variable {s : State} {p : Nat}

/-- A DISCOVER of a device shows a new epoch of it, or its fence. -/
def shows (s : State) (fenced : Bool) (fr : Frame) : Bool :=
  (match (s.peer fr.src).bind (·.epoch) with | some e => e != fr.srcEpoch | none => false) || (fenced && !s.fromFenced fr)

theorem epochAnnounce_current {fenced : Bool} {fr : Frame} (hstate : (s.port p).state = 3) (hdst : fr.dst = s.lnk.addr.toNat)
    (hnew : s.oldEpoch fr = false) : ∃ ps o, s.epochAnnounce p fenced fr =
      (({ s with lnk := { s.lnk with ports := ps }, out := s.out ++ o } : State).losePeer fr.src).notePeer p fr.src (BitVec.ofNat 16 fr.key.toNat)
        (fenced || s.fromFenced fr) := by
  obtain ⟨ps, o, htaken⟩ := hopAnswer_eq s fEpochAnnounce { fr with port := some p }
  refine ⟨ps, o, ?_⟩
  unfold State.epochAnnounce
  rw [if_neg (not_not_intro hstate), htaken]
  exact (if_neg (not_not_intro hdst)).trans (if_neg fun h => Bool.false_ne_true (hnew.symm.trans h))

theorem discoverSeen_current {fenced : Bool} {fr : Frame} (hstate : (s.port p).state = 2 ∨ (s.port p).state = 3) (hnew : s.oldEpoch fr = false) :
    ∃ ps o, s.discoverSeen p fenced fr =
      (if shows s fenced fr then ({ s with lnk := { s.lnk with ports := ps }, out := s.out ++ o } : State).losePeer fr.src
        else { s with lnk := { s.lnk with ports := ps }, out := s.out ++ o }).notePeer p fr.src fr.srcEpoch fenced := by
  obtain ⟨ps, o, htaken⟩ := hopAnswer_eq s fDiscover { fr with port := some p }
  refine ⟨ps, o, ?_⟩
  unfold State.discoverSeen
  dsimp only
  rw [if_neg (show ¬ (!((s.port p).state == 2 || (s.port p).state == 3)) = true by rcases hstate with h | h <;> simp [h]), htaken]
  exact if_neg fun h => Bool.false_ne_true (hnew.symm.trans h)

end

/-- What a good reply brings about. -/
theorem discoverReply_bringsUp {s : State} {p arr : Nat} {fr : Frame} (hlive : s.linksLive = true) (hp : p < 32) (hstate : (s.port p).state = 2)
    (hjoin : (s.port p).rejoin = false) (hok : s.replyFails p fr = none) (hun : s.lnk.unacked = []) (hlocal : s.beat.srcAct = 2) :
    ∃ t, exec (.discoverReply p arr fr) s = .next t ∧ (t.port p).state = 3 ∧ t.lnk.up.getLsbD p = true ∧ t.lnk.addrValid = true ∧
      t.lnk.addr = BitVec.ofNat 24 (replyAddr fr) ∧ (t.port p).plane = BitVec.ofNat 16 (replyPlane fr) ∧
      (t.port p).lat = BitVec.ofNat 16 ((arr - fr.key.toNat - fr.tag.toNat) / 2) ∧ (∀ q, q ≠ p → t.port q = s.port q) ∧
      (∀ q, q ≠ p → t.lnk.up.getLsbD q = s.lnk.up.getLsbD q) ∧ t.beat = s.beat ∧ t.cmds = s.cmds ∧ t.hbm = s.hbm := by
  have hexec := exec_discoverReply (p := p) hlive arr fr
  rw [discoverReply_good hstate hjoin hok hun hlocal] at hexec
  obtain ⟨ps, o, htaken⟩ := replyTaken_eq (s := s) (p := p) fr
  have hport := port_portTo (replyTaken s p fr) p 3 (replied arr fr)
  have hother (q : Nat) (hq : q ≠ p) : ((replyTaken s p fr).portTo p 3 (replied arr fr)).port q = s.port q :=
    (port_portTo_ne _ p 3 _ hq).trans (replyTaken_port_ne fr hq)
  have hkept : ((replyTaken s p fr).portTo p 3 (replied arr fr)).lnk.up = s.lnk.up ∧ ((replyTaken s p fr).portTo p 3 (replied arr fr)).beat = s.beat ∧
      ((replyTaken s p fr).portTo p 3 (replied arr fr)).cmds = s.cmds ∧ ((replyTaken s p fr).portTo p 3 (replied arr fr)).hbm = s.hbm := by
    rw [htaken]
    exact ⟨rfl, rfl, rfl, rfl⟩
  generalize (replyTaken s p fr).portTo p 3 (replied arr fr) = v at hexec hport hother hkept
  obtain ⟨hup, hbeat, hcmds, hhbm⟩ := hkept
  obtain ⟨⟨ps', o', hlinks⟩, hrest, _, _, _, _, _, _, hown⟩ := firstCredit_hopSends v p
  have hup' : (v.firstCredit p).lnk.up = s.lnk.up := (congrArg (·.lnk.up) hlinks :).trans hup
  have hbits (q : Nat) : (broughtUp (v.firstCredit p) p fr).lnk.up.getLsbD q = (s.lnk.up.getLsbD q || decide (q = p)) := by
    rw [← hup']
    exact setUp_sets { v.firstCredit p with lnk := { (v.firstCredit p).lnk with addrValid := true, addr := BitVec.ofNat 24 (replyAddr fr) } } hp q
  exact ⟨_, hexec, (congrArg Port.state hown :).trans (congrArg Port.state hport :), (hbits p).trans (by simp), rfl, rfl,
    (congrArg Port.plane hown :).trans (congrArg Port.plane hport :), (congrArg Port.lat hown :).trans (congrArg Port.lat hport :),
    fun q hq => (hrest q hq).trans (hother q hq), fun q hq => (hbits q).trans (by simp [hq]), (congrArg State.beat hlinks :).trans hbeat,
    (congrArg State.cmds hlinks :).trans hcmds, (congrArg State.hbm hlinks :).trans hhbm⟩

/-- What a reply that differs brings about. -/
theorem discoverReply_miscabled {s : State} {p arr k : Nat} {fr : Frame} (hlive : s.linksLive = true) (hp : p < 32)
    (hstate : (s.port p).state = 2 ∨ (s.port p).state = 3) (hbad : s.replyFails p fr = some k) :
    ∃ t, exec (.discoverReply p arr fr) s = .next t ∧ (t.port p).state = 4 ∧ (t.port p).cause = 4 ∧ t.lnk.up.getLsbD p = false ∧
      t.lnk.addr = s.lnk.addr ∧ t.lnk.addrValid = s.lnk.addrValid ∧ (∀ q, q ≠ p → t.port q = s.port q) ∧ t.beat = s.beat ∧ t.cmds = s.cmds := by
  have hexec := exec_discoverReply (p := p) hlive arr fr
  obtain ⟨c, n, hreply⟩ := discoverReply_bad (arr := arr) hstate hbad
  rw [hreply] at hexec
  have hothers (q : Nat) (hq : q ≠ p) := replyTaken_port_ne (s := s) fr hq
  have hkept : (replyTaken s p fr).lnk.addr = s.lnk.addr ∧ (replyTaken s p fr).lnk.addrValid = s.lnk.addrValid ∧
      (replyTaken s p fr).beat = s.beat ∧ (replyTaken s p fr).cmds = s.cmds := by
    obtain ⟨ps, o, htaken⟩ := replyTaken_eq (s := s) (p := p) fr
    rw [htaken]
    exact ⟨rfl, rfl, rfl, rfl⟩
  generalize replyTaken s p fr = v at hexec hothers hkept
  obtain ⟨haddr, hvalid, hbeat, hcmds⟩ := hkept
  have hport := port_portTo (v.setUp p false) p 4 (fun q => { q.quiet with cause := 4 })
  have hrest (q : Nat) (hq : q ≠ p) := port_portTo_ne (v.setUp p false) p 4 (fun q => { q.quiet with cause := 4 }) hq
  exact ⟨_, hexec, (congrArg Port.state hport :), (congrArg Port.cause hport :), (setUp_clears v hp p).trans (by simp), haddr, hvalid,
    fun q hq => (hrest q hq).trans (hothers q hq), hbeat, hcmds⟩

/-- Settles O43, clause by clause. -/
theorem peersAndDiscovery : Obligations.PeersAndDiscovery := by
  unfold Obligations.PeersAndDiscovery
  refine ⟨fun s p arr fr hlive hp hstate hjoin hok hun hlocal => ?_, fun s p arr k fr hlive hp hstate hbad => ?_,
    fun s p fenced fr hlive hstate hdst hnew => ?_, fun s p fenced fr hlive hstate hnew => ?_,
    fun s p fenced fr hlive hold => ⟨fun hstate hdst => ?_, fun hstate => ?_⟩⟩
  · exact discoverReply_bringsUp hlive hp hstate hjoin hok hun hlocal
  · exact discoverReply_miscabled hlive hp hstate hbad
  · obtain ⟨ps, o, h⟩ := epochAnnounce_current (fenced := fenced) hstate hdst hnew
    have hexec : exec (.epochAnnounce p fenced fr) s = .next (s.epochAnnounce p fenced fr).settle := congrArg Host.Outcome.next (if_pos hlive)
    rw [h] at hexec
    obtain ⟨r, hr, hepoch, hfenced⟩ := notePeer_peer (({ s with lnk := { s.lnk with ports := ps }, out := s.out ++ o } : State).losePeer fr.src) p fr.src
      (BitVec.ofNat 16 fr.key.toNat) (fenced || s.fromFenced fr)
    exact ⟨_, r, hexec, hr, hepoch, hfenced, fun n x hx hl ht =>
      markPeer_marks ({ s with lnk := { s.lnk with ports := ps }, out := s.out ++ o } : State) hx hl ht, rfl, rfl, rfl⟩
  · obtain ⟨ps, o, h⟩ := discoverSeen_current (fenced := fenced) hstate hnew
    have hexec : exec (.discover p fenced fr) s = .next (s.discoverSeen p fenced fr).settle := congrArg Host.Outcome.next (if_pos hlive)
    rw [h] at hexec
    by_cases hshows : shows s fenced fr = true
    · rw [if_pos hshows] at hexec
      obtain ⟨r, hr, hepoch, hfenced⟩ := notePeer_peer (({ s with lnk := { s.lnk with ports := ps }, out := s.out ++ o } : State).losePeer fr.src) p
        fr.src fr.srcEpoch fenced
      refine ⟨_, r, hexec, hr, hepoch, hfenced, fun hsame hknown => ?_, fun _ n x hx hl ht =>
        markPeer_marks ({ s with lnk := { s.lnk with ports := ps }, out := s.out ++ o } : State) hx hl ht, rfl, rfl, rfl⟩
      unfold shows at hshows
      rw [hsame] at hshows
      rcases hknown with h | h <;> simp [h] at hshows
    · rw [if_neg hshows] at hexec
      obtain ⟨r, hr, hepoch, hfenced⟩ := notePeer_peer ({ s with lnk := { s.lnk with ports := ps }, out := s.out ++ o } : State) p
        fr.src fr.srcEpoch fenced
      refine ⟨_, r, hexec, hr, hepoch, hfenced, fun _ _ => rfl, fun hnews => absurd ?_ hshows, rfl, rfl, rfl⟩
      unfold shows
      rcases hnews with ⟨e, he, hne⟩ | ⟨hf, hknown⟩
      · rw [he]
        simp [hne]
      · simp [hf, hknown]
  · obtain ⟨ps, o, htaken⟩ := hopAnswer_eq s fEpochAnnounce { fr with port := some p }
    have hexec : exec (.epochAnnounce p fenced fr) s = .next (s.epochAnnounce p fenced fr).settle := congrArg Host.Outcome.next (if_pos hlive)
    have hlate : s.epochAnnounce p fenced fr = ({ s with lnk := { s.lnk with ports := ps }, out := s.out ++ o } : State).countLate := by
      unfold State.epochAnnounce
      rw [if_neg (not_not_intro hstate), htaken]
      exact (if_neg (not_not_intro hdst)).trans (if_pos hold)
    rw [hlate] at hexec
    exact ⟨_, hexec, rfl, rfl, rfl, rfl⟩
  · obtain ⟨ps, o, htaken⟩ := hopAnswer_eq s fDiscover { fr with port := some p }
    have hexec : exec (.discover p fenced fr) s = .next (s.discoverSeen p fenced fr).settle := congrArg Host.Outcome.next (if_pos hlive)
    have hlate : s.discoverSeen p fenced fr = ({ s with lnk := { s.lnk with ports := ps }, out := s.out ++ o } : State).countLate := by
      unfold State.discoverSeen
      dsimp only
      rw [if_neg (show ¬ (!((s.port p).state == 2 || (s.port p).state == 3)) = true by rcases hstate with h | h <;> simp [h]), htaken]
      exact if_pos hold
    rw [hlate] at hexec
    exact ⟨_, hexec, rfl, rfl, rfl, rfl⟩

end Sys2Proof.Proofs
end

section
/-! SUPPORT. O41: what a frame that is heard leaves, and a try at its slot (R217, R218, R221, R321). -/
namespace Sys2Proof.Proofs
open Sys2Proof Sys2Proof.Machine

/-! ### A frame that is heard -/

/-- What a frame that is heard may change: the links, what the device sends, the blocks' channels, and the commands that are to end. -/
def HeardOnly (s u : State) : Prop := ∃ l o b c, u = { s with lnk := l, out := o, blocks := b, cmds := c }

/-- Learning changes the peer tables, the channels and the commands of the device that has changed. -/
theorem learn_eq (s : State) (fr : Frame) : ∃ pe b c, s.learn fr = { s with lnk := { s.lnk with peers := pe }, blocks := b, cmds := c } := by
  unfold State.learn
  split
  · exact ⟨_, _, _, rfl⟩
  · extract_lets die p same t newGen r v
    have ht : ∃ b c, t = { s with blocks := b, cmds := c } := by
      unfold t
      split
      · exact ⟨_, _, rfl⟩
      · exact ⟨_, _, rfl⟩
    obtain ⟨b, c, ht⟩ := ht
    have hr : ∃ b, r = { s with blocks := b, cmds := c } := by
      unfold r
      rw [ht]
      exact ⟨_, rfl⟩
    obtain ⟨b', hr⟩ := hr
    have hv : ∃ b c, v = { s with blocks := b, cmds := c } := by
      unfold v
      split
      · rw [hr]
        exact ⟨_, _, rfl⟩
      · exact ⟨b, c, ht⟩
    obtain ⟨_, _, hv⟩ := hv
    rw [hv]
    exact ⟨_, _, _, rfl⟩

section
variable {s u : State} {ty : Nat} {fr : Frame}

theorem hears_only (h : s.Hears ty fr u) : HeardOnly s u := by
  obtain ⟨-, -, -, -, rfl⟩ := State.receive_some h.2.2
  obtain ⟨ps, o, hanswer⟩ := hopAnswer_eq s ty fr
  obtain ⟨pe, b, c, hlearn⟩ := learn_eq (s.hopAnswer ty fr) fr
  rw [hlearn, hanswer]
  exact ⟨_, _, _, _, rfl⟩

/-- A frame of VL1 to VL3 is heard only while the device is not fenced, and only when it is current. -/
theorem hears_current (h : s.Hears ty fr u) (hlane : laneOf ty ≠ 0) : s.fenced = false ∧ s.stale fr = false := by
  obtain ⟨hfence, -, hstale, -, -⟩ := State.receive_some h.2.2
  obtain ⟨ps, o, hanswer⟩ := hopAnswer_eq s ty fr
  rw [hanswer] at hfence hstale
  refine ⟨?_, hstale⟩
  have hlane' : (laneOf ty != 0) = true := bne_iff_ne.mpr hlane
  rw [hlane', Bool.and_true] at hfence
  exact hfence

theorem heard_fenced (h : HeardOnly s u) : u.fenced = s.fenced := by
  obtain ⟨l, o, b, c, rfl⟩ := h
  rfl

/-- What a row of the Pass network does with a frame that passes the checks of its reception. -/
theorem hears_pass (h : s.Hears ty fr u) (hlane : laneOf ty ≠ 0) {f g : State → State} (hf : g s = s.withPass ty fr f) :
    s.onLinks g = .next (f u).settle := by
  refine hears_exec h (hf.trans ?_)
  unfold State.withPass
  dsimp only
  rw [(hears_current h hlane).2, Bool.and_false, if_neg Bool.false_ne_true]

end

/-! ### Slots -/

theorem find_map_entry {α : Type} (t : Tab α) {n : Nat} {x : α} (h : Tab.find t n = some x) (f : α → α) :
    Tab.find (t.map fun q => if q.1 = n then (q.1, f q.2) else q) n = some (f x) := by
  induction t with
  | nil => cases h
  | cons q t ih =>
    obtain ⟨j, v⟩ := q
    by_cases hj : j = n
    · simp only [Tab.find, hj, if_true, Option.some.injEq] at h
      simp [Tab.find, hj, h]
    · simp only [Tab.find, hj, if_false] at h
      simp [Tab.find, hj, ih h]

theorem updSlot_find {s : State} {pt slot : Nat} {x : SlotSt} (h : Tab.find (s.part pt).slots slot = some x) (f : SlotSt → SlotSt) :
    Tab.find ((s.updSlot pt slot f).part pt).slots slot = some (f x) := by
  have hpart : (s.updSlot pt slot f).part pt = _ := Tab.get_set_same ..
  rw [hpart]
  exact find_map_entry _ h f

/-- A key that no reservation has is no try that the slot has taken. -/
theorem seen_new {x : SlotSt} {k : SlotBuf} {fr : Frame} {a : PassArgs} (hbuf : Tab.find x.bufs (a.batch.toNat % Nat.max 1 x.d.nbuf) = some k)
    (hnone : k.resv.find? (fun r => r.sameKey fr a) = none) : x.seen fr a = false := by
  unfold SlotSt.seen
  rw [hbuf]
  have hany : k.resv.any (fun r => r.sameKey fr a && Tab.find k.fwd.runs r.pos == some a.run) = false :=
    List.any_eq_false.mpr fun r hr => by simp [List.find?_eq_none.mp hnone r hr]
  exact Bool.and_eq_false_iff.mpr (.inr hany)

/-- The lowest free position (R218). -/
theorem freePos_lowest {k : SlotBuf} {cap p : Nat} (hp : p < cap) (hfree : ∀ r ∈ k.resv, r.pos ≠ p) (hbelow : ∀ q, q < p → ∃ r ∈ k.resv, r.pos = q) :
    k.freePos cap = some p := by
  refine List.find?_range_eq_some.mpr ⟨?_, List.mem_range.mpr hp, fun q hq => ?_⟩
  · rw [show k.resv.any (fun r => r.pos == p) = false from List.any_eq_false.mpr fun r hr => by simpa using hfree r hr]
    rfl
  · obtain ⟨r, hr, hpos⟩ := hbelow q hq
    rw [show k.resv.any (fun r => r.pos == q) = true from List.any_eq_true.mpr ⟨r, hr, beq_iff_eq.mpr hpos⟩]
    rfl

theorem freePos_full {k : SlotBuf} {cap : Nat} (hfull : ∀ q, q < cap → ∃ r ∈ k.resv, r.pos = q) : k.freePos cap = none := by
  refine List.find?_eq_none.mpr fun q hq => ?_
  obtain ⟨r, hr, hpos⟩ := hfull q (List.mem_range.mp hq)
  rw [show k.resv.any (fun r => r.pos == q) = true from List.any_eq_true.mpr ⟨r, hr, beq_iff_eq.mpr hpos⟩]
  decide

/-- The row of a try, kept at its position. -/
def keepRow (fr : Frame) (a : PassArgs) (k : SlotBuf) (p : Nat) : SlotBuf :=
  { k with rows := Tab.set k.rows p fr.payload, fwd := { k.fwd with runs := Tab.set k.fwd.runs p a.run } }

/-- The reservation of a try. -/
def reserve (fr : Frame) (a : PassArgs) (p : Nat) : Resv :=
  { pos := p, device := fr.src, ctx := fr.srcCtx, gen := fr.srcGen, opt := a.opt, table := a.table, token := a.token, entry := a.entry,
    cmd := a.cmd, nth := a.nth }

/-- The buffer that a try is for, or the empty one that it opens. -/
def tryBuf (x : SlotSt) (a : PassArgs) : SlotBuf := (Tab.find x.bufs (a.batch.toNat % Nat.max 1 x.d.nbuf)).getD { batch := a.batch }

/-- The batch of a try is open at its slot. -/
def Opens (x : SlotSt) (a : PassArgs) : Prop :=
  (tryBuf x a).batch = a.batch ∧ ((tryBuf x a).phase a.phase).isSealed = false ∧ x.released a.batch = false

section
variable {x : SlotSt} {fr : Frame} {a : PassArgs}

theorem decide_open (h : Opens x a) : x.decide fr a = match (tryBuf x a).resv.find? (fun r => r.sameKey fr a) with
    | some r => .ok (r.pos, keepRow fr a (tryBuf x a) r.pos)
    | none => match (tryBuf x a).freePos x.d.cap with
      | none => .error [1]
      | some p => .ok (p, keepRow fr a { tryBuf x a with resv := (tryBuf x a).resv ++ [reserve fr a p] } p) := by
  obtain ⟨hbatch, hsealed, hreleased⟩ := h
  unfold SlotSt.decide
  exact (if_neg (not_not_intro hbatch)).trans (if_neg fun hclosed =>
    (Bool.or_eq_true_iff.mp hclosed).elim (fun h => Bool.false_ne_true (hsealed.symm.trans h)) (fun h => Bool.false_ne_true (hreleased.symm.trans h)))

theorem decide_again (h : Opens x a) {r : Resv} (hkey : (tryBuf x a).resv.find? (fun r => r.sameKey fr a) = some r) :
    x.decide fr a = .ok (r.pos, keepRow fr a (tryBuf x a) r.pos) := by rw [decide_open h, hkey]

theorem decide_placed (h : Opens x a) (hkey : (tryBuf x a).resv.find? (fun r => r.sameKey fr a) = none) {p : Nat}
    (hfree : (tryBuf x a).freePos x.d.cap = some p) :
    x.decide fr a = .ok (p, keepRow fr a { tryBuf x a with resv := (tryBuf x a).resv ++ [reserve fr a p] } p) := by
  rw [decide_open h, hkey, hfree]

theorem decide_full (h : Opens x a) (hkey : (tryBuf x a).resv.find? (fun r => r.sameKey fr a) = none)
    (hfull : (tryBuf x a).freePos x.d.cap = none) : x.decide fr a = .error [1] := by rw [decide_open h, hkey, hfull]

theorem decide_refused (h : (tryBuf x a).batch ≠ a.batch ∨ ((tryBuf x a).phase a.phase).isSealed = true ∨ x.released a.batch = true) :
    x.decide fr a = .error [1, if (tryBuf x a).batch ≠ a.batch then 2 else 3] := by
  unfold SlotSt.decide
  by_cases hbatch : (tryBuf x a).batch ≠ a.batch
  · rw [if_pos hbatch]
    exact if_pos hbatch
  · rw [if_neg hbatch]
    refine (if_neg hbatch).trans (if_pos ?_)
    rcases h.resolve_left hbatch with hs | hr
    · exact Bool.or_eq_true_iff.mpr (.inl hs)
    · exact Bool.or_eq_true_iff.mpr (.inr hr)

end

end Sys2Proof.Proofs
end

section
/-! SUPPORT. O41: a try's answer (R217, R218, R221, R321). -/
namespace Sys2Proof.Proofs
open Sys2Proof Sys2Proof.Machine

section
variable (s : State)

theorem ack_linksOnly (fr : Frame) : LinksOnly s (s.ack fr) := (sendFrame_sendsOnly ..).linksOnly

theorem countDup_linksOnly : LinksOnly s s.countDup := ⟨_, _, rfl⟩

theorem answerTry_linksOnly (fr : Frame) (a : PassArgs) (pos : Option Nat) (disabled : Bool) : LinksOnly s (s.answerTry fr a pos disabled) :=
  (sendPass_sendsOnly ..).linksOnly

/-- A Pass unit message goes out unless the device is fenced (R397). -/
theorem sendPass_out (hfence : s.fenced = false) (cmd ty : Nat) (fr : Frame) (a : PassArgs) (l : List Nat) :
    Out.pass ty (s.stamp fr) a l ∈ (s.sendPass cmd ty fr a l).out := by
  unfold State.sendPass
  rw [if_neg (by rw [hfence]; decide)]
  exact List.mem_append_right _ (List.mem_singleton.mpr rfl)

end

/-- The answer to a try that has its position. -/
theorem answerTry_placed {s : State} (hfence : s.fenced = false) (fr : Frame) (a : PassArgs) (p : Nat) :
    ∃ f, Out.pass 0x31 f { a with disabled := false } [1, p] ∈ (s.answerTry fr a (some p) false).out := ⟨_, sendPass_out s hfence ..⟩

/-- The answer to a try that is refused. -/
theorem answerTry_refused {s : State} (hfence : s.fenced = false) (fr : Frame) (a : PassArgs) :
    ∃ f, Out.pass 0x31 f { a with disabled := false } [0, 0] ∈ (s.answerTry fr a none false).out := ⟨_, sendPass_out s hfence ..⟩

/-- The answer to a try at no slot. -/
theorem answerTry_disabled {s : State} (hfence : s.fenced = false) (fr : Frame) (a : PassArgs) :
    ∃ f, Out.pass 0x31 f { a with disabled := true } [0, 1] ∈ (s.answerTry fr a none true).out := ⟨_, sendPass_out s hfence ..⟩

/-- What a try at an enabled slot comes to (R218). -/
def tryResult (v : State) (fr : Frame) (a : PassArgs) (x : SlotSt) : State :=
  match x.decide fr a with
  | .error ix => (v.updSlot a.pt a.slot (fun x => ix.foldl (fun (x : SlotSt) i => x.owe i 1) x)).answerTry fr a none false
  | .ok r =>
    let j := a.batch.toNat % Nat.max 1 x.d.nbuf
    let v := if (Tab.find x.bufs j).isNone then v.slotUndef x.d x.d.inp j else v
    (v.updSlot a.pt a.slot (fun x => { x with bufs := Tab.set x.bufs j r.2 })).answerTry fr { a with buf := j } (some r.1) false

section
variable {s u : State} {fr : Frame} {a : PassArgs} {x : SlotSt}

/-- A try at an enabled slot under a current epoch. -/
theorem exec_passTry_enabled (h : s.Hears 0x30 fr u) (hx : Tab.find (u.part a.pt).slots a.slot = some x) (hen : x.d.enabled = true)
    (hcur : u.passCurrent fr a (u.slotDie a.pt a.slot) = true) : ∃ v e, LinksOnly u v ∧
    exec (.passTry fr a) s = .next (tryResult v fr { a with epoch := e } x).settle := by
  obtain ⟨l, o, hack⟩ := ack_linksOnly u fr
  have hexec := hears_pass (g := fun s => s.passTry fr a) h (by decide) rfl
  refine ⟨if x.seen fr a then (u.ack fr).countDup else u.ack fr, (u.ack fr).passEpoch ((u.ack fr).slotDie a.pt a.slot), ?_, hexec.trans ?_⟩
  · split
    · exact (ack_linksOnly u fr).trans (countDup_linksOnly _)
    · exact ack_linksOnly u fr
  · have hx' : Tab.find ((u.ack fr).part a.pt).slots a.slot = some x := by
      rw [hack]
      exact hx
    clear hack
    refine congrArg (fun t : State => Host.Outcome.next t.settle) ?_
    extract_lets now v b none_
    rw [show Tab.find (v.part b.pt).slots b.slot = some x from hx']
    dsimp -zeta only
    extract_lets w
    rw [if_neg (by rw [hen]; decide), if_neg (by rw [show now = true from hcur]; decide)]
    rfl

/-- A try that is placed: its buffer, and its answer. -/
theorem tryResult_places {v : State} {p : Nat} {m : SlotBuf} (hx : Tab.find (v.part a.pt).slots a.slot = some x) (hfence : v.fenced = false)
    (hdec : x.decide fr a = .ok (p, m)) :
    Tab.find ((tryResult v fr a x).part a.pt).slots a.slot = some { x with bufs := Tab.set x.bufs (a.batch.toNat % Nat.max 1 x.d.nbuf) m } ∧
    (∃ f, Out.pass 0x31 f { a with buf := a.batch.toNat % Nat.max 1 x.d.nbuf, disabled := false } [1, p] ∈ (tryResult v fr a x).out) ∧
    (tryResult v fr a x).ctxs = v.ctxs ∧ (tryResult v fr a x).cmds = v.cmds ∧
    ((Tab.find x.bufs (a.batch.toNat % Nat.max 1 x.d.nbuf)).isNone = false → (tryResult v fr a x).hbm = v.hbm) := by
  unfold tryResult
  rw [hdec]
  dsimp only
  generalize hw : (if (Tab.find x.bufs (a.batch.toNat % Nat.max 1 x.d.nbuf)).isNone = true then
    v.slotUndef x.d x.d.inp (a.batch.toNat % Nat.max 1 x.d.nbuf) else v) = w
  have hkept : w.parts = v.parts ∧ w.fenced = v.fenced ∧ w.ctxs = v.ctxs ∧ w.cmds = v.cmds ∧
      ((Tab.find x.bufs (a.batch.toNat % Nat.max 1 x.d.nbuf)).isNone = false → w.hbm = v.hbm) := by
    rw [← hw]
    split
    · next hnone =>
      refine ⟨?_, ?_, ?_, ?_, fun h => absurd (hnone.symm.trans h) (by decide)⟩ <;>
      · unfold State.slotUndef
        dsimp only
        split <;> rfl
    · exact ⟨rfl, rfl, rfl, rfl, fun _ => rfl⟩
  obtain ⟨hparts, hf, hctxs, hcmds, hhbm⟩ := hkept
  have hxw : Tab.find (w.part a.pt).slots a.slot = some x := by
    unfold State.part at hx ⊢
    rw [hparts]
    exact hx
  have hslot := updSlot_find hxw fun y => { y with bufs := Tab.set y.bufs (a.batch.toNat % Nat.max 1 x.d.nbuf) m }
  generalize hr : w.updSlot a.pt a.slot (fun y => { y with bufs := Tab.set y.bufs (a.batch.toNat % Nat.max 1 x.d.nbuf) m }) = r at hslot ⊢
  have hkeep : r.fenced = v.fenced ∧ r.ctxs = v.ctxs ∧ r.cmds = v.cmds ∧ r.hbm = w.hbm := by
    rw [← hr]
    exact ⟨hf, hctxs, hcmds, rfl⟩
  have hout := answerTry_placed (hkeep.1.trans hfence) fr { a with buf := a.batch.toNat % Nat.max 1 x.d.nbuf } p
  obtain ⟨l, o, hanswer⟩ := answerTry_linksOnly r fr { a with buf := a.batch.toNat % Nat.max 1 x.d.nbuf } (some p) false
  refine ⟨?_, hout, ?_⟩
  · rw [hanswer]
    exact hslot
  · rw [hanswer]
    exact ⟨hkeep.2.1, hkeep.2.2.1, fun h => hkeep.2.2.2.trans (hhbm h)⟩

/-- A try that is refused: what its slot owes, and its answer. -/
theorem tryResult_refuses {v : State} {ix : List Nat} (hx : Tab.find (v.part a.pt).slots a.slot = some x) (hfence : v.fenced = false)
    (hdec : x.decide fr a = .error ix) :
    Tab.find ((tryResult v fr a x).part a.pt).slots a.slot = some (ix.foldl (fun (x : SlotSt) i => x.owe i 1) x) ∧
    (∃ f, Out.pass 0x31 f { a with disabled := false } [0, 0] ∈ (tryResult v fr a x).out) ∧ (tryResult v fr a x).hbm = v.hbm := by
  unfold tryResult
  rw [hdec]
  dsimp only
  have hslot := updSlot_find hx fun x => ix.foldl (fun (x : SlotSt) i => x.owe i 1) x
  generalize hr : v.updSlot a.pt a.slot (fun x => ix.foldl (fun (x : SlotSt) i => x.owe i 1) x) = r at hslot ⊢
  have hkeep : r.fenced = v.fenced ∧ r.hbm = v.hbm := by
    rw [← hr]
    exact ⟨rfl, rfl⟩
  have hout := answerTry_refused (hkeep.1.trans hfence) fr a
  obtain ⟨l, o, hanswer⟩ := answerTry_linksOnly r fr a none false
  refine ⟨?_, hout, ?_⟩
  · rw [hanswer]
    exact hslot
  · rw [hanswer]
    exact hkeep.2

/-- A try that an enabled slot takes: the answer, the buffer, and what stands. -/
theorem passTry_places {p : Nat} {m : SlotBuf} (h : s.Hears 0x30 fr u) (hx : Tab.find (u.part a.pt).slots a.slot = some x)
    (hen : x.d.enabled = true) (hcur : u.passCurrent fr a (u.slotDie a.pt a.slot) = true) (hdec : x.decide fr a = .ok (p, m)) :
    ∃ t f e, exec (.passTry fr a) s = .next t ∧
      Tab.find (t.part a.pt).slots a.slot = some { x with bufs := Tab.set x.bufs (a.batch.toNat % Nat.max 1 x.d.nbuf) m } ∧
      Out.pass 0x31 f { a with epoch := e, buf := a.batch.toNat % Nat.max 1 x.d.nbuf, disabled := false } [1, p] ∈ t.out ∧
      t.ctxs = s.ctxs ∧ t.cmds = u.cmds ∧ ((Tab.find x.bufs (a.batch.toNat % Nat.max 1 x.d.nbuf)).isNone = false → t.hbm = s.hbm) := by
  obtain ⟨v, e, ⟨l, o, hv⟩, hexec⟩ := exec_passTry_enabled h hx hen hcur
  have hfence : v.fenced = false := by
    rw [hv]
    exact (heard_fenced (hears_only h)).trans (hears_current h (by decide)).1
  have hxv : Tab.find (v.part a.pt).slots a.slot = some x := by
    rw [hv]
    exact hx
  obtain ⟨hslot, ⟨f, hout⟩, hctxs, hcmds, hhbm⟩ := tryResult_places (a := { a with epoch := e }) hxv hfence hdec
  obtain ⟨l', o', b', c', hu⟩ := hears_only h
  refine ⟨_, f, e, hexec, hslot, settle_sent hout, hctxs.trans ?_, hcmds.trans ?_, fun hsome => (hhbm hsome).trans ?_⟩
  · rw [hv, hu]
  · rw [hv]
  · rw [hv, hu]

/-- A try that an enabled slot refuses. -/
theorem passTry_refuses {ix : List Nat} (h : s.Hears 0x30 fr u) (hx : Tab.find (u.part a.pt).slots a.slot = some x)
    (hen : x.d.enabled = true) (hcur : u.passCurrent fr a (u.slotDie a.pt a.slot) = true) (hdec : x.decide fr a = .error ix) :
    ∃ t f e, exec (.passTry fr a) s = .next t ∧ Tab.find (t.part a.pt).slots a.slot = some (ix.foldl (fun (x : SlotSt) i => x.owe i 1) x) ∧
      Out.pass 0x31 f { a with epoch := e, disabled := false } [0, 0] ∈ t.out ∧ t.hbm = s.hbm := by
  obtain ⟨v, e, ⟨l, o, hv⟩, hexec⟩ := exec_passTry_enabled h hx hen hcur
  have hfence : v.fenced = false := by
    rw [hv]
    exact (heard_fenced (hears_only h)).trans (hears_current h (by decide)).1
  have hxv : Tab.find (v.part a.pt).slots a.slot = some x := by
    rw [hv]
    exact hx
  obtain ⟨hslot, ⟨f, hout⟩, hhbm⟩ := tryResult_refuses (a := { a with epoch := e }) hxv hfence hdec
  obtain ⟨l', o', b', c', hu⟩ := hears_only h
  refine ⟨_, f, e, hexec, hslot, settle_sent hout, hhbm.trans ?_⟩
  rw [hv, hu]

/-- A try at a slot that is not there, or not enabled. -/
theorem exec_passTry_disabled (h : s.Hears 0x30 fr u) (hoff : ∀ x, Tab.find (u.part a.pt).slots a.slot = some x → x.d.enabled = false) :
    ∃ v e, LinksOnly u v ∧ exec (.passTry fr a) s =
      .next (({ v with passRegs := { v.passRegs with badDest := sat32 v.passRegs.badDest 1 } } : State).answerTry fr { a with epoch := e } none true).settle := by
  obtain ⟨l, o, hack⟩ := ack_linksOnly u fr
  have hexec := hears_pass (g := fun s => s.passTry fr a) h (by decide) rfl
  refine ⟨u.ack fr, (u.ack fr).passEpoch ((u.ack fr).slotDie a.pt a.slot), ack_linksOnly u fr, hexec.trans ?_⟩
  have hfind : Tab.find ((u.ack fr).part a.pt).slots a.slot = Tab.find (u.part a.pt).slots a.slot := by rw [hack]; rfl
  clear hack
  refine congrArg (fun t : State => Host.Outcome.next t.settle) ?_
  extract_lets now v b none_
  rw [show Tab.find (v.part b.pt).slots b.slot = _ from hfind]
  cases hx : Tab.find (u.part a.pt).slots a.slot with
  | none => rfl
  | some x =>
    dsimp -zeta only
    extract_lets w
    rw [if_pos (by rw [hoff x hx]; decide)]

/-- A try of the device under an epoch that is not current goes back to its command (R321). -/
theorem exec_passTry_stale {y : Cmd} (h : s.Hears 0x30 fr u) (hx : Tab.find (u.part a.pt).slots a.slot = some x) (hen : x.d.enabled = true)
    (hcur : u.passCurrent fr a (u.slotDie a.pt a.slot) = false) (hcmds : u.cmds = [y]) (hctx : y.ctx = fr.srcCtx) (hlive : y.live = true)
    (htried : y.tried a = true) : ∃ v, LinksOnly u v ∧ exec (.passTry fr a) s = .next (v.passRefused y.id).settle := by
  obtain ⟨l, o, hack⟩ := ack_linksOnly u fr
  have hexec := hears_pass (g := fun s => s.passTry fr a) h (by decide) rfl
  have hlinks : LinksOnly u (if x.seen fr a then (u.ack fr).countDup else u.ack fr) := by
    split
    · exact (ack_linksOnly u fr).trans (countDup_linksOnly _)
    · exact ack_linksOnly u fr
  refine ⟨if x.seen fr a then (u.ack fr).countDup else u.ack fr, hlinks, hexec.trans ?_⟩
  have hx' : Tab.find ((u.ack fr).part a.pt).slots a.slot = some x := by
    rw [hack]
    exact hx
  have hfind : (if x.seen fr a then (u.ack fr).countDup else u.ack fr).cmds.find? (fun y => y.ctx == fr.srcCtx && y.live && y.tried a) = some y := by
    obtain ⟨l, o, hl⟩ := hlinks
    rw [hl]
    simp [hcmds, hctx, hlive, htried]
  clear hack hlinks
  refine congrArg (fun t : State => Host.Outcome.next t.settle) ?_
  extract_lets now v b none_
  rw [show Tab.find (v.part b.pt).slots b.slot = some x from hx']
  dsimp -zeta only
  extract_lets w
  rw [if_neg (by rw [hen]; decide), if_pos (by rw [show now = false from hcur]; decide),
    show w.cmds.find? (fun y => y.ctx == fr.srcCtx && y.live && y.tried b) = some y from hfind]
  rfl

theorem account_stands (s : State) (g c i n : Nat) :
    (s.account g c i n).cmds = s.cmds ∧ (s.account g c i n).parts = s.parts ∧ (s.account g c i n).pt = s.pt := ⟨rfl, rfl, rfl⟩

/-- The only command, running and open to a kill, is requeued without its tries (R330). -/
theorem kill_alone {v : State} {y : Cmd} (hcmds : v.cmds = [y]) (hphase : y.phase = .issued) (hshield : y.shielded = false) :
    (v.kill y.id).parts = v.parts ∧ (v.kill y.id).pt = v.pt ∧ ∃ z, (v.kill y.id).cmds = [z] ∧ z.id = y.id ∧ z.phase = .accepted ∧
      z.kills = y.kills + 1 ∧ z.writes = [] ∧ z.toks = [] := by
  unfold State.kill
  rw [cmd_alone hcmds]
  dsimp -zeta only
  rw [if_pos (by rw [hphase, hshield]; rfl)]
  extract_lets lost freed requeued forgotten counted
  obtain ⟨b, n, hfreed⟩ : BlocksOnly v freed := (freeBlocks_blocksOnly v y).trans
    (foldl_rel BlocksOnly.refl BlocksOnly.trans (fun t b => updBlock_blocksOnly t b _) y.blocks (v.freeBlocks y))
  have hkept : freed.cmds = [y] ∧ freed.parts = v.parts ∧ freed.pt = v.pt := by
    rw [hfreed]
    exact ⟨hcmds, rfl, rfl⟩
  have hrequeued : ∃ z, requeued.cmds = [z] ∧ requeued.parts = freed.parts ∧ requeued.pt = freed.pt ∧ z.id = y.id ∧ z.phase = .accepted ∧
      z.kills = y.kills + 1 ∧ z.writes = [] ∧ z.toks = [] := by
    unfold requeued
    clear_value freed
    rw [updCmd_alone hkept.1]
    exact ⟨_, rfl, rfl, rfl, rfl, rfl, rfl, rfl, rfl⟩
  obtain ⟨z, hzcmds, hparts, hpt, hz⟩ := hrequeued
  clear_value freed requeued lost
  have hforgotten : forgotten.cmds = requeued.cmds ∧ forgotten.parts = requeued.parts ∧ forgotten.pt = requeued.pt := ⟨rfl, rfl, rfl⟩
  obtain ⟨c₁, p₁, t₁⟩ := hforgotten
  obtain ⟨c₂, p₂, t₂⟩ := account_stands forgotten y.strm y.ctx 3 1
  obtain ⟨c₃, p₃, t₃⟩ := account_stands counted y.strm y.ctx 4 lost
  exact ⟨p₃.trans (p₂.trans (p₁.trans (hparts.trans hkept.2.1))), t₃.trans (t₂.trans (t₁.trans (hpt.trans hkept.2.2))), z,
    c₃.trans (c₂.trans (c₁.trans hzcmds)), hz⟩

end

/-- Settles O41, clause by clause. -/
theorem passTryPlaces : Obligations.PassTryPlaces := by
  unfold Obligations.PassTryPlaces
  refine ⟨fun s u fr a x k p hears hx hen hcur hbuf hbatch hsealed hreleased hkey hp hfree hbelow => ?_,
    fun s u fr a x k r hears hx hen hcur hbuf hbatch hsealed hreleased hkey => ?_,
    fun s u fr a x hears hx hen hcur hbuf hreleased hcap => ?_,
    fun s u fr a x k hears hx hen hcur hbuf hbatch hsealed hreleased hkey hfull => ?_,
    fun s u fr a x k hears hx hen hcur hbuf hwrong => ?_, fun s u fr a hears hoff => ?_,
    fun s u fr a x y hears hx hen hcur hcmds hctx hphase hshield htried => ?_⟩
  · have hk : tryBuf x a = k := by rw [tryBuf, hbuf]; rfl
    have hdec := decide_placed (fr := fr) (a := a) (x := x) ⟨hk ▸ hbatch, hk ▸ hsealed, hreleased⟩ (hk ▸ hkey) (hk ▸ freePos_lowest hp hfree hbelow)
    rw [hk] at hdec
    obtain ⟨t, f, e, hexec, hslot, hout, hctxs, hcmds', hhbm⟩ := passTry_places hears hx hen hcur hdec
    exact ⟨t, _, _, f, reserve fr a p, _, hexec, hslot, Tab.find_set_same .., rfl, rfl, rfl, by simp [Resv.sameKey, reserve], rfl, rfl, rfl, rfl, rfl,
      hout, rfl, rfl, rfl, rfl, rfl, hhbm (by rw [hbuf]; rfl), hctxs, hcmds'⟩
  · have hk : tryBuf x a = k := by rw [tryBuf, hbuf]; rfl
    have hdec := decide_again (fr := fr) (a := a) (x := x) ⟨hk ▸ hbatch, hk ▸ hsealed, hreleased⟩ (hk ▸ hkey)
    rw [hk] at hdec
    obtain ⟨t, f, e, hexec, hslot, hout, -⟩ := passTry_places hears hx hen hcur hdec
    exact ⟨t, _, _, f, _, hexec, hslot, Tab.find_set_same .., rfl, rfl, rfl, rfl, rfl, rfl, hout, rfl, rfl, rfl⟩
  · have hk : tryBuf x a = { batch := a.batch } := by rw [tryBuf, hbuf]; rfl
    have hdec := decide_placed (fr := fr) (a := a) (x := x) ⟨by rw [hk], by rw [hk]; unfold SlotBuf.phase; split <;> rfl, hreleased⟩ (by rw [hk]; rfl)
      (by rw [hk]; exact freePos_lowest hcap (fun r hr => nomatch hr) (fun q hq => absurd hq (Nat.not_lt_zero q)))
    rw [hk] at hdec
    obtain ⟨t, f, e, hexec, hslot, hout, -, hcmds', -⟩ := passTry_places hears hx hen hcur hdec
    exact ⟨t, _, _, f, reserve fr a 0, _, hexec, hslot, Tab.find_set_same .., rfl, rfl, rfl, by simp [Resv.sameKey, reserve], rfl, hout, rfl, rfl, hcmds'⟩
  · have hk : tryBuf x a = k := by rw [tryBuf, hbuf]; rfl
    have hdec := decide_full (fr := fr) (a := a) (x := x) ⟨hk ▸ hbatch, hk ▸ hsealed, hreleased⟩ (hk ▸ hkey) (hk ▸ freePos_full hfull)
    obtain ⟨t, f, e, hexec, hslot, hout, hhbm⟩ := passTry_refuses hears hx hen hcur hdec
    exact ⟨t, f, _, hexec, hslot, hout, rfl, rfl, rfl, hhbm⟩
  · have hk : tryBuf x a = k := by rw [tryBuf, hbuf]; rfl
    have hdec := decide_refused (fr := fr) (a := a) (x := x) (by rw [hk]; exact hwrong)
    rw [hk] at hdec
    obtain ⟨t, f, e, hexec, hslot, hout, hhbm⟩ := passTry_refuses hears hx hen hcur hdec
    exact ⟨t, f, _, hexec, hslot, hout, rfl, rfl, rfl, hhbm⟩
  · obtain ⟨v, e, ⟨l, o, hv⟩, hexec⟩ := exec_passTry_disabled hears hoff
    obtain ⟨l', o', b', c', hu⟩ := hears_only hears
    have hkept : v.parts = s.parts ∧ v.passRegs = s.passRegs ∧ v.hbm = s.hbm ∧ v.fenced = s.fenced := by
      rw [hv, hu]
      exact ⟨rfl, rfl, rfl, rfl⟩
    clear hv hu
    obtain ⟨f, hout⟩ := answerTry_disabled
      (s := { v with passRegs := { v.passRegs with badDest := sat32 v.passRegs.badDest 1 } })
      (hkept.2.2.2.trans (hears_current hears (by decide)).1) fr { a with epoch := e }
    obtain ⟨l, o, ht⟩ := answerTry_linksOnly ({ v with passRegs := { v.passRegs with badDest := sat32 v.passRegs.badDest 1 } }) fr
      { a with epoch := e } none true
    refine ⟨_, f, _, hexec, ?_, ?_, settle_sent hout, rfl, rfl, rfl, ?_⟩
    · exact (congrArg State.parts ht :).trans hkept.1
    · exact (congrArg (·.passRegs.badDest) ht :).trans (congrArg (fun r => sat32 r.badDest 1) hkept.2.1)
    · exact (congrArg State.hbm ht :).trans hkept.2.2.1
  · have hlive : y.live = true := by simp [Cmd.live, hphase]
    obtain ⟨v, ⟨l, o, hv⟩, hexec⟩ := exec_passTry_stale hears hx hen hcur hcmds hctx hlive htried
    obtain ⟨l', o', b', c', hu⟩ := hears_only hears
    have hpt : v.pt = s.pt := by rw [hv, hu]
    have hvcmds : v.cmds = [y] := by rw [hv]; exact hcmds
    have hvx : Tab.find (v.part a.pt).slots a.slot = some x := by rw [hv]; exact hx
    obtain ⟨hparts, hkpt, z, hz, hrest⟩ := kill_alone (v := { v with pt := { v.pt with mmRefuse := sat32 v.pt.mmRefuse 1 } }) hvcmds hphase hshield
    obtain ⟨hid, hph, hkills, hwrites, htoks⟩ := hrest
    refine ⟨_, z, hexec, ?_, hz, hid, hph, hkills, hwrites, htoks, ?_⟩
    · exact (congrArg PtMod.mmRefuse hkpt :).trans (congrArg (fun r : PtMod => sat32 r.mmRefuse 1) hpt)
    · exact (congrArg (fun ps => Tab.find (Tab.get {} ps a.pt : Part).slots a.slot) hparts :).trans hvx

end Sys2Proof.Proofs
end

section
/-! SUPPORT. O42: the answers to tries, markers and rows of the Pass network (R219, R221, R224, R227, R228, R231, R235, R236). -/
namespace Sys2Proof.Proofs
open Sys2Proof Sys2Proof.Machine

/-! ### The answer to a try (R219) -/

section
variable (d : RouteTab) (k : Tok) (i : Nat)

theorem setSt_waiting (st : Nat) : (k.setSt i st).waiting = k.waiting := by
  unfold Tok.setSt
  split <;> rfl

theorem setSt_ents {e : RouteEnt} (h : k.ents[i]? = some e) (st : Nat) : (k.setSt i st).ents = setAt k.ents i { e with st := st } := by
  unfold Tok.setSt
  rw [h]

/-- An answer ends the wait for it, and no other. -/
theorem answerTok_waiting (pos : Option Nat) (buf : Nat) (disabled : Bool) :
    (answerTok d k i pos buf disabled).waiting = k.waiting.filter (· != i) := by
  unfold answerTok
  extract_lets j
  split
  · rfl
  · split
    · exact setSt_waiting j i 6
    · split
      · split
        · rfl
        · dsimp only
          split
          · exact setSt_waiting ..
          · rfl
      · split
        · rfl
        · exact setSt_waiting ..

variable {d k i} {e : RouteEnt}

/-- An open try that is answered with a position. -/
theorem answerTok_placed (h : k.ents[i]? = some e) (hi : i < d.kUse) (p b : Nat) :
    (answerTok d k i (some p) b false).ents = setAt k.ents i { e with st := 1, buf := b, pos := p } := by
  unfold answerTok
  dsimp only
  rw [h]
  dsimp only
  rw [if_neg Bool.false_ne_true, if_pos hi]

/-- One that is answered by a slot that is not enabled. -/
theorem answerTok_disabled (h : k.ents[i]? = some e) (b : Nat) : (answerTok d k i none b true).ents = setAt k.ents i { e with st := 6 } := by
  unfold answerTok
  dsimp only
  rw [h]
  dsimp only
  rw [if_pos rfl]
  exact setSt_ents _ i (by exact h) 6

/-- A primary choice that is refused is to be settled. -/
theorem answerTok_refused (h : k.ents[i]? = some e) (hi : i < d.kUse) (b : Nat) : (answerTok d k i none b false).ents = k.ents ∧
    i ∈ (answerTok d k i none b false).refused ∧ (answerTok d k i none b false).full = k.full + 1 := by
  unfold answerTok
  dsimp only
  rw [h]
  dsimp only
  rw [if_neg Bool.false_ne_true, if_pos hi]
  exact ⟨rfl, List.mem_append_right _ (List.mem_cons_self ..), rfl⟩

/-- A spare that is refused is lost. -/
theorem answerTok_spare (h : k.ents[i]? = some e) (hi : ¬ i < d.kUse) (b : Nat) :
    (answerTok d k i none b false).ents = setAt k.ents i { e with st := 2 } := by
  unfold answerTok
  dsimp only
  rw [h]
  dsimp only
  rw [if_neg Bool.false_ne_true, if_neg hi]
  exact setSt_ents _ i (by exact h) 2

theorem answerTok_others (h : k.ents[i]? = some e) (b : Nat) {j : Nat} (hj : j ≠ i) :
    (answerTok d k i none b false).ents[j]? = k.ents[j]? := by
  by_cases hi : i < d.kUse
  · rw [(answerTok_refused h hi b).1]
  · rw [answerTok_spare h hi b]
    exact setAt_ne _ _ hj

end

/-! ### Markers (R224) -/

section
variable (k : SlotBuf) (fr : Frame) (a : PassArgs)

theorem phase_setPhase (ph : Nat) (f : PhaseSt → PhaseSt) : (k.setPhase ph f).phase ph = f (k.phase ph) := by
  unfold SlotBuf.setPhase SlotBuf.phase
  by_cases h : ph = 0
  · rw [if_pos h, if_pos h, if_pos h]
  · rw [if_neg h, if_neg h, if_neg h]

/-- A marker that a buffer has taken, it has taken. -/
theorem mark_marked (kind n : Nat) : (k.mark fr a kind n).marked fr a kind n = true := by
  unfold SlotBuf.mark SlotBuf.marked
  by_cases h : kind = markClose
  · rw [if_pos h, if_pos h, phase_setPhase]
    simp [markKey]
  · rw [if_neg h, if_neg h, phase_setPhase]
    simp

/-- What a commit marker of the forward phase does to its buffer. -/
theorem mark_commits (hph : a.phase = 0) (n : Nat) :
    (∀ r ∈ (k.mark fr a 0 n).resv, r.sameKey fr a = true → r.committed = true) ∧ (k.mark fr a 0 n).rows = k.rows ∧
    (k.mark fr a 0 n).fwd.commits = k.fwd.commits ++ [(fr.src, fr.srcCtx, a.opt * 64 + a.table, n)] := by
  have hmark : k.mark fr a 0 n = { k with
      resv := k.resv.map (fun (r : Resv) => { r with committed := r.committed || r.sameKey fr a }),
      fwd := { k.fwd with commits := k.fwd.commits ++ [markKey fr a n] } } := by
    unfold SlotBuf.mark SlotBuf.setPhase
    simp [hph, markClose]
  rw [hmark]
  refine ⟨fun r hr hkey => ?_, rfl, rfl⟩
  obtain ⟨q, -, rfl⟩ := List.mem_map.mp hr
  exact Bool.or_eq_true_iff.mpr (.inr hkey)

end

/-- An acknowledgement changes what sending changes. -/
theorem ack_sendsOnly (s : State) (fr : Frame) : SendsOnly s (s.ack fr) := sendFrame_sendsOnly ..

/-! ### PASS_REPLY -/

section
variable {s u : State} {fr : Frame} {a : PassArgs} {pos : Option Nat}

/-- An answer to a command of an older generation (R236). -/
theorem passReply_late (h : s.Hears 0x31 fr u) (hold : older16 a.gen (u.ctx fr.dstCtx).gen = true) :
    exec (.passReply fr a pos) s = .next ((u.ack fr).passLate).settle := by
  refine (hears_pass (g := fun s => s.passReply fr a pos) h (by decide) rfl).trans ?_
  rw [if_pos hold]

/-- A command with an open try is not settled. -/
theorem settleTries_open {v : State} {y : Cmd} {j : Tok} (hcmds : v.cmds = [y]) (hj : j ∈ y.toks) (hopen : j.waiting.isEmpty = false) :
    v.settleTries y.id = v := by
  have hnot : y.toksSettled = false := List.all_eq_false.mpr ⟨j, hj, by rw [hopen]; simp⟩
  unfold State.settleTries
  rw [updCmd_alone hcmds, hnot]
  simp [← hcmds]

/-- An answer to a try that the only command has open. -/
theorem passReply_open {x : Cmd} {k : Tok} (h : s.Hears 0x31 fr u) (hgen : older16 a.gen (u.ctx fr.dstCtx).gen = false) (hcmds : u.cmds = [x])
    (hctx : x.ctx = fr.dstCtx) (hphase : x.phase = .issued) (htoks : x.toks = [k]) (hid : x.id = a.cmd) (htable : k.table = a.table)
    (hbatch : k.batch = a.batch) (htoken : k.token = a.token) (hnth : k.nth = a.nth) (hwait : k.waiting = [a.entry, a.entry + 1])
    (hcur : u.passCurrent fr a (u.sendDie x k.origin) = true) :
    ∃ v, SendsOnly u v ∧ exec (.passReply fr a pos) s =
      .next ({ v with cmds := [{ x with toks := [answerTok (u.tabD x a.table) k a.entry pos a.buf a.disabled] }] } : State).settle := by
  have hlive : x.live = true := by simp [Cmd.live, hphase]
  have hix : x.tokIx a = some 0 := by
    unfold Cmd.tokIx
    rw [htoks]
    simp [htable, hbatch, htoken, hnth, hid, hwait]
  have hfind : u.cmds.findSome? (fun x => if x.ctx = fr.dstCtx && x.live then (x.tokIx a).map (fun i => (x, i)) else none) = some (x, 0) := by
    rw [hcmds]
    simp [hctx, hlive, hix]
  refine ⟨u.ack fr, ack_sendsOnly u fr, (hears_pass (g := fun s => s.passReply fr a pos) h (by decide) rfl).trans ?_⟩
  refine congrArg (fun t : State => Host.Outcome.next t.settle) ?_
  rw [if_neg (by rw [hgen]; decide), hfind]
  dsimp -zeta only
  extract_lets v k0 j r
  obtain ⟨hvcmds, hvcur, hvtab⟩ : v.cmds = [x] ∧ v.passCurrent fr a (v.sendDie x k.origin) = true ∧ v.tabD x a.table = u.tabD x a.table := by
    obtain ⟨_, _, _, _, _, _, hack⟩ := ack_sendsOnly u fr
    rw [show v = _ from hack]
    exact ⟨hcmds, hcur, rfl⟩
  have hk0 : k0 = k := by
    unfold k0
    rw [htoks]
    rfl
  have hj : j = answerTok (u.tabD x a.table) k a.entry pos a.buf a.disabled := by
    unfold j
    rw [hvtab, hk0]
  have hopen : j.waiting = [a.entry + 1] := by
    rw [hj, answerTok_waiting, hwait]
    simp
  have hr : r = (v, j) := if_pos (by rw [hopen]; rfl)
  rw [hk0, if_neg (by rw [hvcur]; decide), hr, updCmd_alone hvcmds, htoks, ← hj]
  exact settleTries_open (y := { x with toks := [j] }) rfl (List.mem_singleton.mpr rfl) (by rw [hopen]; rfl)

/-- An answer to no live command of its context. -/
theorem passReply_stray (h : s.Hears 0x31 fr u) (hgen : older16 a.gen (u.ctx fr.dstCtx).gen = false)
    (hnone : ∀ x ∈ u.cmds, x.ctx = fr.dstCtx → x.live = false) :
    exec (.passReply fr a pos) s = .next ({ u with lnk := { u.lnk with stray := sat32 u.lnk.stray 1 } } : State).settle := by
  have hfind : u.cmds.findSome? (fun x => if x.ctx = fr.dstCtx && x.live then (x.tokIx a).map (fun i => (x, i)) else none) = none :=
    List.findSome?_eq_none_iff.mpr fun x hx => if_neg fun hc => by
      obtain ⟨hctx, hlive⟩ := Bool.and_eq_true_iff.mp hc
      exact Bool.false_ne_true ((hnone x hx (of_decide_eq_true hctx)).symm.trans hlive)
  have hany : u.cmds.any (fun x => x.ctx == fr.dstCtx && x.live && x.tried a) = false :=
    List.any_eq_false.mpr fun x hx hc => by
      simp only [Bool.and_eq_true, beq_iff_eq] at hc
      exact Bool.false_ne_true ((hnone x hx hc.1.1).symm.trans hc.1.2)
  refine (hears_pass (g := fun s => s.passReply fr a pos) h (by decide) rfl).trans ?_
  rw [if_neg (by rw [hgen]; decide), hfind]
  dsimp only
  rw [if_neg (by rw [hany]; decide)]
  rfl

/-! ### PASS_MARK -/

/-- A commit or close marker for a batch that its buffer holds. -/
theorem passMark_slot {kind n : Nat} {x : SlotSt} {k : SlotBuf} (h : s.Hears 0x32 fr u) (hkind : kind ≤ 1)
    (hx : Tab.find (u.part a.pt).slots a.slot = some x) (hen : x.d.enabled = true)
    (hbuf : Tab.find x.bufs (a.batch.toNat % Nat.max 1 x.d.nbuf) = some k) (hbatch : k.batch = a.batch)
    (hcur : u.passCurrent fr a (u.homeDie a.pt x) = true) :
    exec (.passMark fr a kind n) s = .next (if k.marked fr a kind n then (u.ack fr).countDup else
      (u.ack fr).updSlot a.pt a.slot (fun y => { y with bufs := Tab.set y.bufs (a.batch.toNat % Nat.max 1 x.d.nbuf) (k.mark fr a kind n) })).settle := by
  refine (hears_pass (g := fun s => s.passMark fr a kind n) h (by decide) rfl).trans ?_
  refine congrArg (fun t : State => Host.Outcome.next t.settle) ?_
  rw [if_pos (show kind ≤ markClose from hkind)]
  unfold State.slotMark
  rw [hx]
  dsimp only
  rw [hbuf]
  dsimp only [Option.getD_some, Option.isNone_some]
  rw [if_neg (by simp [hbatch, hen]), if_neg (by rw [hcur]; decide), if_neg Bool.false_ne_true]

/-- A marker for a slot that is not there, or a batch that the table does not hold. -/
theorem passMark_stray {kind n : Nat} (h : s.Hears 0x32 fr u)
    (hnone : (kind ≤ 1 ∧ Tab.find (u.part a.pt).slots a.slot = none) ∨
      (1 < kind ∧ (Tab.get {} (u.part a.opt).tabs a.table).batch a.batch = none)) :
    exec (.passMark fr a kind n) s = .next ({ u with lnk := { u.lnk with stray := sat32 u.lnk.stray 1 } } : State).settle := by
  refine (hears_pass (g := fun s => s.passMark fr a kind n) h (by decide) rfl).trans ?_
  refine congrArg (fun t : State => Host.Outcome.next t.settle) ?_
  rcases hnone with ⟨hkind, hslot⟩ | ⟨hkind, hbatch⟩
  · rw [if_pos (show kind ≤ markClose from hkind)]
    unfold State.slotMark
    rw [hslot]
    rfl
  · rw [if_neg (show ¬ kind ≤ markClose from by unfold markClose; omega)]
    unfold State.originMark
    rw [hbatch]
    rfl

/-- Losing a slot ends commands, and leaves the partitions and HBM. -/
theorem slotLost_stands (t : State) (id table : Nat) : (t.slotLost id table).parts = t.parts ∧ (t.slotLost id table).hbm = t.hbm := ⟨rfl, rfl⟩

/-- A return or lost marker for a batch that has not had it. -/
theorem passMark_origin {kind n : Nat} {b : BatchSt} (h : s.Hears 0x32 fr u) (hkind : 1 < kind)
    (hbatch : (Tab.get {} (u.part a.opt).tabs a.table).batch a.batch = some b)
    (hnew : (if kind = 3 then b.lost else (if a.phase = 0 then b.retF else b.retB).contains (slotKey fr.src a.pt a.slot)) = false) :
    ∃ t, exec (.passMark fr a kind n) s = .next t ∧ t.hbm = u.hbm ∧
      t.parts = (u.updTab a.opt a.table (fun t => t.updBatch a.batch (fun b => b.takeMark kind a.phase (slotKey fr.src a.pt a.slot)))).parts := by
  have hexec := hears_pass (g := fun s => s.passMark fr a kind n) h (by decide) rfl
  refine ⟨_, hexec, ?_⟩
  rw [if_neg (show ¬ kind ≤ markClose from by unfold markClose; omega)]
  unfold State.originMark
  dsimp only
  rw [hbatch]
  dsimp only
  rw [if_neg (by rw [show markLost = 3 from rfl, hnew]; decide)]
  obtain ⟨_, _, _, _, _, _, hack⟩ := ack_sendsOnly u fr
  generalize hv : (u.ack fr).updTab a.opt a.table (fun t => t.updBatch a.batch fun b => b.takeMark kind a.phase (slotKey fr.src a.pt a.slot)) = v
  have hkept : v.hbm = u.hbm ∧
      v.parts = (u.updTab a.opt a.table (fun t => t.updBatch a.batch (fun b => b.takeMark kind a.phase (slotKey fr.src a.pt a.slot)))).parts := by
    rw [← hv, hack]
    exact ⟨rfl, rfl⟩
  have hlost (l : List Nat) (t : State) : (l.foldl (fun (s : State) id => s.slotLost id a.table) t).parts = t.parts ∧
      (l.foldl (fun (s : State) id => s.slotLost id a.table) t).hbm = t.hbm :=
    foldl_rel (r := fun t t' : State => t'.parts = t.parts ∧ t'.hbm = t.hbm) (fun _ => ⟨rfl, rfl⟩)
      (fun h h' => ⟨h'.1.trans h.1, h'.2.trans h.2⟩) (fun t id => slotLost_stands t id a.table) l t
  split
  · exact hkept
  · exact ⟨(hlost _ v).2.trans hkept.1, (hlost _ v).1.trans hkept.2⟩

/-! ### PASS_ROW -/

/-- A backward row for a position of a buffer that expects it. -/
theorem passRow_grad {p : Nat} {x : SlotSt} {k : SlotBuf} (h : s.Hears 0x33 fr u) (hpull : a.pull = false)
    (hx : Tab.find (u.part a.pt).slots a.slot = some x) (hbuf : x.buf a.batch = some k) (hcur : u.passCurrent fr a (u.homeDie a.pt x) = true)
    (hback : x.d.backward = true) (hopen : k.bwd.isSealed = false) (hp : p < x.d.cap) :
    exec (.passRow fr a p) s = .next (if Tab.find k.bwd.runs p = some (a.cmd * 2 ^ 32 + a.run) then (u.ack fr).countDup else
      (if k.grads.isEmpty then (u.ack fr).slotUndef x.d x.d.grad (a.batch.toNat % Nat.max 1 x.d.nbuf) else u.ack fr).updSlot a.pt a.slot
        (fun y => { y with bufs := Tab.set y.bufs (a.batch.toNat % Nat.max 1 x.d.nbuf) { k with
          grads := Tab.set k.grads p fr.payload, bwd := { k.bwd with runs := Tab.set k.bwd.runs p (a.cmd * 2 ^ 32 + a.run) } } })).settle := by
  refine (hears_pass (g := fun s => s.passRow fr a p) h (by decide) rfl).trans ?_
  refine congrArg (fun t : State => Host.Outcome.next t.settle) ?_
  rw [if_pos (by rw [hpull]; rfl)]
  unfold State.gradRow
  rw [hx]
  dsimp only
  rw [hbuf]
  dsimp only
  rw [if_neg (by rw [hcur]; decide), if_pos (by simp [hback, hopen, hp])]

/-- A COMBINE's request, answered with the row that the slot's output holds. -/
theorem passRow_request {p : Nat} {x : SlotSt} (h : s.Hears 0x33 fr u) (hpull : a.pull = true) (hpay : fr.payload = [])
    (hx : Tab.find (u.part a.pt).slots a.slot = some x) :
    exec (.passRow fr a p) s = .next ((u.ack fr).sendPass 0 0x33 (passFrame u fr.src fr.srcCtx fr.dstCtx a (p * rowBytes x.d.rowUnits)
      (u.outRow a.pt a.slot a.buf p (rowBytes x.d.rowUnits))) a [p]).settle := by
  refine (hears_pass (g := fun s => s.passRow fr a p) h (by decide) rfl).trans ?_
  refine congrArg (fun t : State => Host.Outcome.next t.settle) ?_
  rw [if_neg (by rw [hpull]; decide), if_pos (by rw [hpay]; rfl), hx]
  rfl

/-- A row that no COMBINE pulls. -/
theorem passRow_stray {p : Nat} (h : s.Hears 0x33 fr u) (hpull : a.pull = true) (hpay : fr.payload ≠ [])
    (hgen : older16 a.gen (u.ctx fr.dstCtx).gen = false) (hnone : ∀ x ∈ u.cmds, x.pulling fr.dstCtx a = none) :
    exec (.passRow fr a p) s = .next ({ u with lnk := { u.lnk with stray := sat32 u.lnk.stray 1 } } : State).settle := by
  have hfind : u.cmds.findSome? (fun x => (x.pulling fr.dstCtx a).map (fun r => (x, r))) = none :=
    List.findSome?_eq_none_iff.mpr fun x hx => by rw [hnone x hx]; rfl
  refine (hears_pass (g := fun s => s.passRow fr a p) h (by decide) rfl).trans ?_
  refine congrArg (fun t : State => Host.Outcome.next t.settle) ?_
  rw [if_neg (by rw [hpull]; decide), if_neg (by simpa using hpay), if_neg (by rw [hgen]; decide)]
  unfold State.pulledRow
  rw [hfind]
  rfl

end

/-- Making a buffer area undefined leaves what is not HBM. -/
theorem slotUndef_stands (s : State) (d : SlotDesc) (r : Ref) (j : Nat) :
    (s.slotUndef d r j).parts = s.parts ∧ (s.slotUndef d r j).ctxs = s.ctxs ∧ (s.slotUndef d r j).cmds = s.cmds := by
  unfold State.slotUndef
  dsimp only
  split <;> exact ⟨rfl, rfl, rfl⟩

/-- Settles O42, clause by clause. -/
theorem passAnswers : Obligations.PassAnswers := by
  unfold Obligations.PassAnswers
  refine ⟨fun s u fr a pos hears hold => ?_, fun s u fr a pos x k hears hgen hcmds hctx hphase htoks hid htable hbatch htoken hnth hwait hcur => ?_,
    fun s u fr a pos hears hgen hnone => passReply_stray hears hgen hnone, fun d k i p b e he => ?_,
    fun s u fr a kind n x k hears hkind hx hen hbuf hbatch hcur => ?_, fun s u fr a kind n hears hnone => passMark_stray hears hnone,
    fun k fr a kind n => mark_marked k fr a kind n, fun k fr a n hph => mark_commits k fr a hph n,
    fun s u fr a kind n b hears hkind hbatch hnew => ?_, fun s u fr a pos x k hears hpull hx hbuf hcur hback hopen hp => ?_,
    fun s u fr a pos x hears hpull hpay hx => ?_, fun s u fr a pos hears hpull hpay hgen hnone => passRow_stray hears hpull hpay hgen hnone⟩
  · obtain ⟨_, _, _, _, _, _, hack⟩ := ack_sendsOnly u fr
    obtain ⟨l, o, b, c, hu⟩ := hears_only hears
    refine ⟨_, passReply_late hears hold, ?_, ?_, ?_⟩
    · exact (congrArg (fun t : State => sat32 t.passRegs.late 1) hack :).trans (congrArg (fun t : State => sat32 t.passRegs.late 1) hu :)
    · exact (congrArg State.cmds hack :)
    · exact (congrArg State.parts hack :).trans (congrArg State.parts hu :)
  · obtain ⟨v, ⟨_, _, _, _, _, _, hv⟩, hexec⟩ := passReply_open (pos := pos) hears hgen hcmds hctx hphase htoks hid htable hbatch htoken hnth hwait hcur
    obtain ⟨l, o, b, c, hu⟩ := hears_only hears
    exact ⟨_, _, hexec, rfl, hphase, rfl, (congrArg State.parts hv :).trans (congrArg State.parts hu :),
      (congrArg State.hbm hv :).trans (congrArg State.hbm hu :)⟩
  · have hi : i < k.ents.length := (List.getElem?_eq_some_iff.mp he).1
    refine ⟨fun hk => ?_, ?_, fun j hj => answerTok_others he b hj, ?_, fun hk => (answerTok_refused he hk b).2⟩
    · rw [answerTok_placed he hk]
      exact setAt_same _ _ _ hi
    · rw [answerTok_disabled he]
      exact setAt_same _ _ _ hi
    · rw [answerTok_waiting]
      simp
  · obtain ⟨_, _, _, _, _, _, hack⟩ := ack_sendsOnly u fr
    obtain ⟨l, o, b, c, hu⟩ := hears_only hears
    have hexec := passMark_slot (n := n) hears hkind hx hen hbuf hbatch hcur
    have hhbm : (u.ack fr).hbm = s.hbm := (congrArg State.hbm hack :).trans (congrArg State.hbm hu :)
    have hcmds : (u.ack fr).cmds = u.cmds := (congrArg State.cmds hack :)
    have hparts : (u.ack fr).parts = u.parts := (congrArg State.parts hack :)
    have hdup : (u.ack fr).lnk.dup = u.lnk.dup := (congrArg (·.lnk.dup) hack :)
    have hxv : Tab.find ((u.ack fr).part a.pt).slots a.slot = some x := by
      unfold State.part at hx ⊢
      rw [hparts]
      exact hx
    generalize u.ack fr = v at hexec hhbm hcmds hparts hdup hxv
    by_cases hm : k.marked fr a kind n = true
    · rw [if_pos hm] at hexec
      exact ⟨_, hexec, hhbm, hcmds, fun h => absurd (hm.symm.trans h) (by decide), fun _ => ⟨hparts, congrArg (fun c => sat32 c 1) hdup⟩⟩
    · rw [if_neg hm] at hexec
      exact ⟨_, hexec, hhbm, hcmds, fun _ => updSlot_find hxv fun y => { y with bufs := Tab.set y.bufs (a.batch.toNat % Nat.max 1 x.d.nbuf) (k.mark fr a kind n) },
        fun h => absurd h hm⟩
  · obtain ⟨t, hexec, hhbm, hparts⟩ := passMark_origin (n := n) hears hkind hbatch hnew
    obtain ⟨l, o, b', c, hu⟩ := hears_only hears
    exact ⟨t, hexec, hhbm.trans (congrArg State.hbm hu :), hparts⟩
  · obtain ⟨_, _, _, _, _, _, hack⟩ := ack_sendsOnly u fr
    obtain ⟨l, o, b, c, hu⟩ := hears_only hears
    have hexec := passRow_grad hears hpull hx hbuf hcur hback hopen hp
    have hctxs : (u.ack fr).ctxs = s.ctxs := (congrArg State.ctxs hack :).trans (congrArg State.ctxs hu :)
    have hcmds : (u.ack fr).cmds = u.cmds := (congrArg State.cmds hack :)
    have hparts : (u.ack fr).parts = u.parts := (congrArg State.parts hack :)
    have hdup : (u.ack fr).lnk.dup = u.lnk.dup := (congrArg (·.lnk.dup) hack :)
    generalize u.ack fr = v at hexec hctxs hcmds hparts hdup
    by_cases hseen : Tab.find k.bwd.runs pos = some (a.cmd * 2 ^ 32 + a.run)
    · rw [if_pos hseen] at hexec
      exact ⟨_, hexec, hcmds, hctxs, fun _ => ⟨hparts, congrArg (fun c => sat32 c 1) hdup⟩, fun h => absurd hseen h⟩
    · rw [if_neg hseen] at hexec
      have hkept : (if k.grads.isEmpty then v.slotUndef x.d x.d.grad (a.batch.toNat % Nat.max 1 x.d.nbuf) else v).parts = u.parts ∧
          (if k.grads.isEmpty then v.slotUndef x.d x.d.grad (a.batch.toNat % Nat.max 1 x.d.nbuf) else v).ctxs = s.ctxs ∧
          (if k.grads.isEmpty then v.slotUndef x.d x.d.grad (a.batch.toNat % Nat.max 1 x.d.nbuf) else v).cmds = u.cmds := by
        obtain ⟨h1, h2, h3⟩ := slotUndef_stands v x.d x.d.grad (a.batch.toNat % Nat.max 1 x.d.nbuf)
        split
        · exact ⟨h1.trans hparts, h2.trans hctxs, h3.trans hcmds⟩
        · exact ⟨hparts, hctxs, hcmds⟩
      generalize (if k.grads.isEmpty then v.slotUndef x.d x.d.grad (a.batch.toNat % Nat.max 1 x.d.nbuf) else v) = w at hexec hkept
      obtain ⟨hwparts, hwctxs, hwcmds⟩ := hkept
      have hxw : Tab.find (w.part a.pt).slots a.slot = some x := by
        unfold State.part at hx ⊢
        rw [hwparts]
        exact hx
      have hslot := updSlot_find hxw fun y => { y with bufs := Tab.set y.bufs (a.batch.toNat % Nat.max 1 x.d.nbuf) { k with
        grads := Tab.set k.grads pos fr.payload, bwd := { k.bwd with runs := Tab.set k.bwd.runs pos (a.cmd * 2 ^ 32 + a.run) } } }
      exact ⟨_, hexec, hwcmds, hwctxs, fun h => absurd h hseen,
        fun _ => ⟨_, _, hslot, rfl, Tab.find_set_same .., rfl, rfl, rfl, rfl, rfl, rfl⟩⟩
  · have hexec := passRow_request (p := pos) hears hpull hpay hx
    obtain ⟨_, _, _, _, _, _, hack⟩ := ack_sendsOnly u fr
    obtain ⟨l, o, b, c, hu⟩ := hears_only hears
    have hfence : (u.ack fr).fenced = false := by
      rw [hack]
      exact (heard_fenced (hears_only hears)).trans (hears_current hears (by decide)).1
    have hhbm : (u.ack fr).hbm = s.hbm := (congrArg State.hbm hack :).trans (congrArg State.hbm hu :)
    have hcmds : (u.ack fr).cmds = u.cmds := (congrArg State.cmds hack :)
    have hparts : (u.ack fr).parts = u.parts := (congrArg State.parts hack :)
    generalize hv : u.ack fr = v at hexec hfence hhbm hcmds hparts
    have hout := sendPass_out v hfence 0 0x33 (passFrame u fr.src fr.srcCtx fr.dstCtx a (pos * rowBytes x.d.rowUnits)
      (u.outRow a.pt a.slot a.buf pos (rowBytes x.d.rowUnits))) a [pos]
    obtain ⟨_, _, _, _, _, _, hsent⟩ := sendPass_sendsOnly v 0 0x33 (passFrame u fr.src fr.srcCtx fr.dstCtx a (pos * rowBytes x.d.rowUnits)
      (u.outRow a.pt a.slot a.buf pos (rowBytes x.d.rowUnits))) a [pos]
    exact ⟨_, _, hexec, settle_sent hout, rfl, rfl, rfl, (congrArg State.parts hsent :).trans hparts, (congrArg State.cmds hsent :).trans hcmds,
      (congrArg State.hbm hsent :).trans hhbm⟩

end Sys2Proof.Proofs
end

section
/-! SUPPORT. O50: the values of the vector operations, reductions, OCC, GATE's choice and a VEC of one element (R67, R144 to R151). -/
namespace Sys2Proof.Proofs
open Sys2Proof Sys2Proof.Machine

/-! ### Exact operations on finite and on invalid operands (R67) -/

section
variable {a b : Exact} {u w : Fp}

@[simp] theorem ofInt_v (n : Int) : (Exact.ofInt n).v = some { neg := decide (n < 0), mag := n.natAbs, e := 0 } := rfl

theorem add_v (ha : a.v = some u) (hb : b.v = some w) : (a.add b).v = some (u.add w) := by
  simp [Exact.add, ha, hb]

theorem times_v (ha : a.v = some u) (hb : b.v = some w) : (a.times b).v = some (u.mul w) := by
  simp [Exact.times, ha, hb]

theorem neg_v (ha : a.v = some u) : a.neg.v = some u.negate := by
  simp [Exact.neg, ha]

theorem add_invalid_left (ha : a.v = none) : (a.add b).v = none := by
  simp [Exact.add, ha]

theorem times_invalid_left (ha : a.v = none) : (a.times b).v = none := by
  simp [Exact.times, ha]

theorem times_invalid_right (hb : b.v = none) : (a.times b).v = none := by
  cases ha : a.v <;> simp [Exact.times, ha, hb]

theorem add_invalid_right (hb : b.v = none) : (a.add b).v = none := by
  cases ha : a.v <;> simp [Exact.add, ha, hb]

theorem neg_invalid (ha : a.v = none) : a.neg.v = none := by
  simp [Exact.neg, ha]

theorem toW40_invalid (ha : a.v = none) : a.toW40.v = none := by
  simp [Exact.toW40, ha]

theorem pick_invalid_left (m : Bool) (ha : a.v = none) : (Exact.pick m a b).v = none := by
  simp [Exact.pick, ha]

theorem pick_invalid_right (m : Bool) (hb : b.v = none) : (Exact.pick m a b).v = none := by
  cases ha : a.v <;> simp [Exact.pick, ha, hb]

theorem onFinite_invalid (f : Fp → Exact) (ha : a.v = none) : (onFinite a f).v = none := by
  simp [onFinite, ha]

theorem onFinite_v (f : Fp → Exact) (ha : a.v = some u) : (onFinite a f).v = (f u).v := by
  simp [onFinite, ha]

end

/-! ### RELU: the larger of a number and +0 (R145) -/

theorem fpZero_val : dyVal Fp.zero.toDy = 0 := by
  simp [dyVal, Fp.toDy, Fp.zero]

theorem fp_nonneg_val {u : Fp} (h : u.neg = false) : 0 ≤ dyVal u.toDy := by
  simp only [dyVal, Fp.toDy, h, Bool.false_eq_true, if_false]
  positivity

theorem fp_neg_val {u : Fp} (h : u.neg = true) : dyVal u.toDy ≤ 0 := by
  have hpos : (0 : ℚ) ≤ (u.mag : ℚ) * 2 ^ u.e := by positivity
  simp only [dyVal, Fp.toDy, h, if_true]
  push_cast
  linarith

theorem pick_zero_of_neg {a : Exact} {u : Fp} (ha : a.v = some u) (h : u.neg = true) :
    (Exact.pick true a { v := some Fp.zero }).v = some Fp.zero := by
  have hless : (u.lt Fp.zero || (u.eqv Fp.zero && u.neg && !Fp.zero.neg)) = true := by
    obtain hlt | heq := lt_or_eq_of_le (fp_neg_val h)
    · have hlt : u.lt Fp.zero = true := (dyLt_iff _ _).2 (by rwa [fpZero_val])
      simp [hlt]
    · have heq : u.eqv Fp.zero = true := (dyEqv_iff _ _).2 (by rwa [fpZero_val])
      have hsign : Fp.zero.neg = false := rfl
      rw [heq, h, hsign]
      exact Bool.or_true _
  simp [Exact.pick, ha, hless]

theorem pick_zero_of_nonneg {a : Exact} {u : Fp} (ha : a.v = some u) (h : u.neg = false) :
    (Exact.pick true a { v := some Fp.zero }).v = some u := by
  have hless : u.lt Fp.zero = false := by
    rw [← Bool.not_eq_true]
    intro hlt
    have hval := (dyLt_iff _ _).1 hlt
    rw [fpZero_val] at hval
    exact absurd hval (not_lt.2 (fp_nonneg_val h))
  simp [Exact.pick, ha, hless, h]

/-! ### An invalid operand (R67) -/

theorem derivOp_invalid (op : Nat) {y : Exact} (g : Exact) (hy : y.v = none) : (derivOp op y g).v = none := by
  have hsq : (y.times y).toW40.v = none := toW40_invalid (times_invalid_left hy)
  unfold derivOp
  dsimp only
  split
  · exact times_invalid_right (toW40_invalid (times_invalid_left hy))
  · exact times_invalid_right (toW40_invalid (add_invalid_right (neg_invalid hsq)))
  · rw [hy]
  · exact times_invalid_right hy
  · exact times_invalid_right (neg_invalid hsq)
  · exact times_invalid_right (toW40_invalid (times_invalid_left (toW40_invalid (times_invalid_left hsq))))

theorem transOp_invalid (op seed i : Nat) {a : Exact} (ha : a.v = none) : (transOp op seed i a).v = none :=
  onFinite_invalid _ ha

theorem vecOp_invalid (m sd i : Nat) {a : Exact} (b c : Exact) (ha : a.v = none) {op : Nat} (h8 : op ≠ 8) (h9 : op ≠ 9) :
    (vecOp op m sd i a b c).v = none := by
  unfold vecOp
  split
  · exact ha
  · exact add_invalid_left ha
  · exact add_invalid_left ha
  · exact times_invalid_left ha
  · exact add_invalid_left (times_invalid_left ha)
  · exact pick_invalid_left _ ha
  · exact pick_invalid_left _ ha
  · exact absurd rfl h8
  · exact absurd rfl h9
  · simp [ha]
  · exact neg_invalid ha
  · exact transOp_invalid _ _ _ ha
  · exact pick_invalid_left _ ha
  · split
    · exact derivOp_invalid _ _ ha
    · exact transOp_invalid _ _ _ ha

/-! ### Reductions of an invalid element (R146) -/

theorem foldl_pick_invalid (l : List Exact) (x : Exact) (h : ∃ y ∈ x :: l, y.v = none) : (l.foldl (Exact.pick true) x).v = none := by
  induction l generalizing x with
  | nil => simpa using h
  | cons y t ih =>
    refine ih _ ?_
    obtain ⟨z, hz, hv⟩ := h
    rcases List.mem_cons.1 hz with rfl | hz
    · exact ⟨_, List.mem_cons_self, pick_invalid_left _ hv⟩
    · rcases List.mem_cons.1 hz with rfl | hz
      · exact ⟨_, List.mem_cons_self, pick_invalid_right _ hv⟩
      · exact ⟨z, List.mem_cons_of_mem _ hz, hv⟩

/-- One addition of a sum, and the sum of the magnitudes beside it. -/
def sumStep (r : Machine.Num × Dy) (x : Exact) : Machine.Num × Dy :=
  match r.1, x.v with
  | some u, some w => (some (u.add w), r.2.add w.toDy.abs)
  | _, _ => (none, r.2)

theorem sumStep_invalid_left {r : Machine.Num × Dy} (x : Exact) (h : r.1 = none) : (sumStep r x).1 = none := by
  simp [sumStep, h]

theorem sumStep_invalid_right (r : Machine.Num × Dy) {x : Exact} (h : x.v = none) : (sumStep r x).1 = none := by
  cases hr : r.1 <;> simp [sumStep, hr, h]

theorem foldl_sumStep_invalid (l : List Exact) (r : Machine.Num × Dy) (h : r.1 = none ∨ ∃ x ∈ l, x.v = none) : (l.foldl sumStep r).1 = none := by
  induction l generalizing r with
  | nil => simpa using h
  | cons y t ih =>
    refine ih _ ?_
    rcases h with hr | ⟨x, hx, hv⟩
    · exact .inl (sumStep_invalid_left y hr)
    · rcases List.mem_cons.1 hx with rfl | hx
      · exact .inl (sumStep_invalid_right r hv)
      · exact .inr ⟨x, hx, hv⟩

theorem blurSum_invalid (seed i : Nat) (l : List Exact) (h : ∃ x ∈ l, x.v = none) : (blurSum seed i l).v = none := by
  unfold blurSum
  split
  · simp at h
  · simpa using h
  · have hsum := foldl_sumStep_invalid l (some { neg := true, mag := 0, e := 0 }, Dy.zero) (.inr h)
    exact congrArg (Option.map _) hsum

theorem reduceOp_invalid {op : Nat} (sd i : Nat) {l : List Exact} (hop : op = 0x28 ∨ op = 0x29) (h : ∃ x ∈ l, x.v = none) :
    (reduceOp op sd i l none).v = none := by
  rcases hop with rfl | rfl
  · exact blurSum_invalid sd i l h
  · cases l with
    | nil => rfl
    | cons x t => exact foldl_pick_invalid t x h

/-! ### OCC: a byte of flags (R148) -/

/-- Flags as the bits of a number, bit `t` for flag `t`. -/
def flagBits (p : Nat → Bool) (n : Nat) : Nat := (List.range n).foldl (fun m t => if p t then m + 2 ^ t else m) 0

theorem flagBits_succ (p : Nat → Bool) (n : Nat) : flagBits p (n + 1) = if p n then flagBits p n + 2 ^ n else flagBits p n := by
  rw [flagBits, List.range_succ, List.foldl_append]
  rfl

theorem flagBits_lt (p : Nat → Bool) (n : Nat) : flagBits p n < 2 ^ n := by
  induction n with
  | zero => exact Nat.one_pos
  | succ n ih =>
    rw [flagBits_succ, pow_succ]
    split <;> omega

theorem flagBits_testBit (p : Nat → Bool) {n t : Nat} (h : t < n) : (flagBits p n).testBit t = p t := by
  induction n with
  | zero => simp at h
  | succ n ih =>
    rw [flagBits_succ]
    have hlt := flagBits_lt p n
    rcases Nat.lt_succ_iff_lt_or_eq.1 h with hlow | rfl
    · split
      · rw [Nat.add_comm, Nat.testBit_two_pow_add_gt hlow, ih hlow]
      · exact ih hlow
    · have hclear : (flagBits p t).testBit t = false := Nat.testBit_lt_two_pow hlt
      split
      · next hp => rw [Nat.add_comm, Nat.testBit_two_pow_add_eq, hclear, hp]; rfl
      · next hp => rw [hclear, Bool.eq_false_iff.2 hp]

/-- An element that OCC counts: a number that is not zero. -/
def occupied (x : Nat → Exact) (n e : Nat) : Bool :=
  decide (e < n) && (match (x e).v with | some v => !v.isZero | none => false)

theorem occupied_iff {x : Nat → Exact} {n e : Nat} (h : e < n) : occupied x n e = true ↔ ∃ v, (x e).v = some v ∧ v.isZero = false := by
  cases hv : (x e).v <;> simp [occupied, h, hv]

theorem occBytes_eq (x : Nat → Exact) (n : Nat) :
    occBytes x n = (List.range ((n + 7) / 8)).map (fun k => BitVec.ofNat 8 (flagBits (fun t => occupied x n (8 * k + t)) 8)) := by
  refine List.map_congr_left fun k _ => congrArg (BitVec.ofNat 8) ?_
  refine List.foldl_ext _ _ _ fun m t _ => ?_
  by_cases he : 8 * k + t < n
  · cases hv : (x (8 * k + t)).v with
    | none => simp [occupied, he, hv]
    | some v => cases hz : v.isZero <;> simp [occupied, he, hv, hz]
  · simp [occupied, he]

theorem occBytes_getElem {x : Nat → Exact} {n e : Nat} (h : e < n) : ∃ y, (occBytes x n)[e / 8]? = some y ∧
    (y.getLsbD (e % 8) = true ↔ ∃ v, (x e).v = some v ∧ v.isZero = false) := by
  have hbyte : e / 8 < (n + 7) / 8 := by omega
  have hbit : e % 8 < 8 := Nat.mod_lt e (by decide)
  refine ⟨BitVec.ofNat 8 (flagBits (fun t => occupied x n (8 * (e / 8) + t)) 8), ?_, ?_⟩
  · rw [occBytes_eq, List.getElem?_map, List.getElem?_range hbyte]
    rfl
  · rw [BitVec.getLsbD_ofNat, flagBits_testBit _ hbit, Nat.div_add_mod]
    simp only [hbit, decide_true, Bool.true_and]
    exact occupied_iff h

/-! ### GATE's choice (R151) -/

theorem insertCand_perm (a : Cand) (l : List Cand) : (insertCand a l).Perm (a :: l) := by
  induction l with
  | nil => exact .refl _
  | cons b t ih =>
    unfold insertCand
    split
    · exact .refl _
    · exact (ih.cons b).trans (.swap a b t)

theorem foldl_insertCand_perm (l acc : List Cand) : (l.foldl (fun (a : List Cand) c => insertCand c a) acc).Perm (acc ++ l) := by
  induction l generalizing acc with
  | nil => simp
  | cons c t ih =>
    refine (ih (insertCand c acc)).trans ?_
    refine ((insertCand_perm c acc).append_right t).trans ?_
    exact List.perm_middle.symm

theorem topCands_length (k : Nat) (l : List Cand) : (topCands k l).length = Nat.min k l.length := by
  rw [topCands, List.length_take, (foldl_insertCand_perm l []).length_eq]
  rfl

theorem topCands_subset {k : Nat} {l : List Cand} {c : Cand} (h : c ∈ topCands k l) : c ∈ l :=
  (foldl_insertCand_perm l []).mem_iff.1 (List.mem_of_mem_take h)

/-! ### A VEC of one element of the block store (R131, R135) -/

theorem start_place_zero {d : VOp} (hspace : d.d.space = .bs) : d.start + d.d.place 0 0 = d.base.toNat := by
  simp [VOp.start, hspace, Desc.place, Desc.index]

section
variable {d : VOp} (hspace : d.d.space = .bs) (htile : d.d.tile = false) (hrows : d.d.rows = 1) (hcols : d.d.cols = 1)
include hspace htile hrows hcols

theorem inside_single {p : Program} (h : d.inside p = true) : p.inStore d.base d.d.fmt.size = true := by
  simpa [VOp.inside, hspace, Desc.span, htile, Desc.index, hrows, hcols] using h

theorem writeOut_single (k : Block) (p : Program) (md : Nat → Rnd) (x : Nat → Nat → Exact) :
    (k.writeOut p d md x).1 = k.put p d.base.toNat (leBytes d.d.fmt.size (d.d.fmt.write (md 0) (x 0 0)).code) := by
  have hholder : d.holder = 0 := by rw [VOp.holder, hspace]
  rw [Block.writeOut, htile, hrows, hcols]
  simp only [Bool.false_eq_true, if_false, Nat.mul_one, List.range_one, List.foldl_cons, List.foldl_nil, Nat.zero_div, Nat.zero_mod,
    start_place_zero hspace, hholder, Block.putHeld, if_true]

end

/-- A VEC whose operands are where they may be writes the values of its operation (R135). -/
theorem vec_good {b : Block} {p : Program} {q : QI} {op : Nat} {v : VecF} {d : VOp} {src : List VOp} (sd : Nat)
    (hops : vecOperands p q op v = (d, src)) (hop : op ≠ 0x38) (hd : d.inside p = true)
    (hsrc : ∀ o ∈ src, o.inside p = true ∧ d.clashes o = false) :
    b.vec p sd q op v = b.writeOut p d (rndAt v.rnd (sd + 5)) (vecValue b op v sd d src) := by
  have hall : src.all (fun o => o.inside p && !d.clashes o) = true := by
    rw [List.all_eq_true]
    intro o ho
    obtain ⟨hin, hclash⟩ := hsrc o ho
    rw [hin, hclash]
    rfl
  rw [Block.vec, hops]
  simp only [hop, if_false, hd, hall, Bool.and_self, if_true]

theorem put_bs {k : Block} {p : Program} {a : Int} {l : List Byte} (h : p.inStore a l.length = true) :
    (k.put p a l).bs = k.bs.writeN a.toNat l := by
  rw [Block.put, if_pos h]
  rfl

theorem inStore_toNat {p : Program} {a : Int} {n : Nat} (h : p.inStore a n = true) : p.inStore a.toNat n = true := by
  have hpos : 0 ≤ a := by
    rw [Program.inStore, Bool.and_eq_true, decide_eq_true_iff] at h
    exact h.1
  rwa [Int.toNat_of_nonneg hpos]

theorem vec_single {b : Block} {p : Program} {q : QI} {op : Nat} {v : VecF} {d : VOp} {src : List VOp} (sd : Nat)
    (hops : vecOperands p q op v = (d, src)) (hop : op ≠ 0x38) (hspace : d.d.space = .bs) (htile : d.d.tile = false)
    (hrows : d.d.rows = 1) (hcols : d.d.cols = 1) (hd : d.inside p = true)
    (hsrc : ∀ o ∈ src, o.inside p = true ∧ d.clashes o = false) :
    ∃ sh la, (b.vec p sd q op v).1 = { b with
      bs := b.bs.writeN d.base.toNat
        (leBytes d.d.fmt.size (d.d.fmt.write (rndAt v.rnd (sd + 5) 0) (vecValue b op v sd d src 0 0)).code)
      shadow := sh, land := la } := by
  have hlen : p.inStore d.base.toNat
      (leBytes d.d.fmt.size (d.d.fmt.write (rndAt v.rnd (sd + 5) 0) (vecValue b op v sd d src 0 0)).code).length = true := by
    rw [leBytes_length]
    exact inStore_toNat (inside_single hspace htile hrows hcols hd)
  rw [vec_good sd hops hop hd hsrc, writeOut_single hspace htile hrows hcols]
  obtain ⟨m, sh, la, hput⟩ := put_frame b p d.base.toNat
    (leBytes d.d.fmt.size (d.d.fmt.write (rndAt v.rnd (sd + 5) 0) (vecValue b op v sd d src 0 0)).code)
  have hbs := put_bs (k := b) hlen
  rw [hput] at hbs
  rw [hput]
  exact ⟨sh, la, by rw [show m = _ from hbs, Int.toNat_natCast]⟩

/-! ### The values at an element (R144, R145, R149, R150) -/

theorem vecOp_arith (m sd i : Nat) {a b c : Exact} {u w z : Fp} (ha : a.v = some u) (hb : b.v = some w) (hc : c.v = some z) :
    (vecOp 0x02 m sd i a b c).v = some (u.add w) ∧ (vecOp 0x03 m sd i a b c).v = some (u.add w.negate) ∧
    (vecOp 0x04 m sd i a b c).v = some (u.mul w) ∧ (vecOp 0x05 m sd i a b c).v = some ((u.mul w).add z) :=
  ⟨add_v ha hb, add_v ha (neg_v hb), times_v ha hb, add_v (times_v ha hb) hc⟩

theorem vecOp_cmp (m sd i : Nat) (a b c : Exact) :
    (vecOp 0x08 m sd i a b c).v = some { neg := false, mag := (if cmpHolds m a.v b.v then 1 else 0), e := 0 } := by
  cases h : cmpHolds m a.v b.v <;> simp [vecOp, h]

theorem vecOp_sel (m sd i : Nat) (a b : Exact) {c : Exact} {z : Fp} (hc : c.v = some z) :
    (vecOp 0x09 m sd i a b c).v = if z.isZero then b.v else a.v := by
  cases h : z.isZero <;> simp [vecOp, hc, h]

theorem vecOp_abs (m sd i : Nat) {a : Exact} (b c : Exact) {u : Fp} (ha : a.v = some u) :
    (vecOp 0x0A m sd i a b c).v = some { u with neg := false } := by
  simp [vecOp, ha]

/-- DRELU passes the gradient where the output is positive (R150). -/
theorem vecOp_drelu (m sd i : Nat) {a b : Exact} (c : Exact) {u w : Fp} (ha : a.v = some u) (hb : b.v = some w) :
    (vecOp 0x22 m sd i a b c).v = some (if !u.neg && !u.isZero then w else Fp.zero) := by
  simp [vecOp, derivOp, ha, hb]

theorem vecOp_log2_edge (m sd i : Nat) {a : Exact} (b c : Exact) {u : Fp} (ha : a.v = some u) (h : u.neg = true ∨ u.isZero = true) :
    (vecOp 0x11 m sd i a b c).v = none := by
  simp [vecOp, transOp, onFinite_v _ ha, if_pos h]

theorem vecOp_zero_edges (m sd i : Nat) {a : Exact} (b c : Exact) {u : Fp} (ha : a.v = some u) (h : u.isZero = true) :
    (vecOp 0x12 m sd i a b c).v = some (w40Max u.neg) ∧ (vecOp 0x13 m sd i a b c).v = some (w40Max false) ∧
      (vecOp 0x14 m sd i a b c).v = some u := by
  simp [vecOp, transOp, onFinite_v _ ha, h]

theorem vecOp_root_negative (m sd i : Nat) {a : Exact} (b c : Exact) {u : Fp} (ha : a.v = some u) (hz : u.isZero = false)
    (hn : u.neg = true) : (vecOp 0x13 m sd i a b c).v = none ∧ (vecOp 0x14 m sd i a b c).v = none := by
  simp [vecOp, transOp, onFinite_v _ ha, hz, hn]

/-- A uniform draw is a fraction of as many bits as its format draws (R147). -/
theorem randOp_uniform (sd i : Nat) (f : Fmt) :
    ∃ n k, (randOp 0x30 sd i f).v = some { neg := false, mag := n, e := -k } ∧ (n : Int) < 2 ^ k.toNat := by
  by_cases hf : f = .h16
  · refine ⟨Config.freeBits sd i % 256, 8, by simp [randOp, hf], ?_⟩
    exact_mod_cast Nat.mod_lt (Config.freeBits sd i) (by decide : 0 < 256)
  · refine ⟨Config.freeBits sd i % 2 ^ 28, 28, by simp [randOp, hf], ?_⟩
    exact_mod_cast Nat.mod_lt (Config.freeBits sd i) (by decide : 0 < 2 ^ 28)

/-- Settles O50, each operation by its equation at finite and at invalid operands, OCC by the bits of a sum of distinct powers of two, GATE's choice as a
prefix of a permutation, and the VEC of one element as one write into the block store. -/
theorem vectorElements : Obligations.VectorElements := by
  unfold Obligations.VectorElements
  refine ⟨fun m sd i a b c u w z ha hb hc => ?_, fun op m sd i a b c hop ha => ?_, fun m sd i a b c u ha => ?_,
    fun op sd i l hop h => reduceOp_invalid sd i hop h, randOp_uniform, fun x n e h => occBytes_getElem h,
    fun k l => ⟨topCands_length k l, fun c => topCands_subset⟩, fun b p sd q op v d src hops hop hspace htile hrows hcols hd hsrc => ?_⟩
  · obtain ⟨hadd, hsub, hmul, hfma⟩ := vecOp_arith m sd i ha hb hc
    have hdrelu := vecOp_drelu m sd i c ha hb
    refine ⟨rfl, hadd, hsub, hmul, hfma, vecOp_cmp m sd i a b c, vecOp_sel m sd i a b hc, vecOp_abs m sd i b c ha, neg_v ha,
      times_v hb ha, pick_zero_of_neg ha, pick_zero_of_nonneg ha, fun hn hz => ?_, fun h => ?_⟩
    · rw [hdrelu, hn, hz, hb]
      rfl
    · have hoff : (!u.neg && !u.isZero) = false := by
        rcases h with h | h <;> simp [h]
      rw [hdrelu, hoff]
      rfl
  · exact vecOp_invalid m sd i b c ha (by rintro rfl; simp at hop) (by rintro rfl; simp at hop)
  · exact ⟨vecOp_log2_edge m sd i b c ha, vecOp_zero_edges m sd i b c ha, vecOp_root_negative m sd i b c ha⟩
  · obtain ⟨sh, la, hvec⟩ := vec_single (b := b) sd hops hop hspace htile hrows hcols hd hsrc
    have hlen := leBytes_length d.d.fmt.size (d.d.fmt.write (rndAt v.rnd (sd + 5) 0) (vecValue b op v sd d src 0 0)).code
    rw [hvec]
    refine ⟨?_, fun x hx => ?_, rfl, rfl, rfl⟩
    · have hread := Mem.readN_writeN b.bs d.base.toNat
        (leBytes d.d.fmt.size (d.d.fmt.write (rndAt v.rnd (sd + 5) 0) (vecValue b op v sd d src 0 0)).code)
      rwa [hlen] at hread
    · rcases hx with hbefore | hafter
      · exact Mem.read_writeN_before _ b.bs hbefore
      · exact Mem.read_writeN_after _ b.bs (hlen.symm ▸ hafter)

end Sys2Proof.Proofs
end
